-- ==== Sys2Proof/Word.lean ====
section
/-!
DEFINITION. Word.lean: the word types of the MZ8840 model and their plainest arithmetic: bytes, register words,
little-endian byte lists (R8) and bit ranges [msb:lsb] (R9).
-/
namespace Sys2Proof

/-- One byte. -/
abbrev Byte := BitVec 8
/-- A 32-bit word: a 4-byte register write, a vector lane, an accumulator word. -/
abbrev Word32 := BitVec 32
/-- A 64-bit word: a register of the register map, a scalar register, an instruction. -/
abbrev Word := BitVec 64

/-- Ceiling division on naturals; 0 for a divisor of 0. -/
def cdiv (a b : Nat) : Nat := (a + b - 1) / b

/-- The `n` low bytes of `v`, least significant first (R8). -/
def toLE : Nat → Nat → List Byte
  | 0, _ => []
  | n + 1, v => BitVec.ofNat 8 v :: toLE n (v / 256)

/-- The number a little-endian byte string holds (R8). -/
def ofLE : List Byte → Nat
  | [] => 0
  | b :: bs => b.toNat + 256 * ofLE bs

/-- Field of `n` bytes at byte offset `off` of a record, little-endian (R8); missing bytes read 0. -/
def leAt (bs : List Byte) (off n : Nat) : Nat := ofLE ((bs.drop off).take n)

/-- Bits [lo + w - 1 : lo] of `v` (R9). -/
def bits (v lo w : Nat) : Nat := (v >>> lo) % 2 ^ w

/-- Bit `i` of `v` as a Bool. -/
def bit (v i : Nat) : Bool := v.testBit i

/-- A Bool as 0 or 1. -/
def b2n (b : Bool) : Nat := if b then 1 else 0

/-- Two's complement reading of the `w` low bits of `v`. -/
def signed (w v : Nat) : Int :=
  let x := v % 2 ^ w
  if 2 * x < 2 ^ w then (x : Int) else (x : Int) - (2 ^ w : Nat)

/-- Two's complement encoding of `i` in `w` bits. -/
def unsigned (w : Nat) (i : Int) : Nat := (i % ((2 ^ w : Nat) : Int)).toNat

/-- Saturating increment of a counter whose largest value is `m`. -/
def satInc (m v : Nat) : Nat := if v < m then v + 1 else m

end Sys2Proof
end

