-- ==== Sys2Proof/Syntax.lean ====
section
/-!
DEFINITION. Syntax.lean: the commands of the block, one constructor per row of spec/opcode_table.json (269 rows).
The operands are what the environment brings with the step: an address, a value, a length, a reading, received bytes.
-/
namespace Sys2Proof

/-- What the serving kernels of a frame left for one sample (R360, R407): the sample's table entry, for each position
from LENGTH onward the FP32 scores of the vocabulary, the drafts that the extra heads propose, and the score masses by
(page, slot). The kernels are programs of the Agvos library, outside this manual, so their results are an input. -/
structure KernelOut where
  entry  : Nat
  scores : List (List Word32)
  drafts : List Word32
  masses : List (Nat × Nat × Word32)
deriving DecidableEq, Repr

/-- What fails in a partition beside its engines (R36, R602): a hang of the control core, command DMA channel, Lamplighter agent
or Flue agent, another fault of the control core, or an uncorrectable error of the L2. -/
inductive PartFault where
  | hang | core | l2
deriving DecidableEq, Repr

/-- Faults of the device that trigger a chip reset (R36, R617): of the mesh or of an I/O die, with whether the management core and
the paths to the rings are still there (R619), of the sequence-table SRAM, and of the management core. -/
inductive ChipFault where
  | mesh (rings : Bool) | ioDie (rings : Bool) | seqTable | mgmtCore
deriving DecidableEq, Repr

/-- What a DMA transfer meets: the cycles by which a host and an expander make it end late (R280, R552, R562); the read, counted from
0, that comes back with an error, with its status (that of a PCIe completion, or 0 where none comes within 16,384 marks, R561, R601; of
GDDR7, 1 for a second mismatch and another for a report of its ECC, R537); a read of GDDR7 that is repeated once (R537); and the writes
that GDDR7 has repeated (R538); and whether an expander answers a write with an error response (R554). -/
structure Hap where
  hostLate : Nat
  cxlLate : Nat
  err : Option (Nat × Nat)
  edc : Bool
  retries : Nat
  badWrite : Bool
deriving DecidableEq, Repr

/-- What the reads and writes of an agent of the device meet in a range: a read's error, with its status (that of a host's completion, or 0
where none comes within 16,384 marks, R561, R601; of GDDR7, 1 for a second mismatch and another for a report of its ECC, R537); a read of
GDDR7 that is repeated once (R537); the cycles by which a host or an expander answers late (R280, R552, R562); the writes that GDDR7 has
repeated (R538); and whether an expander answers a write with an error response (R554). -/
structure Meet where
  err : Option Nat
  edc : Bool
  late : Nat
  retries : Nat
  badWrite : Bool
deriving DecidableEq, Repr

/-- The commands of the block (spec/opcode_table.json). -/
inductive Instr where
  -- Device time (Candle Marks)
  /-- MARKSYNC_PULSE (R64). A MARKSYNC pulse defines a candle boundary and is handled by its displacement d: realign, ignore, or relock. -/
  | marksyncPulse
  /-- MARKSYNC_MISS (R62). No pulse arrives within 512 cycles after the expected boundary, so the counter jumps forward and MARKSYNC_MISS is counted. -/
  | marksyncMiss
  /-- CANDLE_BOUNDARY (R59: memTemps: the 48 GDDR7 case readings of R540 in 1/16 °C, device d of partition p at 6p + d). The counter reaches a candle boundary, where alignment, MARK_SET loads and power-factor changes take effect first. -/
  | candleBoundary (memTemps : List Nat)
  /-- MARKREF_LOSS (R81). Four consecutive missing MARKREF edges make the core clock continue from the oscillator, set TIME_HOLDOVER and enter HOLDOVER from SET. -/
  | markrefLoss
  /-- MARKREF_LOCK (R84). MARKREF has stayed within 100 ppm for 256 marks, so the core clock moves back to it and MARKSYNC sampling resumes. -/
  | markrefLock
  /-- HOLDOVER_EXPIRY (R70). HOLDOVER has lasted 65,536 marks, so the device enters UNFIT. -/
  | holdoverExpiry
  /-- BEACON_SEND (R73: link port k). At mark 0 of every 256-mark interval, each Flue-mode port sends a timing beacon on VC3. -/
  | beaconSend (k : Nat)
  /-- BEACON (R578: received on link port k: the 36 payload bytes of R577). A received beacon updates the port's one-way delay and the pod offset measurement. -/
  | beacon (k : Nat) (msg : List Byte)
  /-- TIME_UPSTREAM_WRITE (R712). A write to TIME_UPSTREAM clears TIME_NO_UPSTREAM and restarts offset measurement for a named port. -/
  | timeUpstreamWrite (port : Nat) (v : Word32)
  /-- SYNC (R590: Ethernet port k, PTP domain, sequence id, transmitter address). A PTP Sync message is received by the Ethernet time receiver. -/
  | sync (k domain seq master : Nat)
  /-- FOLLOW_UP (R590: t1: precise transmit time in ns). A PTP Follow_Up message supplies the precise Sync transmit time. -/
  | followUp (k domain seq master t1 : Nat)
  /-- DELAY_RESP (R590: t4: receive time of the Delay_Req in ns). A PTP Delay_Resp completes the delay measurement and maps PTP time to marks. -/
  | delayResp (k domain seq master t4 : Nat)
  /-- ANNOUNCE (R590). A PTP Announce message is accepted without running a best-master-clock algorithm. -/
  | announce (k domain master : Nat)
  -- Contexts, rings and admission
  /-- CTX_OWNER_WRITE (R105). A PF claims an unowned FREE context, moves it between its functions, or releases it through CTX_OWNER. -/
  | ctxOwnerWrite (port n : Nat) (v : Word32)
  /-- START (R140). A START write moves a context from FREE or QUIESCED to LIVE, resetting the rings on a start from FREE. -/
  | start (port n : Nat)
  /-- STOP (R140). A STOP write moves a LIVE context to QUIESCED. -/
  | stop (port n : Nat)
  /-- RESET (R142). A RESET write begins a 256-mark context reset that faults its threads and drains its samples. -/
  | reset (port n : Nat)
  /-- CONTEXT_RESET_END (R142). 262,144 cycles after it began, the context reset ends: incomplete commands complete ABORTED_RESET and resources are released. -/
  | contextResetEnd (n : Nat)
  /-- SQ_TAIL (R120: write of size bytes by function fn of the port). A doorbell write of SQ_TAIL covers new submission entries for presentation. -/
  | sqTail (port fn n size : Nat) (v : Word32)
  /-- CQ_HEAD (R109). A doorbell write of CQ_HEAD consumes completion entries and frees completion slots. -/
  | cqHead (port fn n size : Nat) (v : Word32)
  /-- EMBER_HEAD (R109). A doorbell write of EMBER_HEAD consumes embers and frees ember slots. -/
  | emberHead (port fn n size : Nat) (v : Word32)
  /-- ENTRY_PRESENT (R120; m: of the read of the entry). A submission entry is presented, with a completion slot reserved, once every presentation condition holds. -/
  | entryPresent (n : Nat) (m : Meet)
  /-- ADMISSION (R121). At cycle 0 of the next mark, presented entries are admitted in ring order and checked under R124. -/
  | admission (n : Nat)
  /-- REJECT_COMPLETION (R99). Exactly 2 marks after presentation, a rejected or TIME_HOLDOVER command posts its completion. -/
  | rejectCompletion (n : Nat)
  -- The command set: the operand n is the issuing context, whose oldest admitted and unchecked entry is checked and carried out
  /-- SEQ_SUBMIT (R344; m: what its write of the handles meets). SEQ_SUBMIT admits samples of a generation request into the sequence table. -/
  | seqSubmit (n : Nat) (m : Meet)
  /-- SEQ_CANCEL (R366). SEQ_CANCEL puts a sample in DRAINING to end it at the next boundary. -/
  | seqCancel (n : Nat)
  /-- SEQ_REWARD (R483). SEQ_REWARD reserves an ember slot for a reward ember on a sample. -/
  | seqReward (n : Nat)
  /-- REWARD_EMBER_WRITE (R484: cid: the command instance). In the cycle before the SEQ_REWARD count, the reward ember is written and stamped. -/
  | rewardEmberWrite (cid : Nat)
  /-- SEQ_QUERY (R338). SEQ_QUERY copies a sample's table entry to OUT_ADDR and returns its state and length. -/
  | seqQuery (n : Nat)
  /-- ADAPTER_INSTALL (R479). ADAPTER_INSTALL copies a new adapter version into a free block on each target partition. -/
  | adapterInstall (n : Nat)
  /-- ADAPTER_REPLACE (R479). ADAPTER_REPLACE installs a new adapter version that retires the current one. -/
  | adapterReplace (n : Nat)
  /-- ADAPTER_REMOVE (R481). ADAPTER_REMOVE retires the current adapter version on every target at admission. -/
  | adapterRemove (n : Nat)
  /-- ADAPTER_COPY_END (R479). When the last adapter copy ends, the new version becomes CURRENT on every target, or faults. -/
  | adapterCopyEnd (cid : Nat)
  /-- STEP_LAUNCH (R421). STEP_LAUNCH admits one training step across the hearth partitions of its mask. -/
  | stepLaunch (n : Nat)
  /-- PUBLISH (R467). PUBLISH admits a copy of a weight version into a FILLING INCOMING slot on each target, with a switch at a frame boundary. -/
  | publish (n : Nat)
  /-- VARIANT_LOAD (R466). VARIANT_LOAD registers a CXL-resident image in the lowest EMPTY variant entry. -/
  | variantLoad (n : Nat)
  /-- REFERENCE_SET (R475). REFERENCE_SET reserves a slot to carry the REFERENCE label from a frame boundary. -/
  | referenceSet (n : Nat)
  /-- FLUE_COLLECTIVE (R504). FLUE_COLLECTIVE admits a collective on the device's local members of a Flue group. -/
  | flueCollective (n : Nat)
  /-- FLUE_GROUP_DEFINE (R488; m: what its read of the member list meets). FLUE_GROUP_DEFINE defines or replaces a Flue group from a member list. -/
  | flueGroupDefine (n : Nat) (m : Meet)
  /-- CTX_SAVE (R625). CTX_SAVE admits a save of a context image at a start mark. -/
  | ctxSave (n : Nat)
  /-- CTX_RESTORE (R625). CTX_RESTORE admits a restore of a context image at a start mark. -/
  | ctxRestore (n : Nat)
  /-- CHECKPOINT (R633). CHECKPOINT admits a copy of the live commit regions into the CXL tier as a copy-engine job. -/
  | checkpoint (n : Nat)
  /-- CTX_TEARDOWN (R145). CTX_TEARDOWN puts the target in DRAINING, faults its threads, sends tombstones and ends its samples. -/
  | ctxTeardown (n : Nat)
  /-- TEARDOWN_COMPLETE (R146: target: the context torn down). 256 marks after admission, the target's commands abort, the teardown completes and the target becomes FREE and unowned. -/
  | teardownComplete (target : Nat)
  /-- QUARANTINE_END (R147). 65,536 marks after a teardown, quarantined pages, ember slots and adapters return to the free pool. -/
  | quarantineEnd (target : Nat)
  /-- CTX_HANDOVER (R150). CTX_HANDOVER starts moving a context to the other port's PF, in CONSENT or FORCED mode. -/
  | ctxHandover (n : Nat)
  /-- HANDOVER_COMPLETE (R152). 256 marks after admission, the target becomes QUIESCED under the other port's PF. -/
  | handoverComplete (cid : Nat)
  /-- DMA_FILL (R316). DMA_FILL is queued as a FILL on a partition's command DMA channel. -/
  | dmaFill (n : Nat)
  /-- DMA_COPY (R316). DMA_COPY is queued as a COPY on a partition's command DMA channel. -/
  | dmaCopy (n : Nat)
  /-- DMA_COMMAND_START (R316: the command DMA channel of partition p; h: what its accesses meet). A command DMA starts at the later of 1 mark after admission and the end of the channel's previous command. -/
  | dmaCommandStart (p : Nat) (h : Hap)
  /-- DMA_COMMAND_END (R316). A command DMA reaches the end of its duration and posts its completion. -/
  | dmaCommandEnd (p : Nat)
  /-- FENCE (R129). FENCE holds later commands of its context until every earlier command has completed. -/
  | fence (n : Nat)
  /-- FENCE_DEADLINE_MISS (R129). A command held by a FENCE at cycle 0 of a mark it names completes DEADLINE_MISSED. -/
  | fenceDeadlineMiss (cid : Nat)
  /-- PARTITION_ROLE (R43). PARTITION_ROLE schedules a role change of a partition at an effective mark. -/
  | partitionRole (n : Nat)
  /-- ROLE_EFFECTIVE (R45). At the effective mark, the role change begins: power switches, L2 write-back, and the old role's state handled under R49. -/
  | roleEffective (p : Nat)
  /-- ROLE_SERVICE (R46). At the published number of marks after the effective mark, the partition enters service and PARTITION_ROLE completes. -/
  | roleService (p : Nat)
  /-- FRAME_SET (R90). FRAME_SET sets a lantern partition's frame length and phase origin. -/
  | frameSet (n : Nat)
  /-- MARK_SET (R67). MARK_SET accepts a mark value to load at the next candle boundary. -/
  | markSet (n : Nat)
  /-- FLASH_WRITE (R657). FLASH_WRITE admits a write of host data into the external flash. -/
  | flashWrite (n : Nat)
  /-- FLASH_SOURCE_READ (R658; m: what the read meets). Two marks after admission, FLASH_WRITE reads its source once and starts erasing and programming sectors. -/
  | flashSourceRead (cid : Nat) (m : Meet)
  /-- FLASH_WRITE_COMPLETE (R658: what the flash reports at the count). At its sector-count deadline, FLASH_WRITE completes OK or FAULT_CONTEXT. -/
  | flashWriteComplete (cid : Nat) (failed busy : Bool)
  /-- FUNCTION_LEVEL_RESET (R143: fn 0 is the PF). A VF or PF function level reset tears down or unowns the contexts that function owns. -/
  | functionLevelReset (port fn : Nat)
  /-- HOST_PORT_RESET (R564: perst: PERST# is asserted). PERST#, a conventional reset or a link-down resets only that port's configuration state. -/
  | hostPortReset (port : Nat) (perst : Bool)
  /-- PCIE_CONFIG_REQUEST (R644). A configuration request is answered with Retry Status before the configuration block is applied, and normally afterwards. -/
  | pcieConfigRequest (port fn off : Nat) (wr : Bool) (v : Word32)
  -- Threads and the scalar, memory and synchronisation instructions: t is the thread number of R39
  /-- THREAD_LAUNCH (R257). The control core accepts or refuses a launch record, and an accepted thread becomes LIVE at its start cycle. -/
  | threadLaunch (p index : Nat) (record : List Byte) (startCycle : Nat)
  /-- INSTRUCTION_COMPLETE (R274: id: the issued instruction). An issued instruction reaches its published count, and its results, registers and regions are released. -/
  | instructionComplete (t id : Nat)
  /-- ADD (R275). ADD writes ra plus rb, modulo 2^64. -/
  | add (t : Nat)
  /-- SUB (R275). SUB writes ra minus rb, modulo 2^64. -/
  | sub (t : Nat)
  /-- AND (R275). AND writes the bitwise and of ra and rb. -/
  | and (t : Nat)
  /-- OR (R275). OR writes the bitwise or of ra and rb. -/
  | or (t : Nat)
  /-- XOR (R275). XOR writes the bitwise xor of ra and rb. -/
  | xor (t : Nat)
  /-- SHL (R275). SHL shifts ra left by rb mod 64. -/
  | shl (t : Nat)
  /-- SHR (R275). SHR shifts ra logically right by rb mod 64. -/
  | shr (t : Nat)
  /-- SRA (R275). SRA shifts ra arithmetically right by rb mod 64. -/
  | sra (t : Nat)
  /-- SLT (R275). SLT writes 1 if ra is less than rb as signed values. -/
  | slt (t : Nat)
  /-- SLTU (R275). SLTU writes 1 if ra is less than rb as unsigned values. -/
  | sltu (t : Nat)
  /-- MUL (R275). MUL writes the low 64 bits of ra times rb. -/
  | mul (t : Nat)
  /-- MULHU (R275). MULHU writes the high 64 bits of the unsigned product. -/
  | mulhu (t : Nat)
  /-- DIVU (R275). DIVU writes the unsigned quotient, or all ones for a zero divisor. -/
  | divu (t : Nat)
  /-- REMU (R275). REMU writes the unsigned remainder, or ra for a zero divisor. -/
  | remu (t : Nat)
  /-- ADDI (R275). ADDI writes ra plus the immediate. -/
  | addi (t : Nat)
  /-- ANDI (R275). ANDI writes ra and the immediate. -/
  | andi (t : Nat)
  /-- SHLI (R275). SHLI shifts ra left by the immediate mod 64. -/
  | shli (t : Nat)
  /-- SHRI (R275). SHRI shifts ra logically right by the immediate mod 64. -/
  | shri (t : Nat)
  /-- MOVHI (R275). MOVHI places the immediate in the high 32 bits above the low half of ra. -/
  | movhi (t : Nat)
  /-- MOVS (R261). MOVS copies a special register, selected by IMM, into a scalar register. -/
  | movs (t : Nat)
  /-- BEQ (R275). BEQ branches when ra equals rb. -/
  | beq (t : Nat)
  /-- BNE (R275). BNE branches when ra differs from rb. -/
  | bne (t : Nat)
  /-- BLT (R275). BLT branches when ra is less than rb as signed values. -/
  | blt (t : Nat)
  /-- BGE (R275). BGE branches when ra is at least rb as signed values. -/
  | bge (t : Nat)
  /-- BLTU (R275). BLTU branches when ra is less than rb as unsigned values. -/
  | bltu (t : Nat)
  /-- BGEU (R275). BGEU branches when ra is at least rb as unsigned values. -/
  | bgeu (t : Nat)
  /-- JAL (R275). JAL links and jumps PC-relative. -/
  | jal (t : Nat)
  /-- JALR (R275). JALR links and jumps to a register plus an offset. -/
  | jalr (t : Nat)
  /-- LD (R276). LD loads bytes from the local scratchpad into a scalar register. -/
  | ld (t : Nat)
  /-- ST (R276). ST stores bytes of a scalar register into the local scratchpad. -/
  | st (t : Nat)
  /-- VLD (R276). VLD loads 256 bytes from the scratchpad into a vector register. -/
  | vld (t : Nat)
  /-- VST (R276). VST stores a vector register into the scratchpad. -/
  | vst (t : Nat)
  /-- GLD (R278; edc: what the link error detection of R537 gave: 0 no mismatch, 1 one re-read, 2 uncorrectable). GLD reads 64 bytes from a virtual address into the local scratchpad at a published count. -/
  | gld (t edc : Nat)
  /-- GST (R278; retries: write retries of R538). GST writes 64 bytes from the scratchpad to a virtual address, counted at its home L2. -/
  | gst (t retries : Nat)
  /-- HOST_COMPLETION_ARRIVE (R280: PCIe completion status, 0 for success; 8 stands for poisoned data). Read data or an error completion arrives from a host for a host-window access. -/
  | hostCompletionArrive (t id status : Nat) (data : List Byte)
  /-- CXL_RESPONSE_ARRIVE (R552: late: cycles beyond R552; err: poisoned data or an error response). Read data or a write completion arrives from a CXL expander, possibly late or poisoned. -/
  | cxlResponseArrive (t id late : Nat) (err : Bool)
  /-- READ_TIMEOUT (R601). A host or CXL read still unanswered 16,384 marks after its count faults its context. -/
  | readTimeout (t id : Nat)
  /-- DMA_SUBMIT (R277). DMA_SUBMIT checks and queues a 64-byte descriptor on a cluster DMA channel. -/
  | dmaSubmit (t : Nat)
  -- Cluster DMA: descriptors starting and ending on channel ch of cluster cl; h: what their accesses meet
  /-- COPY (R309). A COPY descriptor starts on its channel and copies a contiguous range. -/
  | copy (cl ch : Nat) (h : Hap)
  /-- STRIDED (R309). A STRIDED descriptor starts on its channel and copies runs at strides. -/
  | strided (cl ch : Nat) (h : Hap)
  /-- TRANSPOSE (R309). A TRANSPOSE descriptor starts on its channel and transposes 32 by 32 blocks. -/
  | transpose (cl ch : Nat) (h : Hap)
  /-- PAGE_WALK (R309). A PAGE_WALK descriptor starts on its channel and copies the pages named by a page list. -/
  | pageWalk (cl ch : Nat) (h : Hap)
  /-- MULTICAST (R309). A MULTICAST descriptor starts on its channel and copies a source to selected tiles of the cluster. -/
  | multicast (cl ch : Nat) (h : Hap)
  /-- FILL (R309). A FILL descriptor starts on its channel and fills a range with a pattern. -/
  | fill (cl ch : Nat) (h : Hap)
  /-- DMA_DESCRIPTOR_END (R312). A descriptor reaches its duration, increments its signal word and lets the next descriptor of its channel start. -/
  | dmaDescriptorEnd (cl ch : Nat)
  /-- SIG_ADD (R279). SIG_ADD atomically adds to an 8-byte signal word at its home. -/
  | sigAdd (t edc retries : Nat)
  /-- SIG_WAIT (R290). SIG_WAIT issues once a local word reaches a value and returns that value. -/
  | sigWait (t : Nat)
  /-- SIG_WAIT_TIMEOUT (R290). At cycle 0 of the mark AUX marks later, a waiting SIG_WAIT becomes ready anyway. -/
  | sigWaitTimeout (t : Nat)
  /-- MARK_WAIT (R291). MARK_WAIT issues at cycle 0 of a named mark, after that mark's events. -/
  | markWait (t : Nat)
  /-- TFENCE (R276). TFENCE issues once every earlier instruction of the thread has reached its count. -/
  | tfence (t : Nat)
  /-- EXIT (R276). EXIT issues once earlier instructions are done, and the thread becomes FREE at its count. -/
  | exit (t : Nat)
  -- Vector and Spark instructions
  /-- VADD (R298). VADD adds vector lanes. -/
  | vadd (t : Nat)
  /-- VSUB (R298). VSUB subtracts vector lanes. -/
  | vsub (t : Nat)
  /-- VMUL (R298). VMUL multiplies vector lanes. -/
  | vmul (t : Nat)
  /-- VFMA (R298). VFMA multiplies and adds vector lanes with one rounding. -/
  | vfma (t : Nat)
  /-- VMAX (R300). VMAX takes the lane maximum. -/
  | vmax (t : Nat)
  /-- VMIN (R300). VMIN takes the lane minimum. -/
  | vmin (t : Nat)
  /-- VCMP (R300). VCMP compares lanes under a condition code. -/
  | vcmp (t : Nat)
  /-- VSEL (R304). VSEL selects lanes from va or vb by vc. -/
  | vsel (t : Nat)
  /-- VBCAST (R281). VBCAST broadcasts a scalar into every lane. -/
  | vbcast (t : Nat)
  /-- VEXTR (R281). VEXTR extracts one lane into a scalar register. -/
  | vextr (t : Nat)
  /-- VEXP2 (R301). VEXP2 computes 2 to the power x per lane. -/
  | vexp2 (t : Nat)
  /-- VLOG2 (R301). VLOG2 computes the base-2 logarithm per lane. -/
  | vlog2 (t : Nat)
  /-- VRCP (R301). VRCP computes the reciprocal per lane. -/
  | vrcp (t : Nat)
  /-- VRSQRT (R301). VRSQRT computes the reciprocal square root per lane. -/
  | vrsqrt (t : Nat)
  /-- VSIN (R301). VSIN computes the sine of an argument in turns. -/
  | vsin (t : Nat)
  /-- VCOS (R301). VCOS computes the cosine of an argument in turns. -/
  | vcos (t : Nat)
  /-- VRSUM (R302). VRSUM sums all lanes in a fixed tree into lane 0. -/
  | vrsum (t : Nat)
  /-- VRMAX (R302). VRMAX reduces lanes to their maximum in lane 0. -/
  | vrmax (t : Nat)
  /-- VRARGMAX (R303). VRARGMAX returns the maximum and its lowest index. -/
  | vrargmax (t : Nat)
  /-- VIADD (R304). VIADD adds 32-bit integer lanes with wrap-around. -/
  | viadd (t : Nat)
  /-- VISUB (R304). VISUB subtracts 32-bit integer lanes with wrap-around. -/
  | visub (t : Nat)
  /-- VIMUL (R304). VIMUL multiplies 32-bit integer lanes, keeping the low bits. -/
  | vimul (t : Nat)
  /-- VAND (R304). VAND takes the bitwise and of lanes. -/
  | vand (t : Nat)
  /-- VOR (R304). VOR takes the bitwise or of lanes. -/
  | vor (t : Nat)
  /-- VXOR (R304). VXOR takes the bitwise xor of lanes. -/
  | vxor (t : Nat)
  /-- VSHL (R304). VSHL shifts lanes left logically. -/
  | vshl (t : Nat)
  /-- VSHR (R304). VSHR shifts lanes right logically. -/
  | vshr (t : Nat)
  /-- VCVT (R305). VCVT encodes FP32 lanes into a packed format, with nearest or stochastic rounding. -/
  | vcvt (t : Nat)
  /-- VUNPK (R306). VUNPK decodes a packed format into FP32 lanes. -/
  | vunpk (t : Nat)
  /-- SPK_BITS (R321). SPK_BITS writes 64 Spark words of a stream for consecutive elements. -/
  | spkBits (t : Nat)
  /-- SPK_GUMBEL (R328). SPK_GUMBEL adds Gumbel noise from Spark words to lanes. -/
  | spkGumbel (t : Nat)
  -- Matrix and Damper instructions
  /-- MAT_LOAD (R210). MAT_LOAD writes weight rows into a bank of each array in its mask. -/
  | matLoad (t : Nat)
  /-- MAT_STREAM (R214; upsets: hardware errors that its passes meet, as pass, array, column and error of the column sum). MAT_STREAM streams activation vectors through a bank, with passes, checksums and a retry window. -/
  | matStream (t : Nat) (upsets : List (Nat × Nat × Nat × Int))
  /-- MAT_DRAIN (R234). MAT_DRAIN converts accumulator entries through the OCU into the scratchpad and reports the maximum and NF. -/
  | matDrain (t : Nat)
  /-- DAMPER_UPDATE (R251). DAMPER_UPDATE updates one non-AUTO Damper slot at its count. -/
  | damperUpdate (t : Nat)
  /-- DAMPER_READ (R284). DAMPER_READ returns a slot's pending maximum, offset, NF and hold. -/
  | damperRead (t : Nat)
  /-- DAMPER_WRITE (R286). DAMPER_WRITE replaces a slot's PENDING_MAX. -/
  | damperWrite (t : Nat)
  /-- DAMPER_HSAVE (R285). DAMPER_HSAVE stores a slot's history image to the scratchpad. -/
  | damperHsave (t : Nat)
  /-- DAMPER_HLOAD (R285). DAMPER_HLOAD loads a slot's history from a scratchpad image. -/
  | damperHload (t : Nat)
  /-- DAMPER_OWNER_WRITE (R248). A PF claims an unowned Damper slot or releases it to its reset values. -/
  | damperOwnerWrite (port p slot : Nat) (v : Word32)
  -- Generation frames on lantern partitions
  /-- FRAME_BOUNDARY (R331). At a frame boundary, embers are posted, state changes and weight switches take effect, and the new work list becomes current. -/
  | frameBoundary (p : Nat)
  /-- FRAME_KERNEL_START (R461: the launch records of the frame's kernel threads). At cycle 64 of the boundary, the Stoker launches the frame's kernels once per version used. -/
  | frameKernelStart (p : Nat) (records : List (List Byte))
  /-- FRAME_FINALISE (R392: what the serving kernels computed for the frame's samples). At the cutoff, finalisation verifies drafts, fixes lengths, rolls back, folds scores, compresses and registers pages. -/
  | frameFinalise (p : Nat) (outs : List KernelOut)
  /-- LATE_FINALISATION (R335). Finalisation of an overrun frame begins in the first mark after its last thread exits. -/
  | lateFinalisation (p : Nat) (outs : List KernelOut)
  /-- FRAME_SEAL (R356; meets: of prompt reads, by request record). At the seal, prefixes are matched, the next frame's work list is built, pages are obtained and ember slots reserved. -/
  | frameSeal (p : Nat) (meets : List (Nat × Meet))
  /-- SEQ_ENTRY_FREE (R340: table entry e). A DONE entry returns to FREE one candle after entering DONE, and its generation count is incremented. -/
  | seqEntryFree (e : Nat)
  -- Learning steps on hearth partitions
  /-- STEP_START (R422; meets: what the reads of a partition of the mask meet, R561). At admission plus 2 marks, each partition initialises its control block, reads the header and checks skew. -/
  | stepStart (cid : Nat) (meets : List (Nat × Meet))
  /-- MAIN_LAUNCH (R422). At admission plus 4 marks, header faults are known and the main-table threads start. -/
  | mainLaunch (cid : Nat)
  /-- UPDATE_GATE (R432). At update mark U, the gate opens only with no flag set and every listed collective complete OK. -/
  | updateGate (cid : Nat)
  /-- UPDATE_LAUNCH (R422). At cycle 64 of U, the update-table threads start if the gate opened. -/
  | updateLaunch (cid : Nat)
  /-- STEP_COMMIT (R436). At COMMIT_MARK, each partition decides its outcome, commits or abandons, and the step completes. -/
  | stepCommit (cid : Nat)
  /-- REVERT (R447). A REVERT write restores the previous version by flipping halves back and decrementing STEP_COUNT. -/
  | revert (port p : Nat)
  -- Weight publication
  /-- PUBLISH_COPY_START (R468). At its start s, a publication copy begins reading the source and writing every target. -/
  | publishCopyStart (cid : Nat)
  /-- PUBLISH_COPY_END (R471; h: what its reads and writes meet). At its end e, every target slot of the copy becomes READY. -/
  | publishCopyEnd (cid : Nat) (h : Hap)
  /-- VARIANT_DROP (R465). A DROP write empties a variant entry that is not IN_USE. -/
  | variantDrop (port v : Nat)
  -- Flue collectives: p is the local member's partition
  /-- COLLECTIVE_START (R506; meets: of the reads of the member on partition p, at 2p of its member list, at 2p + 1 of its ready word). At START_MARK, a member's agent begins the collective, reserves buffers and resets its arrival word. -/
  | collectiveStart (cid : Nat) (meets : List (Nat × Meet))
  /-- CHUNK_SEND (R501; m: of its source reads). A chunk is sent at its planned send cycle, or as soon as its input arrives. -/
  | chunkSend (cid p : Nat) (m : Meet)
  /-- CHUNK_RECEIVE (R510: from_: pod device number of the sending device). A received chunk is checked against the member's collective, then reduced, forwarded or written. -/
  | chunkReceive (p from_ : Nat) (header payload : List Byte)
  /-- ARRIVAL_ADD (R519; meets: of the source reads and result writes of p). 256 cycles after a step's last chunk arrives, the arrival word is increased by the units made final. -/
  | arrivalAdd (cid p : Nat) (meets : List (Nat × Meet))
  /-- STALL_NOTICE_SEND (R516). A send held 1,024 cycles for a missing input sends a stall notice naming a blamed member. -/
  | stallNoticeSend (cid p : Nat)
  /-- STALL (R516). A received stall notice records the blamed member for its held chunk. -/
  | stall (p coll sender blamed chunk : Nat)
  /-- POISON (R512). A received poison message sets POISON and is forwarded in the flag-round pattern. -/
  | poison (p coll origin : Nat)
  /-- TOMBSTONE (R580). A received tombstone sets POISON, stops sending, is forwarded, and completes FAULT_POISON at the next mark. -/
  | tombstone (p coll sender : Nat)
  /-- COLLECTIVE_COMPLETE (R502; meets: of the source reads and result writes, by member partition). At completion mark C, with every local result written, the collective completes. -/
  | collectiveComplete (cid : Nat) (meets : List (Nat × Meet))
  /-- COLLECTIVE_LATE_COMPLETE (R518; meets as above). A collective finishing after C completes at the next mark with LATE and a FLUE_LATE entry. -/
  | collectiveLateComplete (cid : Nat) (meets : List (Nat × Meet))
  /-- COLLECTIVE_DEADLINE (R517; meets as above). At DEADLINE_MARK, an unfinished collective completes TIMEOUT_PEER naming the missing member. -/
  | collectiveDeadline (cid : Nat) (meets : List (Nat × Meet))
  /-- FLUE_GROUP_DROP (R485). A write to FLUE_GROUP_DROP removes a group definition. -/
  | flueGroupDrop (port : Nat) (v : Word32)
  -- Memory, host ports and links
  /-- CTX_PT_ROOT_WRITE (R544). A CTX_PT_ROOT write queues a page-table load, or removes the context's translations. -/
  | ctxPtRootWrite (port n : Nat) (v : Word)
  /-- PT_LOAD_COMPLETE (R544; m: of the reads of the tables, at address a). At its computed mark, a load installs the new translations on every partition, or fails with PT_ERR or PT_FULL. -/
  | ptLoadComplete (a : Nat) (m : Meet)
  /-- CXL_LINK_UP (R550). After a CXL link-up, the management core enumerates the expander and programs its decoder. -/
  | cxlLinkUp (q rate width cap : Nat)
  /-- BAR4_READ (R558; m: of the read). A BAR4 read reaches device memory, or completes Unsupported Request. -/
  | bar4Read (port off len : Nat) (m : Meet)
  /-- BAR4_WRITE (R558; m: of the write). A BAR4 write reaches device memory, or is discarded with BAR4_ERR. -/
  | bar4Write (port off : Nat) (data : List Byte) (m : Meet)
  /-- DOE_DISCOVERY (R654). A DOE Discovery request is answered. -/
  | doeDiscovery (port index : Nat)
  /-- GET_VERSION (R654). SPDM GET_VERSION returns version 1.2. -/
  | getVersion (port : Nat)
  /-- GET_CAPABILITIES (R654). SPDM GET_CAPABILITIES returns the supported capabilities. -/
  | getCapabilities (port : Nat)
  /-- NEGOTIATE_ALGORITHMS (R654). SPDM NEGOTIATE_ALGORITHMS selects P-256 and SHA-256. -/
  | negotiateAlgorithms (port : Nat)
  /-- GET_DIGESTS (R654). SPDM GET_DIGESTS returns the slot 0 chain digest. -/
  | getDigests (port : Nat)
  /-- GET_CERTIFICATE (R654). SPDM GET_CERTIFICATE returns the device certificate chain. -/
  | getCertificate (port slot off len : Nat)
  /-- CHALLENGE (R654). SPDM CHALLENGE returns a response signed with the PUF key. -/
  | challenge (port slot : Nat) (nonce : List Byte)
  /-- GET_MEASUREMENTS (R656). SPDM GET_MEASUREMENTS returns the measurement blocks, optionally signed. -/
  | getMeasurements (port index slot : Nat) (signed : Bool) (nonce : List Byte)
  /-- DOE_RESPONSE (R655). A response is placed in the mailbox exactly 16 marks, or 2,048 marks if signed, after its request. -/
  | doeResponse (port : Nat)
  /-- DOE_ABORT (R655). A DOE Abort discards the request in progress and resets the connection. -/
  | doeAbort (port : Nat)
  /-- FLIT_RECEIVE (R567; words: codewords of R586 that came with it, as lane of the port and whether uncorrectable). A received flit is checked, and then consumed, forwarded or discarded, updating credits. -/
  | flitReceive (k : Nat) (flit : List Byte) (words : List (Nat × Bool))
  /-- DATAGRAM_RECEIVE (R589; words: codewords of R586 that came with it, as lane of the port and whether uncorrectable). An Ethernet-mode UDP datagram carrying a message segment is received. -/
  | datagramReceive (k : Nat) (header payload : List Byte) (words : List (Nat × Bool))
  /-- LANE_LOCK_LOSS (R581; lost: symbol lock is lost; words: codewords of R586, as lane of the port and whether uncorrectable). A lane in use has lost symbol lock for 64 cycles, or too many codewords are uncorrectable in a mark. -/
  | laneLockLoss (lane : Nat) (lost : Bool) (words : List (Nat × Bool))
  /-- LINK_RETRAIN_START (R581). At the mark after a lane fault or a RETRAIN write, the port starts a 512-mark retraining. -/
  | linkRetrainStart (k : Nat)
  /-- RETRAIN (R582). A RETRAIN write starts retraining of a link port. -/
  | retrain (port k : Nat)
  /-- LINK_ENABLE (R586: v: the word written to LINK_CTRL). The ENABLE bit of LINK_CTRL starts or stops training and running the port. -/
  | linkEnable (port k : Nat) (v : Word32)
  /-- LINK_RETRAIN_END (R582: the lanes that lock in both directions). After 512 marks, the port comes up UP, DEGRADED or DOWN on the first lane set that locks. -/
  | linkRetrainEnd (k : Nat) (locked : BitVec 8)
  -- Faults and recovery
  /-- SNUFFER_HANG (R600). Supervised work passes its deadline, so the engine freezes, logs HANG and writes a soot sample. -/
  | snufferHang (cl : Nat)
  /-- SOOT_RING_MOVE (R595; retries: write retries of R538). A buffered soot entry moves into the ring when the ring is usable and has a free slot. -/
  | sootRingMove (retries : Nat)
  /-- ENGINE_RESET_END (R604: ok: the reset completed). 512 marks after the freeze, the engine reset completes, threads are freed, and a due spare enters service. -/
  | engineResetEnd (cl : Nat) (ok : Bool)
  /-- SUSPECT_RELAUNCH (R607). At cycle 64 after the reset ends, the next suspect's LIVE threads are relaunched from their launch records. -/
  | suspectRelaunch (cl : Nat)
  /-- CONTROL_HANG (R602, R36; what failed: a hang, another control-core fault or an uncorrectable L2 error). A hang of the control core, command DMA, Lamplighter or Flue agent triggers a partition reset. -/
  | controlHang (p : Nat) (what : PartFault)
  /-- PARTITION_RESET_START (R618). At the mark after its trigger, a partition reset begins, aborting the partition's work and draining its samples. -/
  | partitionResetStart (p : Nat)
  /-- PARTITION_RESET_END (R618; ok: the reset completed). After 16,384 marks, the partition returns to its role and ABORTED_RESET completions are posted. -/
  | partitionResetEnd (p : Nat) (ok : Bool)
  /-- CHIP_RESET (R696: v: the word written to GLOBAL_CTRL). A GLOBAL_CTRL write of CHIP_RESET with the right KEY triggers a chip reset at the next mark. -/
  | chipReset (port : Nat) (v : Word32)
  /-- CHIP_RESET_START (R619; fault: the mesh, an I/O die, the sequence-table SRAM or the management core has failed, which triggers the reset, R36, R617). A chip reset begins by posting ABORTED_RESET for incomplete commands and dropping the PCIe links. -/
  | chipResetStart (fault : Option ChipFault)
  /-- CHIP_RESET_TIMEOUT (R620; disabled: a fault disables the management core or I/O die W, so that no chip reset can be performed). A chip reset that has not reached ready within 2,097,152 marks fails. -/
  | chipResetTimeout (disabled : Bool)
  /-- SAVE_START (R626). At START_MARK, the save quiesces the target, suspends its samples, freezes its threads and checks the image range. -/
  | saveStart (cid : Nat)
  /-- SAVE_COMPLETE (R628). 240 marks after START_MARK, the save completes and with RESUME the target returns to LIVE. -/
  | saveComplete (cid : Nat)
  /-- RESTORE_START (R629). At START_MARK, the restore checks the image geometry, revision and ownership. -/
  | restoreStart (cid : Nat)
  /-- RESTORE_COMPLETE (R630; meets: of the reads of the i-th range of the image, and at 16 + p of those of the tables that partition p reads). 240 marks after START_MARK, a successful restore completes with registers, tiles, step and samples recreated. -/
  | restoreComplete (cid : Nat) (meets : List (Nat × Meet))
  /-- RESTORED_STEP_RESUME (R631; meets: of the header reads, by partition). A restored mid-step step resumes at cycle 64 of the mark after the target's START write. -/
  | restoredStepResume (n : Nat) (meets : List (Nat × Meet))
  /-- CHECKPOINT_COPY_START (R634). At its start, a checkpoint copy begins reading the halves live at CHECKPOINT_MARK. -/
  | checkpointCopyStart (cid : Nat)
  /-- CHECKPOINT_COPY_END (R635; h: what its reads and writes meet). At end e, the checkpoint completes OK, FAULT_CONTEXT or DEADLINE_MISSED. -/
  | checkpointCopyEnd (cid : Nat) (h : Hap)
  -- Start-up
  /-- PWRGOOD_RISE (R662). PWRGOOD stays high for one mark after rising, which is the start-up trigger. -/
  | pwrgoodRise
  /-- PWRGOOD_FALL (R662). PWRGOOD stays low for one mark, so the device stops all activity and stays in reset. -/
  | pwrgoodFall
  /-- CONVERTER_TRIP (R660). The input leaves its limits long enough for the first conversion stage to turn off, losing all state. -/
  | converterTrip
  /-- DOMAINS_OFF (R644). At mark 1,024 of start, every power domain, including the PUF supply, is off. -/
  | domainsOff
  /-- BOOT_ROM_START (R644: the straps as sampled, and whether the flash answers SFDP). At mark 2,048, the I/O die W core powers on, the PUF is read, the straps are sampled and the configuration read begins. -/
  | bootRomStart (ownerKeyEn forceRecovery addr1 addr0 testMode sfdp : Bool)
  /-- CONFIG_CHECK (R644: readOk: the read ended within its window). At mark 18,944, the configuration block is checked and applied, or the device enters RECOVERY. -/
  | configCheck (readOk : Bool)
  /-- IMAGE_CHECK (R644). At mark 35,840, the firmware image is checked and the PUF identity rebuilt, or the device enters RECOVERY. -/
  | imageCheck (readOk : Bool)
  /-- DEVICE_READY (R644). At mark 2,097,152, the device sets the global register lock and READY. -/
  | deviceReady
  /-- RECOVERY_GO (R649: v: the word written to RECOVERY_CTRL). A GO write in RECOVERY starts RAM_VERIFY of the staged configuration and image. -/
  | recoveryGo (port : Nat) (v : Word32)
  /-- RAM_VERIFY_END (R649). At GO plus 1,024 marks, the staged objects are accepted or the device returns to RECOVERY. -/
  | ramVerifyEnd
  /-- RAM_BOOT_LINK_DROP (R649). At GO plus 2,048 marks, both host links drop and start-up continues from mark 35,840. -/
  | ramBootLinkDrop
  -- Power and temperature
  /-- DOMAIN_SWITCH_ON (R665). A due power domain or GDDR7 rail switches on, at most one in any 8-mark interval. -/
  | domainSwitchOn
  /-- POWER_FACTOR_UPDATE (R668). 32 marks before each candle boundary, average power is compared with the cap and new factors are chosen. -/
  | powerFactorUpdate
  /-- THERMAL_SAMPLE (R673: the ten junction readings in 1/16 °C). Every mark, the junction sensors are read and THERM_ALERT# is updated. -/
  | thermalSample (temps : List Nat)
  /-- JUNCTION_OVERTEMP (R675). A compute die above 105 °C for 8 consecutive marks triggers a partition reset. -/
  | junctionOvertemp (p : Nat)
  /-- IO_DIE_OVERTEMP (R676: d: 0 for W, 1 for E). An I/O die above 105 °C for 8 consecutive marks triggers a chip reset. -/
  | ioDieOvertemp (d : Nat)
  /-- JUNCTION_CRITICAL (R676). Any junction above 115 °C for 2 consecutive marks asserts FATAL# at once. -/
  | junctionCritical (u : Nat)
  -- I3C and JTAG
  /-- TREAD (R687). The I3C TREAD command selects tray-block dwords for the next read transfer. -/
  | tread (off count : Nat)
  /-- I3C_PRIVATE_READ (R687). An I3C read transfer returns the TREAD result, or is NACKed within 2 marks. -/
  | i3cPrivateRead
  /-- TWRITE (R687). The I3C TWRITE command writes tray-block registers, of which only PWR_CAP is taken. -/
  | twrite (off count : Nat) (data : List Byte)
  /-- I3C_CHIP_RESET (R687). The I3C CHIP_RESET command with its key bytes triggers a chip reset at the next mark. -/
  | i3cChipReset (key : List Byte)
  /-- ENTDAA (R686). The ENTDAA CCC assigns a dynamic address. -/
  | entdaa (addr : Nat)
  /-- SETDASA (R686: the dynamic address assigned in place of the static one). The SETDASA CCC sets the dynamic address from the static one. -/
  | setdasa (static addr : Nat)
  /-- RSTDAA (R686). The RSTDAA CCC resets the dynamic address. -/
  | rstdaa
  /-- GETPID (R686). The GETPID CCC returns the provisioned ID. -/
  | getpid
  /-- GETBCR (R686). The GETBCR CCC returns the bus characteristics register. -/
  | getbcr
  /-- GETDCR (R686). The GETDCR CCC returns the device characteristics register. -/
  | getdcr
  /-- GETSTATUS (R686). The GETSTATUS CCC returns the target status. -/
  | getstatus
  /-- ENEC (R686). The ENEC CCC enables in-band interrupts. -/
  | enec
  /-- DISEC (R686). The DISEC CCC disables in-band interrupts. -/
  | disec
  /-- BYPASS (R685). The JTAG BYPASS instruction selects the bypass register. -/
  | bypass
  /-- IDCODE (R685). The JTAG IDCODE instruction shifts out 0x1884_03D3. -/
  | idcode
  /-- SAMPLE_PRELOAD (R685: the bits shifted in through TDI). The JTAG SAMPLE/PRELOAD instruction samples or preloads the boundary-scan register. -/
  | samplePreload (data : List Bool)
  /-- EXTEST (R685). The JTAG EXTEST instruction drives pins from the boundary-scan register. -/
  | extest
  /-- HIGHZ (R685). The JTAG HIGHZ instruction tri-states the scanned pins. -/
  | highz
  /-- CLAMP (R685). The JTAG CLAMP instruction holds the pins at preloaded values. -/
  | clamp
  -- Registers and remaining events
  /-- EVT_EN_WRITE (R703: EVT_EN[n], a write of size bytes, hi: to the high half). Setting an EN bit whose CAUSE bit is already set signals the vector once. -/
  | evtEnWrite (port n size : Nat) (hi : Bool) (v : Word)
  /-- LOW_HALF_READ (R690; a read of `size` bytes by function fn of the port, of BAR0 or BAR2 by bar). A 4-byte read of the low half of TIME_NOW or MARK_NOW latches the high half for that port. -/
  | lowHalfRead (port fn bar off size : Nat)
  /-- REGISTER_WRITE (R10: function fn of the port, BAR0 or BAR2 by bar, its offset). A write to a register with no row of its own acts according to its fields' access codes and any ignore rules. -/
  | registerWrite (port fn bar off size : Nat) (v : Word)
  /-- ACCEPTED_COMPLETION (R130; meets: of the accesses that the commands make then, by command). Two marks after presentation, an accepted command whose count is 2 marks posts its completion: SEQ_SUBMIT, SEQ_QUERY after its copy, ADAPTER_REMOVE, VARIANT_LOAD, FLUE_GROUP_DEFINE, FENCE and the zero case of R126. -/
  | acceptedCompletion (n : Nat) (meets : List (Nat × Meet))
  /-- HOST_LINK_UP (R563). A host port's data link layer comes up after training, setting UP and raising event vector 8. -/
  | hostLinkUp (port rate width vfs : Nat) (flit : Bool)
  /-- CXL_LINK_DOWN (R551). A CXL port's link goes down, clearing UP so that accesses to its range fault under R54 and raising event vector 7. -/
  | cxlLinkDown (q : Nat)
  /-- FLASH_OPERATION_END (R658). The external flash ends a sector operation that was still busy, and FLASH_BUSY returns to 0. -/
  | flashOperationEnd
  /-- INPUT_POWER_SAMPLE (R667: input voltage in mV and current in mA). Every mark the device measures input voltage and current, and sets VIN_RANGE when the input has left 32 to 40 V for a mark. -/
  | inputPowerSample (mv ma : Nat)
  /-- SELF_TEST_CHECK_MARK (R424). At cycle 0 of COMMIT_MARK minus 1 of a SELF_TEST step, each partition sets FAULT if a thread of the step is still LIVE. -/
  | selfTestCheckMark (cid : Nat)
  /-- PRIORITY_FLOW_CONTROL (R588; half: the interface of a SPLIT port). An IEEE 802.1Qbb priority flow control frame received on an Ethernet-mode port pauses or resumes sending on the priority of VC2 or VC3. -/
  | priorityFlowControl (k half prio : Nat) (pause : Bool)
deriving DecidableEq, Repr

end Sys2Proof
end

