-- ==== Sys2Proof/Decode.lean ====
section
/-!
DEFINITION. Decode.lean: the command that a word of the table's bits spells. No row of the opcode table gives bits: the
part's commands are events, register writes and table entries, whose operands the environment brings.
-/
namespace Sys2Proof

/-- The command spelled by `nbits` bits `w` of an opcode-table row: none, since no row gives bits (assumption 9). -/
def decodeTableWord (_nbits _w : Nat) : Option Instr := none

end Sys2Proof
end

