-- ==== Sys2Proof/Config.lean ====
section
/-!
DEFINITION. Config.lean: the figures of R6 and R39, the published counts that several chapters share, the command and
status codes of R130 and R136, and the free values: what the manual leaves open and a fitted part decides.
-/
namespace Sys2Proof.Config

/-! ## Free values (opaque: no proof can see what they are) -/

/-- Fresh open values: the `n`-th free value drawn, as a number (assumption 2). -/
opaque freeNat : Nat → Nat
/-- Contents of byte `a` of memory left undefined by the `n`-th undefining event (R539, R223, R95, R296). -/
opaque undefByte : Nat → Nat → Byte
/-- FP32 result of special function `op`, or the side on which it is rounded (R301 gives an accuracy, not a bit pattern). -/
opaque special : Nat → Nat → Nat
/-- Error of the cosine (0) and the sine (1) of a rotation by position q and frequency code (R395 bounds it). -/
opaque rotTrig : Nat → Nat → Nat → Int
/-- Error of an element of a rotated pair, from the pair, the position, the frequency code and the element (R395 bounds it). -/
opaque rotElem : Int → Int → Nat → Nat → Nat → Int
/-- Gumbel noise of a Spark word in units of 2^-40 above -32 (R328 gives an accuracy). -/
opaque gumbel : Nat → Nat
/-- log2 of a significand in units of 2^-16, where R193 allows an error below 2^-16. -/
opaque log2Frac : Nat → Nat
/-- Log-probability bits of the drawn token (R330 gives an accuracy). -/
opaque logProb : List Nat → Nat → Nat
/-- The 256-bit seed the PUF array and the helper data give, if they give one (R650). -/
opaque pufSeed : List Byte → Option (List Byte)
/-- SHA-256 of the vendor root key, held in boot ROM (R640). -/
opaque vendorKeyHash : List Byte
/-- SHA-256 of the boot ROM (R656). -/
opaque romDigest : List Byte
/-- ECDSA nonce of the `n`-th signature (SPDM responses are signed; the nonce is the engine's own). -/
opaque nonce : Nat → Nat
/-- The I3C provisioned ID, bus and device characteristics (R686 names the CCCs and not their values). -/
opaque i3cPid : Nat
opaque i3cBcr : Nat
opaque i3cDcr : Nat
opaque i3cStatus : Nat → Nat
/-- A free byte of a DOE or SPDM message field that the manual does not lay out. -/
opaque spdmByte : Nat → Nat → Byte
/-- Place, in dwords, of the capability with an identifier in the configuration space of a PF (R556 lists features, not the layout):
0x01 power management, 0x10001 AER, 0x10010 SR-IOV, 0x10015 resizable BAR, 0x1002E DOE. -/
opaque pciCap : Nat → Nat
/-- PCI configuration space dword at an offset of a function (R556 lists features, not the layout). -/
opaque pciConfig : Nat → Nat → Nat → Nat
/-- A position that the wheel gives another class than TENANT has no request of that class waiting on a channel, and is lent (R528). -/
opaque memLent : Nat → Nat → Bool

/-- How many of the writes of a control core that were waiting GDDR7 has had repeated (R538). -/
opaque agentRetries : Nat → Nat

/-- Layout that a MAT_LOAD of a 4-bit-class format fills, PAIRED or SINGLE, by its instruction word: R208 names both and
no field of R284 selects one (assumption 13). -/
opaque pairedLoad : Nat → Bool

/-! ## Headline figures (R6, R39) -/

def cyclesPerMark : Nat := 1024
def marksPerCandle : Nat := 65536
def cyclesPerCandle : Nat := 67108864
def numCtx : Nat := 4096
def numPart : Nat := 8
def clustersPerPart : Nat := 16
def threadsPerTile : Nat := 16
def tableEntries : Nat := 65536
def unit2M : Nat := 2097152

/-! ## The address map (R52, R53) -/

def gddrPerPart : Nat := 0x600000000
def gddrEnd : Nat := 0x3000000000
def windowBase : Nat := 0x4000000000
def windowSize : Nat := 0x400000
def windowEnd : Nat := 0x4100000000
def scratchSize : Nat := 0x180000
def accEnd : Nat := 0x1C0000
def cxlBase : Nat := 0x100000000000
def cxlPortSize : Nat := 0x20000000000
def cxlEnd : Nat := 0x180000000000
def hostBase : Nat := 0x200000000000
def hostPortSize : Nat := 0x100000000000
def hostEnd : Nat := 0x400000000000

/-! ## Opcodes (R130) -/

def opSeqSubmit : Nat := 0x01
def opSeqCancel : Nat := 0x02
def opSeqReward : Nat := 0x03
def opSeqQuery : Nat := 0x04
def opAdapterInstall : Nat := 0x10
def opAdapterReplace : Nat := 0x11
def opAdapterRemove : Nat := 0x12
def opStepLaunch : Nat := 0x20
def opPublish : Nat := 0x30
def opVariantLoad : Nat := 0x31
def opReferenceSet : Nat := 0x32
def opFlueCollective : Nat := 0x40
def opFlueGroupDefine : Nat := 0x41
def opCtxSave : Nat := 0x50
def opCtxRestore : Nat := 0x51
def opCheckpoint : Nat := 0x52
def opCtxTeardown : Nat := 0x60
def opCtxHandover : Nat := 0x61
def opDmaFill : Nat := 0x70
def opDmaCopy : Nat := 0x71
def opFence : Nat := 0x7F
def opPartitionRole : Nat := 0x80
def opFrameSet : Nat := 0x81
def opMarkSet : Nat := 0x82
def opFlashWrite : Nat := 0x83

def knownOps : List Nat :=
  [0x01, 0x02, 0x03, 0x04, 0x10, 0x11, 0x12, 0x20, 0x30, 0x31, 0x32, 0x40, 0x41, 0x50, 0x51, 0x52, 0x60, 0x61,
   0x70, 0x71, 0x7F, 0x80, 0x81, 0x82, 0x83]

/-! ## Status codes (R136) -/

def stOk : Nat := 0x00
def stOkReplayed : Nat := 0x01
def stRejectFormat : Nat := 0x10
def stRejectState : Nat := 0x11
def stRejectLength : Nat := 0x12
def stRejectCapacity : Nat := 0x13
def stRejectPermission : Nat := 0x14
def stAbortedTeardown : Nat := 0x20
def stAbortedReset : Nat := 0x21
def stDeadlineMissed : Nat := 0x22
def stLengthLimit : Nat := 0x30
def stPageStarved : Nat := 0x31
def stFaultContext : Nat := 0x40
def stFaultNonfinite : Nat := 0x41
def stFaultPoison : Nat := 0x42
def stTimeoutPeer : Nat := 0x43
def stStepSkew : Nat := 0x44
def stGeometryMismatch : Nat := 0x45
def stRestartNeeded : Nat := 0x46
def stTimeHoldover : Nat := 0x47

/-! ## Context states (R111), roles (PARTITION_ROLE of R135), time states (R70), sample states (R340) -/

def cFree : Nat := 0
def cLive : Nat := 1
def cFaulted : Nat := 2
def cDraining : Nat := 3
def cQuiesced : Nat := 4
def cHandover : Nat := 5

def rOff : Nat := 0
def rLantern : Nat := 1
def rHearth : Nat := 2
def rSpare : Nat := 3

def tUnset : Nat := 0
def tSet : Nat := 1
def tHoldover : Nat := 2
def tUnfit : Nat := 3

def sFree : Nat := 0
def sAdmitted : Nat := 1
def sPrefill : Nat := 2
def sDecode : Nat := 3
def sVerify : Nat := 4
def sWaitPage : Nat := 5
def sSuspended : Nat := 6
def sDraining : Nat := 7
def sDone : Nat := 8

/-! ## Boot stages (R648) -/

def bgRom : Nat := 0
def bgConfig : Nat := 1
def bgImage : Nat := 2
def bgWait : Nat := 3
def bgReady : Nat := 4
def bgRecovery : Nat := 5
def bgRamVerify : Nat := 6

/-! ## Start-up marks (R644) -/

def markDomainsOff : Nat := 1024
def markRomStart : Nat := 2048
def markConfig : Nat := 18944
def markImage : Nat := 35840
def markReady : Nat := 2097152

end Sys2Proof.Config
end

