-- ==== Sys2Proof/Machine/State.lean ====
section
/-!
DEFINITION. State.lean: everything the manual gives the MZ8840, as plain data, the queue of waiting commands, the two
ways a step can stop, and the state after reset. A table of indexed things is a list of (index, value) pairs, sorted by
index and without entries equal to the value an unlisted index has (Machine/Tbl.lean); registers the manual lays out are
words of the register file `regs`, at their BAR0 offsets (Machine/Regs.lean names their fields).
-/
namespace Sys2Proof.Machine

/-- Faults of the machine. No step of this block ends in one: every fault the manual describes (FAULT_CONTEXT, a reset,
FATAL#) is a change of state. The one constructor is raised by nobody; that is safe. -/
inductive Fault where
  /-- Raised by nobody (safe): the manual describes what follows every error. -/
  | none
deriving DecidableEq, Repr

/-- Refusals of the machine. -/
inductive Refusal where
  /-- A command that has no meaning yet, by its mnemonic. Raised by arms of Dispatch.lean only; safe. -/
  | notModelled (mnemonic : String)
deriving DecidableEq, Repr

/-! ## Memory -/

/-- What the bytes of a range read as while nothing is written there: the free values of an event that left them undefined, or all
ones (the empty prefix index of R375 and R402). -/
inductive Fill where
  | free (ev : Nat)
  | ones
deriving DecidableEq, Repr

/-- The byte-addressed device physical memory of R52: GDDR7, tile windows (scratchpads and accumulator words), expander
memory and the hosts' memory as seen through the windows. `cells` is strictly rising in the address; `undef` lists the
ranges (base, size, fill) that an event has filled, newest first: their bytes are undefined, or all ones. -/
structure Memory where
  cells : List Host.Cell
  undef : List (Nat × Nat × Fill)
deriving DecidableEq, Repr

/-! ## Device time (R59 to R91) -/

/-- The mark counter, its alignment and what the time rules remember beside the time registers. -/
structure TimeBase where
  cycle      : Nat            -- core cycles since mark 0 of start-up (R644); never jumps (R63)
  mark       : Nat            -- MARK_NOW (R60)
  cyc        : Nat            -- cycle counter, 0 to 1,023
  hold       : Nat            -- cycles the counter has held for a late pulse (R62)
  stall      : Nat            -- cycles the counter still holds to absorb a realignment or trim step (R62, R76)
  synced     : Bool           -- the first pulse after MARKREF lock has come (R65)
  boundary   : Bool           -- a candle boundary has been reached whose CANDLE_BOUNDARY step is still to come
  lastD      : Int            -- displacement of the last pulse
  pulses     : List Nat       -- core cycles at which MARKSYNC was sampled and whose trim delay still runs (R59)
  badPrev    : Bool           -- the boundary before the last one had a miss or a slip (R70)
  badLast    : Bool           -- the last boundary had a miss or a slip (R70)
  candleBad  : Bool           -- the boundary just reached, or the one to come, had a miss or a slip
  stepIn     : Option Int     -- trim step of R76 that the boundary just reached has in it, where a pulse or the lack of one put it
  pulseGood  : Bool           -- the boundary just reached was defined by a pulse within the window (R72)
  relock     : Bool           -- the next pulse is the first after MARKREF returned (R85)
  holdSince  : Nat            -- core cycle of entry to HOLDOVER
  setM       : Option (Nat × Nat × Nat)  -- accepted MARK_SET: cid, M, admission mark (R67)
  beacons    : List Int       -- pod offsets of the last beacons, newest first, at most 16 (R75)
  ptpSync    : Option (Nat × Nat × Nat × Nat)  -- PTP exchange: sequence id, t1, t2, t3 in ns (R590)
  latchTime  : List (Nat × Word32)  -- per port: latched high half of TIME_NOW (R690)
  latchMark  : List (Nat × Word32)
deriving DecidableEq, Repr

/-! ## Contexts and commands -/

/-- Where an admitted command stands. -/
inductive Phase where
  | presented   -- completion slot reserved, not yet admitted (R120)
  | fresh       -- admitted in this mark, its checks of R124 still to be applied
  | waiting     -- its count is fixed: completes 2 marks after presentation (R99, R126, R130)
  | held        -- accepted behind a FENCE, its effect still to come (R129)
  | running     -- its work is under way
  | done        -- its count is reached; posted when every earlier command has completed (R128)
deriving DecidableEq, Repr

/-- One command instance of a context, from presentation to posting. -/
structure Cmd where
  cid       : Nat
  ctx       : Nat
  entry     : List Byte       -- the 64 bytes of R115
  presented : Nat             -- core cycle of presentation (R123)
  presMark  : Nat             -- mark of presentation
  admitMark : Nat             -- mark of admission
  admitCyc  : Nat             -- core cycle of admission
  phase     : Phase
  status    : Nat
  result    : List Byte       -- RESULT, 16 bytes
  late      : Bool
  replayed  : Bool
  started   : Bool            -- its start event has happened (copy start, save start and the like)
  abandoned : Bool            -- a publication or reference change that no target will make (R472, R714)
  faulted   : Bool            -- its work met an access that faults
  targets   : List (Nat × Nat)   -- partition and slot or block it holds there (PUBLISH, REFERENCE_SET, adapters)
  sources   : List (Nat × Nat × Nat)  -- extents it copies from: (partition, address, bytes)
  startAt   : Nat             -- start mark of its copy, save or checkpoint job
  endAt     : Nat             -- end mark of it
  wasLive   : Bool            -- the target of a save was LIVE at the start mark (R628)
  bytes     : Nat             -- bytes written, and other numbers the completion reports
  handle    : Nat             -- the sequence handle or context the command names
deriving DecidableEq, Repr

/-- The part of a context that is not in its register record: ring indices and reservations (R109 to R120), and the two
doorbell flags (R111). -/
structure CtxRun where
  sqTail     : Nat
  sqHead     : Nat
  sqNext     : Nat            -- index of the first entry not yet presented
  cqHead     : Nat
  cqTail     : Nat
  cqPhase    : Bool
  emHead     : Nat
  emTail     : Nat
  emPhase    : Bool
  emReserved : Nat            -- ember slots reserved (R156, R347, R357)
  doorbellErr : Bool
  lostPost   : Bool
  errAt      : Option Nat     -- core cycles in which the two flags were last set (R13)
  lostAt     : Option Nat
  resetAt    : Option Nat     -- core cycle at which a context reset began (R142)
  teardownAt : Option Nat     -- core cycle of teardown admission (R145); also by a function level reset
  teardownCid : Option Nat    -- the CTX_TEARDOWN that posts its completion, if one does
  flrMark    : Option Nat     -- mark of a function level reset whose teardown begins at the next mark (R143)
  quars      : List (Nat × Nat)  -- quarantines that run: core cycle of the teardown completion, ember slots held (R147)
  restored  : List Nat        -- restored mid-step steps that wait for START (R631)
deriving DecidableEq, Repr

/-- One mapping of the translation store (R541): `pages` pages of 2 MiB from virtual page `vpn`. -/
structure Xlat where
  ctx   : Nat
  vpn   : Nat
  pages : Nat
  ppn   : Nat
  rd    : Bool
  wr    : Bool
deriving DecidableEq, Repr

/-- A queued page-table load (R544). -/
structure PtLoad where
  ctx   : Nat
  root  : Nat                 -- the CTX_PT_ROOT word
  start : Nat                 -- mark s
deriving DecidableEq, Repr

/-! ## Tiles and threads -/

/-- The common internal form of an operand (R172). -/
structure Cif where
  nan  : Bool
  zero : Bool
  sign : Bool
  log  : Int                  -- in units of 1/256
deriving DecidableEq, Repr

/-- A column sum: NaN, exact zero, or total × 2^(emax − 27) (R179). -/
inductive ColSum where
  | nan
  | zero
  | val (total : Int) (emax : Int)
deriving DecidableEq, Repr

/-- One weight bank of one array (R209): `rows` lists the weight rows of 32 values, `exps` the block exponents of each
group of 32 rows, and the four checksum lists of R225. -/
structure Bank where
  cls   : Nat                 -- rate class of the weight format: 0 4-bit, 1 8-bit, 2 16-bit
  paired : Bool
  rows  : List (List Cif)
  exps  : List (List Int)
  scale : Int                 -- weight tensor scale offset, units of 1/8
  cw    : List Cif
  aw    : List Cif
  rw    : List Cif
  ra    : List Cif
deriving DecidableEq, Repr

/-- A thread's state (R258). -/
inductive TState where
  | free | live | faulted
deriving DecidableEq, Repr

/-- On whose behalf a thread runs. -/
inductive Owner where
  | none
  | step (cid : Nat)
  | frame (p k : Nat)
  | ended                     -- its context's reset or teardown has ended since it faulted
deriving DecidableEq, Repr

/-- A hardware thread (R257 to R259). Registers not listed are 0. -/
structure Thread where
  state   : TState
  record  : List Byte         -- its launch record (R255)
  owner   : Owner
  startAt : Nat               -- start cycle
  pc      : Nat               -- scratchpad offset
  sregs   : List (Nat × Word)
  vregs   : List (Nat × List Word32)
  nextAt  : Nat               -- cycle from which the instruction at PC is the next instruction (R265)
  nextMark : Nat              -- mark in which it became so (R290)
  sigs    : Nat               -- signals performed in this run (R608)
  suppress : Nat              -- signals still to be suppressed in a replay
  frozen  : Bool              -- by a context save (R626)
  index   : Nat               -- of its launch record among those launched with it
  carries : List Nat          -- table entries of the samples whose work it carries (R364, R461)
  timedOut : Bool             -- the SIG_WAIT at PC has reached its timeout mark
  checked : Option (Nat × Nat)  -- the instruction at PC and what its legality check found (R294), from the first cycle of that check on
deriving DecidableEq, Repr

/-- A MAT_DRAIN under way (R232): what its issue cycle has read, and the entries read so far. -/
structure DrainRun where
  desc  : List Byte           -- OCU descriptor (R233)
  tile  : Nat
  part  : Nat
  rd    : Nat                 -- result register
  seed  : Nat                 -- Spark seed of the issuing context
  scale : List Nat            -- FP32 vector at COL_SCALE; empty where unused
  bias  : List Nat
  nf    : Bool                -- the NF bit of an accumulator block that it reads is set
  codes : List Nat            -- entries read so far, in order
deriving DecidableEq, Repr

/-- What an instruction does at its count (R274). -/
inductive Effect where
  | sreg (r : Nat) (v : Word)
  | vreg (r : Nat) (v : List Word32)
  | store (pa : Nat) (data : List Byte)
  | load (pa dst len : Nat) (got : Option (List Byte))  -- GLD; what its home gave, once a later write of the tile follows it (R288)
  | sigAdd (pa rd : Nat) (v : Word) (perform : Bool)
  | undef (pa len : Nat)
  | bank (tile array b : Nat) (v : Bank)
  | damperReport (p slot max : Nat) (nf : Bool)
  | drain (d : DrainRun)               -- the results of a MAT_DRAIN
  | damperUpdate (p slot : Nat)
  | damperRead (p slot rd : Nat)
  | damperWrite (p slot max : Nat)
  | damperLoad (p slot : Nat) (hist : List Int)
  | damperSave (p slot pa : Nat)
  | fault (faultCtx : Nat)             -- a faulting access of the context (R296)
  | badDesc (off : Nat)                -- a descriptor that breaks a condition (R311)
  | memUe (p off : Nat)                -- an uncorrectable read of GDDR7 (R537)
  | tileOut (pass : Nat)
  | exit
deriving DecidableEq, Repr

/-- What an issued matrix load or stream does to a bank (R212, R213). -/
structure MatUse where
  load  : Bool
  mask  : Nat
  bank  : Nat
  first : Nat                 -- first row write, or first weight-read cycle
  last  : Nat                 -- last row write, or the weight-read cycle of the retry pass
deriving DecidableEq, Repr

/-- A MAT_STREAM under way: its operands as its issue fixed them, and its passes in the stages of R215. Passes 0 to V − 1 are
those of the vectors, V is the row-check pass and V + 1 the retry pass (R214, R216). -/
structure StreamRun where
  w       : Nat               -- 1 with a switch cycle
  r       : Nat               -- entry cycles per pass
  v       : Nat
  ev      : Nat               -- elements per activation vector
  mask    : Nat
  bank    : Nat
  dt      : Nat
  src     : Nat
  stride  : Nat
  scaleAt : Nat
  base    : Nat               -- ACC_BASE word
  wide    : Bool
  init    : Bool
  rot     : List Byte         -- rotary descriptor; empty where ROT is 0
  ta      : Int               -- activation tensor scale offset (R222)
  upsets  : List (Nat × Nat × Nat × Int)  -- hardware errors: pass, array, column, and error of the column sum (assumption 29)
  vecs    : List (Nat × List Cif × List Int)  -- vectors in the pipeline, with their block exponents
  sums    : List (Nat × Bool × List (Nat × List ColSum))  -- passes past their weight read: mismatch, and column sums by array
  begun   : List Nat          -- accumulator blocks whose NF bit the stream has settled (R221, R230)
  claimed : Option Nat        -- pass that the retry window re-executes (R229)
  out     : Bool              -- a second mismatch has come (R230)
deriving DecidableEq, Repr

/-- An issued, incomplete instruction (R274). Regions 0 to 1,535 are scratchpad regions and 1,536 to 1,791 accumulator
blocks (R267). -/
structure InFlight where
  id      : Nat
  thread  : Nat
  word    : Word
  pc      : Nat
  issue   : Nat               -- core cycle of issue
  stamp   : Nat               -- time stamp of issue
  due     : Nat               -- core cycle of its count
  late    : Nat               -- cycles by which that lies beyond its published count (R530)
  margin  : Nat               -- SNUFFER margin in force at issue (R603)
  sdst    : Option Nat        -- pending scalar register
  vdst    : Option Nat        -- pending vector register
  reads   : List Nat          -- read set
  writes  : List Nat          -- write set
  line    : Option Nat        -- 64-byte line of a GLD, GST or SIG_ADD (R288)
  mat     : Option MatUse
  answer  : Bool              -- waits for a host or an expander (R601)
  unit    : Nat               -- host port or CXL port of that wait
  effects : List Effect
  run     : Option StreamRun  -- of a MAT_STREAM
deriving DecidableEq, Repr

/-- Tile state beside its scratchpad and accumulator words (which are in memory) and its health registers. -/
structure Tile where
  lastThread : Nat            -- thread that issued last (R18)
  lastIssue  : Option Nat     -- cycle of the last issue
  banks      : List (Nat × Bank)  -- key 2 × array + bank
  current    : Nat            -- bit a: current bank of array a
  nf         : BitVec 256     -- NF bits of the accumulator blocks (R189)
  portFree   : Nat            -- cycle from which the stream port is free (R217)
  ocuFree    : Nat            -- cycle from which the OCU input is free (R232)
  vecFree    : Nat            -- cycle from which the vector input is free (R272)
deriving DecidableEq, Repr

/-- Whose access a waiting request is: nobody's that waits for it, an issued instruction's, a running descriptor's (cluster, channel, its
DMA_SUBMIT), or a running command's (partition, command). -/
inductive Waiter where
  | free | flight (id : Nat) | desc (cl ch id : Nat) | job (p cid : Nat)
deriving DecidableEq, Repr

/-- A request that waits for a position of a GDDR7 channel, or for a slot of a CXL port (R529, R553). -/
structure MemReq where
  place   : Nat               -- channel, or port and direction
  entered : Nat               -- core cycle of entry
  key     : Nat               -- order among the requests of that cycle (R529)
  lines   : Nat               -- 64-byte lines it asks for
  who     : Waiter            -- what waits for it
deriving DecidableEq, Repr

/-- How far a running descriptor is (R312, R314): its steps fall after core cycle `base`. -/
structure DmaRun where
  base  : Nat
  key   : Nat                 -- place of its requests among those of one cycle (R529)
  own   : Waiter              -- what waits for its requests
  pos   : Nat                 -- steps performed
  reads : Nat                 -- reads made, and those and the writes of GDDR7
  gr    : Nat
  gw    : Nat
  list  : List Byte           -- list of a PAGE_WALK, as read
  blk   : List Byte           -- block of a TRANSPOSE that is being read, and the one before it
  last  : List Byte
  memo  : List (Nat × List Byte)  -- pages of a PAGE_WALK that are read once, by page number
  bad   : Bool                -- a step has faulted, or a read has come back with an error: no further step is performed (R315)
  late  : Nat                 -- largest excess wait in a queue (R530, R553)
deriving DecidableEq, Repr

/-- A descriptor queued or running on a cluster DMA channel (R277). -/
structure Desc where
  thread  : Nat
  ifId    : Nat               -- its DMA_SUBMIT
  bytes   : List Byte
  ctx     : Nat
  queued  : Nat               -- earliest start cycle
  running : Bool
  endAt   : Nat
  margin  : Nat
  signal  : Option Nat        -- physical address of the signal word (AUX[2])
  reads   : List Nat          -- read and write set of its DMA_SUBMIT (R268)
  writes  : List Nat
  hap     : Hap               -- what it meets while it runs
  run     : DmaRun
deriving DecidableEq, Repr

/-- A thread to be relaunched by a replay: thread, record, owner and its signal count (R607, R608). -/
structure Relaunch where
  thread : Nat
  record : List Byte
  owner  : Owner
  index  : Nat
  sigs   : Nat
deriving DecidableEq, Repr

/-- The Snuffer's view of one cluster: freeze, reset and replay (R600 to R616). -/
structure Cluster where
  frozenAt  : Option Nat      -- core cycle of the freeze
  cause     : Nat             -- 1 instruction, 2 DMA, 3 frame thread, 5 second mismatch
  repair    : Bool            -- repair mode (R616)
  resetEnd  : Nat             -- core cycle at which the last engine reset ended
  relaunchMark : Nat          -- mark of the next relaunch
  suspects  : List Nat        -- contexts still to be replayed
  current   : Option Nat      -- suspect in replay
  replay    : List Relaunch   -- threads LIVE at the freeze
  sample    : Nat             -- SEQ of the partition's samples after the freeze
  outSlots  : List (Nat × Nat)  -- slots left without a tile, with the physical tile that left
  outOfService : Bool
  channels  : List (Nat × List Desc)
  dmaLast   : Nat                -- DMA channel that made the last step (R36)
  dmaFrom   : Nat                -- core cycle from which the next step can be made (R36)
  freezes   : Nat             -- freezes in the current candle
deriving DecidableEq, Repr

/-! ## Generation -/

/-- A request record of the Stoker (R338). -/
structure Request where
  ctx        : Nat
  cid        : Nat            -- its SEQ_SUBMIT
  part       : Nat
  promptAddr : Nat
  temperature : Nat
  topK       : Nat
  stopEn     : Bool
  stopToken  : Nat
  streamBase : Nat
  entries    : List Nat       -- its table entries, sample order
  promptRes  : Nat            -- prompt pages of its reservation that the unit has still to obtain (R348, R352)
  prefilled  : Nat            -- prompt positions prefilled so far
  placed     : List (Nat × Nat × Nat)  -- ledger: (boundary mark of its frame, first position, length) of chunks to come (R349)
  toPlace    : List (Nat × Nat)        -- chunks that wait for the horizon (R715)
  matched    : Bool           -- prefix matching has run
deriving DecidableEq, Repr

/-- A sequence-table entry (R338) with the Stoker's own notes about the sample. -/
structure Sample where
  state     : Nat
  prev      : Nat             -- state to return to from WAIT_PAGE
  susp      : Nat             -- state to return to from SUSPENDED
  guar      : Bool
  pin       : Bool
  firstDone : Bool
  ttftMiss  : Bool
  priority  : Nat
  part      : Nat
  skipped   : Bool
  skipNext  : Bool            -- left out at the seal, while tokens of an earlier frame wait to be posted (R357, R362)
  gen       : Nat
  ctx       : Nat
  sample    : Nat
  drafts    : Nat
  pending   : Nat
  length    : Nat
  maxLen    : Nat
  promptLen : Nat
  pageList  : Nat
  admitMark : Nat
  ttft      : Nat
  tbt       : Nat
  promise   : Nat             -- PROMISE_OFS
  lastTok   : Nat             -- LAST_TOKEN_OFS
  version   : Nat
  adapter   : Nat
  adapterVer : Nat
  adBlock   : Option Nat      -- adapter block that it pins (R463, R477)
  tbtMiss   : Nat
  waitFrames : Nat
  endStatus : Nat
  reqRec    : Nat
  slot      : Option Nat      -- weight slot it pins (R474)
  tokens    : List (Nat × Nat)  -- tokens known by position, newest first
  draftToks : List Nat
  reserve   : Nat             -- unused pages of its reservation (R352)
  emRes     : Nat             -- ember slots reserved for the frame in progress
  lost      : Nat             -- consecutive frames lost (R364)
  wait      : Nat             -- frames since its last token ember (R358)
  endAs     : Option Nat      -- end status it will enter DONE with
  cancelCid : Option Nat
  doneAt    : Nat             -- mark of entry to DONE
  starve    : Bool            -- it enters WAIT_PAGE at the next boundary
deriving DecidableEq, Repr

/-- One sample's work in a frame (R387). -/
structure Work where
  entry   : Nat
  first   : Nat               -- FIRST_POS
  count   : Nat               -- WRITE_COUNT
  prefill : Bool
  final   : Bool              -- the chunk completes the prompt
  copyFrom : Option (Nat × Nat × Nat)  -- list index, shared page, copy (R389)
  version : Nat
  lost    : Bool
  lostCtx : List Nat          -- contexts in whose address spaces the accesses that lost it lay (R364)
  record  : List Byte         -- its KV work record, written at the seal (R386, R387)
deriving DecidableEq, Repr

/-- A token ember staged by finalisation. -/
structure Staged where
  entry  : Nat
  token  : Nat
  lp     : Nat
  pos    : Nat
  draft  : Bool
  version : Nat
deriving DecidableEq, Repr

/-- A page's metadata record (R380). -/
structure Page where
  refs   : Nat
  fmt    : Nat
  state  : Nat                -- 0 FREE, 1 IN_USE, 2 QUARANTINED
  hashed : Bool
  mixed  : Bool
  owner  : Nat
  fillN  : Nat
  prev   : Nat
  posBase : Nat
  valid  : BitVec 64
  hash   : Word
  polVer : Nat
  adId   : Nat
  adVer  : Nat
  freed  : Nat
  quar   : Nat                -- core cycle of the teardown completion that put it in quarantine (R147)
  tokens : List (Nat × Nat)
  scores : List (Nat × Nat)
deriving DecidableEq, Repr

/-- An adapter version on a partition (R477). State: 0 INSTALLING, 1 CURRENT, 2 RETIRED, 3 in quarantine (R147). -/
structure Adapter where
  ctx   : Nat
  id    : Nat
  ver   : Nat
  block : Nat
  state : Nat
  refs  : Nat
  dtype : Nat
  quar  : Nat                 -- core cycle of the teardown completion that put it in quarantine (R147)
deriving DecidableEq, Repr

/-- A frame schedule (R89): length L, origin O and the builder of FRAME_SET. -/
structure Sched where
  len    : Nat
  origin : Nat
  builder : Nat
deriving DecidableEq, Repr

/-! ## Partitions -/

/-- A command on a partition's command DMA channel (R316). An adapter copy has `adapter` set. -/
structure DmaJob where
  cid     : Nat
  ctx     : Nat
  isFill  : Bool
  adapter : Bool
  src     : Nat               -- virtual address
  dst     : Nat               -- virtual address, or the physical block of an adapter copy
  size    : Nat
  pattern : Nat
  ready   : Nat               -- core cycle of admission + 1,024
  running : Bool
  endAt   : Nat
  hap     : Hap
  run     : DmaRun
deriving DecidableEq, Repr

/-- A line of L2 (R533, R534). -/
structure L2Line where
  line : Nat                  -- offset div 64
  way  : Nat
  use  : Nat                  -- stamp of the last access
deriving DecidableEq, Repr

/-- The part of a partition that its registers do not hold. -/
structure Part where
  pendRole  : Option (Nat × Nat × Nat)   -- accepted PARTITION_ROLE: cid, role, effective mark
  serveAt   : Option (Nat × Nat × Nat)   -- role change in progress: cid, role, mark of service
  resetAt   : Option (Nat × Nat)         -- partition reset triggered: start mark and cause
  resetFrom : Option (Nat × Nat × Nat)   -- partition reset in progress: start mark, cause, role at its start
  resetTrig : Nat                        -- core cycle of the trigger of the last partition reset (R617)
  sched     : Option Sched
  nextSched : Option (Nat × Sched)       -- accepted FRAME_SET: cid and schedule
  laterScheds : List (Nat × Sched)       -- accepted FRAME_SETs with later origins, by origin
  curFrame  : Option Nat                 -- frame whose work list is current
  curWork   : List Work
  sealed    : Option (Nat × List Work)   -- the frozen work list of the next frame, with the boundary mark of that frame
  sealEff   : Nat × Nat × Nat            -- effective budget with which that list was built: positions, samples, page reads (R354)
  idle      : List (Nat × Nat)           -- by context: frames since it last had a sample placed (R358)
  staged    : List Staged                -- tokens finalised and not yet posted
  finalised : Option Nat                 -- mark at which the current frame's finalisation began
  overrun   : Bool
  missed    : Bool                       -- a boundary has passed at which the frame's tokens were not ready (R335)
  kernelUp  : Bool                       -- the kernels of the current frame have been launched (R461)
  curFactor : Nat                        -- factor f in sixteenths of the current frame (R354)
  nextBudget : Option (Nat × Nat)        -- LANTERN_BUDGET and LANTERN_CTRL words in force from the next boundary
  budget    : Nat                        -- LANTERN_BUDGET in force
  ctrl      : Nat                        -- LANTERN_CTRL in force
  pages     : List (Nat × Page)
  lists     : List (Nat × List Nat)      -- page lists by slot
  index     : List (Nat × List (Nat × Nat × Nat))  -- prefix index: bucket to (entry place, page, TAG)
  adapters  : List Adapter
  dma       : List DmaJob
  step      : Option Nat                 -- cid of the step in flight
  ckpt      : List (Nat × Bool)          -- checkpoints whose mark has come: cid, and whether a commit or REVERT followed (R635)
  flueTill  : Nat                        -- latest DEADLINE_MARK of the accepted collectives with a member here (R43)
  poisonIds : List Nat                   -- collectives that a step restarted by R611 still poisons here
  hangMark  : Nat                        -- cutoff of the current frame plus the MARGIN in force at its boundary (R600)
  hist      : List (Nat × List Int)      -- Damper histories, oldest first
  l2        : List L2Line
  tenant    : List MemReq                -- requests that wait in the TENANT queues of its channels (R529)
  agentQ    : Bool                       -- writes of its control core, or of another agent, wait in the queues of their classes (R533)
  cxlQ      : List MemReq                -- lines that wait for its slots of the CXL ports, place 2q + 1 for reads of port q (R553)
  wheel     : Option (Nat × Nat)         -- core cycle from which a changed wheel serves, and first TENANT position before it (R528)
  tempOver  : Nat                        -- consecutive marks above 105.0 °C
  hotDie    : Bool                       -- the partition reset triggered last is that of a junction above 105.0 °C (R675)
  replaySus : List Nat                   -- lantern suspects with a replay frame still to come (R612)
  replayCtx : Option Nat                 -- suspect whose replay frame is sealed or current
  noWorkTill : Nat                       -- marks before which no boundary starts work (R612)
  pendF     : Nat                        -- factor chosen for the next candle (R668)
deriving DecidableEq, Repr

/-! ## Learning -/

/-- A step's header and tables as one partition read them (R416, R417, R422). -/
structure StepView where
  header  : List Byte         -- the 64 bytes of R416; none where they could not be read
  list    : List (Nat × Nat × Nat)  -- collective list: id, READY_TARGET, READY_ADDR
  mainTab : List (List Byte)  -- launch records of the main table
  updTab  : List (List Byte)  -- launch records of the update table
deriving DecidableEq, Repr

/-- A step in flight (R421 to R448): per-partition flags are in HEARTH_STATUS. -/
structure Step where
  cid      : Nat
  ctx      : Nat
  parts    : List Nat
  commit   : Nat              -- COMMIT_MARK
  number   : Nat
  version  : Nat
  views    : List (Nat × StepView)  -- by partition: header and tables as it read them at the step start (R422, R713)
  started  : Bool
  hdrFault : List Nat         -- partitions with a header fault
  threadFault : List Nat      -- partitions with a faulted thread
  mainUp   : Bool
  gate     : List Nat         -- partitions whose update gate opened
  gated    : List Nat         -- partitions whose update gate has been decided (R432)
  updUp    : List Nat         -- partitions whose update-table threads have been launched
  colls    : List (Nat × Nat × Nat × Nat)  -- outcome of listed collectives and vote: (partition, id, status, mark)
  ended    : List (Nat × Nat) -- partitions ended early with a status (R429, R437)
  startAt  : Nat              -- mark of its step start
  frozen   : Bool             -- restored, and waiting for its resume (R631)
  late     : List Nat         -- partitions that send the remaining chunks poisoned (R426, R611)
  allow    : List (Nat × Nat) -- cluster allowance of each partition at the step start (R671)
deriving DecidableEq, Repr

/-! ## Lamplighter -/

/-- A job of the copy engine (R468, R634). -/
structure CopyJob where
  cid   : Nat
  start : Nat
  endAt : Nat
  live  : Bool                -- not abandoned
  variant : Option Nat        -- CXL port whose slots a variant copy takes (R553)
  rate  : Nat                 -- lines per mark (R468)
deriving DecidableEq, Repr

/-! ## Flue -/

/-- A Flue group (R489): its owner, the address of its member list, and the member records as read at the definition. -/
structure Group where
  ctx     : Nat
  list    : Nat
  members : List (Nat × Nat × Int)   -- device, partition, buffer offset in units of 64 B
deriving DecidableEq, Repr

/-- What a local member of a collective has done and received. -/
structure Member where
  p       : Nat
  m       : Nat               -- member index
  begun   : Bool
  view    : List (Nat × Nat × Int)  -- member records as its Flue agent read them at the start
  buf     : List Byte         -- partial sums and pieces received, in the layout of the result
  valid   : List (Nat × Nat)  -- parts of `buf` that hold such bytes, as (offset, length)
  adds    : List (Nat × Nat × List Byte)  -- lines of partial sums received and not yet added, as (place of their chunk in the plan, offset, 64 bytes), in the order of the plan
  sent    : List (Nat × Nat)  -- (chunk index, receiver) sent
  got     : List (Nat × Nat)  -- (chunk index, sender) received
  gotAt   : List (Nat × Nat)  -- step and core cycle of arrival of its last chunk
  nf      : Bool
  poison  : Bool
  nfMark  : Bool              -- NF_RAISE of its step has been seen nonzero: its chunks carry NF from then on
  poisonMark : Bool           -- the same for FAULT of its step and POISON
  poisonFwd : Bool            -- the first poison has been forwarded
  tombFwd : Bool              -- the first tombstone has been forwarded
  stopped : Bool
  doneAt  : Nat               -- core cycle of the last local result write, once all chunks have come
  outcome : Option Nat
  outMark : Option Nat        -- mark at which the outcome counts; none before the reset or teardown that made it ends
  recorded : Bool             -- the outcome stands in FLUE_STATUS and in the step
  named   : Option Nat        -- missing member or tombstone sender
  lag     : List (Nat × Nat)  -- sender and largest lateness
  stalls  : List (Nat × Nat × Nat)  -- (sender, chunk, blamed) of received stall notices
  stalled : List (Nat × Nat)  -- (chunk, receiver) for which a stall notice was sent
  arrived : Nat               -- units added to the arrival word
  arrSteps : List Nat         -- steps already counted
deriving DecidableEq, Repr

/-- An accepted, incomplete collective. -/
structure Coll where
  cid     : Nat
  id      : Nat
  group   : Nat
  op      : Nat
  dtype   : Nat
  src     : Nat
  dst     : Nat
  size    : Nat
  chunk   : Nat
  root    : Nat
  start   : Nat
  deadline : Nat
  plan    : Nat               -- plan code of R494
  done    : Nat               -- completion mark C of R502
  begunAt : Nat               -- core cycle 0 of its start mark
  locals  : List Member
deriving DecidableEq, Repr

/-! ## Links and ports -/

/-- Flow control of one virtual channel of a port (R571): sender and receiver counts modulo 2^16. -/
structure Credit where
  adv   : Nat
  sent  : Nat
  ret   : Nat
  freed : Nat
  seqIn : Nat                 -- SEQ expected next
deriving DecidableEq, Repr

/-- A message queued for a link port: its channel, TYPE and destination (R567), the Flue-mode port whose buffers hold it (8 for
a message that this device creates, 9 for one that holds no such buffer), the payloads of the flits not yet sent, whether a flit
of it has been sent, and whether its last flit is there. -/
structure TxMsg where
  vc     : Nat
  ty     : Nat
  dev    : Nat
  part   : Nat
  origin : Nat
  flits  : List (List Byte)
  begun  : Bool
  closed : Bool
deriving DecidableEq, Repr

/-- The part of a link port that its registers do not hold. -/
structure Link where
  vc2      : Credit
  vc3      : Credit
  retrainMark : Option Nat    -- mark at which a retraining starts
  retrainFrom : Option Nat    -- core cycle of the mark at which it started
  byWrite  : Bool             -- begun by a RETRAIN write or by ENABLE
  needWrite : Bool            -- a DEGRADED port returns to UP only through a RETRAIN write (R585)
  lastTx   : Nat              -- TX_STAMP of the last beacon received, and its arrival stamp
  lastRx   : Nat
  heard    : Bool
  sentBeacon : Nat            -- mark of the last beacon sent plus 1
  msg2     : List Byte        -- message being received on VC2
  msg3     : List Byte
  drop2    : Bool             -- the rest of the message on VC2 is discarded (R572)
  drop3    : Bool
  fwd2     : Option Nat       -- port on which the message on VC2 goes on (R575)
  fwd3     : Option Nat
  part2    : Nat              -- partition that the message on VC2 is for
  part3    : Nat
  txq      : List TxMsg       -- messages queued for the port
  ret3     : Bool             -- RET_VC of the next flit is 3 (R571)
  idle3    : Bool             -- the next IDLE flit names VC3 (R572)
  flitAt   : Option Nat       -- core cycle of the last flit of a message sent
  failed   : Nat              -- lanes whose failure makes the port retrain, as a mask
  badWords : Nat × Nat        -- mark, and uncorrectable codewords in it (R581)
  ethOut   : List (Nat × Nat × Nat)   -- (destination, VC, next MSG_SEQ) of the datagrams sent (R589)
  pause2   : Nat              -- interfaces whose priority of VC2 is paused, as a mask of halves (R588)
  pause3   : Nat              -- the same for VC3
  ethSeq   : List (Nat × Nat × Nat)   -- (source, VC, next MSG_SEQ)
  ethMsg   : List (Nat × Nat × List Byte)  -- message under reassembly by source and VC
deriving DecidableEq, Repr

/-- A host port beside HOST_PORT_STATUS: PCI functions, MSI-X pending bits and the DOE mailbox. -/
structure HostPort where
  vfs      : Nat              -- TotalVFs
  barLog2  : Nat              -- log2 of the BAR4 size
  unmasked : List Nat         -- 4096 × function + vector of the vectors whose MSI-X mask bit is 0 (none after a PCIe reset)
  pend     : List (Nat × Nat) -- pending bits
  table    : List (Nat × Word32)   -- MSI-X table words, by 2^20 × function + offset
  config   : List (Nat × Word32)   -- configuration dwords written, by 4096 × function + offset
  aer      : Nat              -- AER uncorrectable error status of the PF
  due      : List (Nat × Nat) -- function and vector of the interrupts to be signalled in the next core cycle (R118, R703)
  doeBuf   : List Word32      -- dwords written to the DOE mailbox
  doeOut   : List Word32      -- dwords of a response that wait to be read
  doeAt    : Nat              -- core cycle in which the last of them was written
  doeReq   : Option (Nat × List Byte)   -- core cycle of the due response, and the response
  doeState : Nat              -- 0 before GET_VERSION, 1 version, 2 capabilities, 3 algorithms
deriving DecidableEq, Repr

/-! ## The board -/

/-- Boot, identity, power, temperature, I3C and JTAG beside their registers. -/
structure Board where
  powered   : Bool            -- the first conversion stage is on
  pwrgood   : Bool
  inReset   : Bool            -- in reset with all state lost (R662)
  chipTrig  : Option Nat      -- mark at which a triggered chip reset starts
  chipFrom  : Option Nat      -- core cycle of the fault that triggered it (R617)
  chipDeaf  : Bool            -- that fault takes the management core or the paths to the rings away (R619)
  byReset   : Bool            -- the present start-up was begun by a chip reset (R644)
  fatal     : Bool            -- FATAL# asserted
  dead      : Bool            -- the device takes no further action (R676)
  strapI3c  : Nat             -- low bits of the I3C static address
  testMode  : Bool            -- the TEST_MODE strap was sampled high: the device stays in reset (R684)
  flashTri  : Bool            -- the flash pins are tri-stated (R647, R662)
  flash     : List (Nat × Byte)   -- contents of the external flash; unlisted bytes are 0xFF (erased)
  flashBytes : Nat            -- FLASH_BYTES
  sectorMarks : Nat
  flashWork : Option (Nat × List Byte)  -- running FLASH_WRITE: cid and the data read
  config    : List Byte       -- applied configuration block, header and payload
  image     : List Byte       -- running image, header and payload
  ownerBlk  : List Byte       -- owner key block
  chain     : List Byte       -- certificate chain region as read at boot (R652)
  helper    : List Byte       -- PUF helper data as read at boot (R650)
  sfdp      : Bool            -- the flash answered SFDP (R645)
  staging   : List (Nat × Byte)   -- staging window (R647)
  goAt      : Option Nat      -- core cycle of GO
  ramOk     : Bool            -- the staged objects were accepted
  idKey     : Option Nat      -- private key d, held by the identity engine
  signs     : Nat             -- signatures made
  rails     : BitVec 8        -- GDDR7 rails that are on
  dueOn     : List (Nat × Nat)    -- switch-ons due: core cycle at which each fell due, and domain number, or 200 + p for a GDDR7 rail
  lastOn    : Option Nat      -- core cycle of the mark of the last switch-on
  powerWin  : List (Nat × Nat)    -- input voltage in mV and current in mA of the last 65,536 marks, newest first (R668)
  vinOut    : Nat             -- consecutive marks with the input outside 30 to 42 V (R660)
  curOver   : Nat             -- consecutive marks with an input current above 120 A (R660)
  ioOver    : List (Nat × Nat)    -- consecutive marks above 105.0 °C of the I/O dies
  critical  : List (Nat × Nat)    -- consecutive marks above 115.0 °C by sensor
  capBudget : Bool            -- a factor was chosen for this candle
  capAt     : Option Nat      -- core cycle of the last I3C write to PWR_CAP (R669)
  capPend   : List (Nat × Nat)    -- port and value of the PF writes to PWR_CAP of the present core cycle, which an I3C write of the cycle discards (R669)
  dynAddr   : Option Nat      -- I3C dynamic address
  ibiOn     : Bool            -- in-band interrupts enabled
  treadAt   : Nat             -- core cycle of the pending TREAD
  treadData : Option (List Byte)
  jtagIr    : Nat             -- 0 BYPASS, 1 IDCODE, 2 SAMPLE/PRELOAD, 3 EXTEST, 4 HIGHZ, 5 CLAMP
  jtagDr    : List Bool       -- selected data register
  scan      : List Bool       -- boundary-scan register, one cell per sideband and flash pin (R681, R685)
  pinsDriven : Option (List Bool)  -- pins held by EXTEST or CLAMP
  tristate  : Bool            -- HIGHZ
deriving DecidableEq, Repr

/-- What the device sends out: MSI-X messages, read data, link messages and the like. -/
inductive Output where
  | msix (port fn vector : Nat)
  | readData (port fn bar off : Nat) (v : Nat)
  | readAbort (port fn bar off : Nat)         -- Completer Abort (R688)
  | readUr (port fn bar off : Nat)            -- Unsupported Request: the function takes no memory request (R556)
  | bar4Data (port off : Nat) (data : List Byte)
  | bar4Ur (port off : Nat)
  | crs (port fn off : Nat)                   -- Configuration Request Retry Status
  | cfgUr (port fn off : Nat)                 -- Unsupported Request: no such function (R556)
  | cfgData (port fn off : Nat) (v : Word32)
  | flit (k : Nat) (bytes : List Byte)        -- a flit of R567 on port k
  | datagram (k half src dst vlan pcp addr port : Nat) (data : List Byte)  -- a UDP datagram from one MAC to another with a VLAN tag (R588, R589)
  | meshMsg (p vc : Nat) (msg : List Byte)    -- a message delivered to the Flue agent of p
  | delayReq (k seq : Nat)
  | doe (port : Nat) (msg : List Byte)
  | ibi
  | i3cData (data : List Byte)
  | i3cNack
  | tdo (data : List Bool)
  | hostWrite (port fn addr : Nat) (data : List Byte)   -- a write to a host, as function fn (R55)
  | hostRead (port fn addr len : Nat)         -- a read of a host's memory, as function fn (R55)
  | flashOp (addr len : Nat)
  | flReset                                   -- a pulse on FL_RESET# (R644)
deriving DecidableEq, Repr

/-! ## The machine -/

/-- The machine: everything the manual gives the block, and the queue of waiting commands. -/
structure State where
  pending  : List Instr
  time     : TimeBase
  regs     : List (Nat × Word)          -- register file, by BAR0 offset
  mem      : Memory
  ctxs     : List (Nat × CtxRun)
  cmds     : List Cmd                   -- every presented and unposted command, in order of presentation
  nextCid  : Nat
  xlat     : List Xlat                  -- translation store (R543)
  loads    : List PtLoad
  parts    : List (Nat × Part)
  clusters : List (Nat × Cluster)
  tiles    : List (Nat × Tile)
  threads  : List (Nat × Thread)
  inflight : List InFlight              -- in order of issue
  nextIf   : Nat
  table    : List (Nat × Sample)        -- sequence table
  reqs     : List (Nat × Request)
  steps    : List Step
  jobs     : List CopyJob               -- copy-engine jobs in order of admission
  groups   : List (Nat × Group)
  colls    : List Coll
  links    : List (Nat × Link)
  hosts    : List (Nat × HostPort)
  soot     : List (List Byte)           -- on-die soot buffer, oldest first (R595)
  board    : Board
  outbox   : List Output                -- newest first
  free     : Nat                        -- free values drawn (the model's own counter)
deriving DecidableEq, Repr

/-! ## Reset -/

/-- Device time at mark 0 of start-up (R65): counters 0, state UNSET. -/
def TimeBase.reset : TimeBase :=
  { cycle := 0, mark := 0, cyc := 0, hold := 0, stall := 0, synced := false, boundary := false, lastD := 0,
    pulses := [], badPrev := false, badLast := false, candleBad := false, stepIn := none, pulseGood := false, relock :=
    false, holdSince := 0, setM := none,
    beacons := [], ptpSync := none, latchTime := [], latchMark := [] }

/-- Board state at mark 0 of start-up with the straps low and an erased flash (assumption 5). -/
def Board.reset : Board :=
  { powered := true, pwrgood := true, inReset := false, chipTrig := none, chipFrom := none, chipDeaf := false, byReset := false, fatal := false,
    dead := false, strapI3c := 0, testMode := false, flashTri := false, flash := [], flashBytes := 0, sectorMarks := 1, flashWork := none, config := [],
    image := [], ownerBlk := [], chain := [], helper := [], sfdp := false, staging := [], goAt := none, ramOk := false, idKey
    := none, signs := 0,
    rails := 0, dueOn := [], lastOn := none, powerWin := [], vinOut := 0, curOver := 0,
    ioOver := [], critical := [], capBudget := false, capAt := none, capPend := [], dynAddr := none, ibiOn := false, treadAt := 0,
    treadData := none, jtagIr := 1, jtagDr := [], scan := List.replicate 28 false, pinsDriven := none, tristate := false }

/-- The machine right after reset: mark 0 of start-up, every register at its reset value, every context FREE and
unowned, every partition Off, time state UNSET (R41, R65, R105, R619, R694). -/
def State.reset : State :=
  { pending := [], time := TimeBase.reset, regs := [], mem := { cells := [], undef := [] }, ctxs := [], cmds := [],
    nextCid := 0, xlat := [], loads := [], parts := [], clusters := [], tiles := [], threads := [], inflight := [],
    nextIf := 0, table := [], reqs := [], steps := [], jobs := [], groups := [], colls := [], links := [],
    hosts := [], soot := [], board := Board.reset, outbox := [], free := 0 }

end Sys2Proof.Machine
end

