-- ==== Sys2Proof/Machine/Mem.lean ====
section
/-!
DEFINITION. Mem.lean: the byte map of the device physical space (R52): reading and writing single bytes and runs,
the canonical form, and ranges whose contents an event leaves undefined (R539).
-/
namespace Sys2Proof.Machine
open Sys2Proof.Config

/-- The fill that covers address `a`, if one does; the newest is listed first. -/
def undefAt : List (Nat × Nat × Fill) → Nat → Option Fill
  | [], _ => none
  | (b, n, ev) :: r, a => if b ≤ a ∧ a < b + n then some ev else undefAt r a

/-- The known byte that an address without an entry reads as; none where an event left it undefined. -/
def blankOf (u : List (Nat × Nat × Fill)) (a : Nat) : Option Byte :=
  match undefAt u a with
  | some (.free _) => none
  | some .ones => some 0xFF
  | none => some 0

/-- What an address without an entry reads as: the free byte of the event that left it undefined, all ones in a range so filled,
else 0 (assumption 1). -/
def Memory.unlisted (m : Memory) (a : Nat) : Byte :=
  match undefAt m.undef a with
  | some (.free ev) => undefByte ev a
  | some .ones => 0xFF
  | none => 0

/-- The listed byte at address `a`. -/
def clook : List Host.Cell → Nat → Option Byte
  | [], _ => none
  | (k, b) :: r, a => if k < a then clook r a else if k = a then some b else none

/-- Entry (a, b) put into a rising list. -/
def cput : List Host.Cell → Nat → Byte → List Host.Cell
  | [], a, b => [(a, b)]
  | (k, c) :: r, a, b => if k < a then (k, c) :: cput r a b else if k = a then (a, b) :: r else (a, b) :: (k, c) :: r

/-- Entry of address `a` taken out of a rising list. -/
def cdel : List Host.Cell → Nat → List Host.Cell
  | [], _ => []
  | (k, c) :: r, a => if k < a then (k, c) :: cdel r a else if k = a then r else (k, c) :: r

/-- The byte at address `a`. -/
def Memory.read (m : Memory) (a : Nat) : Byte :=
  match clook m.cells a with
  | some b => b
  | none => m.unlisted a

/-- The memory with byte `b` at address `a`, canonical form kept: a byte that the address reads as unlisted is not listed. -/
def Memory.write (m : Memory) (a : Nat) (b : Byte) : Memory :=
  if blankOf m.undef a = some b then { m with cells := cdel m.cells a }
  else { m with cells := cput m.cells a b }

/-- Successive bytes from address `a`. -/
def Memory.readN (m : Memory) (a : Nat) : Nat → List Byte
  | 0 => []
  | n + 1 => m.read a :: m.readN (a + 1) n

/-- Successive bytes written from address `a`. -/
def Memory.writeN (m : Memory) (a : Nat) : List Byte → Memory
  | [] => m
  | b :: bs => (m.write a b).writeN (a + 1) bs

/-- The memory whose bytes [base, base + n) read as a fill until they are written. -/
def Memory.fill (m : Memory) (base n : Nat) (f : Fill) : Memory :=
  { cells := m.cells.filter fun c => !decide (base ≤ c.1 ∧ c.1 < base + n),
    undef := (base, n, f) :: m.undef.filter fun u => !decide (base ≤ u.1 ∧ u.1 + u.2.1 ≤ base + n) }

/-- The memory whose bytes [base, base + n) event `ev` leaves undefined (R539, R223, R95). -/
def Memory.undefine (m : Memory) (base n ev : Nat) : Memory := m.fill base n (.free ev)

/-- Addresses strictly rising from `lo`, and no entry equal to what its address reads as unlisted. -/
def cellsOk (u : List (Nat × Nat × Fill)) : Nat → List Host.Cell → Bool
  | _, [] => true
  | lo, (k, b) :: r => decide (lo ≤ k) && !decide (blankOf u k = some b) && cellsOk u (k + 1) r

/-- The canonical form of the memory. -/
def Memory.wf (m : Memory) : Bool := cellsOk m.undef 0 m.cells

end Sys2Proof.Machine
end

