-- ==== Sys2Proof/Machine/Tbl.lean ====
section
/-!
DEFINITION. Tbl.lean: tables of indexed values as sorted lists of (index, value) pairs in one canonical form: indexes
strictly rising, and no entry equal to the value `d` that an unlisted index has.
-/
namespace Sys2Proof.Machine

/-- Value at index `k`; `d` where `k` is not listed. -/
def tget {α : Type} (d : α) : List (Nat × α) → Nat → α
  | [], _ => d
  | (i, v) :: r, k => if i < k then tget d r k else if i = k then v else d

/-- Table with `v` at index `k`, canonical form kept. -/
def tset {α : Type} [DecidableEq α] (d : α) : List (Nat × α) → Nat → α → List (Nat × α)
  | [], k, v => if v = d then [] else [(k, v)]
  | (i, w) :: r, k, v =>
    if i < k then (i, w) :: tset d r k v
    else if i = k then (if v = d then r else (k, v) :: r)
    else (if v = d then (i, w) :: r else (k, v) :: (i, w) :: r)

/-- The canonical form: every index is at least `lo`, indexes strictly rise, no value is `d`. -/
def twfFrom {α : Type} [DecidableEq α] (d : α) : Nat → List (Nat × α) → Bool
  | _, [] => true
  | lo, (i, v) :: r => decide (lo ≤ i) && (!decide (v = d)) && twfFrom d (i + 1) r

/-- The canonical form of a table. -/
def twf {α : Type} [DecidableEq α] (d : α) (t : List (Nat × α)) : Bool := twfFrom d 0 t

/-- Entries whose index lies in [lo, lo + n). -/
def tslice {α : Type} (t : List (Nat × α)) (lo n : Nat) : List (Nat × α) :=
  t.filter fun e => decide (lo ≤ e.1 ∧ e.1 < lo + n)

/-- Table without the entries in [lo, lo + n). -/
def tclear {α : Type} (t : List (Nat × α)) (lo n : Nat) : List (Nat × α) :=
  t.filter fun e => !decide (lo ≤ e.1 ∧ e.1 < lo + n)

/-- Apply `f` to the first element that satisfies `p`. -/
def updFirst {α : Type} (p : α → Bool) (f : α → α) : List α → List α
  | [] => []
  | a :: r => if p a then f a :: r else a :: updFirst p f r

/-- Least element of a list of numbers, or `d` for the empty list. -/
def minOf (d : Nat) (l : List Nat) : Nat :=
  match l with
  | [] => d
  | a :: r => r.foldl Nat.min a

/-- Largest element of a list of numbers, or 0 for the empty list. -/
def maxOf (l : List Nat) : Nat := l.foldl Nat.max 0

/-- Sum of a list of numbers. -/
def sumOf (l : List Nat) : Nat := l.foldl (· + ·) 0

/-- Insertion into a list ordered by `le`. -/
def insertBy {α : Type} (le : α → α → Bool) (a : α) : List α → List α
  | [] => [a]
  | b :: r => if le a b then a :: b :: r else b :: insertBy le a r

/-- Stable sort by `le`. -/
def sortBy {α : Type} (le : α → α → Bool) (l : List α) : List α := l.foldr (insertBy le) []

/-- The list without repeats, first occurrences kept. -/
def dedup (l : List Nat) : List Nat := l.foldl (fun acc a => if acc.contains a then acc else acc ++ [a]) []

end Sys2Proof.Machine
end

