-- ==== Sys2Proof/Machine/Regs.lean ====
section
/-!
DEFINITION. Regs.lean: the register map (R688 to R710 and the register tables of the chapters): reset values, named
fields at their BAR0 offsets, and the writable and write-1-to-clear bits of every register.
-/
namespace Sys2Proof.Machine
open Sys2Proof.Config

/-! ## Reset values -/

/-- Context number and record offset of a context-table offset (R695, R704). -/
def ctxOff (off : Nat) : Option (Nat × Nat) :=
  if 0x100000 ≤ off ∧ off < 0x180000 then some ((off - 0x100000) / 0x80, (off - 0x100000) % 0x80) else none

/-- Partition number and block offset of a partition-block offset (R695, R707). -/
def partOff (off : Nat) : Option (Nat × Nat) :=
  if 0x1000000 ≤ off ∧ off < 0x1800000 then some ((off - 0x1000000) / 0x100000, (off - 0x1000000) % 0x100000) else none

/-- Reset value of a context register (R104, R385, R704, R706). -/
def ctxReset (n o : Nat) : Nat :=
  if o = 0x00 then (if n = 0 then 0x8000 else if n = 1 then 0x8100 else 0)
  else if o = 0x04 then (if n < 2 then 7 else 0)
  else if o = 0x30 then 16
  else if o = 0x40 then 16 * 2 ^ 8 + 4 * 2 ^ 32 + 1 * 2 ^ 40 + 240 * 2 ^ 48
  else 0

/-- Reset value of a partition register (R247, R353, R371, R456, R536, R603). -/
def partReset (o : Nat) : Nat :=
  if o = 0x000 then 9 + 0xFFFF * 2 ^ 16
  else if o = 0x008 then 2 ^ 64 - 1
  else if o = 0x100 then 191 * 2 ^ 56
  else if o = 0x108 then 1024
  else if o = 0x208 then 12 * 2 ^ 50
  else if o = 0x708 then 1 * 2 ^ 28
  else if o = 0x710 then 8
  else if o = 0x900 then 16
  else if 0x10000 ≤ o ∧ o < 0x12000 ∧ o % 16 = 4 then 15 + 8 * 2 ^ 8 + 8 * 2 ^ 16 + 3 * 2 ^ 24
  else 0

/-- Reset value of the register at a BAR0 offset; 0 where its table gives 0 or no register is assigned (R691). -/
def regReset (off : Nat) : Word :=
  BitVec.ofNat 64 (
    match ctxOff off with
    | some (n, o) => ctxReset n o
    | none =>
    match partOff off with
    | some (_, o) => partReset o
    | none =>
    if off = 0x000 then 0x1D7A + 0x8840 * 2 ^ 16
    else if off = 0x004 then 0x11
    else if off = 0x020 then 2800 + 0xFF * 2 ^ 20
    else if 0x040 ≤ off ∧ off < 0x060 then 16 + 4 * 2 ^ 8
    else if off = 0x088 then 95 + 90 * 2 ^ 8
    else if off = 0x404 then 4
    else if 0x2000 ≤ off ∧ off < 0x2400 then 0x1FF + 8 * 2 ^ 9 + 0x76543210 * 2 ^ 32
    else if off = 0x810008 then 768 + 400 * 2 ^ 16 + 2048 * 2 ^ 32 + 240 * 2 ^ 48
    else if off = 0x810010 then 4096 + 262144 * 2 ^ 24
    else if off = 0x841008 then 0x4D5A + 3 * 2 ^ 44 + 5 * 2 ^ 47
    else 0)

/-! ## Access -/

/-- A register field: its register's BAR0 offset, its lowest bit and its width (R9). -/
structure Fld where
  off : Nat
  lo  : Nat
  w   : Nat
deriving DecidableEq, Repr

/-- The register word at a BAR0 offset. -/
def State.reg (s : State) (off : Nat) : Word := tget (regReset off) s.regs off

/-- The state with a register word replaced. -/
def State.setReg (s : State) (off : Nat) (v : Word) : State :=
  { s with regs := tset (regReset off) s.regs off v }

/-- Word `v` with the field (lo, w) replaced by `x`. -/
def putBits (v : Word) (lo w x : Nat) : Word :=
  let m : Word := BitVec.ofNat 64 ((2 ^ w - 1) * 2 ^ lo)
  (v &&& ~~~m) ||| (BitVec.ofNat 64 (x % 2 ^ w * 2 ^ lo))

/-- The value of a register field. -/
def State.fld (s : State) (f : Fld) : Nat := bits (s.reg f.off).toNat f.lo f.w

/-- A one-bit field as a Bool. -/
def State.flag (s : State) (f : Fld) : Bool := s.fld f != 0

/-- The state with a register field replaced. -/
def State.setFld (s : State) (f : Fld) (x : Nat) : State := s.setReg f.off (putBits (s.reg f.off) f.lo f.w x)

/-- Every register in [lo, lo + n) back at its reset value (R694). -/
def State.resetRegs (s : State) (lo n : Nat) : State := { s with regs := tclear s.regs lo n }

/-! ## Named fields -/

namespace F
-- Boot and board (R648, R667, R673, R696)
def bootStatus : Nat := 0x010
def stage : Fld := ⟨0x010, 0, 3⟩
def path : Fld := ⟨0x010, 3, 1⟩
def imgKey : Fld := ⟨0x010, 4, 1⟩
def cfgKey : Fld := ⟨0x010, 5, 1⟩
def ownerKeyEn : Fld := ⟨0x010, 6, 1⟩
def forceRecovery : Fld := ⟨0x010, 7, 1⟩
def idOk : Fld := ⟨0x010, 8, 1⟩
def locked : Fld := ⟨0x010, 9, 1⟩
def flashReleased : Fld := ⟨0x010, 10, 1⟩
def flashBusy : Fld := ⟨0x010, 11, 1⟩
def failCode : Fld := ⟨0x010, 16, 8⟩
def imgSvn : Fld := ⟨0x010, 32, 32⟩
def deviceUid : Fld := ⟨0x008, 0, 64⟩
def capW : Fld := ⟨0x020, 0, 12⟩
def capMask : Fld := ⟨0x020, 20, 8⟩
def pAvg : Fld := ⟨0x024, 0, 16⟩
def vinAvg : Fld := ⟨0x024, 16, 12⟩
def pwrCfgErr : Fld := ⟨0x024, 28, 1⟩
def overCap : Fld := ⟨0x024, 29, 1⟩
def vinRange : Fld := ⟨0x024, 30, 1⟩
def factor (p : Nat) : Fld := ⟨0x040 + 4 * p, 0, 5⟩
def fmin (p : Nat) : Fld := ⟨0x040 + 4 * p, 8, 5⟩
def thermJ (u : Nat) : Fld := ⟨0x060 + 4 * u, 0, 12⟩
def warnJ : Fld := ⟨0x088, 0, 8⟩
def warnM : Fld := ⟨0x088, 8, 8⟩
def alert : Fld := ⟨0x088, 16, 1⟩
def thermMem (p d : Nat) : Fld := ⟨0x0A0 + 4 * (6 * p + d), 0, 12⟩
def sootBuffered : Fld := ⟨0x160, 0, 9⟩
def sootCfgErr : Fld := ⟨0x160, 10, 1⟩
def sootDropped : Fld := ⟨0x160, 32, 32⟩
def sootSizeLog2 : Fld := ⟨0x740, 0, 5⟩
def sootBase : Fld := ⟨0x740, 12, 36⟩
def sootHead : Fld := ⟨0x748, 0, 20⟩
def sootTail : Fld := ⟨0x74C, 0, 20⟩
def sampleEn (p : Nat) : Fld := ⟨0x780 + 8 * p, 0, 1⟩
def sampleBase (p : Nat) : Fld := ⟨0x780 + 8 * p, 1, 14⟩
def sampleSeq (p : Nat) : Fld := ⟨0x780 + 8 * p, 32, 32⟩
def handoverCandles : Fld := ⟨0x404, 0, 8⟩
def hostWinBase (n : Nat) : Fld := ⟨0x410 + 8 * n, 12, 52⟩
def hostBar4Base (n : Nat) : Fld := ⟨0x420 + 8 * n, 28, 20⟩
def domainWord (i : Nat) : Fld := ⟨0x700 + 4 * i, 0, 32⟩
-- Host ports (R563, R701)
def hUp (n : Nat) : Fld := ⟨0x430 + 8 * n, 0, 1⟩
def hRate (n : Nat) : Fld := ⟨0x430 + 8 * n, 1, 3⟩
def hWidth (n : Nat) : Fld := ⟨0x430 + 8 * n, 4, 5⟩
def hFlit (n : Nat) : Fld := ⟨0x430 + 8 * n, 9, 1⟩
def hPerst (n : Nat) : Fld := ⟨0x430 + 8 * n, 10, 1⟩
def hDegraded (n : Nat) : Fld := ⟨0x430 + 8 * n, 11, 1⟩
def hCplErr (n : Nat) : Fld := ⟨0x430 + 8 * n, 12, 1⟩
def hBar4Err (n : Nat) : Fld := ⟨0x430 + 8 * n, 13, 1⟩
def hDownCandles (n : Nat) : Fld := ⟨0x430 + 8 * n, 16, 8⟩
def hNumVfs (n : Nat) : Fld := ⟨0x430 + 8 * n, 32, 8⟩
def evtCause (n : Nat) : Fld := ⟨0x800 + 8 * n, 0, 16⟩
def evtEn (n : Nat) : Fld := ⟨0x810 + 8 * n, 0, 16⟩
-- Time (R698)
def tState : Fld := ⟨0x510, 0, 2⟩
def markrefLock : Fld := ⟨0x510, 2, 1⟩
def timeHoldover : Fld := ⟨0x510, 3, 1⟩
def alignWarn : Fld := ⟨0x510, 4, 1⟩
def noUpstream : Fld := ⟨0x510, 5, 1⟩
def stateEvt : Fld := ⟨0x510, 6, 1⟩
def timeStep : Fld := ⟨0x510, 8, 8⟩
def syncSlip : Fld := ⟨0x510, 16, 8⟩
def syncMiss : Fld := ⟨0x510, 24, 8⟩
def podOffset : Fld := ⟨0x510, 32, 16⟩
def trim : Fld := ⟨0x518, 0, 16⟩
def upPort : Fld := ⟨0x51C, 0, 3⟩
def upHalf : Fld := ⟨0x51C, 3, 1⟩
def upValid : Fld := ⟨0x51C, 4, 1⟩
def ptpEpoch : Fld := ⟨0x520, 0, 64⟩
-- Partition status and tile health (R699)
def role (p : Nat) : Fld := ⟨0x600 + 8 * p, 0, 2⟩
def inService (p : Nat) : Fld := ⟨0x600 + 8 * p, 2, 1⟩
def pending (p : Nat) : Fld := ⟨0x600 + 8 * p, 3, 1⟩
def pendingRole (p : Nat) : Fld := ⟨0x600 + 8 * p, 4, 2⟩
def inReset (p : Nat) : Fld := ⟨0x600 + 8 * p, 6, 1⟩
def resetEvt (p : Nat) : Fld := ⟨0x600 + 8 * p, 7, 1⟩
def clustersIn (p : Nat) : Fld := ⟨0x600 + 8 * p, 8, 16⟩
def effectiveLo (p : Nat) : Fld := ⟨0x600 + 8 * p, 32, 32⟩
def healthy (cl : Nat) : Fld := ⟨0x2000 + 8 * cl, 0, 9⟩
def spare (cl : Nat) : Fld := ⟨0x2000 + 8 * cl, 9, 4⟩
def slotMap (cl j : Nat) : Fld := ⟨0x2000 + 8 * cl, 32 + 4 * j, 4⟩
def errFirst (cl k : Nat) : Fld := ⟨0x4000 + 64 * cl + 4 * k, 0, 16⟩
def errSecond (cl k : Nat) : Fld := ⟨0x4000 + 64 * cl + 4 * k, 16, 8⟩
-- Context table (R704, R542, R353, R385)
def ctxRec (n : Nat) : Nat := 0x100000 + 0x80 * n
def cFunc (n : Nat) : Fld := ⟨ctxRec n, 0, 8⟩
def cPort (n : Nat) : Fld := ⟨ctxRec n, 8, 1⟩
def cOwned (n : Nat) : Fld := ⟨ctxRec n, 15, 1⟩
def cGen (n : Nat) : Fld := ⟨ctxRec n + 4, 0, 1⟩
def cLearn (n : Nat) : Fld := ⟨ctxRec n + 4, 1, 1⟩
def cDma (n : Nat) : Fld := ⟨ctxRec n + 4, 2, 1⟩
def cState (n : Nat) : Fld := ⟨ctxRec n + 0xC, 0, 3⟩
def cResetting (n : Nat) : Fld := ⟨ctxRec n + 0xC, 3, 1⟩
def cConfigErr (n : Nat) : Fld := ⟨ctxRec n + 0xC, 4, 1⟩
def cFaultStatus (n : Nat) : Fld := ⟨ctxRec n + 0xC, 8, 8⟩
/-- Ring i of context n: 0 submission, 1 completion, 2 ember. -/
def ringLog2 (n i : Nat) : Fld := ⟨ctxRec n + 0x10 + 8 * i, 0, 5⟩
def ringBase (n i : Nat) : Fld := ⟨ctxRec n + 0x10 + 8 * i, 12, 36⟩
def ptValid (n : Nat) : Fld := ⟨ctxRec n + 0x28, 0, 1⟩
def tclass (n : Nat) : Fld := ⟨ctxRec n + 0x28, 1, 2⟩
def ptRoot (n : Nat) : Fld := ⟨ctxRec n + 0x28, 21, 27⟩
def cVector (n : Nat) : Fld := ⟨ctxRec n + 0x30, 0, 11⟩
def mmuLoading (n : Nat) : Fld := ⟨ctxRec n + 0x34, 0, 1⟩
def mmuLoaded (n : Nat) : Fld := ⟨ctxRec n + 0x34, 1, 1⟩
def mmuPtErr (n : Nat) : Fld := ⟨ctxRec n + 0x34, 2, 1⟩
def mmuPtFull (n : Nat) : Fld := ⟨ctxRec n + 0x34, 3, 1⟩
def mmuEntries (n : Nat) : Fld := ⟨ctxRec n + 0x34, 4, 19⟩
def seed (n : Nat) : Fld := ⟨ctxRec n + 0x38, 0, 64⟩
def servePolicy (n : Nat) : Nat := ctxRec n + 0x40
def pinPerSeq (n : Nat) : Fld := ⟨servePolicy n, 0, 1⟩
def selfEvict (n : Nat) : Fld := ⟨servePolicy n, 1, 1⟩
def waitLimit (n : Nat) : Fld := ⟨servePolicy n, 8, 8⟩
def seqQuota (n : Nat) : Fld := ⟨servePolicy n, 16, 16⟩
def sinks (n : Nat) : Fld := ⟨servePolicy n, 32, 8⟩
def recent (n : Nat) : Fld := ⟨servePolicy n, 40, 8⟩
def decay (n : Nat) : Fld := ⟨servePolicy n, 48, 8⟩
def keep (n : Nat) : Fld := ⟨servePolicy n, 56, 4⟩
def prefixEn (n : Nat) : Fld := ⟨servePolicy n, 60, 1⟩
def staleReuse (n : Nat) : Fld := ⟨servePolicy n, 61, 1⟩
-- Partition blocks (R707)
def pb (p o : Nat) : Nat := 0x1000000 + 0x100000 * p + o
def fluePos (p : Nat) : Fld := ⟨pb p 0, 0, 4⟩
def tcGroups (p c : Nat) : Fld := ⟨pb p 0, 16 + 4 * c, 4⟩
def classLate (p : Nat) : Fld := ⟨pb p 4, 0, 1⟩
def memCfgErr (p : Nat) : Fld := ⟨pb p 4, 1, 1⟩
def edcRead (p : Nat) : Fld := ⟨pb p 4, 2, 1⟩
def writeRetries (p : Nat) : Fld := ⟨pb p 4, 16, 16⟩
def tcWays (p c : Nat) : Fld := ⟨pb p 8, 16 * c, 16⟩
def effPos (p : Nat) : Fld := ⟨pb p 0x110, 0, 16⟩
def effSeq (p : Nat) : Fld := ⟨pb p 0x110, 16, 16⟩
def effPages (p : Nat) : Fld := ⟨pb p 0x110, 32, 24⟩
def budgetErr (p : Nat) : Fld := ⟨pb p 0x118, 0, 1⟩
def overrunF (p : Nat) : Fld := ⟨pb p 0x118, 1, 1⟩
def sharedFault (p : Nat) : Fld := ⟨pb p 0x118, 2, 1⟩
def arenaBase (p : Nat) : Fld := ⟨pb p 0x200, 21, 14⟩
def kvPages (p : Nat) : Fld := ⟨pb p 0x208, 0, 22⟩
def pageLines (p : Nat) : Fld := ⟨pb p 0x208, 24, 16⟩
def planes (p : Nat) : Fld := ⟨pb p 0x208, 40, 10⟩
def idxLog2 (p : Nat) : Fld := ⟨pb p 0x208, 50, 6⟩
def kvLists (p : Nat) : Fld := ⟨pb p 0x210, 0, 17⟩
def listEntries (p : Nat) : Fld := ⟨pb p 0x210, 32, 16⟩
def freePages (p : Nat) : Fld := ⟨pb p 0x218, 0, 22⟩
def quarPages (p : Nat) : Fld := ⟨pb p 0x218, 22, 22⟩
def kvCfgErr (p : Nat) : Fld := ⟨pb p 0x218, 44, 1⟩
def indexFull (p : Nat) : Fld := ⟨pb p 0x218, 45, 1⟩
def hearthCtx (p : Nat) : Fld := ⟨pb p 0x300, 0, 12⟩
def hearthValid (p : Nat) : Fld := ⟨pb p 0x300, 15, 1⟩
def stepCount (p : Nat) : Fld := ⟨pb p 0x308, 0, 64⟩
def liveVersion (p : Nat) : Fld := ⟨pb p 0x310, 0, 16⟩
def prevVersion (p : Nat) : Fld := ⟨pb p 0x310, 16, 16⟩
def prevValid (p : Nat) : Fld := ⟨pb p 0x310, 32, 1⟩
def inFlight (p : Nat) : Fld := ⟨pb p 0x318, 0, 1⟩
def phase (p : Nat) : Fld := ⟨pb p 0x318, 1, 2⟩
def nf (p : Nat) : Fld := ⟨pb p 0x318, 3, 1⟩
def poison (p : Nat) : Fld := ⟨pb p 0x318, 4, 1⟩
def skew (p : Nat) : Fld := ⟨pb p 0x318, 5, 1⟩
def fault (p : Nat) : Fld := ⟨pb p 0x318, 6, 1⟩
def hearthCfgErr (p : Nat) : Fld := ⟨pb p 0x318, 7, 1⟩
def lastStatus (p : Nat) : Fld := ⟨pb p 0x318, 8, 8⟩
def crLiveVa (p i : Nat) : Fld := ⟨pb p 0x400 + 8 * i, 21, 27⟩
def crValid (p i : Nat) : Fld := ⟨pb p 0x400 + 8 * i, 63, 1⟩
def crShadowVa (p i : Nat) : Fld := ⟨pb p 0x500 + 8 * i, 21, 27⟩
def crPaA (p i : Nat) : Fld := ⟨pb p 0x600 + 8 * i, 0, 14⟩
def crPaB (p i : Nat) : Fld := ⟨pb p 0x600 + 8 * i, 14, 14⟩
def crSize (p i : Nat) : Fld := ⟨pb p 0x600 + 8 * i, 28, 14⟩
def crLiveHalf (p i : Nat) : Fld := ⟨pb p 0x600 + 8 * i, 63, 1⟩
def slotBase (p : Nat) : Fld := ⟨pb p 0x700, 0, 14⟩
def slotUnits (p : Nat) : Fld := ⟨pb p 0x700, 14, 12⟩
def winVa (p : Nat) : Fld := ⟨pb p 0x700, 28, 27⟩
def adpBase (p : Nat) : Fld := ⟨pb p 0x708, 0, 14⟩
def adpBlocks (p : Nat) : Fld := ⟨pb p 0x708, 14, 14⟩
def blockUnits (p : Nat) : Fld := ⟨pb p 0x708, 28, 8⟩
def share (p : Nat) : Fld := ⟨pb p 0x710, 0, 6⟩
def srcMask (p : Nat) : Fld := ⟨pb p 0x714, 0, 32⟩
def slotReg (p i : Nat) : Nat := pb p 0x720 + 8 * i
def slVersion (p i : Nat) : Fld := ⟨slotReg p i, 0, 16⟩
def slState (p i : Nat) : Fld := ⟨slotReg p i, 16, 2⟩
def slActive (p i : Nat) : Fld := ⟨slotReg p i, 19, 1⟩
def slIncoming (p i : Nat) : Fld := ⟨slotReg p i, 20, 1⟩
def slReference (p i : Nat) : Fld := ⟨slotReg p i, 21, 1⟩
def slHeld (p i : Nat) : Fld := ⟨slotReg p i, 22, 1⟩
def slReserved (p i : Nat) : Fld := ⟨slotReg p i, 23, 1⟩
def slPins (p i : Nat) : Fld := ⟨slotReg p i, 24, 16⟩
def arriveEn (p : Nat) : Fld := ⟨pb p 0x800, 0, 1⟩
def arriveTile (p : Nat) : Fld := ⟨pb p 0x800, 1, 10⟩
def arriveOff (p : Nat) : Fld := ⟨pb p 0x800, 11, 21⟩
def flLast (p : Nat) : Fld := ⟨pb p 0x804, 0, 8⟩
def flNf (p : Nat) : Fld := ⟨pb p 0x804, 8, 1⟩
def flPoison (p : Nat) : Fld := ⟨pb p 0x804, 9, 1⟩
def flPoisonLate (p : Nat) : Fld := ⟨pb p 0x804, 10, 1⟩
def laggardReg (p : Nat) : Nat := pb p 0x808
def lagReg (p j : Nat) : Nat := pb p 0x880 + 8 * j
def snufferMargin (p : Nat) : Fld := ⟨pb p 0x900, 0, 8⟩
def replaying (p : Nat) : Fld := ⟨pb p 0x904, 0, 16⟩
def hangs (p : Nat) : Fld := ⟨pb p 0x904, 16, 4⟩
def hangEvt (p : Nat) : Fld := ⟨pb p 0x904, 20, 1⟩
def damper (p sl : Nat) : Nat := pb p 0x10000 + 16 * sl
def dCtx (p sl : Nat) : Fld := ⟨damper p sl, 0, 12⟩
def dValid (p sl : Nat) : Fld := ⟨damper p sl, 15, 1⟩
def dHlenM1 (p sl : Nat) : Fld := ⟨damper p sl + 4, 0, 6⟩
def dAuto (p sl : Nat) : Fld := ⟨damper p sl + 4, 6, 1⟩
def dMargin (p sl : Nat) : Fld := ⟨damper p sl + 4, 8, 8⟩
def dBackoff (p sl : Nat) : Fld := ⟨damper p sl + 4, 16, 8⟩
def dFmt (p sl : Nat) : Fld := ⟨damper p sl + 4, 24, 4⟩
def dOffset (p sl : Nat) : Fld := ⟨damper p sl + 8, 0, 12⟩
def dPendNf (p sl : Nat) : Fld := ⟨damper p sl + 8, 12, 1⟩
def dHold (p sl : Nat) : Fld := ⟨damper p sl + 8, 13, 7⟩
def dFloor (p sl : Nat) : Fld := ⟨damper p sl + 8, 20, 12⟩
def dPendMax (p sl : Nat) : Fld := ⟨damper p sl + 12, 0, 32⟩
-- Device blocks (R708)
def layers : Fld := ⟨0x800000, 0, 10⟩
def hkv : Fld := ⟨0x800000, 10, 6⟩
def headDim : Fld := ⟨0x800000, 16, 12⟩
def kDtype : Fld := ⟨0x800000, 28, 4⟩
def vDtype : Fld := ⟨0x800000, 32, 4⟩
def xheads : Fld := ⟨0x800000, 36, 3⟩
def vocabM1 : Fld := ⟨0x800000, 40, 24⟩
def maxPos : Fld := ⟨0x800008, 0, 32⟩
def imageUnits : Fld := ⟨0x800008, 32, 14⟩
def modelValid : Fld := ⟨0x800008, 63, 1⟩
def lampCfgErr : Fld := ⟨0x800010, 0, 1⟩
def copyBusy : Fld := ⟨0x800010, 1, 1⟩
def layerMode (l : Nat) : Fld := ⟨0x801000 + 4 * l, 0, 2⟩
def layerWindow (l : Nat) : Fld := ⟨0x801000 + 4 * l, 8, 24⟩
def varReg (v : Nat) : Nat := 0x800040 + 16 * v
def varVersion (v : Nat) : Fld := ⟨varReg v, 0, 16⟩
def varState (v : Nat) : Fld := ⟨varReg v, 16, 2⟩
def varCtx (v : Nat) : Fld := ⟨varReg v, 20, 12⟩
def varSrc (v : Nat) : Fld := ⟨0x800048 + 16 * v, 0, 48⟩
def flueDevice : Fld := ⟨0x810000, 0, 15⟩
def flueNodeValid : Fld := ⟨0x810000, 15, 1⟩
def devLat : Fld := ⟨0x810008, 0, 16⟩
def devRate : Fld := ⟨0x810008, 16, 10⟩
def linkLat : Fld := ⟨0x810008, 32, 16⟩
def linkRate : Fld := ⟨0x810008, 48, 10⟩
def poisonLat : Fld := ⟨0x810010, 0, 24⟩
def threshold : Fld := ⟨0x810010, 24, 24⟩
def flueCfgErr : Fld := ⟨0x81001C, 0, 1⟩
def flueGroups : Fld := ⟨0x81001C, 1, 11⟩
def routePort (d : Nat) : Fld := ⟨0x820000 + 4 * d, 0, 3⟩
def routeHalf (d : Nat) : Fld := ⟨0x820000 + 4 * d, 3, 1⟩
def routeValid (d : Nat) : Fld := ⟨0x820000 + 4 * d, 4, 1⟩
def linkCtrl (k : Nat) : Nat := 0x840000 + 0x100 * k
def lkEnable (k : Nat) : Fld := ⟨linkCtrl k, 0, 1⟩
def lkMode (k : Nat) : Fld := ⟨linkCtrl k, 1, 1⟩
def lkSplit (k : Nat) : Fld := ⟨linkCtrl k, 2, 1⟩
def lkState (k : Nat) : Fld := ⟨linkCtrl k + 8, 0, 3⟩
def lkLanes (k : Nat) : Fld := ⟨linkCtrl k + 8, 3, 8⟩
def lkDegradeEvt (k : Nat) : Fld := ⟨linkCtrl k + 8, 11, 1⟩
def lkDownEvt (k : Nat) : Fld := ⟨linkCtrl k + 8, 12, 1⟩
def lkProtoErr (k : Nat) : Fld := ⟨linkCtrl k + 8, 13, 1⟩
def lkDelay (k : Nat) : Fld := ⟨linkCtrl k + 8, 32, 32⟩
def laneLock (k : Nat) : Fld := ⟨0x840800 + 8 * k, 0, 1⟩
def laneInUse (k : Nat) : Fld := ⟨0x840800 + 8 * k, 1, 1⟩
def ethMac (k : Nat) : Fld := ⟨0x840010 + 0x100 * k, 0, 48⟩
def ethGwMac (k : Nat) : Fld := ⟨0x840018 + 0x100 * k, 0, 48⟩
def laneCorrected (l : Nat) : Fld := ⟨0x840800 + 8 * l, 16, 16⟩
def laneUncorrected (l : Nat) : Fld := ⟨0x840800 + 8 * l, 32, 16⟩
def ethPtpDomain : Fld := ⟨0x841008, 16, 8⟩
def ethPrefix : Fld := ⟨0x841000, 0, 64⟩
def ethUdpPort : Fld := ⟨0x841008, 0, 16⟩
def ethVlan : Fld := ⟨0x841008, 32, 12⟩
def ethPcp2 : Fld := ⟨0x841008, 44, 3⟩
def ethPcp3 : Fld := ⟨0x841008, 47, 3⟩
def ptpMasterLo : Fld := ⟨0x841010, 0, 64⟩
def ptpMasterHi : Fld := ⟨0x841018, 0, 64⟩
def cxlUp (q : Nat) : Fld := ⟨0x850000 + 8 * q, 0, 1⟩
def cxlRate (q : Nat) : Fld := ⟨0x850000 + 8 * q, 1, 3⟩
def cxlWidth (q : Nat) : Fld := ⟨0x850000 + 8 * q, 4, 5⟩
def cxlDegraded (q : Nat) : Fld := ⟨0x850000 + 8 * q, 9, 1⟩
def cxlSlow (q : Nat) : Fld := ⟨0x850000 + 8 * q, 10, 1⟩
def cxlMediaErr (q : Nat) : Fld := ⟨0x850000 + 8 * q, 11, 1⟩
def cxlCap (q : Nat) : Fld := ⟨0x850000 + 8 * q, 32, 21⟩
end F

/-! ## Widths and access masks -/

/-- A register: its offset, its width in bytes, its writable bits and its write-1-to-clear bits (R10, R12). -/
structure RegDesc where
  base : Nat
  bytes : Nat
  rw   : Nat
  w1c  : Nat
deriving DecidableEq, Repr

/-- Mask of bits [lo + w - 1 : lo]. -/
def mask (lo w : Nat) : Nat := (2 ^ w - 1) * 2 ^ lo

/-- Register of a context record (R704). -/
def ctxDesc (base o : Nat) : Option RegDesc :=
  if o < 0x04 then some ⟨base, 4, mask 0 8 + mask 15 1, 0⟩
  else if o < 0x08 then some ⟨base + 4, 4, 7, 0⟩
  else if o < 0x0C then some ⟨base + 8, 4, 0, 0⟩
  else if o < 0x10 then some ⟨base + 0xC, 4, 0, mask 4 1⟩
  else if o < 0x28 then some ⟨base + o / 8 * 8, 8, mask 0 5 + mask 12 36, 0⟩
  else if o < 0x30 then some ⟨base + 0x28, 8, mask 0 3 + mask 21 27, 0⟩
  else if o < 0x34 then some ⟨base + 0x30, 4, mask 0 11, 0⟩
  else if o < 0x38 then some ⟨base + 0x34, 4, 0, mask 2 2⟩
  else if o < 0x40 then some ⟨base + 0x38, 8, mask 0 64, 0⟩
  else if o < 0x48 then some ⟨base + 0x40, 8, mask 0 2 + mask 8 54, 0⟩
  else none

/-- Register of a partition block (R707). -/
def partDesc (base o : Nat) : Option RegDesc :=
  if o < 0x04 then some ⟨base, 4, mask 0 4 + mask 16 16, 0⟩
  else if o < 0x08 then some ⟨base + 4, 4, 0, 7⟩
  else if o < 0x10 then some ⟨base + 8, 8, mask 0 64, 0⟩
  else if o < 0x100 then none
  else if o < 0x108 then some ⟨base + 0x100, 8, mask 0 64, 0⟩
  else if o < 0x10C then some ⟨base + 0x108, 4, mask 0 18 + mask 24 8, 0⟩
  else if 0x110 ≤ o ∧ o < 0x118 then some ⟨base + 0x110, 8, 0, 0⟩
  else if 0x118 ≤ o ∧ o < 0x11C then some ⟨base + 0x118, 4, 0, 7⟩
  else if o < 0x200 then none
  else if o < 0x208 then some ⟨base + 0x200, 8, mask 21 14, 0⟩
  else if o < 0x210 then some ⟨base + 0x208, 8, mask 0 22 + mask 24 32, 0⟩
  else if o < 0x218 then some ⟨base + 0x210, 8, mask 0 17 + mask 32 16, 0⟩
  else if o < 0x220 then some ⟨base + 0x218, 8, 0, mask 44 2⟩
  else if o < 0x300 then none
  else if o < 0x304 then some ⟨base + 0x300, 4, mask 0 12 + mask 15 1, 0⟩
  else if 0x308 ≤ o ∧ o < 0x310 then some ⟨base + 0x308, 8, mask 0 64, 0⟩
  else if 0x310 ≤ o ∧ o < 0x318 then some ⟨base + 0x310, 8, 0, 0⟩
  else if 0x318 ≤ o ∧ o < 0x31C then some ⟨base + 0x318, 4, 0, mask 7 1⟩
  else if o < 0x400 then none
  else if o < 0x500 then some ⟨base + o / 8 * 8, 8, mask 21 27 + mask 63 1, 0⟩
  else if o < 0x600 then some ⟨base + o / 8 * 8, 8, mask 21 27, 0⟩
  else if o < 0x700 then some ⟨base + o / 8 * 8, 8, mask 0 42, 0⟩
  else if o < 0x708 then some ⟨base + 0x700, 8, mask 0 26 + mask 28 27, 0⟩
  else if o < 0x710 then some ⟨base + 0x708, 8, mask 0 36, 0⟩
  else if o < 0x714 then some ⟨base + 0x710, 4, mask 0 6, 0⟩
  else if o < 0x718 then some ⟨base + 0x714, 4, mask 0 32, 0⟩
  else if 0x720 ≤ o ∧ o < 0x740 then some ⟨base + o / 8 * 8, 8, 0, 0⟩
  else if o < 0x800 then none
  else if o < 0x804 then some ⟨base + 0x800, 4, mask 0 32, 0⟩
  else if o < 0x808 then some ⟨base + 0x804, 4, 0, mask 10 1⟩
  else if o < 0x810 then some ⟨base + 0x808, 8, 0, 0⟩
  else if 0x880 ≤ o ∧ o < 0x900 then some ⟨base + o / 8 * 8, 8, 0, 0⟩
  else if 0x900 ≤ o ∧ o < 0x904 then some ⟨base + 0x900, 4, mask 0 8, 0⟩
  else if 0x904 ≤ o ∧ o < 0x908 then some ⟨base + 0x904, 4, 0, mask 20 1⟩
  else if 0x10000 ≤ o ∧ o < 0x12000 then
    (if o % 16 < 4 then some ⟨base + o / 4 * 4, 4, mask 0 12 + mask 15 1, 0⟩
     else if o % 16 < 8 then some ⟨base + o / 4 * 4, 4, mask 0 7 + mask 8 20, 0⟩
     else some ⟨base + o / 4 * 4, 4, 0, 0⟩)
  else none

/-- Register that holds a BAR0 offset, if one is assigned (R691, R695 to R710). -/
def regDesc (off : Nat) : Option RegDesc :=
  match ctxOff off with
  | some (n, o) => ctxDesc (F.ctxRec n) o
  | none =>
  match partOff off with
  | some (p, o) => partDesc (F.pb p 0) o
  | none =>
  if off < 0x004 then some ⟨0x000, 4, 0, 0⟩
  else if off < 0x008 then some ⟨0x004, 4, 0, 0⟩
  else if off < 0x010 then some ⟨0x008, 8, 0, 0⟩
  else if off < 0x018 then some ⟨0x010, 8, 0, 0⟩
  else if off < 0x01C then some ⟨0x018, 4, 0, 0⟩
  else if 0x020 ≤ off ∧ off < 0x024 then some ⟨0x020, 4, mask 0 12 + mask 20 8, 0⟩
  else if 0x024 ≤ off ∧ off < 0x028 then some ⟨0x024, 4, 0, mask 28 3⟩
  else if 0x040 ≤ off ∧ off < 0x060 then some ⟨off / 4 * 4, 4, mask 8 5, 0⟩
  else if 0x060 ≤ off ∧ off < 0x088 then some ⟨off / 4 * 4, 4, 0, 0⟩
  else if 0x088 ≤ off ∧ off < 0x08C then some ⟨0x088, 4, mask 0 16, 0⟩
  else if 0x0A0 ≤ off ∧ off < 0x160 then some ⟨off / 4 * 4, 4, 0, 0⟩
  else if 0x160 ≤ off ∧ off < 0x168 then some ⟨0x160, 8, 0, mask 10 1⟩
  else if 0x400 ≤ off ∧ off < 0x404 then some ⟨0x400, 4, 0, 0⟩
  else if 0x404 ≤ off ∧ off < 0x408 then some ⟨0x404, 4, mask 0 8, 0⟩
  else if 0x410 ≤ off ∧ off < 0x420 then some ⟨off / 8 * 8, 8, mask 12 52, 0⟩
  else if 0x420 ≤ off ∧ off < 0x430 then some ⟨off / 8 * 8, 8, mask 28 20, 0⟩
  else if 0x430 ≤ off ∧ off < 0x440 then some ⟨off / 8 * 8, 8, 0, mask 12 2⟩
  else if 0x500 ≤ off ∧ off < 0x510 then some ⟨off / 8 * 8, 8, 0, 0⟩
  else if 0x510 ≤ off ∧ off < 0x518 then some ⟨0x510, 8, 0, mask 6 1⟩
  else if 0x518 ≤ off ∧ off < 0x51C then some ⟨0x518, 4, 0, 0⟩
  else if 0x51C ≤ off ∧ off < 0x520 then some ⟨0x51C, 4, mask 0 5, 0⟩
  else if 0x520 ≤ off ∧ off < 0x528 then some ⟨0x520, 8, mask 0 64, 0⟩
  else if 0x600 ≤ off ∧ off < 0x640 then some ⟨off / 8 * 8, 8, 0, mask 7 1⟩
  else if 0x700 ≤ off ∧ off < 0x714 then some ⟨off / 4 * 4, 4, 0, 0⟩
  else if 0x740 ≤ off ∧ off < 0x748 then some ⟨0x740, 8, mask 0 5 + mask 12 36, 0⟩
  else if 0x748 ≤ off ∧ off < 0x74C then some ⟨0x748, 4, mask 0 20, 0⟩
  else if 0x74C ≤ off ∧ off < 0x750 then some ⟨0x74C, 4, 0, 0⟩
  else if 0x780 ≤ off ∧ off < 0x7C0 then some ⟨off / 8 * 8, 8, mask 0 15, 0⟩
  else if 0x800 ≤ off ∧ off < 0x810 then some ⟨off / 8 * 8, 8, 0, mask 0 16⟩
  else if 0x810 ≤ off ∧ off < 0x820 then some ⟨off / 8 * 8, 8, mask 0 16, 0⟩
  else if 0x2000 ≤ off ∧ off < 0x2400 then some ⟨off / 8 * 8, 8, 0, 0⟩
  else if 0x4000 ≤ off ∧ off < 0x6000 ∧ off % 64 < 36 then some ⟨off / 4 * 4, 4, 0, 0⟩
  else if 0x800000 ≤ off ∧ off < 0x800008 then some ⟨0x800000, 8, mask 0 39 + mask 40 24, 0⟩
  else if 0x800008 ≤ off ∧ off < 0x800010 then some ⟨0x800008, 8, mask 0 46 + mask 63 1, 0⟩
  else if 0x800010 ≤ off ∧ off < 0x800014 then some ⟨0x800010, 4, 0, 1⟩
  else if 0x800040 ≤ off ∧ off < 0x8000C0 ∧ off % 16 < 4 then some ⟨off / 4 * 4, 4, 0, 0⟩
  else if 0x800040 ≤ off ∧ off < 0x8000C0 ∧ 8 ≤ off % 16 then some ⟨off / 8 * 8, 8, 0, 0⟩
  else if 0x801000 ≤ off ∧ off < 0x802000 then some ⟨off / 4 * 4, 4, mask 0 2 + mask 8 24, 0⟩
  else if 0x810000 ≤ off ∧ off < 0x810004 then some ⟨0x810000, 4, mask 0 16, 0⟩
  else if 0x810008 ≤ off ∧ off < 0x810010 then some ⟨0x810008, 8, mask 0 26 + mask 32 26, 0⟩
  else if 0x810010 ≤ off ∧ off < 0x810018 then some ⟨0x810010, 8, mask 0 48, 0⟩
  else if 0x810018 ≤ off ∧ off < 0x81001C then some ⟨0x810018, 4, 0, 0⟩
  else if 0x81001C ≤ off ∧ off < 0x810020 then some ⟨0x81001C, 4, 0, 1⟩
  else if 0x820000 ≤ off ∧ off < 0x840000 then some ⟨off / 4 * 4, 4, mask 0 5, 0⟩
  else if 0x840000 ≤ off ∧ off < 0x840800 then
    (let base := off / 0x100 * 0x100
     let o := off % 0x100
     if o < 4 then some ⟨base, 4, mask 0 3, 0⟩
     else if 8 ≤ o ∧ o < 0x10 then some ⟨base + 8, 8, 0, mask 11 3⟩
     else if 0x10 ≤ o ∧ o < 0x20 then some ⟨base + o / 8 * 8, 8, mask 0 48, 0⟩
     else none)
  else if 0x840800 ≤ off ∧ off < 0x840A00 then some ⟨off / 8 * 8, 8, 0, 0⟩
  else if off < 0x841000 then none
  else if off < 0x841008 then some ⟨0x841000, 8, mask 0 64, 0⟩
  else if off < 0x841010 then some ⟨0x841008, 8, mask 0 24 + mask 32 18, 0⟩
  else if off < 0x841020 then some ⟨off / 8 * 8, 8, mask 0 64, 0⟩
  else if 0x850000 ≤ off ∧ off < 0x850020 then some ⟨off / 8 * 8, 8, 0, mask 10 2⟩
  else none

/-- Register word after a write of `v` under its access codes (R10, R12): writable bits take `v`, write-1-to-clear
bits clear where `v` is 1, but those that hardware has set in the same core cycle, `held` (R13); every other bit keeps its
value. `en` marks the bits the write covers (R689). -/
def applyWrite (d : RegDesc) (old : Word) (en v : Nat) (held : Word) : Word :=
  let rw : Word := BitVec.ofNat 64 d.rw &&& BitVec.ofNat 64 en
  let wc : Word := BitVec.ofNat 64 d.w1c &&& BitVec.ofNat 64 en &&& ~~~held
  let x : Word := BitVec.ofNat 64 v
  ((old &&& ~~~rw) ||| (x &&& rw)) &&& ~~~(wc &&& x)

end Sys2Proof.Machine
end

