-- ==== Sys2Proof/Machine/Ops.lean ====
section
/-!
DEFINITION. Ops.lean: the named operations that the meanings share: access to the tables of State, memory, time stamps,
events and interrupts (R701 to R703, R560), soot entries (R592, R595), ring posting (R110, R116, R144) and the command
machinery of R120 to R129.
-/
namespace Sys2Proof.Machine
open Sys2Proof.Config

/-! ## What an unlisted index of each table holds -/

def CtxRun.dflt : CtxRun :=
  { sqTail := 0, sqHead := 0, sqNext := 0, cqHead := 0, cqTail := 0, cqPhase := true, emHead := 0, emTail := 0,
    emPhase := true, emReserved := 0, doorbellErr := false, lostPost := false, errAt := none, lostAt := none, resetAt := none,
    teardownAt := none,
    teardownCid := none, flrMark := none, quars := [],
    restored := [] }

def Cif.zero0 : Cif := { nan := false, zero := true, sign := false, log := 0 }

/-- A bank after chip reset: every weight 0 (R209). DESIGN CHOICE (assumption 120): the rate class that R284 has a bank record
of the format last loaded starts at the 8-bit class, in the SINGLE layout. -/
def Bank.dflt : Bank :=
  { cls := 1, paired := false, rows := [], exps := [], scale := 0, cw := [], aw := [], rw := [], ra := [] }

def Thread.dflt : Thread :=
  { state := .free, record := [], owner := .none, startAt := 0, pc := 0, sregs := [], vregs := [], nextAt := 0, checked := none,
    nextMark := 0, sigs := 0, suppress := 0, frozen := false, index := 0, carries := [], timedOut := false }

/-- A tile after chip reset: both banks of every array 0, current bank 0 (R209), NF set in every block (R223). -/
def Tile.dflt : Tile :=
  { lastThread := 15, lastIssue := none, banks := [], current := 0, nf := BitVec.allOnes 256, portFree := 0,
    ocuFree := 0, vecFree := 0 }

def Cluster.dflt : Cluster :=
  { frozenAt := none, cause := 0, repair := false, resetEnd := 0, relaunchMark := 0, suspects := [], current := none,
    replay := [], sample := 0, outSlots := [], outOfService := false, channels := [], dmaLast := 3, dmaFrom := 0, freezes := 0 }

/-- A sequence-table entry after chip reset: FREE, GEN 1 (R336), every other byte 0. -/
def Sample.dflt : Sample :=
  { state := 0, prev := 0, susp := 0, guar := false, pin := false, firstDone := false, ttftMiss := false, priority := 0, part
    := 0,
    skipped := false, skipNext := false, gen := 1, ctx := 0, sample := 0, drafts := 0, pending := 0, length := 0, maxLen := 0,
    promptLen := 0, pageList := 0, admitMark := 0, ttft := 0, tbt := 0, promise := 0, lastTok := 0, version := 0,
    adapter := 0, adapterVer := 0, adBlock := none, tbtMiss := 0, waitFrames := 0, endStatus := 0, reqRec := 0, slot := none,
    tokens := [], draftToks := [], reserve := 0, emRes := 0, lost := 0, wait := 0, endAs := none, cancelCid := none,
    doneAt := 0, starve := false }

/-- A page record in its entry state: FREE, every other field 0 (R375). -/
def Page.dflt : Page :=
  { refs := 0, fmt := 0, state := 0, hashed := false, mixed := false, owner := 0, fillN := 0, prev := 0, posBase := 0,
    valid := 0, hash := 0, polVer := 0, adId := 0, adVer := 0, freed := 0, quar := 0, tokens := [], scores := [] }

def Part.dflt : Part :=
  { pendRole := none, serveAt := none, resetAt := none, resetFrom := none, resetTrig := 0, agentQ := false, sched := none, nextSched := none,
    laterScheds := [],
    curFrame := none, curWork := [], sealed := none, staged := [], finalised := none, overrun := false, missed := false,
    kernelUp := false, curFactor := 16,
    nextBudget := none, budget := 191 * 2 ^ 56, ctrl := 1024, pages := [], lists := [], index := [], adapters := [],
    dma := [], step := none, ckpt := [], flueTill := 0, poisonIds := [], hangMark := 0, hist := [], l2 := [], tenant := [], cxlQ := [], wheel := none,
    tempOver := 0, hotDie := false, replaySus := [], replayCtx := none,
    noWorkTill := 0, pendF := 16, sealEff := (0, 0, 0), idle := [] }

def Credit.dflt : Credit := { adv := 0, sent := 0, ret := 0, freed := 0, seqIn := 0 }

def Link.dflt : Link :=
  { vc2 := Credit.dflt, vc3 := Credit.dflt, retrainMark := none, retrainFrom := none, byWrite := false,
    needWrite := false, lastTx := 0, lastRx := 0, heard := false, sentBeacon := 0, msg2 := [], msg3 := [],
    drop2 := false, drop3 := false, fwd2 := none, fwd3 := none, part2 := 0, part3 := 0, txq := [], ret3 := false, idle3 := false, flitAt := none,
    failed := 0, badWords := (0, 0), ethOut := [], pause2 := 0, pause3 := 0, ethSeq := [],
    ethMsg := [] }

def HostPort.dflt : HostPort :=
  { vfs := 255, barLog2 := 28, unmasked := [], pend := [], table := [], config := [], aer := 0, due := [], doeBuf := [], doeOut := [], doeAt := 0, doeReq := none,
    doeState := 0 }

/-! ## Access to the tables -/

def State.ctx (s : State) (n : Nat) : CtxRun := tget CtxRun.dflt s.ctxs n
def State.setCtx (s : State) (n : Nat) (c : CtxRun) : State := { s with ctxs := tset CtxRun.dflt s.ctxs n c }
def State.part (s : State) (p : Nat) : Part := tget Part.dflt s.parts p
def State.setPart (s : State) (p : Nat) (x : Part) : State := { s with parts := tset Part.dflt s.parts p x }
def State.cluster (s : State) (c : Nat) : Cluster := tget Cluster.dflt s.clusters c
def State.setCluster (s : State) (c : Nat) (x : Cluster) : State :=
  { s with clusters := tset Cluster.dflt s.clusters c x }
def State.tile (s : State) (t : Nat) : Tile := tget Tile.dflt s.tiles t
def State.setTile (s : State) (t : Nat) (x : Tile) : State := { s with tiles := tset Tile.dflt s.tiles t x }
def State.thread (s : State) (t : Nat) : Thread := tget Thread.dflt s.threads t
def State.setThread (s : State) (t : Nat) (x : Thread) : State :=
  { s with threads := tset Thread.dflt s.threads t x }
def State.entry (s : State) (e : Nat) : Sample := tget Sample.dflt s.table e
def State.setEntry (s : State) (e : Nat) (x : Sample) : State := { s with table := tset Sample.dflt s.table e x }
def State.link (s : State) (k : Nat) : Link := tget Link.dflt s.links k
def State.setLink (s : State) (k : Nat) (x : Link) : State := { s with links := tset Link.dflt s.links k x }
def State.host (s : State) (n : Nat) : HostPort := tget HostPort.dflt s.hosts n
def State.setHost (s : State) (n : Nat) (x : HostPort) : State := { s with hosts := tset HostPort.dflt s.hosts n x }
def Part.page (x : Part) (i : Nat) : Page := tget Page.dflt x.pages i
def Part.setPage (x : Part) (i : Nat) (g : Page) : Part := { x with pages := tset Page.dflt x.pages i g }

/-- Apply `f` to the entry of a partition, a context, a thread. -/
def State.modPart (s : State) (p : Nat) (f : Part → Part) : State := s.setPart p (f (s.part p))
def State.modCtx (s : State) (n : Nat) (f : CtxRun → CtxRun) : State := s.setCtx n (f (s.ctx n))
def State.modThread (s : State) (t : Nat) (f : Thread → Thread) : State := s.setThread t (f (s.thread t))
def State.modBoard (s : State) (f : Board → Board) : State := { s with board := f s.board }
def State.modTime (s : State) (f : TimeBase → TimeBase) : State := { s with time := f s.time }

/-- The listed value at an index, if there is one. -/
def tfind {α : Type} (l : List (Nat × α)) (k : Nat) : Option α := (l.find? fun e => e.1 == k).map (·.2)

/-- A defined Flue group (R489). -/
def State.group (s : State) (g : Nat) : Option Group := tfind s.groups g

/-- Association list with `v` at key `k`, other entries kept. -/
def tput {α : Type} (l : List (Nat × α)) (k : Nat) (v : α) : List (Nat × α) :=
  if l.any (fun e => e.1 == k) then l.map (fun e => if e.1 == k then (k, v) else e) else l ++ [(k, v)]

/-- Association list without key `k`. -/
def tdel {α : Type} (l : List (Nat × α)) (k : Nat) : List (Nat × α) := l.filter fun e => e.1 != k

def allParts : List Nat := [0, 1, 2, 3, 4, 5, 6, 7]

/-- The set bits of an 8-bit partition mask, ascending. -/
def maskParts (m : Nat) : List Nat := allParts.filter fun p => bit m p

def State.role (s : State) (p : Nat) : Nat := s.fld (F.role p)

/-! ## Time -/

/-- The time stamp of the present core cycle (R14). -/
def State.stamp (s : State) : Nat := s.time.mark % 2 ^ 54 * 1024 + s.time.cyc

/-- The present core cycle on the axis of published counts (R63). -/
def State.now (s : State) : Nat := s.time.cycle

def State.mark (s : State) : Nat := s.time.mark

def State.tstate (s : State) : Nat := s.fld F.tState

/-- Present cycle is cycle 0 of a mark, where the events of R87 take effect (R86). -/
def State.atMark (s : State) (m : Nat) : Bool := decide (m ≤ s.time.mark)

/-- The mark after an event has come, `m` being one more than the mark of the event: the counter stands in another mark than the
event's, also when MARK_SET or the first pulse has moved it (R65, R66, R86). -/
def State.markCome (s : State) (m : Nat) : Bool := decide (m ≤ s.time.mark) || decide (s.time.mark + 1 < m)

/-- The next free value (assumption 2), and the state with it drawn. -/
def State.drawVal (s : State) : Nat := freeNat s.free
def State.drawn (s : State) : State := { s with free := s.free + 1 }

/-- Send something out of the device (assumption 6). -/
def State.emit (s : State) (o : Output) : State := { s with outbox := o :: s.outbox }

/-! ## Memory -/

/-- Host window port and offset of a physical address (R52, R55). -/
def hostOf (a : Nat) : Option (Nat × Nat) :=
  if hostBase ≤ a ∧ a < hostEnd then some ((a - hostBase) / hostPortSize, (a - hostBase) % hostPortSize) else none

/-- PCIe bus address of offset o in the window of host port n (R55). -/
def State.busAddr (s : State) (n o : Nat) : Nat := (o + s.fld (F.hostWinBase n) * 4096) % 2 ^ 64

/-- Address of a byte in the byte map: host n's memory is kept at its PCIe bus addresses (R55). -/
def State.key (s : State) (a : Nat) : Nat :=
  match hostOf a with
  | some (n, o) => 2 ^ 64 * (n + 1) + s.busAddr n o
  | none => a

/-- A write by context n that goes to a host leaves the device as the function that owns the context (R55). -/
def State.toHost (s : State) (n a : Nat) (d : List Byte) : State :=
  match hostOf a with
  | some (k, o) => s.emit (.hostWrite k (s.fld (F.cFunc n)) (s.busAddr k o) d)
  | none => s

/-- A read by context n of a host's memory likewise (R55). -/
def State.fromHost (s : State) (n a len : Nat) : State :=
  match hostOf a with
  | some (k, o) => s.emit (.hostRead k (s.fld (F.cFunc n)) (s.busAddr k o) len)
  | none => s

/-- `n` bytes from device physical address `a`. -/
def State.readMem (s : State) (a n : Nat) : List Byte := s.mem.readN (s.key a) n

/-- `n` bytes from device physical address `a` as a little-endian number (R8). -/
def State.readLE (s : State) (a n : Nat) : Nat := ofLE (s.readMem a n)

/-- The state with bytes written from device physical address `a`. -/
def State.writeMem (s : State) (a : Nat) (d : List Byte) : State := { s with mem := s.mem.writeN (s.key a) d }

/-- The state whose bytes [a, a + n) are undefined (R539, R95, R223). -/
def State.undefMem (s : State) (a n : Nat) : State :=
  if n = 0 then s else { s with mem := s.mem.undefine (s.key a) n s.free, free := s.free + 1 }

def gddrBase (p : Nat) : Nat := p * gddrPerPart
def windowOf (t : Nat) : Nat := windowBase + t * windowSize

/-! ## The device acts (R662, R676) -/

/-- The device takes no action: it has no power, stays in reset (R662, R684), or has asserted FATAL# for a junction (R676). -/
def Board.off (b : Board) : Bool := !b.powered || b.inReset || b.dead || b.testMode

/-- What a command does to a device that acts; one that takes no action stays as it is. -/
def State.act (s t : State) : Host.Outcome State Fault Refusal := .next (if s.board.off then s else t)

/-- A host reaches the device from the check of the configuration block on: until then configuration requests are answered with
Configuration Request Retry Status, and no register is writable by a host (R643, R644); RECOVERY answers them too (R647). -/
def State.configReady (s : State) : Bool := s.fld F.stage != bgRom && s.fld F.stage != bgConfig

/-- Offset of the capability with an identifier in the configuration space of a function. -/
def capAt (id : Nat) : Nat := 4 * pciCap id

/-- The configuration dword of a function as last written. -/
def State.configWritten (s : State) (port fn off : Nat) : Nat := ((tfind (s.host port).config (4096 * fn + off)).getD 0).toNat

/-- Function fn of a port takes memory requests: it is the PF or one of the VFs that are enabled, and stands in D0 (R556). In D3hot a
function takes configuration requests alone, as PCI Express says (PRESUMED, assumption 104). -/
def State.reaches (s : State) (port fn : Nat) : Bool :=
  decide (fn ≤ s.fld (F.hNumVfs port)) && s.configWritten port fn (capAt 0x01 + 0x04) % 4 != 3

/-- An error is recorded in the PF's AER uncorrectable status, at the bit PCI Express gives it: 14 a completion timeout, 15 a completer
abort, 20 an unsupported request. -/
def State.aerErr (s : State) (port i : Nat) : State :=
  s.setHost port { s.host port with aer := (s.host port).aer ||| 2 ^ i }

/-- What a host's write to function fn of a port does to a device that acts and that a host reaches (R643); before that, and where the
function takes no memory request (R556), it changes nothing. -/
def State.actHost (s : State) (port fn : Nat) (t : State) : Host.Outcome State Fault Refusal :=
  s.act (if s.configReady && s.reaches port fn then t else s)

/-- The state that a meaning answers. -/
def settled (s : State) : Host.Outcome State Fault Refusal → State
  | .next t => t
  | .fault _ => s
  | .refused _ => s

/-! ## Device events and interrupts (R701 to R703, R560) -/

/-- MSI-X vector `v` of function `fn` of a port is to be signalled in the next core cycle (R118, R703). -/
def State.msix (s : State) (port fn v : Nat) : State :=
  s.setHost port { s.host port with due := (s.host port).due ++ [(fn, v)] }

/-- Signal MSI-X vector `v` of function `fn` of a port: sent, or held pending while masked; nothing beyond the
function's table (R560). -/
def State.signal (s : State) (port fn v : Nat) : State :=
  if (if fn = 0 then 2048 else 64) ≤ v then s
  else if (s.host port).unmasked.contains (4096 * fn + v) then s.emit (.msix port fn v)
  else s.setHost port { s.host port with
    pend := if (s.host port).pend.contains (fn, v) then (s.host port).pend else (s.host port).pend ++ [(fn, v)] }

/-- The interrupts of the core cycle before are signalled on a port. -/
def State.signalPort (s : State) (port : Nat) : State :=
  (s.host port).due.foldl (fun a e => a.signal port e.1 e.2) (s.setHost port { s.host port with due := [] })

/-- The interrupts of the core cycle before are signalled (R118, R703). -/
def State.signalDue (s : State) : State := (s.signalPort 0).signalPort 1

/-- Word of the register file, beyond the register map, that tells for the register at `off` the core cycle of the last
setting of a write-1-to-clear bit by hardware; the next word holds the bits set in that cycle (R13). -/
def setWord (off : Nat) : Nat := 2 ^ 32 + 2 * off

/-- Write-1-to-clear bits of the register at `off` that hardware has set in the present core cycle (R13). -/
def State.setNow (s : State) (off : Nat) : Word :=
  if s.reg (setWord off) = BitVec.ofNat 64 s.now then s.reg (setWord off + 1) else 0

/-- Hardware sets a write-1-to-clear bit; a write of the same cycle does not clear it (R13). -/
def State.hwSet (s : State) (f : Fld) : State :=
  ((s.setFld f 1).setReg (setWord f.off + 1) (s.setNow f.off ||| BitVec.ofNat 64 (2 ^ f.lo))).setReg (setWord f.off)
    (BitVec.ofNat 64 s.now)

/-- Set bit `v` of EVT_CAUSE of one port, and signal the vector if the bit was clear and enabled (R703). -/
def State.raise1 (s : State) (n v : Nat) : State :=
  let s1 := s.hwSet ⟨(F.evtCause n).off, v, 1⟩
  if !bit (s.fld (F.evtCause n)) v && bit (s.fld (F.evtEn n)) v then s1.msix n 0 v else s1

/-- A device event of vector `v`, in both ports (R702). -/
def State.raise (s : State) (v : Nat) : State := (s.raise1 0 v).raise1 1 v

/-- An event bit of a register is set, with the device event of its vector (R702). -/
def State.setEvt (s : State) (f : Fld) (v : Nat) : State := (s.hwSet f).raise v

/-! ## Soot (R592 to R596) -/

/-- One soot entry: KIND, SOURCE, EFLAGS, CTX word, UNIT and DETAIL (R592). -/
def sootBytes (stamp kind source eflags ctx unit : Nat) (detail : List Byte) : List Byte :=
  toLE 8 stamp ++ toLE 2 kind ++ toLE 1 source ++ toLE 1 eflags ++ toLE 2 ctx ++ toLE 2 unit ++
    (detail ++ toLE 16 0).take 16

/-- An entry into the on-die buffer; a full buffer discards it and counts DROPPED, an event of vector 6 (R595). -/
def State.soot1 (s : State) (kind source eflags ctx unit : Nat) (detail : List Byte) : State :=
  if 256 ≤ s.soot.length then
    (s.setFld F.sootDropped (satInc (2 ^ 32 - 1) (s.fld F.sootDropped))).raise 6
  else
    let q := s.soot ++ [sootBytes s.stamp kind source eflags ctx unit detail]
    { s with soot := q }.setFld F.sootBuffered q.length

/-- CTX word of a soot entry that names context `n` (R592). -/
def sootCtx (n : Nat) : Nat := n % 4096 + 0x8000

def noUnit : Nat := 0xFFFF

/-! ## Access to device physical memory (R22, R47, R54, R56) -/

/-- TotalVFs and BAR4 size of port n as the applied configuration gives them; 0 and 256 MiB without one (R642, R647). -/
def Board.totalVfs (b : Board) (n : Nat) : Nat := if b.config.isEmpty then 0 else leAt b.config (272 + n) 1
def Board.bar4Log2 (b : Board) (n : Nat) : Nat := if b.config.isEmpty then 28 else leAt b.config (274 + n) 1

/-- Partition whose GDDR7 holds a physical address. -/
def gddrPart (a : Nat) : Option Nat := if a < gddrEnd then some (a / gddrPerPart) else none

/-- Logical tile and window offset of a physical address (R53). -/
def tileOf (a : Nat) : Option (Nat × Nat) :=
  if windowBase ≤ a ∧ a < windowEnd then some ((a - windowBase) / windowSize, (a - windowBase) % windowSize) else none

/-- CXL port and offset of a physical address. -/
def cxlOf (a : Nat) : Option (Nat × Nat) :=
  if cxlBase ≤ a ∧ a < cxlEnd then some ((a - cxlBase) / cxlPortSize, (a - cxlBase) % cxlPortSize) else none

/-- Port n is down: its data link layer is down or its PERST# is asserted (R150). -/
def State.portDown (s : State) (n : Nat) : Bool := !s.flag (F.hUp n) || s.flag (F.hPerst n)

/-- GDDR7 of partition p answers: p is neither Off nor in a partition reset (R47). -/
def State.gddrUp (s : State) (p : Nat) : Bool := s.role p != rOff && !s.flag (F.inReset p)

/-- Logical tile t has a physical tile in service (R19, R22, R24). -/
def State.tileUp (s : State) (t : Nat) : Bool :=
  s.fld (F.slotMap (t / 8) (t % 8)) != 15 && !(s.cluster (t / 8)).outOfService

/-- A physical address that an access can reach; elsewhere it faults with FAULT_CONTEXT (R22, R47, R54, R56, R618). -/
def State.backed (s : State) (a : Nat) : Bool :=
  match gddrPart a, tileOf a, cxlOf a, hostOf a with
  | some p, _, _, _ => s.gddrUp p
  | _, some (t, o), _, _ =>
    decide (o < accEnd) && (s.role (t / 128) == rLantern || s.role (t / 128) == rHearth) &&
      !s.flag (F.inReset (t / 128)) && s.tileUp t
  | _, _, some (q, o), _ => s.flag (F.cxlUp q) && decide (o < s.fld (F.cxlCap q) * unit2M)
  | _, _, _, some (n, _) => !s.portDown n
  | _, _, _, _ => false

/-! ## Translation (R441, R442, R458, R547, R713) -/

/-- First byte of the live or shadow half of commit region i of p (R439). -/
def State.liveBase (s : State) (p i : Nat) : Nat :=
  gddrBase p + unit2M * (if s.flag (F.crLiveHalf p i) then s.fld (F.crPaB p i) else s.fld (F.crPaA p i))
def State.shadowBase (s : State) (p i : Nat) : Nat :=
  gddrBase p + unit2M * (if s.flag (F.crLiveHalf p i) then s.fld (F.crPaA p i) else s.fld (F.crPaB p i))
def State.crBytes (s : State) (p i : Nat) : Nat := unit2M * s.fld (F.crSize p i)

def regions : List Nat := List.range 32

/-- The valid commit regions of p. -/
def State.validRegions (s : State) (p : Nat) : List Nat := regions.filter fun i => s.flag (F.crValid p i)

/-- Where a context-table translation sends a virtual address, with its rights (R541). -/
def State.xlatTable (s : State) (n va : Nat) : Option Xlat :=
  s.xlat.find? fun x => decide (x.ctx = n ∧ x.vpn ≤ va / unit2M ∧ va / unit2M < x.vpn + x.pages)

/-- Physical address of a translated virtual address. -/
def Xlat.pa (x : Xlat) (va : Nat) : Nat := (x.ppn + (va / unit2M - x.vpn)) * unit2M + va % unit2M

/-- Routing by the commit regions of hearth partition p for its owning context (R441): a region found gives the physical
address, or `some none` for the faulting read through SHADOW_VA. -/
def State.routeHearth (s : State) (p n va : Nat) (rd : Bool) : Option (Option Nat) :=
  if s.role p == rHearth && s.flag (F.hearthValid p) && s.fld (F.hearthCtx p) == n then
    match (s.validRegions p).find? fun i => decide (s.fld (F.crLiveVa p i) * unit2M ≤ va ∧
        va < s.fld (F.crLiveVa p i) * unit2M + s.crBytes p i) with
    | some i => some (some (s.liveBase p i + (va - s.fld (F.crLiveVa p i) * unit2M)))
    | none =>
      match (s.validRegions p).find? fun i => decide (s.fld (F.crShadowVa p i) * unit2M ≤ va ∧
          va < s.fld (F.crShadowVa p i) * unit2M + s.crBytes p i) with
      | some i => some (if rd then none else some (s.shadowBase p i + (va - s.fld (F.crShadowVa p i) * unit2M)))
      | none => none
  else none

/-- Routing by the weight window of lantern partition p, which is read-only (R458). -/
def State.routeLantern (s : State) (p va : Nat) (wr : Bool) : Option (Option Nat) :=
  if s.role p == rLantern then
    let u := va / unit2M
    let w := s.fld (F.winVa p)
    let su := s.fld (F.slotUnits p)
    let bu := s.fld (F.blockUnits p)
    if w ≤ u ∧ u < w + 4 * su then
      some (if wr then none else some (gddrBase p + unit2M * (s.fld (F.slotBase p) + (u - w)) + va % unit2M))
    else if w + 4 * su ≤ u ∧ u < w + 4 * su + bu * s.fld (F.adpBlocks p) then
      some (if wr then none else some (gddrBase p + unit2M * (s.fld (F.adpBase p) + (u - w - 4 * su)) + va % unit2M))
    else none
  else none

/-- Physical address in the shadow half of a valid commit region of a hearth partition (R442): the partition. -/
def State.inShadow (s : State) (a : Nat) : Option Nat :=
  match gddrPart a with
  | some q =>
    if s.role q == rHearth && (s.validRegions q).any fun i =>
        decide (s.shadowBase q i ≤ a ∧ a < s.shadowBase q i + s.crBytes q i) then some q else none
  | none => none

/-- Translation of one byte of an access by context n. `perf` is the partition that performs it (R713), none for the
translation store alone; `flue` marks an access of that partition's Flue agent. None: the access faults (R54, R442,
R547). The shadow halves are shut to every access that R441 does not route, but to a Flue agent of the partition. -/
def State.xlate (s : State) (perf : Option Nat) (flue : Bool) (n va : Nat) (rd wr : Bool) : Option Nat :=
  if 2 ^ 48 ≤ va then none
  else
    let table : Option Nat :=
      match s.xlatTable n va with
      | some x =>
        if (rd && !x.rd) || (wr && !x.wr) then none
        else
          match s.inShadow (x.pa va) with
          | some q => if flue && perf == some q then some (x.pa va) else none
          | none => some (x.pa va)
      | none => none
    match perf with
    | some p =>
      (match s.routeHearth p n va rd with
       | some r => r
       | none =>
         match s.routeLantern p va wr with
         | some r => r
         | none => table)
    | none => table

/-- Translation of one byte that an access can reach. -/
def State.reach (s : State) (perf : Option Nat) (flue : Bool) (n va : Nat) (rd wr : Bool) : Option Nat :=
  match s.xlate perf flue n va rd wr with
  | some a => if s.backed a then some a else none
  | none => none

/-- Pieces of a virtual range that lie in one 2 MiB page each, as (address, length); `k` bounds the pages. -/
def pieces : Nat → Nat → Nat → List (Nat × Nat)
  | 0, _, _ => []
  | k + 1, va, len =>
    if len = 0 then []
    else
      let n := Nat.min len (unit2M - va % unit2M)
      (va, n) :: pieces k (va + n) (len - n)

def rangePieces (va len : Nat) : List (Nat × Nat) := pieces (len / unit2M + 2) va len

/-- Every byte of a virtual range can be reached: each page is (checked at its first and last byte of the range, since
regions, windows and unmapped ranges have page granularity, and at the tile-window edge of R53). -/
def State.reachRange (s : State) (perf : Option Nat) (flue : Bool) (n va len : Nat) (rd wr : Bool) : Bool :=
  decide (va + len ≤ 2 ^ 48) && (rangePieces va len).all fun c =>
    match s.reach perf flue n c.1 rd wr, s.reach perf flue n (c.1 + c.2 - 1) rd wr with
    | some a, some b => decide (b = a + (c.2 - 1))
    | _, _ => false

/-- Bytes of a virtual range (the range must be reachable); unreachable pieces give no bytes. -/
def State.readVirt (s : State) (perf : Option Nat) (flue : Bool) (n va len : Nat) : List Byte :=
  (rangePieces va len).flatMap fun c =>
    match s.reach perf flue n c.1 true false with
    | some a => s.readMem a c.2
    | none => []

/-- An access of another class to n bytes from physical address a is a use of the lines that are present, and allocates none
(R534; assumption 122). -/
def State.l2Use (s : State) (a n : Nat) : State :=
  match gddrPart a with
  | some q =>
    let o := a - gddrBase q
    s.modPart q fun x => { x with
      l2 := x.l2.map fun l => if o / 64 ≤ l.line ∧ 64 * l.line < o + n then { l with use := s.now } else l }
  | none => s

/-- Write-throughs of an agent to GDDR7 wait in the queue of their class (R533). -/
def State.noteAgent (s : State) (a : Nat) : State :=
  match gddrPart a with
  | some q => s.modPart q fun x => { x with agentQ := true }
  | none => s

/-- A write of the control core, or of another agent, from physical address a: it updates the lines of the L2 that are present (R534), and
its write-throughs join the queue of its class (R533). -/
def State.agentWrite (s : State) (a : Nat) (d : List Byte) : State :=
  ((s.writeMem a d).l2Use a d.length).noteAgent a

/-- Write `d` at virtual address `va`; pieces that cannot be reached are not written. -/
def State.writePieces (s : State) (perf : Option Nat) (flue : Bool) (n : Nat) :
    List (Nat × Nat) → List Byte → State
  | [], _ => s
  | (va, k) :: r, d =>
    (match s.reach perf flue n va false true with
     | some a => (if flue then (s.writeMem a (d.take k)).l2Use a k else s.agentWrite a (d.take k)).toHost n a (d.take k)
     | none => s).writePieces perf flue n r (d.drop k)

def State.writeVirt (s : State) (perf : Option Nat) (flue : Bool) (n va : Nat) (d : List Byte) : State :=
  s.writePieces perf flue n (rangePieces va d.length) d

/-- The reads of hosts' memory that an access of context n to a virtual range makes (R55). -/
def State.askHosts (s : State) (perf : Option Nat) (flue : Bool) (n va len : Nat) : State :=
  (rangePieces va len).foldl (fun a c => match s.reach perf flue n c.1 true false with
    | some pa => a.fromHost n pa c.2
    | none => a) s

/-- Physical extents of a virtual range, in order. -/
def State.extents (s : State) (perf : Option Nat) (flue : Bool) (n va len : Nat) (rd wr : Bool) :
    List (Nat × Nat) :=
  (rangePieces va len).filterMap fun c => (s.reach perf flue n c.1 rd wr).map fun a => (a, c.2)

/-- Range check of R125: the range lies below 2^48 and wholly within pages mapped for the context with the access the
command needs; the translation store alone decides (R713). -/
def State.mapped (s : State) (n va len : Nat) (rd wr : Bool) : Bool :=
  decide (va + len ≤ 2 ^ 48) && (rangePieces va len).all fun c =>
    match s.xlatTable n c.1 with
    | some x => (!rd || x.rd) && (!wr || x.wr)
    | none => false

/-! ## Distances (R30 to R33) -/

def hops (p q : Nat) : Nat :=
  ((p / 4 : Int) - (q / 4 : Int)).natAbs + ((p % 4 : Int) - (q % 4 : Int)).natAbs

/-- Edges between a partition and I/O die W (0) or E (1) (R31). -/
def ioHops (p d : Nat) : Nat := if d = 0 then p % 4 + 1 else 3 - p % 4 + 1

/-- I/O die of a CXL port and of a link port (R29). -/
def cxlDie (q : Nat) : Nat := q / 2
def linkDie (k : Nat) : Nat := k / 4

/-! ## Contexts -/

def State.cstate (s : State) (n : Nat) : Nat := s.fld (F.cState n)
def State.live (s : State) (n : Nat) : Bool := s.cstate n == cLive
def State.setCstate (s : State) (n st : Nat) : State := s.setFld (F.cState n) st
def State.resetting (s : State) (n : Nat) : Bool := s.flag (F.cResetting n)

/-- Context n is in a reset or a teardown: its threads have stopped and its commands are to end (R142, R145). -/
def State.ending (s : State) (n : Nat) : Bool := s.resetting n || s.cstate n == cDraining

/-- The PF of a port owns context n (R104, R105). -/
def State.pfOwns (s : State) (port n : Nat) : Bool := s.flag (F.cOwned n) && s.fld (F.cPort n) == port

/-- Function fn of a port owns context n. -/
def State.fnOwns (s : State) (port fn n : Nat) : Bool := s.pfOwns port n && s.fld (F.cFunc n) == fn

/-- A management context (R104). -/
def isMgmt (n : Nat) : Bool := n < 2

/-- Entries and base of ring i of context n: 0 submission, 1 completion, 2 ember (R108). -/
def State.ringSize (s : State) (n i : Nat) : Nat := 2 ^ s.fld (F.ringLog2 n i)
def State.ringAt (s : State) (n i : Nat) : Nat := s.fld (F.ringBase n i) * 4096

/-- Entries presented but not admitted are released: their completion slots are free again, and SQ_HEAD stays (R122). -/
def State.releaseQueue (s : State) (n : Nat) : State :=
  { s with cmds := s.cmds.filter fun c => !(c.ctx == n && c.phase == Phase.presented) }.modCtx n fun x =>
    { x with sqNext := x.sqHead }

/-- A context enters FAULTED on a completion with FAULT_CONTEXT (R140); contexts 0 and 1 never do (R141). -/
def State.faultCtx (s : State) (n st : Nat) : State :=
  if 2 ≤ n ∧ (s.cstate n = cLive ∨ s.cstate n = cQuiesced) then
    (((s.releaseQueue n).setCstate n cFaulted).setFld (F.cFaultStatus n) st).raise 9
  else s

/-- The device reaches a ring: its address answers, and lies in no shadow half (R47, R54, R442). -/
def State.ringReach (s : State) (a : Nat) : Bool := s.backed a && (s.inShadow a).isNone

/-- A posted ring write: discarded, with LOST_POST, for a ring in the window of a port that is down (R144); one that the device
cannot reach faults the context (R47, R54, R442). -/
def State.ringWrite (s : State) (n a : Nat) (d : List Byte) : State :=
  match hostOf a with
  | some (p, _) =>
    if s.portDown p then s.modCtx n (fun c => { c with lostPost := true, lostAt := some s.now })
    else (s.writeMem a d).toHost n a d
  | none => if s.ringReach a then s.agentWrite a d else s.faultCtx n stFaultContext

/-! ## Commands -/

def Cmd.op (c : Cmd) : Nat := leAt c.entry 0 1
def Cmd.flags (c : Cmd) : Nat := leAt c.entry 1 1
def Cmd.tag (c : Cmd) : Nat := leAt c.entry 4 4
/-- Operand field of n bytes at byte `off` of the submission entry (R135). -/
def Cmd.fld (c : Cmd) (off n : Nat) : Nat := leAt c.entry off n

def State.cmd (s : State) (cid : Nat) : Option Cmd := s.cmds.find? fun c => c.cid == cid
def State.modCmd (s : State) (cid : Nat) (f : Cmd → Cmd) : State :=
  { s with cmds := updFirst (fun c => c.cid == cid) f s.cmds }
def State.dropCmd (s : State) (cid : Nat) : State := { s with cmds := s.cmds.filter fun c => c.cid != cid }

/-- Admitted commands: accepted work that has not completed. -/
def Cmd.incomplete (c : Cmd) : Bool := c.phase != .presented && c.phase != .done

/-- Commands of context n in submission order. -/
def State.cmdsOf (s : State) (n : Nat) : List Cmd := s.cmds.filter fun c => c.ctx == n

/-- An accepted, incomplete command: its work runs, or is held by a FENCE. -/
def Cmd.accepted (c : Cmd) : Bool := c.phase == .running || c.phase == .held

/-- The accepted, incomplete commands with an opcode. -/
def State.openCmds (s : State) (op : Nat) : List Cmd :=
  s.cmds.filter fun c => c.op == op && (c.phase == .running || c.phase == .held)

/-- Commands of the same context that stand before command `cid`. -/
def State.before (s : State) (cid : Nat) : List Cmd :=
  match s.cmd cid with
  | some c => (s.cmdsOf c.ctx).takeWhile fun d => d.cid != cid
  | none => []

/-- Command `cid` is held back by a FENCE: some FENCE stands before it and some earlier command of the context than
that FENCE has not completed (R129). A FENCE that failed its checks holds nothing back: it has no side effect (R124). -/
def State.fenced (s : State) (cid : Nat) : Bool :=
  (s.before cid).any fun f => f.op == opFence && f.status == stOk && f.phase != .presented &&
    (s.before f.cid).any fun d => d.phase != .done

/-- The completion entry of a command (R116). -/
def State.cplBytes (s : State) (c : Cmd) (phase : Bool) (sqHead : Nat) : List Byte :=
  let st := if c.replayed && c.status == stOk then stOkReplayed else c.status
  toLE 8 s.stamp ++ toLE 4 c.tag ++ toLE 1 st ++ toLE 1 (b2n phase + 2 * b2n c.replayed + 4 * b2n c.late) ++
    toLE 2 sqHead ++ (c.result ++ toLE 16 0).take 16

/-- Post one completion into the completion queue, with its interrupt in the next core cycle, and put the context in FAULTED where its
status is FAULT_CONTEXT (R110, R116, R118, R140, R144). -/
def State.postOne (s : State) (c : Cmd) : State :=
  let r := s.ctx c.ctx
  let size := s.ringSize c.ctx 1
  let s1 := s.ringWrite c.ctx (s.ringAt c.ctx 1 + 32 * r.cqTail) (s.cplBytes c r.cqPhase r.sqHead)
  let wrap := decide (size ≤ r.cqTail + 1)
  let s2 := s1.modCtx c.ctx fun x =>
    { x with cqTail := if wrap then 0 else r.cqTail + 1, cqPhase := if wrap then !r.cqPhase else r.cqPhase }
  let s3 := s2.dropCmd c.cid
  let s4 := if bit c.flags 0 then s3.msix (s3.fld (F.cPort c.ctx)) (s3.fld (F.cFunc c.ctx)) (s3.fld (F.cVector c.ctx))
            else s3
  if c.status = stFaultContext then s4.faultCtx c.ctx c.status else s4

/-- Post every completed command of context n that stands before its first incomplete one, in submission order (R127,
R128); `k` bounds their number. -/
def State.postUpTo (s : State) (n : Nat) : Nat → State
  | 0 => s
  | k + 1 =>
    match (s.cmdsOf n).head? with
    | some c => if c.phase == .done then (s.postOne c).postUpTo n k else s
    | none => s

def State.postReady (s : State) (n : Nat) : State := s.postUpTo n (s.cmdsOf n).length

/-- A FENCE before which no incomplete command stands, and whose 2 marks have passed, is complete with them (R129). -/
def State.fenceDone (s : State) (f : Cmd) : State :=
  if f.phase == .waiting && f.status == stOk && decide (f.presented + 2 * cyclesPerMark ≤ s.now) &&
      (s.before f.cid).all (fun d => d.phase == .done) then
    s.modCmd f.cid fun d => { d with phase := .done }
  else s

/-- The FENCEs of context n, in submission order, so that one that completes may complete the next (R129). -/
def State.fencesDone (s : State) (n : Nat) : State :=
  ((s.cmdsOf n).filter fun c => c.op == opFence).foldl (fun a f => a.fenceDone f) s

/-- An admitted command ends: it has a status and a RESULT, and waits to be posted (R127). -/
def State.endCmd (s : State) (cid status : Nat) (result : List Byte) (late : Bool) : State :=
  s.modCmd cid fun d =>
    if d.phase == .done then d else { d with phase := .done, status := status, result := result, late := d.late || late }

/-- Completions of context n that nothing holds back any more are posted, with the FENCEs that they complete (R127 to R129). -/
def State.postDone (s : State) (n : Nat) : State := (s.fencesDone n).postReady n

/-- Completion of an admitted command: its count is reached with a status and a RESULT, and it is posted with every
completion it held (R127, R128). -/
def State.finish (s : State) (cid status : Nat) (result : List Byte) (late : Bool) : State :=
  match s.cmd cid with
  | none => s
  | some c => if c.phase == .done then s else (s.endCmd cid status result late).postDone c.ctx

/-- Opcodes of the commands that a command DMA channel runs (R316). -/
def channelOps : List Nat := [opDmaFill, opDmaCopy, opAdapterInstall, opAdapterReplace]

/-- A command has passed its count, that of the mark it names, of the boundary it waits for or of its copies on DMA channels: what ends
it now is later than that, by a reported fault (R96). -/
def State.pastCount (s : State) (c : Cmd) : Bool :=
  let m := s.time.mark
  if c.op = opStepLaunch then decide (c.fld 40 8 < m)
  else if c.op = opPublish ∨ c.op = opReferenceSet ∨ c.op = opFrameSet then decide (c.fld 16 8 < m)
  else if c.op = opCtxSave ∨ c.op = opCtxRestore then decide (c.fld 32 8 + 240 < m)
  else if c.op = opCheckpoint then c.started && decide (c.endAt < m)
  else if c.op = opPartitionRole then decide (c.endAt < m)
  else if c.op = opFlueCollective then s.colls.any fun co => co.cid == c.cid && decide (co.done < m)
  else if c.op = opSeqCancel then c.endAt != 0 && decide (c.endAt < m)
  else c.started && channelOps.contains c.op && decide (c.endAt < s.now)

/-- Laggard of partition p, or 0xFFFF_FFFF (R515). -/
def State.laggard (s : State) (p : Nat) : Nat :=
  let w := (s.reg (F.laggardReg p)).toNat
  if bit w 18 then bits w 0 18 else 0xFFFFFFFF

/-- RESULT of a collective that completes with status `st`: the member that the lowest local member with that outcome names, else its
laggard (R521). A member without an outcome ends with the command. -/
def State.collResult (s : State) (co : Coll) (st : Nat) : List Byte :=
  toLE 4 (match co.locals.find? fun x => x.outcome == some st || x.outcome.isNone with
    | some x => x.named.getD (s.laggard x.p)
    | none => 0xFFFFFFFF)

/-- RESULT of a command that is ended early with status `st`: a STEP_LAUNCH reports the live version (R130, R437), a FLUE_COLLECTIVE a
laggard (R521). -/
def State.endedResult (s : State) (c : Cmd) (st : Nat) : List Byte :=
  if c.op = opStepLaunch then toLE 2 (s.fld (F.liveVersion ((maskParts (c.fld 30 1)).headD 0)))
  else if c.op = opFlueCollective then
    (match s.colls.find? fun co => co.cid == c.cid with
     | some co => s.collResult co st
     | none => [])
  else []

/-- A list of commands ends with one status; then their completions are posted, in submission order within each context
(R96, R128, R154). -/
def State.finishAll (s : State) (status : Nat) (l : List Nat) : State :=
  let cs := s.cmds.filter fun c => l.contains c.cid
  (dedup (cs.map (·.ctx))).foldl (fun a n => a.postDone n)
    (cs.foldl (fun a c => a.endCmd c.cid status (a.endedResult c status) (a.pastCount c)) s)

/-! ## The checks of R124 -/

/-- What the checks of R124 decide: a rejection with the byte offset of R117, the zero case of R126, or acceptance. -/
inductive Verdict where
  | reject (status off : Nat)
  | zero
  | accept
deriving DecidableEq, Repr

/-- Lowest byte offset among the fields that fail a check (R117). -/
def firstBad (l : List (Nat × Bool)) : Option Nat :=
  match l.filter (fun e => e.2) with
  | [] => none
  | e :: r => some (minOf 0 ((e :: r).map (·.1)))

/-- Reserved parts of an entry: bits [7:1] of FLAGS, the field of bytes 2 and 3, and those of bytes 8 to 63 that no listed field
(offset, length) covers (R115, R135), as failed fields. -/
def reservedBad (c : Cmd) (used : List (Nat × Nat)) : List (Nat × Bool) :=
  (1, decide (c.flags ≥ 2)) :: (2, c.fld 2 2 != 0) ::
    (List.range 56).map fun i => (i + 8, !(used.any fun u => decide (u.1 ≤ i + 8 ∧ i + 8 < u.1 + u.2)) &&
      c.fld (i + 8) 1 != 0)

/-- The checks of R124 in their order: format, permission, length, zero, state, time, capacity. -/
def verdict (fmt : List (Nat × Bool)) (perm : Bool) (len : List (Nat × Bool)) (zero state time cap : Bool) : Verdict :=
  match firstBad fmt with
  | some o => .reject stRejectFormat o
  | none =>
    if !perm then .reject stRejectPermission 0
    else match firstBad len with
    | some o => .reject stRejectLength o
    | none =>
      if zero then .zero
      else if !state then .reject stRejectState 0
      else if !time then .reject stTimeHoldover 0
      else if !cap then .reject stRejectCapacity 0
      else .accept

/-- A host or an expander answers an access of a command of 2 marks `late` cycles late: it completes late by so much, with LATE (R96,
R552, R562). -/
def State.waitLate (s : State) (cid late : Nat) : State :=
  if late = 0 then s
  else s.modCmd cid fun c => { c with endAt := c.presented + 2 * cyclesPerMark + late, late := true }

/-- A rejected command waits for its count, 2 marks after presentation (R99), with byte 16 of RESULT (R117). -/
def State.rejectCmd (s : State) (cid st off : Nat) : State :=
  let r : List Byte := if st = stRejectFormat ∨ st = stRejectLength then toLE 1 off else []
  s.modCmd cid fun c => { c with phase := .waiting, status := st, result := r }

/-- A command whose count is 2 marks after presentation (R126, R130), with its RESULT. -/
def State.waitCmd (s : State) (cid status : Nat) (result : List Byte) : State :=
  s.modCmd cid fun c => { c with phase := .waiting, status := status, result := result }

/-- The oldest fresh command of context n, if it has opcode `op`: the next command that admission checks. -/
def State.freshCmd (s : State) (n op : Nat) : Option Cmd :=
  match (s.cmdsOf n).find? fun c => c.phase == .fresh with
  | some c => if c.op == op then some c else none
  | none => none

/-- Carry out a verdict: reject, complete in the zero case, or do `act`. -/
def State.settle (s : State) (c : Cmd) (v : Verdict) (act : State → State) : State :=
  match v with
  | .reject st off => s.rejectCmd c.cid st off
  | .zero => s.waitCmd c.cid stOk []
  | .accept => act s

/-- A named mark keeps the lead of R88: 2 marks after admission. -/
def leadOk (c : Cmd) (m : Nat) : Bool := decide (c.admitMark + 2 ≤ m)

/-- Time states in which commands that name a mark are accepted (R70). -/
def State.marksOk (s : State) : Bool := s.tstate != tUnset

/-- Address fields need bits [63:48] clear (R119). -/
def badAddr (a : Nat) : Bool := decide (2 ^ 48 ≤ a)

/-- Opcodes of the commands that name a target context (R135). -/
def targetOps : List Nat := [opCtxSave, opCtxRestore, opCtxTeardown, opCtxHandover]
/-- Another command that names a target context is incomplete (R133): accepted and under way, or rejected or ended by the zero case
and still before its count. DESIGN CHOICE (assumption 110): one whose count is reached and whose completion R128 still holds no longer
counts. -/
def State.targetBusy (s : State) (target cid : Nat) : Bool :=
  s.cmds.any fun c => targetOps.contains c.op && c.cid != cid &&
    (c.phase == .running || c.phase == .held || (c.phase == .waiting && decide (s.now < c.presented + 2 * cyclesPerMark))) &&
    c.fld 8 2 == target

/-- Contents of a range of the external flash are undefined. -/
def Board.undefFlash (b : Board) (off n ev : Nat) : Board :=
  { b with flash := (List.range n).foldl (fun f i => tset 0xFF f (off + i) (undefByte ev (off + i))) b.flash }

/-! ## Partition faults -/

/-- A partition fault: its reset begins at cycle 0 of the mark after the trigger (R617). A partition whose reset is triggered or
running takes no further trigger. -/
def State.triggerReset (s : State) (p cause : Nat) : State :=
  let x := s.part p
  if s.flag (F.inReset p) = true ∨ x.resetAt ≠ none then s
  else s.setPart p { x with resetAt := some (s.time.mark + 1, cause), resetTrig := s.now, hotDie := false }

/-- A chip reset that software or the tray controller asks for begins at cycle 0 of the next mark (R687, R696). -/
def State.triggerChip (s : State) : State :=
  if s.board.chipTrig.isSome then s else s.modBoard fun b => { b with chipTrig := some (s.time.mark + 1) }

/-- A fault triggers a chip reset: mark 0 of start-up is the trigger (R617, R644). `deaf`: it takes the management core or the
paths to the rings away (R619). -/
def State.chipFault (s : State) (deaf : Bool) : State :=
  if s.board.chipFrom.isSome then s
  else s.modBoard fun b => { b with chipTrig := some s.time.mark, chipFrom := some s.now, chipDeaf := deaf }

end Sys2Proof.Machine
end

