-- ==== Sys2Proof/Machine/Formats.lean ====
section
/-!
DEFINITION. Formats.lean: number formats (R159 to R203): exact values, rounding by nearest-even and by a Spark word,
decoding and encoding of every data type, the common internal form, products, column sums and accumulator entries.
-/
namespace Sys2Proof.Machine
open Sys2Proof.Config

/-! ## Exact values -/

/-- A decoded number: NaN, an infinity, or ±m × 2^e exactly. -/
inductive Num where
  | nan
  | inf (neg : Bool)
  | fin (neg : Bool) (m : Nat) (e : Int)
deriving DecidableEq, Repr

def Num.zero0 : Num := .fin false 0 0

/-- n × 2^k for k of either sign, rounded toward zero. -/
def shl (n : Nat) (k : Int) : Nat := if 0 ≤ k then n <<< k.toNat else n >>> (-k).toNat

/-- Exponent of the leading bit of m × 2^e. -/
def lead (m : Nat) (e : Int) : Int := (Nat.log2 m : Int) + e

/-- Signed integer i × 2^e as a number. -/
def Num.ofInt (i : Int) (e : Int) : Num := .fin (decide (i < 0)) i.natAbs e

/-- Value of a finite number in units of 2^q, for q at most its exponent. -/
def unitsOf (neg : Bool) (m : Nat) (e q : Int) : Int :=
  let v : Int := (shl m (e - q) : Nat)
  if neg then -v else v

def Num.add (a b : Num) : Num :=
  match a, b with
  | .nan, _ => .nan
  | _, .nan => .nan
  | .inf s, .inf t => if s = t then .inf s else .nan
  | .inf s, _ => .inf s
  | _, .inf t => .inf t
  | .fin s m e, .fin t n f =>
    let q := min e f
    Num.ofInt (unitsOf s m e q + unitsOf t n f q) q

def Num.neg1 : Num → Num
  | .nan => .nan
  | .inf s => .inf (!s)
  | .fin s m e => .fin (!s) m e

def Num.mul (a b : Num) : Num :=
  match a, b with
  | .nan, _ => .nan
  | _, .nan => .nan
  | .inf s, .inf t => .inf (xor s t)
  | .inf s, .fin t n _ => if n = 0 then .nan else .inf (xor s t)
  | .fin s m _, .inf t => if m = 0 then .nan else .inf (xor s t)
  | .fin s m e, .fin t n f => .fin (xor s t) (m * n) (e + f)

/-- a < b for numbers that are not NaN. -/
def Num.lt (a b : Num) : Bool :=
  match a, b with
  | .nan, _ => false
  | _, .nan => false
  | .inf s, .inf t => s && !t
  | .inf s, _ => s
  | _, .inf t => !t
  | .fin s m e, .fin t n f =>
    let q := min e f
    decide (unitsOf s m e q < unitsOf t n f q)

/-- a = b for numbers that are not NaN. -/
def Num.eqv (a b : Num) : Bool :=
  match a, b with
  | .nan, _ => false
  | _, .nan => false
  | _, _ => !Num.lt a b && !Num.lt b a

def Num.isNan : Num → Bool
  | .nan => true
  | _ => false

/-! ## Rounding (R192, R324) -/

/-- Round the `k` low bits of m away: nearest-even, or by a Spark word (R324): up when v' + (w >> (32 − m')) ≥ 2^m', with
m' = min(k, 32) and v' the top m' cut bits. -/
def roundCut (m k : Nat) (word : Option Nat) : Nat :=
  if k = 0 then m
  else
    let q := m >>> k
    let v := m % 2 ^ k
    match word with
    | none => if v * 2 > 2 ^ k ∨ (v * 2 = 2 ^ k ∧ q % 2 = 1) then q + 1 else q
    | some w =>
      let m' := Nat.min k 32
      if (v >>> (k - m')) + (w >>> (32 - m')) ≥ 2 ^ m' then q + 1 else q

/-- ±m × 2^e rounded to `p` significant bits, with m' in [2^(p−1), 2^p); zero stays zero. -/
def roundSig (p m : Nat) (e : Int) (word : Option Nat) : Nat × Int :=
  if m = 0 then (0, 0)
  else
    let b := Nat.log2 m + 1
    if b ≤ p then (m <<< (p - b), e - (p - b : Nat))
    else
      let r := roundCut m (b - p) word
      if r = 2 ^ p then (2 ^ (p - 1), e + (b - p : Nat) + 1) else (r, e + (b - p : Nat))

/-- Integer nearest to m × 2^e, or rounded by a Spark word on the fraction bits (R324). -/
def roundInt (m : Nat) (e : Int) (word : Option Nat) : Nat :=
  if 0 ≤ e then m <<< e.toNat else roundCut m (-e).toNat word

/-! ## Floating formats (R165) -/

/-- A floating format: exponent bits, bias, mantissa bits, and its special codes: 0 infinities and NaNs at the top
exponent, 1 the one NaN of E4M3, 2 none. -/
structure FFmt where
  eb : Nat
  bias : Nat
  mb : Nat
  special : Nat
deriving DecidableEq, Repr

def f32 : FFmt := ⟨8, 127, 23, 0⟩
def bf16 : FFmt := ⟨8, 127, 7, 0⟩

/-- The floating format of a data-type code (R159, R165). -/
def ffmtOf (dt : Nat) : Option FFmt :=
  if dt = 0 then some f32
  else if dt = 1 then some bf16
  else if dt = 2 then some ⟨5, 15, 10, 0⟩
  else if dt = 3 ∨ dt = 5 then some ⟨4, 7, 3, 1⟩
  else if dt = 4 then some ⟨5, 15, 2, 0⟩
  else if dt = 6 then some ⟨3, 3, 2, 2⟩
  else if dt = 7 then some ⟨2, 1, 3, 2⟩
  else if dt = 8 then some ⟨2, 1, 1, 2⟩
  else none

/-- Element bits of a data-type code (R159). -/
def elemBits (dt : Nat) : Nat :=
  [32, 16, 16, 8, 8, 8, 6, 6, 4, 8, 4, 16, 8, 6, 4].getD dt 0

/-- Elements per scale block (R164); 0 without block scales. -/
def blockOf (dt : Nat) : Nat :=
  if dt = 5 ∨ dt = 6 ∨ dt = 7 ∨ dt = 8 ∨ dt = 13 then 32 else if dt = 14 then 16 else 0

/-- Rate class: 0 4-bit, 1 8-bit, 2 16-bit (R159). -/
def rateClass (dt : Nat) : Nat :=
  if dt = 8 ∨ dt = 10 ∨ dt = 14 then 0 else if dt = 1 ∨ dt = 2 ∨ dt = 11 then 2 else 1

/-- The rate class of an operand pair (R160). -/
def pairClass (a b : Nat) : Nat := Nat.max a b

/-- Matrix operand formats: every code but FP32 and 0x0F (R161). -/
def matrixType (dt : Nat) : Bool := decide (0 < dt ∧ dt < 15)

/-- Largest exponent and mantissa of a format's finite numbers. -/
def FFmt.top (f : FFmt) : Int × Nat :=
  if f.special = 0 then (((2 ^ f.eb - 2 : Nat) : Int) - f.bias, 2 ^ f.mb - 1)
  else if f.special = 1 then (((2 ^ f.eb - 1 : Nat) : Int) - f.bias, 2 ^ f.mb - 2)
  else (((2 ^ f.eb - 1 : Nat) : Int) - f.bias, 2 ^ f.mb - 1)

/-- Decode a floating code (R165 to R167, R203): an exponent field of 0 is zero. -/
def FFmt.decode (f : FFmt) (v : Nat) : Num :=
  let s := bit v (f.eb + f.mb)
  let e := bits v f.mb f.eb
  let m := bits v 0 f.mb
  if e = 0 then .fin false 0 0
  else if f.special = 0 ∧ e = 2 ^ f.eb - 1 then (if m = 0 then .inf s else .nan)
  else if f.special = 1 ∧ e = 2 ^ f.eb - 1 ∧ m = 2 ^ f.mb - 1 then .nan
  else .fin s (2 ^ f.mb + m) ((e : Int) - f.bias - f.mb)

/-- Code of a sign, a biased exponent and a mantissa. -/
def FFmt.code (f : FFmt) (s : Bool) (e m : Nat) : Nat := b2n s * 2 ^ (f.eb + f.mb) + e * 2 ^ f.mb + m

/-- Code of the largest finite value with a sign. -/
def FFmt.maxCode (f : FFmt) (s : Bool) : Nat := f.code s (f.top.1 + f.bias).toNat f.top.2

/-- Encode ±m × 2^e: round, then the range rules of R194 and R195. -/
def FFmt.encode (f : FFmt) (s : Bool) (m : Nat) (e : Int) (word : Option Nat) : Nat :=
  let r := roundSig (f.mb + 1) m e word
  let x : Int := r.2 + f.mb
  if r.1 = 0 ∨ x < 1 - (f.bias : Int) then 0
  else if f.top.1 < x ∨ (x = f.top.1 ∧ f.top.2 < r.1 - 2 ^ f.mb) then f.maxCode s
  else f.code s (x + f.bias).toNat (r.1 - 2 ^ f.mb)

/-- Result in a format with infinities, rounded to its significand, to nearest with ties to even: overflow is infinite, zero is +0, and NaN
the quiet NaN; a rounded result below the smallest normal is what `low` says (R187, R298). -/
def FFmt.result (f : FFmt) (low : Bool → Nat → Int → Nat) (x : Num) : Nat :=
  match x with
  | .nan => f.code false (2 ^ f.eb - 1) (2 ^ (f.mb - 1))
  | .inf s => f.code s (2 ^ f.eb - 1) 0
  | .fin s m e =>
    let r := roundSig (f.mb + 1) m e none
    let x : Int := r.2 + f.mb
    if r.1 = 0 then 0
    else if x < 1 - (f.bias : Int) then low s m e
    else if f.top.1 < x then f.code s (2 ^ f.eb - 1) 0
    else f.code s (x + f.bias).toNat (r.1 - 2 ^ f.mb)

/-- m × 2^e below the smallest normal rounds up to it on the grid of the subnormals of IEEE 754: it lies at most half a step below it,
and the tie goes to the even one, the normal. -/
def FFmt.risesToNormal (f : FFmt) (m : Nat) (e : Int) : Bool :=
  let k : Int := e + f.bias + f.mb
  decide ((2 ^ (f.mb + 1) - 1) * 2 ^ (-k).toNat ≤ m * 2 ^ k.toNat)

/-- IEEE 754 result, rounded to nearest with ties to even: a subnormal one is flushed to +0, one that rounds up to the smallest normal is
that, zero is +0 and NaN the quiet NaN (R203, R298, R299). -/
def FFmt.ieee (f : FFmt) (x : Num) : Nat := f.result (fun s m e => if f.risesToNormal m e then f.code s 1 0 else 0) x

/-- FP32 value of a lane, and FP32 lane of a value (R298). -/
def ofF32 (v : Nat) : Num := f32.decode (v % 2 ^ 32)
def toF32 (x : Num) : Nat := f32.ieee x

/-! ## Logarithms -/

/-- Nearest integer to 256 × log2(a / 2^mb), for a in [2^mb, 2^(mb+1)): no tie can arise (R174). -/
def log256 (a mb : Nat) : Nat := ((Nat.log2 (a ^ 512) - 512 * mb) + 1) / 2

/-- Largest x below 2^n with x^k ≤ y, found bit by bit. -/
def rootBits (k y : Nat) : Nat → Nat → Nat
  | 0, x => x
  | n + 1, x => rootBits k y n (if (x + 2 ^ n) ^ k ≤ y then x + 2 ^ n else x)

/-- Nearest integer to 2^b × 2^(f/256). -/
def pow2Near (b f : Nat) : Nat := (rootBits 256 (2 ^ (256 * (b + 1) + f)) (b + 2) 0 + 1) / 2

/-- The fraction table t[f] of stepping A1 (R177). -/
def fracTable (f : Nat) : Nat := pow2Near 11 f

/-- log2 of m × 2^e in units of 2^-16: the units below or above an inexact logarithm, as the part decides, so that the
error is below 2^-16 (R193; assumption 7). -/
def log2Units (m : Nat) (e : Int) : Int :=
  let fl := Nat.log2 (m ^ 65536)
  let exact := m == 2 ^ Nat.log2 m
  (fl : Int) + (if exact then 0 else (log2Frac m % 2 : Nat)) + 65536 * e

/-! ## Tallow formats (R169 to R171) -/

/-- Code bits, centre and log step in units of 1/256. -/
def tallowOf (dt : Nat) : Option (Nat × Nat × Nat) :=
  if dt = 11 then some (15, 16384, 1)
  else if dt = 12 then some (7, 64, 32)
  else if dt = 13 then some (5, 16, 64)
  else if dt = 14 then some (3, 4, 128)
  else none

/-- Encode a Tallow element: round log2 to the step relative to the block offset k; ties to the even code; range rules of
R194 (R193). -/
def tallowEncode (cb centre step : Nat) (s : Bool) (m : Nat) (e k : Int) (word : Option Nat) : Nat :=
  if m = 0 then 0
  else
    let u := 256 * step
    let l := log2Units m e - 65536 * k + (centre * u : Nat)
    if l < 0 then 0
    else
      let c := roundCut l.toNat (Nat.log2 u) word
      if c = 0 then 0
      else b2n s * 2 ^ cb + (if 2 ^ cb ≤ c then 2 ^ cb - 1 else c)

/-! ## The common internal form (R172 to R174) -/

def Cif.nanV : Cif := { nan := true, zero := false, sign := false, log := 0 }
def Cif.val (s : Bool) (l : Int) : Cif := { nan := false, zero := false, sign := s, log := l }

/-- Decode an operand to CIF (R174). -/
def toCif (dt v : Nat) : Cif :=
  match tallowOf dt with
  | some (cb, centre, step) =>
    let c := bits v 0 cb
    let s := bit v cb
    if c = 0 then (if s then Cif.nanV else Cif.zero0)
    else Cif.val s (((c : Int) - centre) * step)
  | none =>
    if dt = 9 ∨ dt = 10 then
      let i := signed (elemBits dt) v
      if i = 0 then Cif.zero0
      else
        let a := i.natAbs
        let e := Nat.log2 a
        Cif.val (decide (i < 0)) (256 * e + log256 a e)
    else
      match ffmtOf dt with
      | some f =>
        (match f.decode v with
         | .fin s m e => if m = 0 then Cif.zero0 else Cif.val s (256 * (e + f.mb) + log256 m f.mb)
         | _ => Cif.nanV)
      | none => Cif.nanV

/-- Block exponent of a scale or offset byte: the exponent and whether it makes its elements NaN (R168, R171). -/
def blockExp (dt x : Nat) : Int × Bool :=
  if dt = 13 ∨ dt = 14 then (signed 8 x, x % 256 == 0x80)
  else if blockOf dt ≠ 0 then ((x : Int) - 127, x % 256 == 0xFF)
  else (0, false)

/-- A product: NaN, zero, or a sign, a 12-bit significand and its exponent (R175). -/
inductive Prod where
  | nan
  | zero
  | val (sign : Bool) (sig : Nat) (exp : Int)
deriving DecidableEq, Repr

/-- The product of two operands with their block exponents and tensor scale offsets (R175 to R178). -/
def product (a b : Cif) (ba bb ta tb : Int) : Prod :=
  if a.nan || b.nan then .nan
  else if a.zero || b.zero then .zero
  else
    let p := a.log + b.log + 256 * (ba + bb) + 32 * (ta + tb)
    let i := p / 256
    .val (xor a.sign b.sign) (fracTable (p - 256 * i).toNat) (i - 11)

def Prod.lead : Prod → Option Int
  | .val _ _ e => some (e + 11)
  | _ => none

def columnSum (ps : List Prod) : ColSum :=
  if ps.any (fun q => q == .nan) then .nan
  else
    match ps.filterMap Prod.lead with
    | [] => .zero
    | x :: r =>
      let emax := r.foldl max x
      .val (ps.foldl (fun t q =>
        match q with
        | .val s g e =>
          let mag : Int := (g * 65536 / 2 ^ (emax - (e + 11)).toNat : Nat)
          if s then t - mag else t + mag
        | _ => t) 0) emax

/-! ## Accumulator entries (R181 to R188) -/

/-- Mantissa bits of AF32 and AF48 entries. -/
def accMant (wide : Bool) : Nat := if wide then 39 else 23

/-- An accumulator entry as a number; an overflow entry is an infinity (R182, R183, R186). -/
def accDecode (wide : Bool) (v : Nat) : Num :=
  let mb := accMant wide
  let e := bits v mb 8
  let m := bits v 0 mb
  let s := bit v (mb + 8)
  if e = 0 then Num.zero0
  else if e = 255 then (if m = 0 then .inf s else .nan)
  else .fin s (2 ^ mb + m) ((e : Int) - 127 - mb)

/-- An accumulator entry of a number, rounded once to nearest-even, and zero where the rounded result lies below 2^-126 (R181, R185,
R187). -/
def accEncode (wide : Bool) (x : Num) : Nat :=
  let mb := accMant wide
  (FFmt.mk 8 127 mb 0).result (fun _ _ _ => 0) x

/-- A column sum as a number (R179). -/
def ColSum.num : ColSum → Num
  | .nan => .nan
  | .zero => Num.zero0
  | .val t emax => Num.ofInt t (emax - 27)

/-- Accumulation of a column sum into an entry (R181, R187, R188): NaN first; then an overflow entry keeps its sign, unless the
sum is an overflow itself, of the other sign, which gives NaN. DESIGN CHOICE (assumption 133): a column sum is an overflow itself where
it reaches 2^128 once rounded to the format of the entry. -/
def accAdd (wide : Bool) (old : Num) (c : ColSum) : Num :=
  match c with
  | .nan => .nan
  | .zero => old
  | .val _ _ =>
    match old, accDecode wide (accEncode wide c.num) with
    | .fin _ _ _, _ => old.add c.num
    | .inf s, .inf t => if s = t then .inf s else .nan
    | x, _ => x

/-! ## Encoding and decoding elements (R192 to R198, R305, R306) -/

/-- Encode ±m × 2^e as an element of a data type relative to a block scale exponent. -/
def encodeElem (dt : Nat) (blk : Int) (s : Bool) (m : Nat) (e : Int) (word : Option Nat) : Nat :=
  match tallowOf dt with
  | some (cb, centre, step) => tallowEncode cb centre step s m e blk word
  | none =>
    if dt = 9 ∨ dt = 10 then
      let w := elemBits dt
      let r := roundInt m e word
      let i : Int := if s then -(Nat.min r (2 ^ (w - 1)) : Nat) else (Nat.min r (2 ^ (w - 1) - 1) : Nat)
      unsigned w i
    else
      match ffmtOf dt with
      | some f => f.encode s m (e - blk) word
      | none => 0

/-- The largest finite value of a data type with a sign (R197, saturate mode). DESIGN CHOICE (assumption 116): for a negative
INT8 or INT4 overflow it is the end of the format's range, −128 or −8, to which R194 limits a result. -/
def maxElem (dt : Nat) (s : Bool) : Nat :=
  match tallowOf dt with
  | some (cb, _, _) => b2n s * 2 ^ cb + (2 ^ cb - 1)
  | none =>
    if dt = 9 ∨ dt = 10 then
      (if s then 2 ^ (elemBits dt - 1) else 2 ^ (elemBits dt - 1) - 1)
    else match ffmtOf dt with
      | some f => f.maxCode s
      | none => 0

/-- The NaN code of a data type (R197); formats without one have none. -/
def nanElem (dt : Nat) : Option Nat :=
  if dt = 0 then some 0x7FC00000 else if dt = 1 then some 0x7FC0 else if dt = 2 then some 0x7E00
  else if dt = 3 ∨ dt = 5 then some 0x7F else if dt = 4 then some 0x7E
  else if dt = 11 then some 0x8000 else if dt = 12 then some 0x80 else if dt = 13 then some 0x20
  else if dt = 14 then some 0x8 else none

/-- Formats whose NaN marks the whole block by its scale (R197). -/
def blockNan (dt : Nat) : Bool := dt == 6 || dt == 7 || dt == 8

/-- A non-finite value written in NaN mode or saturate mode (R197). -/
def encodeNonfinite (dt : Nat) (sat : Bool) (x : Num) : Nat :=
  let satv := match x with
    | .inf s => maxElem dt s
    | _ => 0
  if sat ∨ dt = 9 ∨ dt = 10 then satv
  else match nanElem dt with
    | some c => c
    | none => 0

/-- Scale byte of a block from its largest magnitude m × 2^e (R242, R243), and the exponent it stands for. -/
def blockScale (dt m : Nat) (e : Int) : Nat × Int :=
  if dt = 13 ∨ dt = 14 then
    -- k = ceil(log2(a) − d), d = 15/4 or 3/2: least k with a ≤ 2^(k + d), in exact arithmetic
    if m = 0 then (0, 0)
    else
      let den : Nat := if dt = 13 then 4 else 2
      let num : Nat := if dt = 13 then 15 else 3
      -- ceil(den × log2 a) exactly: log2 of m^den, up unless a power of two
      let p : Nat := m ^ den
      let isPow : Bool := p == 2 ^ Nat.log2 p
      let up : Int := (Nat.log2 p : Int) + (if isPow then 0 else 1) + den * e
      let k0 : Int := -((num - up) / den)
      let k := max (-127) (min 127 k0)
      (unsigned 8 k, k)
  else
    if m = 0 then (127, 0)
    else
      let ee : Int := if dt = 5 then 8 else if dt = 6 then 4 else 2
      let x := max 0 (min 254 (lead m e - ee + 127))
      (x.toNat, x - 127)

/-- Larger of two magnitudes m × 2^e. -/
def maxMag (a b : Nat × Int) : Nat × Int :=
  if Num.lt (.fin false a.1 a.2) (.fin false b.1 b.2) then b else a

/-- Encode one block (or a whole vector without block scales): element codes, and the scale byte. `words` holds the Spark
word of each element for stochastic rounding. -/
def encodeBlock (dt : Nat) (sat : Bool) (xs : List Num) (words : List (Option Nat)) : List Nat × Nat :=
  let mags := xs.filterMap fun x => match x with
    | .fin _ m e => some (m, e)
    | _ => none
  let a := mags.foldl maxMag (0, 0)
  let sc := if blockOf dt = 0 then (0, 0) else blockScale dt a.1 a.2
  let nonfin := xs.any fun x => match x with
    | .fin _ _ _ => false
    | _ => true
  if blockNan dt && nonfin && !sat then (xs.map fun _ => 0, 0xFF)
  else
    ((xs.zip words).map fun p => match p.1 with
      | .fin s m e => encodeElem dt sc.2 s m e p.2
      | y => encodeNonfinite dt sat y, sc.1)

/-- Successive runs of `n` elements; `k` bounds their number. -/
def chunksOf {α : Type} (n : Nat) : Nat → List α → List (List α)
  | 0, _ => []
  | k + 1, l => if l.isEmpty then [] else l.take n :: chunksOf n k (l.drop n)

/-- Encode a vector: element codes and the scale bytes of its blocks (R192 to R198, R242, R243). -/
def encodeVec (dt : Nat) (sat : Bool) (xs : List Num) (words : List (Option Nat)) : List Nat × List Nat :=
  if blockOf dt = 0 then ((encodeBlock dt sat xs words).1, [])
  else
    let b := blockOf dt
    let cs := (chunksOf b xs.length xs).zip (chunksOf b words.length words)
    let r := cs.map fun c => encodeBlock dt sat c.1 c.2
    (r.flatMap (·.1), r.map (·.2))

/-- Packed bit string of w-bit elements (R162), as a number. -/
def pack (w : Nat) : List Nat → Nat
  | [] => 0
  | c :: r => c % 2 ^ w + 2 ^ w * pack w r

/-- Element i of a packed bit string. -/
def unpackAt (w v i : Nat) : Nat := bits v (w * i) w

/-- 2^(l/256) as a number: exact for whole powers, else rounded to nearest with 24 significant bits. -/
def pow2Num (s : Bool) (l : Int) : Num :=
  let i := l / 256
  let f := (l - 256 * i).toNat
  if f = 0 then .fin s 1 i else .fin s (pow2Near 23 f) (i - 23)

/-- Decode an element to a number, with its block scale byte (R165 to R171, R306). -/
def decodeElem (dt scale v : Nat) : Num :=
  let b := blockExp dt scale
  if b.2 then .nan
  else match tallowOf dt with
  | some (cb, _, _) =>
    let c := toCif dt v
    if c.nan then .nan else if c.zero then Num.zero0 else pow2Num (bit v cb) (c.log + 256 * b.1)
  | none =>
    if dt = 9 ∨ dt = 10 then Num.ofInt (signed (elemBits dt) v) 0
    else match ffmtOf dt with
      | some f =>
        (match f.decode v with
         | .fin s m e => .fin s m (e + b.1)
         | x => x)
      | none => .nan

end Sys2Proof.Machine
end

