-- ==== Sys2Proof/Machine/Crypto.lean ====
section
/-!
DEFINITION. Crypto.lean: SHA-256 (FIPS 180-4) and ECDSA over P-256 (SEC 1, FIPS 186), which R638 to R656 name.
-/
namespace Sys2Proof.Machine

/-! ## SHA-256

Its constants are fraction bits of roots of the first primes, and are computed so. -/

/-- A number from bytes, and n bytes of a number, most significant byte first. -/
def ofBE (b : List Byte) : Nat := b.foldl (fun a x => a * 256 + x.toNat) 0
def toBE (n v : Nat) : List Byte := (toLE n v).reverse

/-- The primes below 312: the first 64. -/
def smallPrimes : List Nat := (List.range 312).filter fun n => decide (2 ≤ n) && (List.range n).all fun d => decide (d < 2) || n % d != 0

/-- The first 32 fraction bits of the k-th roots of some primes. -/
def rootWords (k : Nat) (l : List Nat) : List Word32 := l.map fun q => BitVec.ofNat 32 (rootBits k (q * 2 ^ (32 * k)) 37 0)

/-- The xor of the right rotations of a word by the amounts of a list. -/
def spins (l : List Nat) (w : Word32) : Word32 := l.foldl (fun a n => a ^^^ w.rotateRight n) 0

/-- Hashing of one block under way: the eight working variables, and the next sixteen words of the message schedule. -/
structure ShaRun where
  vars : List Word32
  next : List Word32

/-- One round with constant k: the front word of the schedule is used, and the word sixteen places on joins its end. -/
def ShaRun.round (s : ShaRun) (k : Word32) : ShaRun :=
  let w (i : Nat) : Word32 := s.next.getD i 0
  let more := w 0 + (spins [7, 18] (w 1) ^^^ (w 1 >>> 3)) + w 9 + (spins [17, 19] (w 14) ^^^ (w 14 >>> 10))
  { next := s.next.drop 1 ++ [more]
    vars := match s.vars with
      | [a, b, c, d, e, f, g, h] =>
        let t := h + spins [6, 11, 25] e + (g ^^^ (e &&& (f ^^^ g))) + k + w 0
        [t + spins [2, 13, 22] a + ((a &&& b) ||| (c &&& (a ||| b))), a, b, c, d + t, e, f, g]
      | l => l }

/-- One 64-byte block taken into a digest of eight words. -/
def shaBlock (dig : List Word32) (blk : List Byte) : List Word32 :=
  let start : ShaRun := { vars := dig, next := (List.range 16).map fun i => BitVec.ofNat 32 (ofBE ((blk.drop (4 * i)).take 4)) }
  (dig.zip ((rootWords 3 smallPrimes).foldl ShaRun.round start).vars).map fun q => q.1 + q.2

/-- SHA-256 of a byte string, 32 octets: a one bit, zeros and the length in bits fill the last block. -/
def sha256 (m : List Byte) : List Byte :=
  let full := m ++ [0x80] ++ List.replicate ((119 - m.length % 64) % 64) 0 ++ toBE 8 (8 * m.length)
  ((chunksOf 64 full.length full).foldl shaBlock (rootWords 2 (smallPrimes.take 8))).flatMap fun w => toBE 4 w.toNat

/-! ## P-256 -/

def pP : Nat := 0xffffffff00000001000000000000000000000000ffffffffffffffffffffffff
def pN : Nat := 0xffffffff00000000ffffffffffffffffbce6faada7179e84f3b9cac2fc632551
def pB : Nat := 0x5ac635d8aa3a93e7b3ebbd55769886bc651d06b0cc53b0f63bce3c3e27d2604b
def pGx : Nat := 0x6b17d1f2e12c4247f8bce6e563a440f277037d812deb33a0f4a13945d898c296
def pGy : Nat := 0x4fe342e2fe1a7f9b8ee7eb4a7c0f9e162bce33576b315ececbb6406837bf51f5

/-- b to the power e modulo m, from the k low bits of e. -/
def powMod (m : Nat) : Nat → Nat → Nat → Nat
  | 0, _, _ => 1 % m
  | k + 1, b, e => (if e % 2 = 1 then b else 1) * powMod m k (b * b % m) (e / 2) % m

/-- Inverse modulo a prime of 256 bits. -/
def invMod (m a : Nat) : Nat := powMod m 256 (a % m) (m - 2)

/-- Sum of two points; `none` is the point at infinity. -/
def ptAdd (p q : Option (Nat × Nat)) : Option (Nat × Nat) :=
  match p, q with
  | none, _ => q
  | _, none => p
  | some (x1, y1), some (x2, y2) =>
    if x1 = x2 ∧ (y1 + y2) % pP = 0 then none
    else
      let l := if x1 = x2 then (3 * x1 * x1 + pP - 3) * invMod pP (2 * y1) % pP
        else (y2 + pP - y1) * invMod pP (x2 + pP - x1) % pP
      let x3 := (l * l + 2 * pP - x1 - x2) % pP
      some (x3, (l * (x1 + pP - x3) + pP - y1) % pP)

/-- The point k × p, from the n low bits of k. -/
def ptMul : Nat → Nat → Option (Nat × Nat) → Option (Nat × Nat)
  | 0, _, _ => none
  | n + 1, k, p => ptAdd (if k % 2 = 1 then p else none) (ptMul n (k / 2) (ptAdd p p))

def basePt : Option (Nat × Nat) := some (pGx, pGy)

/-- The point of a 64-octet public key, if it lies on the curve. -/
def keyPt (k : List Byte) : Option (Nat × Nat) :=
  let x := ofBE (k.take 32)
  let y := ofBE (k.drop 32)
  if x < pP ∧ y < pP ∧ y * y % pP = (x * x * x + (pP - 3) * x + pB) % pP then some (x, y) else none

/-- Public key of a private key, x then y. -/
def pubKey (d : Nat) : List Byte :=
  match ptMul 256 d basePt with
  | some (x, y) => toBE 32 x ++ toBE 32 y
  | none => []

/-- A 64-octet signature of a digest under a public key is valid. -/
def ecdsaOk (key digest sig : List Byte) : Bool :=
  let r := ofBE (sig.take 32)
  let s := ofBE (sig.drop 32)
  match keyPt key with
  | none => false
  | some q =>
    if r = 0 ∨ s = 0 ∨ pN ≤ r ∨ pN ≤ s then false
    else
      let w := invMod pN s
      let u := ofBE digest * w % pN
      let v := r * w % pN
      match ptAdd (ptMul 256 u basePt) (ptMul 256 v (some q)) with
      | some (x, _) => x % pN == r
      | none => false

/-- The signature of a digest with private key d and nonce k. -/
def ecdsaSign (d k : Nat) (digest : List Byte) : List Byte :=
  match ptMul 256 k basePt with
  | some (x, _) =>
    let r := x % pN
    toBE 32 r ++ toBE 32 (invMod pN k * (ofBE digest + r * d) % pN)
  | none => []

/-! ## DER and X.509 (R652) -/

/-- The first DER value of a list of octets: its tag, its contents, and what follows it. -/
def derFirst : List Byte → Option (Nat × List Byte × List Byte)
  | t :: n :: r =>
    let k := if n.toNat < 128 then 0 else n.toNat - 128
    let len := if n.toNat < 128 then n.toNat else ofBE (r.take k)
    let body := r.drop k
    if len ≤ body.length then some (t.toNat, body.take len, body.drop len) else none
  | _ => none

/-- The DER values, at most `k` of them, that follow one another: tag and contents of each. -/
def derList : Nat → List Byte → List (Nat × List Byte)
  | 0, _ => []
  | k + 1, l =>
    match derFirst l with
    | some (t, c, r) => (t, c) :: derList k r
    | none => []

/-- Contents of value `i` among those that make up `l`. -/
def derAt (l : List Byte) (i : Nat) : List Byte := (((derList (i + 1) l)[i]?).map (·.2)).getD []

/-- Octets of the subject public key of an X.509 certificate whose contents are given: the bit string of its
SubjectPublicKeyInfo, the sixth field of the TBSCertificate after the optional version. -/
def certKey (cert : List Byte) : List Byte :=
  let tbs := derAt cert 0
  let version := (derFirst tbs).any fun f => f.1 == 0xA0
  (derAt (derAt tbs (if version then 6 else 5)) 1).drop 1

/-- The key octets of a SEC 1 point are those of the public key `q`, x then y: uncompressed, or compressed. -/
def isKey (q k : List Byte) : Bool :=
  k == 0x04 :: q || k == (if ofBE (q.drop 32) % 2 = 0 then 0x02 else 0x03) :: q.take 32

/-- The public key of the last certificate of a chain region is `q` (R651, R652): 2 octets of length, 2 reserved, the root hash,
and the certificates, root first and leaf last. -/
def leafIs (chain q : List Byte) : Bool :=
  match (derList chain.length ((chain.take (leAt chain 0 2)).drop 36)).getLast? with
  | some (_, cert) => isKey q (certKey cert)
  | none => false

end Sys2Proof.Machine
end

