-- ==== Sys2Proof/Machine/Attestation.lean ====
section
/-!
DEFINITION. Attestation.lean: the DOE mailboxes and the SPDM 1.2 responder (R654 to R656). Message layouts are those of the DMTF
and PCIe documents that R654 names.
-/
namespace Sys2Proof.Machine
open Sys2Proof.Config

/-! ## The mailbox (R654, R655) -/

/-- Stages in which the mailboxes answer. -/
def State.doeStage (s : State) : Bool :=
  let g := s.fld F.stage
  g == bgReady || g == bgRecovery || g == bgRamVerify

/-- The mailboxes answer in READY, RECOVERY and RAM_VERIFY; a mailbox that holds a request in progress is busy. -/
def State.doeOpen (s : State) (port : Nat) : Bool :=
  s.doeStage && (s.host port).doeReq.isNone

/-- A response becomes due `marks` marks after the last dword of its request. -/
def State.answer (s : State) (port marks : Nat) (msg : List Byte) : State :=
  s.setHost port { s.host port with doeReq := some (s.now + marks * cyclesPerMark, msg) }

/-- A data object: vendor 0x0001, type, length in dwords, and the message padded to dwords. -/
def doeObject (type : Nat) (msg : List Byte) : List Byte :=
  let n := cdiv msg.length 4
  toLE 2 1 ++ toLE 1 type ++ toLE 1 0 ++ toLE 4 (n + 2) ++ (msg ++ toLE 4 0).take (4 * n)

/-- DOE_DISCOVERY: object 0 is DOE Discovery, object 1 CMA/SPDM. -/
def execDoeDiscovery (port index : Nat) (s : State) : Host.Outcome State Fault Refusal :=
  s.act (
    if s.doeOpen port then
      let r := if index = 0 then toLE 2 1 ++ toLE 1 0 ++ toLE 1 1 else if index = 1 then toLE 2 1 ++ toLE 1 1 ++ toLE 1 0
        else toLE 2 0xFFFF ++ toLE 2 0
      s.answer port 16 (doeObject 0 r)
    else s)

/-! ## SPDM (R654) -/

def spdm (code p1 p2 : Nat) (body : List Byte) : List Byte :=
  doeObject 1 (toLE 1 0x12 ++ toLE 1 code ++ toLE 1 p1 ++ toLE 1 p2 ++ body)

/-- ERROR response: 1 InvalidRequest, 4 UnexpectedRequest, 7 UnsupportedRequest. -/
def spdmError (code data : Nat) : List Byte := spdm 0x7F code data []

/-- A request that needs connection state `need`: answered by `f`, which gives the marks until the response, the response and the
next connection state; out of order it is an UnexpectedRequest. -/
def State.spdmReq (s : State) (port need : Nat) (f : State → Nat × List Byte × Nat) : State :=
  if s.doeOpen port then
    if (s.host port).doeState < need then s.answer port 16 (spdmError 4 0)
    else
      let r := f s
      (s.setHost port { s.host port with doeState := r.2.2 }).answer port r.1 r.2.1
  else s

def execGetVersion (port : Nat) (s : State) : Host.Outcome State Fault Refusal :=
  s.act (s.spdmReq port 0 fun _ =>
    (16, doeObject 1 (toLE 1 0x10 ++ toLE 1 0x04 ++ toLE 3 0 ++ toLE 1 1 ++ toLE 2 0x1200), 1))

/-- Free bytes of a message field that neither the manual nor the responder's own state gives. -/
def freeBytes (k n : Nat) : List Byte := (List.range n).map fun i => spdmByte k i

/-- GET_CAPABILITIES: CERT_CAP, CHAL_CAP, MEAS_CAP 2, CTExponent 12; the transfer sizes are open. -/
def execGetCapabilities (port : Nat) (s : State) : Host.Outcome State Fault Refusal :=
  s.act (s.spdmReq port 1 fun _ =>
    (16, spdm 0x61 0 0 (toLE 1 0 ++ toLE 1 12 ++ toLE 2 0 ++ toLE 4 (2 + 4 + 2 * 8) ++ freeBytes 0 8), 2))

/-- NEGOTIATE_ALGORITHMS: ECDSA P-256, SHA-256, DMTF measurements. -/
def execNegotiateAlgorithms (port : Nat) (s : State) : Host.Outcome State Fault Refusal :=
  s.act (s.spdmReq port 2 fun _ =>
    (16, spdm 0x63 0 0 (toLE 2 36 ++ toLE 1 1 ++ toLE 1 0 ++ toLE 4 2 ++ toLE 4 0x10 ++ toLE 4 1 ++ toLE 16 0), 3))

/-- Slot 0 is provisioned. -/
def State.idOk (s : State) : Bool := s.flag F.idOk

/-- The certificate chain: as many bytes as its length field says (R652). -/
def State.certChain (s : State) : List Byte := s.board.chain.take (Nat.min 24576 (leAt s.board.chain 0 2))

def execGetDigests (port : Nat) (s : State) : Host.Outcome State Fault Refusal :=
  s.act (s.spdmReq port 3 fun t =>
    (16, spdm 0x01 0 (b2n t.idOk) (if t.idOk then sha256 t.certChain else []), 3))

/-- GET_CERTIFICATE: the portion of the chain that the request names. -/
def execGetCertificate (port slot off len : Nat) (s : State) : Host.Outcome State Fault Refusal :=
  s.act (s.spdmReq port 3 fun t =>
    let c := t.certChain
    if slot ≠ 0 ∨ t.idOk = false ∨ c.length ≤ off then (16, spdmError 1 0, 3)
    else
      let n := Nat.min len (c.length - off)
      (16, spdm 0x02 0 0 (toLE 2 n ++ toLE 2 (c.length - off - n) ++ (c.drop off).take n), 3))

/-- The signature of the transcript, whose hash the manual does not lay out, by the identity engine (R651). -/
def State.spdmSign (s : State) : List Byte :=
  match s.board.idKey with
  | some d => ecdsaSign d (1 + nonce s.board.signs % (pN - 1)) (freeBytes (2 * s.board.signs + 2) 32)
  | none => []

/-- The responder's nonce of a message. -/
def State.spdmNonce (s : State) : List Byte := freeBytes (2 * s.board.signs + 1) 32

/-- One more message with a nonce of the device. -/
def State.signedOnce (s : State) : State := s.modBoard fun b => { b with signs := b.signs + 1 }

/-- CHALLENGE: CHALLENGE_AUTH with the chain hash, a nonce and the signature. -/
def execChallenge (port slot : Nat) (_nonce : List Byte) (s : State) : Host.Outcome State Fault Refusal :=
  s.act (
    let s1 := s.spdmReq port 3 fun t =>
      if t.idOk = false then (16, spdmError 7 0x83, 3)
      else if slot ≠ 0 then (16, spdmError 1 0, 3)
      else (2048, spdm 0x03 0 1 (sha256 t.certChain ++ t.spdmNonce ++ toLE 2 0 ++ t.spdmSign), 3)
    if s.doeOpen port then s1.signedOnce else s1)

/-! ## Measurements (R656) -/

/-- SHA-256 of an accepted object, or 32 zero bytes. -/
def digestOf (obj : List Byte) : List Byte := if obj.isEmpty then toLE 32 0 else sha256 obj

/-- Value type and value of measurement `i`. -/
def State.measurement (s : State) (i : Nat) : Nat × List Byte :=
  if i = 1 then (0x00, romDigest)
  else if i = 2 then (0x03, digestOf s.board.config)
  else if i = 3 then (0x01, digestOf s.board.image)
  else if i = 4 then (0x87, toLE 4 (s.fld F.imgSvn))
  else if i = 5 then (0x84, toLE 1 (s.fld F.imgKey) ++ toLE 1 (s.fld F.cfgKey) ++ toLE 6 0 ++
    (s.board.image.drop 48 ++ toLE 64 0).take 64)
  else if i = 6 then (0x03, if s.flag F.ownerKeyEn then digestOf s.board.ownerBlk else toLE 32 0)
  else (0x84, toLE 4 ((s.reg F.bootStatus).toNat % 2 ^ 32) ++ toLE 4 0)

/-- The DMTF block of measurement `i`. -/
def State.measBlock (s : State) (i : Nat) : List Byte :=
  let m := s.measurement i
  toLE 1 i ++ toLE 1 1 ++ toLE 2 (m.2.length + 3) ++ toLE 1 m.1 ++ toLE 2 m.2.length ++ m.2

/-- GET_MEASUREMENTS: index 0 asks for the count, 0xFF for all seven blocks. -/
def execGetMeasurements (port index slot : Nat) (signed : Bool) (_nonce : List Byte) (s : State) :
    Host.Outcome State Fault Refusal :=
  s.act (
    let s1 := s.spdmReq port 3 fun t =>
      if signed && !t.idOk then (16, spdmError 7 0xE0, 3)
      else if (signed && slot != 0) || (decide (7 < index) && index != 0xFF) then (16, spdmError 1 0, 3)
      else
        let l := if index = 0 then [] else if index = 0xFF then [1, 2, 3, 4, 5, 6, 7] else [index]
        let rec_ := l.flatMap fun i => t.measBlock i
        let body := toLE 1 l.length ++ toLE 3 rec_.length ++ rec_ ++ t.spdmNonce ++ toLE 2 0 ++ (if signed then t.spdmSign else [])
        (if signed then 2048 else 16, spdm 0x60 (if index = 0 then 7 else 0) 0 body, 3)
    if s.doeOpen port then s1.signedOnce else s1)

/-- The dwords of a message. -/
def dwords (msg : List Byte) : List Word32 :=
  (List.range (cdiv msg.length 4)).map fun i => BitVec.ofNat 32 (leAt msg (4 * i) 4)

/-- DOE_RESPONSE (R655): the response that is due is placed in the mailbox. -/
def execDoeResponse (port : Nat) (s : State) : Host.Outcome State Fault Refusal :=
  s.act (
    match (s.host port).doeReq with
    | some (t, msg) =>
      if t ≤ s.now then
        (s.setHost port { s.host port with doeReq := none, doeOut := dwords msg }).emit (.doe port msg)
      else s
    | none => s)

/-- DOE_ABORT (R655): the request in progress is discarded, and the connection is as before GET_VERSION. -/
def execDoeAbort (port : Nat) (s : State) : Host.Outcome State Fault Refusal :=
  s.act (s.setHost port { s.host port with doeReq := none, doeBuf := [], doeOut := [], doeState := 0 })

/-! ## The mailbox in configuration space (R654, R655)

Layout of the DOE registers and of the requests as PCI Express and DMTF give them (PRESUMED, assumption 104). -/

/-- DOE Status: Busy in the other stages and while a request is in progress, and Data Object Ready. -/
def State.doeStatus (s : State) (port : Nat) : Nat :=
  b2n (!s.doeStage || (s.host port).doeReq.isSome) + 2 ^ 31 * b2n (!(s.host port).doeOut.isEmpty)

/-- A dword written to the mailbox. -/
def State.doePush (s : State) (port : Nat) (v : Word32) : State :=
  s.setHost port { s.host port with doeBuf := (s.host port).doeBuf ++ [v], doeAt := s.now }

/-- An SPDM request is carried out by its code; one that R654 does not list gives ERROR UnsupportedRequest. -/
def State.spdmCode (s : State) (port : Nat) (m : List Byte) : State :=
  let code := leAt m 1 1
  let p1 := leAt m 2 1
  let nonce := (m.drop 4).take 32
  if code = 0x84 then settled s (execGetVersion port s)
  else if code = 0xE1 then settled s (execGetCapabilities port s)
  else if code = 0xE3 then settled s (execNegotiateAlgorithms port s)
  else if code = 0x81 then settled s (execGetDigests port s)
  else if code = 0x82 then settled s (execGetCertificate port p1 (leAt m 4 2) (leAt m 6 2) s)
  else if code = 0x83 then settled s (execChallenge port p1 nonce s)
  else if code = 0xE0 then settled s (execGetMeasurements port (leAt m 3 1) (leAt m 36 1) (bit p1 0) nonce s)
  else if s.doeOpen port then s.answer port 16 (spdmError 7 code)
  else s

/-- The response of a port counts from the last dword of its request, `d` cycles ago (R655). -/
def State.doeBack (s : State) (port d : Nat) : State :=
  s.setHost port { s.host port with doeReq := (s.host port).doeReq.map fun r => (r.1 - d, r.2) }

/-- DOE Go: the object in the mailbox is DOE Discovery or an SPDM request, answered so many marks after its last dword (R655); another
one is discarded. -/
def State.doeGo (s : State) (port : Nat) : State :=
  let h := s.host port
  let m := h.doeBuf.flatMap fun w => toLE 4 w.toNat
  let t := s.setHost port { h with doeBuf := [] }
  let u := if leAt m 2 1 = 0 then settled t (execDoeDiscovery port (leAt m 8 1) t)
    else if leAt m 2 1 = 1 then t.spdmCode port (m.drop 8)
    else t
  if !s.doeOpen port || leAt m 0 2 != 1 then t else u.doeBack port (s.now - h.doeAt)

end Sys2Proof.Machine
end

