-- ==== Sys2Proof/Machine/Operands.lean ====
section
/-!
DEFINITION. Operands.lean: the fields of an instruction word (R262, R263), launch records (R255), a thread's registers,
local offsets and scoreboard regions, and what an instruction asks of the tile (a plan).
-/
namespace Sys2Proof.Machine
open Sys2Proof.Config

/-! ## Instruction fields (R262, R263) -/

def wClass (w : Nat) : Nat := bits w 0 4
def wOp (w : Nat) : Nat := bits w 4 6
-- format R
def wRd (w : Nat) : Nat := bits w 10 5
def wRa (w : Nat) : Nat := bits w 15 5
def wRb (w : Nat) : Nat := bits w 20 5
def wAux (w : Nat) : Nat := bits w 25 7
def wImm (w : Nat) : Int := signed 32 (bits w 32 32)
def wImmU (w : Nat) : Nat := bits w 32 32
-- format V
def vVd (w : Nat) : Nat := bits w 10 3
def vVa (w : Nat) : Nat := bits w 13 3
def vVb (w : Nat) : Nat := bits w 16 3
def vVc (w : Nat) : Nat := bits w 19 3
def vDt (w : Nat) : Nat := bits w 22 4
def vRnd (w : Nat) : Nat := bits w 26 2
def vCc (w : Nat) : Nat := bits w 28 4
def vRs (w : Nat) : Nat := bits w 32 5
def vRt (w : Nat) : Nat := bits w 37 5
def vRes (w : Nat) : Nat := bits w 42 22
-- format M
def mMask (w : Nat) : Nat := bits w 10 4
def mBank (w : Nat) : Nat := bits w 14 1
def mDtype (w : Nat) : Nat := bits w 15 4
def mAf (w : Nat) : Bool := bit w 19
def mInit (w : Nat) : Bool := bit w 20
def mRot (w : Nat) : Bool := bit w 21
def mRa (w : Nat) : Nat := bits w 22 5
def mRb (w : Nat) : Nat := bits w 27 5
def mRc (w : Nat) : Nat := bits w 32 5
def mDslot (w : Nat) : Nat := bits w 37 9
def mDslotEn (w : Nat) : Bool := bit w 46
def mImm (w : Nat) : Nat := bits w 47 17

/-! ## Launch records (R255) -/

def Thread.tileNo (x : Thread) : Nat := leAt x.record 0 2
def Thread.hNo (x : Thread) : Nat := leAt x.record 2 1
def Thread.shared (x : Thread) : Bool := bit (leAt x.record 3 1) 0
def Thread.ctx (x : Thread) : Nat := leAt x.record 4 2 % 4096
def Thread.accBlocks (x : Thread) : Nat := leAt x.record 6 2
def Thread.spBase (x : Thread) : Nat := leAt x.record 8 3
def Thread.accBase (x : Thread) : Nat := leAt x.record 11 1
def Thread.spSize (x : Thread) : Nat := leAt x.record 12 4
def Thread.codeBase (x : Thread) : Nat := leAt x.record 16 4
def Thread.codeSize (x : Thread) : Nat := leAt x.record 20 4
def Thread.entryOf (x : Thread) : Nat := leAt x.record 24 4
def Thread.arg (x : Thread) (i : Nat) : Nat := leAt x.record (32 + 8 * i) 8

/-! ## Registers (R259) -/

/-- Scalar register r: s0 always reads 0. -/
def Thread.sreg (x : Thread) (r : Nat) : Nat := if r = 0 then 0 else ((tfind x.sregs r).getD 0).toNat

/-- Scalar register r written: s0 ignores writes. -/
def Thread.setSreg (x : Thread) (r : Nat) (v : Word) : Thread :=
  if r = 0 then x else { x with sregs := tset 0 (tdel x.sregs r) r v }

def zeroLanes : List Word32 := List.replicate 64 0

/-- Vector register r as 64 lanes. -/
def Thread.vreg (x : Thread) (r : Nat) : List Word32 := (tfind x.vregs r).getD zeroLanes

def Thread.setVreg (x : Thread) (r : Nat) (v : List Word32) : Thread :=
  { x with vregs := tset zeroLanes (tdel x.vregs r) r v }

/-! ## Local offsets and regions (R267, R268, R276) -/

/-- Register value plus IMM, modulo 2^64. -/
def localOff (v : Nat) (imm : Int) : Nat := unsigned 64 ((v : Int) + imm)

/-- A local access of n bytes at offset o lies in the scratchpad allotment, aligned to `al`, and, if it writes, outside
the code range (R294). -/
def Thread.localOk (x : Thread) (o n al : Nat) (wr : Bool) : Bool :=
  decide (x.spBase ≤ o ∧ o + n ≤ x.spBase + x.spSize) && o % al == 0 &&
    (!wr || n == 0 || decide (o + n ≤ x.codeBase ∨ x.codeBase + x.codeSize ≤ o))

/-- Scratchpad regions of 1 KiB that a byte range meets. -/
def spRegions (o n : Nat) : List Nat :=
  if n = 0 then [] else (List.range ((o + n - 1) / 1024 - o / 1024 + 1)).map (· + o / 1024)

/-- Accumulator blocks that a word range meets, numbered after the 1,536 scratchpad regions. -/
def accRegions (w n : Nat) : List Nat :=
  if n = 0 then [] else (List.range ((w + n - 1) / 256 - w / 256 + 1)).map (· + (1536 + w / 256))

/-! ## What an instruction asks of the tile -/

/-- A plan: the condition of R593 that makes the instruction illegal (0: none), its register operands, its sets, its
own readiness conditions and, if it issues, its count and effects. -/
structure Plan where
  cond    : Nat
  sread   : List Nat
  swrite  : Option Nat
  vread   : List Nat
  vwrite  : Option Nat
  reads   : List Nat
  writes  : List Nat
  ready   : Bool
  count   : Nat
  effects : List Effect
  jump    : Option Nat          -- target PC of a taken branch or jump
  line    : Option Nat
  mat     : Option MatUse
  answer  : Bool
  unit    : Nat
  useInput : Nat                -- vector or OCU input cycles, or stream-port cycles
  port    : Nat                 -- whose input they occupy: 0 none, 1 vector, 2 OCU, 3 stream port
  current : Option Nat          -- current banks of the tile's arrays after the issue
  tenant  : Option (Nat × Nat × Bool)  -- an access to GDDR7: partition, offset, and whether it enters the TENANT queue (R529)
  desc    : Option Desc         -- a descriptor that DMA_SUBMIT queues
  chan    : Nat
  suppressed : Bool             -- a signal suppressed in a replay (R608)
  run     : Option StreamRun    -- the passes of a MAT_STREAM
deriving DecidableEq, Repr

def Plan.none0 : Plan :=
  { cond := 0, sread := [], swrite := none, vread := [], vwrite := none, reads := [], writes := [], ready := true,
    count := 1, effects := [], jump := none, line := none, mat := none, answer := false, unit := 0, useInput := 0, port := 0,
    current := none, tenant := none, desc := none, chan := 0, suppressed := false, run := none }

/-- An illegal instruction with the condition that breaks. -/
def Plan.illegal (c : Nat) : Plan := { Plan.none0 with cond := c }

/-- First failing condition of a list, or the plan. -/
def Plan.guard (p : Plan) : List (Nat × Bool) → Plan
  | [] => p
  | (c, ok) :: r => if ok then p.guard r else { p with cond := c }

/-- A register result: s0 is never recorded as pending (R269). -/
def dstOf (r : Nat) : Option Nat := if r = 0 then none else some r

/-- The scratchpad and accumulator words of a thread's tile. -/
def Thread.base (x : Thread) : Nat := windowOf x.tileNo
def State.localBytes (s : State) (x : Thread) (o n : Nat) : List Byte := s.readMem (x.base + o) n
def State.localLE (s : State) (x : Thread) (o n : Nat) : Nat := s.readLE (x.base + o) n

/-- Partition of a thread's tile. -/
def Thread.part (x : Thread) : Nat := x.tileNo / 128

def ofLane (l : List Word32) (i : Nat) : Nat := (l.getD i 0).toNat
def lanes (f : Nat → Nat) : List Word32 := (List.range 64).map fun i => BitVec.ofNat 32 (f i)

/-- Bytes of a vector register, lane i at bytes 4i to 4i + 3 (R259). -/
def laneBytes (l : List Word32) : List Byte := l.flatMap fun v => toLE 4 v.toNat

/-- A vector register from 256 bytes. -/
def bytesLanes (b : List Byte) : List Word32 := lanes fun i => leAt b (4 * i) 4

end Sys2Proof.Machine
end

