-- ==== Sys2Proof/Machine/Flags.lean ====
section
/-!
DEFINITION. Flags.lean: the four step flags NF, POISON, SKEW and FAULT of a hearth partition (R430), the control block
that mirrors them (R419), and the faults of threads that set them (R296, R297).
-/
namespace Sys2Proof.Machine
open Sys2Proof.Config

/-! ## The control area (R416, R419) -/

/-- The step as partition p read it. -/
def Step.view (t : Step) (p : Nat) : StepView := (tfind t.views p).getD { header := [], list := [], mainTab := [], updTab := [] }
def StepView.mode (v : StepView) : Nat := leAt v.header 1 1
def StepView.tied (v : StepView) : Bool := bit (leAt v.header 2 1) 0
def StepView.voteGroup (v : StepView) : Nat := leAt v.header 4 2
def StepView.collCount (v : StepView) : Nat := leAt v.header 6 2
def StepView.voteId (v : StepView) : Nat := leAt v.header 8 4
def StepView.lead (v : StepView) : Nat := leAt v.header 12 4
def StepView.listed (v : StepView) (id : Nat) : Bool := v.list.any fun e => e.1 == id
/-- TIED is set in the header (R429), as some partition of the step read it. -/
def Step.tied (t : Step) : Bool := t.parts.any fun p => (t.view p).tied
/-- Update mark U on partition p. -/
def Step.updateMark (t : Step) (p : Nat) : Nat := t.commit - (t.view p).lead
/-- Virtual address of the control block of partition p. -/
def Step.ctl (t : Step) (p : Nat) : Nat := leAt (t.view p).header 48 8 + 256 * p

def State.step? (s : State) (cid : Nat) : Option Step := s.steps.find? fun t => t.cid == cid
def State.modStep (s : State) (cid : Nat) (f : Step → Step) : State :=
  { s with steps := updFirst (fun t => t.cid == cid) f s.steps }
/-- The step in flight on partition p. -/
def State.stepOn (s : State) (p : Nat) : Option Step := s.steps.find? fun t => t.parts.contains p

/-- SFLAGS of partition p: NF, POISON, SKEW, FAULT in bits 0 to 3 (R419). -/
def State.sflags (s : State) (p : Nat) : Nat :=
  s.fld (F.nf p) + 2 * s.fld (F.poison p) + 4 * s.fld (F.skew p) + 8 * s.fld (F.fault p)

/-- The device writes SFLAGS of the control block. -/
def State.mirror (s : State) (t : Step) (p extra : Nat) : State :=
  if t.started then s.writeVirt (some p) false t.ctx (t.ctl p + 39) (toLE 1 (s.sflags p + extra)) else s

/-- Set one step flag of partition p; set flags stay set until the step completes (R430). -/
def State.setStepFlag (s : State) (t : Step) (p : Nat) (f : Fld) : State :=
  if s.flag f then s else (s.setFld f 1).mirror t p 0

/-- NF_RAISE and FAULT_RAISE are looked at on one partition of a step (R430). -/
def State.pollOne (s : State) (t : Step) (p : Nat) : State :=
  if t.started && !t.ended.any (fun e => e.1 == p) then
    let b := s.readVirt (some p) false t.ctx (t.ctl p) 16
    let s1 := if leAt b 0 8 = 0 then s else s.setStepFlag t p (F.nf p)
    if leAt b 8 8 = 0 then s1 else s1.setStepFlag t p (F.fault p)
  else s

/-- NF_RAISE or FAULT_RAISE nonzero at any cycle sets NF or FAULT (R430). -/
def State.pollSteps (s : State) : State :=
  s.steps.foldl (fun a t => t.parts.foldl (fun b p => b.pollOne t p) a) s

/-- A header fault of partition p (R423). -/
def Step.noteHeader (p : Nat) (q : Step) : Step :=
  { q with hdrFault := if q.hdrFault.contains p then q.hdrFault else q.hdrFault ++ [p] }

/-! ## Thread faults (R296, R297, R364, R430) -/

/-- The step remembers the partition of a faulted thread. -/
def Step.noteFault (p : Nat) (q : Step) : Step :=
  { q with threadFault := if q.threadFault.contains p then q.threadFault else q.threadFault ++ [p] }

/-- A thread enters FAULTED; the flag FAULT of its step is set (R258, R430). -/
def State.stopThread (s : State) (t : Nat) : State :=
  let x := s.thread t
  if x.state = .live then
    let s1 := s.setThread t { x with state := .faulted }
    match x.owner with
    | .step cid =>
      (match s1.step? cid with
       | some st =>
         (s1.modStep cid (Step.noteFault x.part)).setStepFlag st x.part (F.fault x.part)
       | none => s1)
    | _ => s1
  else s

/-- The work is lost, to an access in the address space of a context where there is one (R364). -/
def Work.lose (w : Work) (fctx : Option Nat) : Work :=
  { w with lost := true, lostCtx := dedup (w.lostCtx ++ fctx.toList) }

/-- The work of samples `es` in the current frame of p is lost (R364, R365). -/
def State.loseCarried (s : State) (p : Nat) (es : List Nat) (fctx : Option Nat) : State :=
  s.modPart p fun y => { y with curWork := y.curWork.map fun w => if es.contains w.entry = true then w.lose fctx else w }

/-- A fault of a thread, by an access in the address space of context `fctx` where it is one (R296, R297, R364): FAULTED. A
kernel of a frame loses the work it carries. A SHARED thread faults no context: it writes a SHARED_FAULT entry and sets its
status bit, an event of vector 14. A thread that is not SHARED faults the command on whose behalf it runs: a step records the
fault, and completes FAULT_CONTEXT at its commit mark (R436). DESIGN CHOICE (assumption 141): the PC of the entry is the thread's at the
count, also for a fault of an instruction issued before it. Where it runs for no command, its context enters FAULTED at once
(assumption 114). -/
def State.faultThread (s : State) (t fctx : Nat) : State :=
  let x := s.thread t
  if x.state ≠ .live then s
  else
    let s1 := match x.owner with
      | .frame p _ => (s.stopThread t).loseCarried p x.carries (if fctx < 4096 then some fctx else none)
      | _ => s.stopThread t
    if x.shared then
      (s1.soot1 0x29 x.part 0 0 (x.tileNo / 8) (toLE 4 t ++ toLE 4 x.pc ++ toLE 2 fctx)).setEvt (F.sharedFault x.part) 14
    else
      match x.owner with
      | .step _ => s1
      | _ => s1.faultCtx x.ctx stFaultContext

/-- An ILLEGAL soot entry and the thread's fault (R295, R593). -/
def State.illegalThread (s : State) (t pc cond : Nat) : State :=
  let x := s.thread t
  (s.soot1 0x10 x.part 0 (sootCtx x.ctx) (x.tileNo / 8) (toLE 4 t ++ toLE 4 pc ++ toLE 1 cond)).faultThread t 0xFFFF

/-- A FAULTED thread stays so while the step on whose behalf it runs is in flight; one that runs for no command that is incomplete, until
a context reset or a teardown of its context ends (R258; assumption 114). -/
def State.heldFaulted (s : State) (x : Thread) : Bool :=
  s.ending x.ctx || (match x.owner with
    | .step cid => (s.step? cid).isSome
    | .ended => false
    | _ => true)

/-- A FAULTED thread becomes FREE when nothing holds it any more and its last issued instruction has reached its count
(R258). -/
def State.freeFaulted (s : State) (t : Nat) : State :=
  if (s.thread t).state = .faulted ∧ s.heldFaulted (s.thread t) = false ∧
      (s.inflight.all fun i => i.thread != t) = true then s.setThread t Thread.dflt else s

/-- R258 for every FAULTED thread. -/
def State.freeStopped (s : State) : State :=
  ((s.threads.filter fun e => e.2.state == .faulted).map (·.1)).foldl (fun a t => a.freeFaulted t) s

/-- The reset or teardown of context n has ended: its FAULTED threads become FREE, once their instructions have reached their counts
(R258). -/
def State.freeEnded (s : State) (n : Nat) : State :=
  let release (x : Thread) : Thread := match x.owner with
    | .step _ => x
    | _ => { x with owner := .ended }
  let l := s.threads.map fun e => if e.2.state == .faulted && e.2.ctx == n then (e.1, release e.2) else e
  { s with threads := l }.freeStopped

/-- Threads of a context that are not FREE. -/
def State.threadsOf (s : State) (n : Nat) : List Nat :=
  (s.threads.filter fun e => e.2.state != .free && e.2.ctx == n).map (·.1)

/-- Threads of a step that are not FREE. -/
def State.stepThreads (s : State) (cid : Nat) : List Nat :=
  (s.threads.filter fun e => e.2.state != .free && e.2.owner == .step cid).map (·.1)

/-- Every thread of a context enters FAULTED (R142, R145, R258). -/
def State.stopContext (s : State) (n : Nat) : State := (s.threadsOf n).foldl (fun a t => a.stopThread t) s

end Sys2Proof.Machine
end

