-- ==== Sys2Proof/Machine/Fabric.lean ====
section
/-!
DEFINITION. Fabric.lean: the targets of an access and their published counts (R278, R313), the L2 of a partition (R533 to
R535), and the TENANT queues of the GDDR7 channels (R525 to R530).
-/
namespace Sys2Proof.Machine
open Sys2Proof.Config

/-! ## Channels (R525 to R530) -/

/-- Channel and line address of an offset within a partition's GDDR7 (R525). -/
def place (o : Nat) : Nat × Nat :=
  let pg := o / 2 ^ 21
  let lg := pg / 4 * 32768 + o / 64 % 32768
  (6 * (pg % 4) + lg % 6, lg / 6)

/-- LAMP positions of a partition (R527). -/
def State.lampPos (s : State) (p : Nat) : Nat := cdiv (s.fld (F.share p) * 25) 64

/-- FLUE positions: FLUE_POS on a hearth partition, else 0 (R527). -/
def State.fluePosNow (s : State) (p : Nat) : Nat := if s.role p = rHearth then s.fld (F.fluePos p) else 0

/-- Core cycle counted from mark 0 (R526). -/
def State.markCycle (s : State) : Nat := s.time.mark * cyclesPerMark + s.time.cyc

/-- First TENANT position of the wheel: a write of LAMP_SHARE or MEM_CFG changes it from the next segment on (R527, R528). -/
def State.tenantFirst (s : State) (p : Nat) : Nat :=
  let now := 2 + s.lampPos p + s.fluePosNow p
  match (s.part p).wheel with
  | some (from_, first) => if s.now < from_ then first else now
  | none => now

/-- TENANT positions of the present segment (R527). -/
def State.tenantPos (s : State) (p : Nat) : Nat := 25 - s.tenantFirst p

/-- The wheel as it stands serves the rest of the present segment (R528). -/
def State.keepWheel (s : State) (p : Nat) : State :=
  s.modPart p fun x => { x with wheel := some (s.now + 32 - s.time.cyc % 32, s.tenantFirst p) }

/-- Mark from which the TENANT positions of p serve again: a mid-step save takes them all for 240 marks (R627). -/
def State.saveTill (s : State) (p : Nat) : Nat :=
  maxOf ((s.cmds.filter fun c => c.op == opCtxSave && c.phase == .running && c.started && c.targets.any fun e => e.1 == p).map
    fun c => c.fld 32 8 + 240)

/-- The position that starts in the present cycle of its segment (R526). -/
def wheelPos (o : Nat) : Option Nat := (List.range 25).find? fun k => 32 * k / 25 == o

/-- Channel ch of p serves a waiting TENANT request in the present cycle: in a TENANT position, or in one that another class lends, which
has no request waiting (R526 to R529). Whether it lends it is free (assumption 12); a save lends none of those it takes (R627). -/
def State.tenantTurn (s : State) (p ch : Nat) : Bool :=
  match wheelPos (s.time.cyc % 32) with
  | none => false
  | some 0 => false
  | some k =>
    if s.time.mark < s.saveTill p ∧ k ≠ 1 then false
    else if s.tenantFirst p ≤ k then true
    else memLent s.free ch

/-- A request enters the TENANT queue of channel ch of p. -/
def State.tenantEnter (s : State) (p ch key : Nat) (who : Waiter) : State :=
  s.modPart p fun x => { x with tenant := x.tenant ++ [{ place := ch, entered := s.now, key := key, lines := 1, who := who }] }

/-- Order of the requests of partition p's clusters that enter in one cycle: by cluster, threads before DMA steps, and the command DMA
channel after them (R529). -/
def threadKey (t : Nat) : Nat := (16 * (t / 128 % 16) + t / 2048) * 8 + t / 16 % 8
def stepKey (cl : Nat) : Nat := (16 * (cl % 16) + 8 + cl / 16) * 8
def jobKey (p : Nat) : Nat := (256 + p) * 8
def agentKey (p : Nat) : Nat := (264 + p) * 8

/-- Order of entry (R529). -/
def MemReq.before (a b : MemReq) : Bool := decide (a.entered < b.entered) || (a.entered == b.entered && decide (a.key ≤ b.key))

/-- The requests that get their turn, each the first of its place, and those that go on waiting. -/
def takeTurns (turn : Nat → Bool) : List Nat → List MemReq → List MemReq × List MemReq
  | _, [] => ([], [])
  | seen, r :: l =>
    let q := takeTurns turn (r.place :: seen) l
    if turn r.place && !seen.contains r.place then (r :: q.1, q.2) else (q.1, r :: q.2)

/-- Cycles by which a request served at core cycle t has waited beyond the 64 cycles of its count (R530, R553). -/
def MemReq.excess (r : MemReq) (t : Nat) : Nat := t - (r.entered + 64)

/-- 64-byte lines that a range touches. -/
def linesOf (va len : Nat) : Nat := if len = 0 then 0 else (va + len - 1) / 64 - va / 64 + 1

/-! ## Slots of a CXL port (R553) -/

/-- Lines per mark that a running copy from a variant takes of port q (R553). -/
def State.variantCopy (s : State) (q : Nat) : Option Nat :=
  (s.jobs.find? fun j => j.live && j.variant == some q && decide (j.start ≤ s.time.mark) && decide (s.time.mark < j.endAt)).map
    fun j => j.rate

/-- Line slots per mark and direction of each partition at port q, as the copies stand (R553). -/
def State.cxlShare (s : State) (q : Nat) : Nat :=
  match s.variantCopy q with
  | some r => (2400 - r) / 8
  | none => 300

/-- A slot of a partition at place 2q + 1 or 2q comes in the present cycle. DESIGN CHOICE (assumption 12): the slots of a mark lie evenly in
it. -/
def State.cxlTurn (s : State) (place : Nat) : Bool :=
  let n := s.cxlShare (place / 2)
  let c := s.time.cyc
  decide (0 < n) && (c == 0 || decide ((c - 1) * n / cyclesPerMark < c * n / cyclesPerMark))

/-- Lines of an access by partition p wait for slots of port q (R553). -/
def State.cxlEnter (s : State) (p q : Nat) (rd : Bool) (key lines : Nat) (who : Waiter) : State :=
  s.modPart p fun x => { x with
    cxlQ := x.cxlQ ++ [{ place := 2 * q + b2n rd, entered := s.now, key := key, lines := lines, who := who }] }

/-- The lines of an agent's access that go to an expander take slots of its partition (R553). DESIGN CHOICE (assumption 12): those of BAR4
and of the control cores of all partitions at once take the slots of partition 0, and the lines of an agent follow one another. -/
def State.cxlAgent (s : State) (perf : Option Nat) (l : List (Nat × Nat)) (rd : Bool) : State :=
  l.foldl (fun a e => match cxlOf e.1 with
    | some (q, _) => a.cxlEnter (perf.getD 0) q rd (agentKey (perf.getD 0)) (linesOf e.1 e.2) .free
    | none => a) s

/-! ## Errors and lateness that the device reports (R280, R530, R537, R552, R554, R561, R562) -/

/-- Thread field of a soot entry that no thread is behind. DESIGN CHOICE (assumption 130): R593 gives 0xFFFF_FFFF for the lateness of
DMA, and for an error completion only "thread". -/
def noThread : Nat := 0xFFFFFFFF

/-- 16,384 marks, after which a read is given up (R561, R601). -/
def readLimit : Nat := 16384 * cyclesPerMark

/-- I/O die that soot entries of a host port name (R316, R592). -/
def hostDie (n : Nat) : Nat := 8 + n % 2

/-- HOST_SLOW for an access to host port k that is `late` cycles late (R280, R562). -/
def State.hostSlow (s : State) (k who late : Nat) : State :=
  s.soot1 0x13 (hostDie k) 0 0 k (toLE 4 who ++ toLE 4 late)

/-- CPL_ERR of host port k with its HOST_CPL_ERR entry, for a read of context n with a completion status (R561); a read of the PF that
nothing answers is an error of its AER too (R556). -/
def State.hostError (s : State) (k n who status : Nat) : State :=
  ((if status = 0 ∧ s.fld (F.cFunc n) = 0 then s.aerErr k 14 else s).hwSet (F.hCplErr k)).soot1 0x14 (hostDie k) 0 (sootCtx n) k (toLE 4 who ++ toLE 1 status)

/-- SLOW of a CXL port with its CXL_SLOW entry (R552). -/
def State.cxlSlowEvt (s : State) (q late : Nat) : State :=
  ((s.soot1 0x42 (8 + cxlDie q) 0 0 q (toLE 4 late)).hwSet (F.cxlSlow q)).raise 7

/-- MEDIA_ERR of a CXL port with its CXL_MEDIA entry (R554). -/
def State.cxlMediaEvt (s : State) (q pa : Nat) : State :=
  ((s.soot1 0x43 (8 + cxlDie q) 0 0 q (toLE 8 pa)).hwSet (F.cxlMediaErr q)).raise 7

/-- EDC_READ: a read of partition p's GDDR7 was repeated (R537). -/
def State.edcEvt (s : State) (p : Nat) : State := (s.hwSet (F.edcRead p)).raise 13

/-- WRITE_RETRIES of partition p counts k repeated writes (R538). -/
def State.retryEvt (s : State) (p k : Nat) : State :=
  if k = 0 then s else s.setFld (F.writeRetries p) (Nat.min 65535 (s.fld (F.writeRetries p) + k))

/-- The waiting writes of the control core of each partition, and of the other agents that are noted with it, reach GDDR7 in positions of
their class (R533); how many of them it has had repeated is free (R538, assumption 144). -/
def State.serveAgents (s : State) : State :=
  allParts.foldl (fun a p =>
    if (a.part p).agentQ then ((a.modPart p fun x => { x with agentQ := false }).retryEvt p (agentRetries a.free)).drawn else a) s

/-- An uncorrectable memory error of partition p: a MEM_UE entry and a partition fault (R36, R537). -/
def State.memUe (s : State) (p off : Nat) : State :=
  let c := place off
  (s.soot1 0x41 p 0 0 p (toLE 1 c.1 ++ toLE 4 c.2)).triggerReset p 3

/-- A request that waits beyond its count is reported (R530). -/
def State.memLate (s : State) (q ch wait : Nat) : State :=
  if wait = 0 then s
  else ((s.soot1 0x40 q 0 0 q (toLE 1 ch ++ toLE 4 wait)).hwSet (F.classLate q)).raise 13

/-- What the device records where a read of physical address a for context n comes back with an error: an uncorrectable memory
error, of which status 1 is a second mismatch (R537), a CXL_MEDIA entry (R554), or CPL_ERR and an entry for a host's error
completion; status 0 of either is a read that stays unanswered (R561, R601). -/
def State.readError (s : State) (n who a status : Nat) : State :=
  match gddrPart a, cxlOf a, hostOf a with
  | some q, _, _ => (if status = 1 then s.edcEvt q else s).memUe q (a - gddrBase q)
  | _, some (q, _), _ => if status = 0 then s.cxlSlowEvt q readLimit else s.cxlMediaEvt q a
  | _, _, some (k, _) => s.hostError k n who status
  | _, _, _ => s

/-- The first of some physical addresses that leaves the partitions, for a host or an expander. -/
def leaves (pas : List Nat) : Option Nat := pas.find? fun a => (hostOf a).isSome || (cxlOf a).isSome

/-- An access to one of some physical addresses that a host or an expander answers `late` cycles late is reported (R280, R552, R562). -/
def State.lateEvt (s : State) (pas : List Nat) (late : Nat) : State :=
  match late, leaves pas with
  | 0, _ => s
  | k, some a =>
    (match cxlOf a, hostOf a with
     | some (q, _), _ => s.cxlSlowEvt q k
     | none, some (h, _) => s.hostSlow h noThread k
     | none, none => s)
  | _, none => s

/-- The same for a read of a virtual range by partition `perf`, of which the first byte that leaves the partitions, or else the first
byte, names the unit. -/
def State.readFail (s : State) (perf : Option Nat) (flue : Bool) (n va len who : Nat) (err : Option Nat) : State :=
  match err with
  | some st =>
    let pas := (s.extents perf flue n va len true false).map (·.1)
    (match leaves pas, pas with
     | some a, _ => s.readError n who a st
     | none, a :: _ => s.readError n who a st
     | none, [] => s)
  | none => s

/-- No mishap. -/
def Meet.none : Meet := { err := Option.none, edc := false, late := 0, retries := 0, badWrite := false }

/-- What the reads of a partition, or of a request, meet, of those that an operand lists. -/
def meetOf (l : List (Nat × Meet)) (k : Nat) : Meet := (tfind l k).getD Meet.none

/-- Cycles by which an access to some physical addresses completes late (R552, R562). -/
def lateAt (m : Meet) (pas : List Nat) : Nat := if (leaves pas).isSome then m.late else 0

/-- An expander answers a write to some physical addresses with an error response (R554). -/
def badAt (m : Meet) (pas : List Nat) : Bool := m.badWrite && pas.any fun a => (cxlOf a).isSome

/-- A read of GDDR7 at one of some physical addresses is repeated: EDC_READ (R537). -/
def State.edcAt (s : State) (pas : List Nat) (edc : Bool) : State :=
  match edc, pas.filterMap gddrPart with
  | true, p :: _ => s.edcEvt p
  | _, _ => s

/-- A read of a virtual range by an agent of the device: the requests to hosts go out as the function that owns the context (R55), lines
of the L2 are used (R534), a read of GDDR7 that is repeated sets EDC_READ (R537), a late answer is reported (R552, R562), and a read that
fails is recorded (R537, R554, R561). -/
def State.readMeets (s : State) (perf : Option Nat) (flue : Bool) (n va len : Nat) (m : Meet) : State :=
  let l := s.extents perf flue n va len true false
  let s1 := ((l.foldl (fun a e => a.l2Use e.1 e.2) s).cxlAgent perf l true).askHosts perf flue n va len
  ((s1.edcAt (l.map (·.1)) m.edc).lateEvt (l.map (·.1)) m.late).readFail perf flue n va len noThread m.err

/-- A write of an agent of the device to some extents: its lines take slots of an expander's port (R553), those that GDDR7 has repeated
count (R538), a late answer of an expander is reported (R552), and so is its error response (R554). -/
def State.writeMeets (s : State) (perf : Option Nat) (l : List (Nat × Nat)) (m : Meet) : State :=
  let pas := l.map (·.1)
  let s0 := s.cxlAgent perf l false
  let s1 := (match pas.filterMap gddrPart with
    | q :: _ => s0.retryEvt q m.retries
    | [] => s0).lateEvt pas m.late
  match m.badWrite, pas.find? fun a => (cxlOf a).isSome with
  | true, some a => s1.cxlMediaEvt (((cxlOf a).map (·.1)).getD 0) a
  | _, _ => s1

/-- The same for len bytes from physical address a. -/
def State.physMeets (s : State) (n a len : Nat) (m : Meet) : State :=
  let s1 := ((((s.l2Use a len).cxlAgent none [(a, len)] true).fromHost n a len).edcAt [a] m.edc).lateEvt [a] m.late
  match m.err with
  | some st => s1.readError n noThread a st
  | none => s1

/-! ## L2 (R533, R534) -/

def l2Set (line : Nat) : Nat := line % 65536

/-- The line is present. -/
def Part.l2Hit (x : Part) (off : Nat) : Bool := x.l2.any fun l => l.line == off / 64

/-- Allocation of a line into the ways of a class: the lowest invalid way first, else the least recently used (R534). -/
def Part.l2Alloc (x : Part) (line ways now : Nat) : Part :=
  let mine := (List.range 16).filter fun w => bit ways w
  let inSet := x.l2.filter fun l => l2Set l.line == l2Set line && mine.contains l.way
  match mine.filter fun w => !(inSet.any fun l => l.way == w) with
  | w :: _ => { x with l2 := ⟨line, w, now⟩ :: x.l2 }
  | [] =>
    let m := minOf 0 (inSet.map (·.use))
    match inSet.find? fun l => l.use == m with
    | some v => { x with l2 := ⟨line, v.way, now⟩ :: x.l2.filter fun l => !(l == v) }
    | none => x

/-- An access to a line of partition p's GDDR7 by a thread of context n: a hit is a use; a TENANT miss, and every TENANT
write, allocates (R533, R534). -/
def State.l2Access (s : State) (p off n : Nat) : State :=
  s.modPart p fun x =>
    if x.l2Hit off then
      { x with l2 := x.l2.map fun l => if l.line == off / 64 then { l with use := s.now } else l }
    else x.l2Alloc (off / 64) (s.fld (F.tcWays p (s.fld (F.tclass n)))) s.now

/-- A TENANT access of context n to the line of physical address a. -/
def State.l2Line (s : State) (a n : Nat) : State :=
  match gddrPart a with
  | some q => s.l2Access q (a - gddrBase q) n
  | none => s

/-! ## Counts (R278, R313) -/

/-- Count of an access by partition p to a physical address. `own` is the issuing tile and `cl` the issuing cluster, where
there is one; `miss` takes the GDDR7 miss figure; `rd` a read or an add with a result. -/
def targetCount (p : Nat) (own cl : Option Nat) (rd miss : Bool) (a : Nat) : Nat :=
  match gddrPart a, tileOf a, cxlOf a, hostOf a with
  | some q, _, _, _ => (if rd && miss then 448 else 120) + 96 * hops p q
  | _, some (t, _), _, _ =>
    if own = some t then 24 else if cl = some (t / 8) then 64 else 160 + 96 * hops p (t / 128)
  | _, _, some (q, _), _ => 2048 + 96 * (if cxlDie q = 0 then p % 4 else 3 - p % 4)
  | _, _, _, some _ => if rd then 4096 else 512
  | _, _, _, _ => 24

/-- What an access by a thread meets: the physical address, or none where it faults, its count, and whether a host or an
expander answers it. -/
structure Target where
  pa    : Option Nat
  count : Nat
  host  : Option Nat
  cxl   : Option Nat
  gddr  : Option (Nat × Nat)
  miss  : Bool
deriving DecidableEq, Repr

def Target.fault (count : Nat) : Target :=
  { pa := none, count := count, host := none, cxl := none, gddr := none, miss := false }

/-- An access to physical address a does not fault under R47 or R54. Whether a tile window has a tile (R22) and a port is up
(R56) is another matter. -/
def State.present (s : State) (a : Nat) : Bool :=
  match gddrPart a, tileOf a, cxlOf a, hostOf a with
  | some q, _, _, _ => s.gddrUp q
  | _, some (t, o), _, _ =>
    (s.role (t / 128) == rLantern || s.role (t / 128) == rHearth) && !s.flag (F.inReset (t / 128)) && decide (o < accEnd)
  | _, _, some _, _ => s.backed a
  | _, _, _, some _ => true
  | _, _, _, _ => false

/-- Target of a GLD, GST or SIG_ADD of thread x at virtual address va (R278, R279, R296): `sig` marks SIG_ADD, which the
CXL tier and the host windows refuse; `res` an access that returns data. An access that faults at its home keeps its target's
count; whether a tile window has a tile is judged when the access reaches it, at its count (R22). -/
def State.target (s : State) (x : Thread) (va : Nat) (rd wr sig res : Bool) : Target :=
  let p := x.part
  match s.xlate (some p) false x.ctx va rd wr with
  | none => Target.fault 24
  | some a =>
    if !s.present a then Target.fault 24
    else
      let c := Target.fault (targetCount p (some x.tileNo) (some (x.tileNo / 8)) res false a)
      match gddrPart a, tileOf a, cxlOf a, hostOf a with
      | some q, _, _, _ =>
        let off := a - gddrBase q
        let miss := res && !(s.part q).l2Hit off
        { Target.fault (targetCount p none none res miss a) with pa := some a, gddr := some (q, off), miss := miss }
      | _, some _, _, _ => { c with pa := some a }
      | _, _, some (q, _), _ => if sig then Target.fault 24 else { c with pa := some a, cxl := some q }
      | _, _, _, some (n, _) =>
        if sig then Target.fault 24 else if s.portDown n then c else { c with pa := some a, host := some n }
      | _, _, _, _ => Target.fault 24

/-- Latency of one line of a DMA transfer by partition p (R313): windows of the issuing cluster's tiles use 64, GDDR7
reads the miss figure; an address that fails translation, or that faults under R47 or R54, 24. -/
def State.lineLat (s : State) (p : Nat) (cl : Option Nat) (n va : Nat) (rd : Bool) : Nat :=
  match s.xlate (some p) false n va rd (!rd) with
  | some a => if s.present a then targetCount p none cl rd true a else 24
  | none => 24

/-- Largest latency over the pages of a range. -/
def State.rangeLat (s : State) (p : Nat) (cl : Option Nat) (n va len : Nat) (rd : Bool) : Nat :=
  maxOf ((rangePieces va len).map fun c => s.lineLat p cl n c.1 rd)

end Sys2Proof.Machine
end

