-- ==== Sys2Proof/Machine/Descriptors.lean ====
section
/-!
DEFINITION. Descriptors.lean: DMA descriptors (R308 to R315): their fields and checks, their durations, and the moves they
perform.
-/
namespace Sys2Proof.Machine
open Sys2Proof.Config

/-! ## Fields (R308, R309) -/

def dKind (d : List Byte) : Nat := leAt d 0 1
def dSrc (d : List Byte) : Nat := leAt d 8 8
def dDst (d : List Byte) : Nat := leAt d 16 8
def dSize (d : List Byte) : Nat := leAt d 24 8
def dRun (d : List Byte) : Nat := leAt d 24 4
def dCount1 (d : List Byte) : Nat := leAt d 28 4
def dCount2 (d : List Byte) : Nat := leAt d 48 4
def dStride (d : List Byte) (off : Nat) : Int := signed 32 (leAt d off 4)
/-- Element width in bits of a TRANSPOSE. -/
def dWidth (d : List Byte) : Nat := [4, 8, 16, 32].getD (leAt d 2 1) 0
def dBlkRows (d : List Byte) : Nat := leAt d 24 2
def dBlkCols (d : List Byte) : Nat := leAt d 26 2
def dSrcPitch (d : List Byte) : Nat := leAt d 28 4
def dDstPitchT (d : List Byte) : Nat := leAt d 32 4
def dList (d : List Byte) : Nat := leAt d 8 8
def dArena (d : List Byte) : Nat := leAt d 24 8
def dPageBytes (d : List Byte) : Nat := leAt d 32 4
def dFirst (d : List Byte) : Nat := leAt d 36 4
def dCount (d : List Byte) : Nat := leAt d 40 4
def dDstPitch (d : List Byte) : Nat := leAt d 44 4
def dSlots (d : List Byte) : Nat := leAt d 32 1
def dDstOffset (d : List Byte) : Nat := leAt d 36 4
def dPattern (d : List Byte) : List Byte := (d.drop 32).take 8

/-- Listed bytes of each kind (offset, length); every other byte from 1 on but EWIDTH is reserved. -/
def dUsed (kind : Nat) : List (Nat × Nat) :=
  if kind = 0 then [(8, 24)]
  else if kind = 1 then [(8, 44)]
  else if kind = 2 then [(8, 28)]
  else if kind = 3 then [(8, 40)]
  else if kind = 4 then [(8, 8), (24, 9), (36, 4)]
  else [(16, 24)]

def dReservedZero (d : List Byte) : Bool :=
  (List.range 64).all fun i =>
    i == 0 || i == 2 || (dUsed (dKind d)).any (fun u => decide (u.1 ≤ i ∧ i < u.1 + u.2)) || leAt d i 1 == 0

/-- The checks of R311 for a descriptor submitted on cluster cl. -/
def State.descOk (s : State) (cl : Nat) (d : List Byte) : Bool :=
  let k := dKind d
  let low (a : Nat) : Bool := decide (a < 2 ^ 48)
  decide (k ≤ 5) && dReservedZero d &&
    (if k = 0 then low (dSrc d) && low (dDst d) &&
        (decide (dSize d = 0) || decide (dSrc d + dSize d ≤ dDst d ∨ dDst d + dSize d ≤ dSrc d))
     else if k = 1 then low (dSrc d) && low (dDst d)
     else if k = 2 then
       let u := 4 * dWidth d
       low (dSrc d) && low (dDst d) && decide (leAt d 2 1 < 4) && dSrc d % u == 0 && dDst d % u == 0 &&
         dSrcPitch d % u == 0 && dDstPitchT d % u == 0
     else if k = 3 then low (dList d) && low (dDst d) && low (dArena d) && dPageBytes d % 64 == 0
     else if k = 4 then low (dSrc d) && ((List.range 8).all fun j => !bit (dSlots d) j || s.tileUp (8 * cl + j))
     else low (dDst d))

/-! ## Runs -/

/-- The contiguous transfers of a COPY, STRIDED or MULTICAST source, in ascending order: (source, destination, bytes). -/
def dRuns (d : List Byte) : List (Nat × Nat × Nat) :=
  let at1 (base : Nat) (s1 s2 : Nat) (i k : Nat) : Nat :=
    unsigned 64 ((base : Int) + dStride d s2 * k + dStride d s1 * i)
  if dKind d = 1 then
    (List.range (dCount2 d)).flatMap fun k => (List.range (dCount1 d)).map fun i =>
      (at1 (dSrc d) 32 40 i k, at1 (dDst d) 36 44 i k, dRun d)
  else [(dSrc d, dDst d, dSize d)]

/-- Byte length of one row of 32 elements of a TRANSPOSE block. -/
def dBlkBytes (d : List Byte) : Nat := 4 * dWidth d

/-- Source and destination ranges of a descriptor, as (address, bytes); MULTICAST destinations are scratchpads. -/
def dSources (d : List Byte) (page : Nat → Nat) : List (Nat × Nat) :=
  let k := dKind d
  if k = 0 ∨ k = 1 then (dRuns d).map fun r => (r.1, r.2.2)
  else if k = 2 then
    (List.range (32 * dBlkRows d)).map fun i => (dSrc d + i * dSrcPitch d, dBlkCols d * dBlkBytes d)
  else if k = 3 then
    (dList d + 3 * dFirst d, 3 * dCount d) ::
      (List.range (dCount d)).map fun i => (dArena d + page i * dPageBytes d, dPageBytes d)
  else if k = 4 then [(dSrc d, dSize d)]
  else []

def dDests (d : List Byte) : List (Nat × Nat) :=
  let k := dKind d
  if k = 0 ∨ k = 1 then (dRuns d).map fun r => (r.2.1, r.2.2)
  else if k = 2 then
    (List.range (32 * dBlkCols d)).map fun j => (dDst d + j * dDstPitchT d, dBlkRows d * dBlkBytes d)
  else if k = 3 then
    (List.range (dCount d)).map fun i => (dDst d + i * dDstPitch d, dPageBytes d)
  else if k = 4 then []
  else [(dDst d, dSize d)]

/-- Nothing to move: size, count or run of 0 (R313). -/
def dEmpty (d : List Byte) : Bool :=
  let k := dKind d
  if k = 1 then dRun d == 0 || dCount1 d == 0 || dCount2 d == 0
  else if k = 2 then dBlkRows d == 0 || dBlkCols d == 0
  else if k = 3 then dCount d == 0 || dPageBytes d == 0
  else dSize d == 0

/-- Page number of list entry FIRST + i. -/
def State.walkPage (s : State) (perf n : Nat) (d : List Byte) (i : Nat) : Nat :=
  ofLE (s.readVirt (some perf) false n (dList d + 3 * (dFirst d + i)) 3)

/-! ## Duration (R312, R313) -/

/-- Steps of a run (R312): the lines of the side that touches more of them. -/
def runSteps (r : Nat × Nat × Nat) : Nat := Nat.max (linesOf r.1 r.2.2) (linesOf r.2.1 r.2.2)

/-- Bytes that a step moves on a row of a TRANSPOSE block, and steps of a block. -/
def dRowSteps (d : List Byte) : Nat := cdiv (dBlkBytes d) 64
def dBlkSteps (d : List Byte) : Nat := 32 * dRowSteps d

/-- Steps of a descriptor (R312); one with nothing to move has none (R313). -/
def dSteps (d : List Byte) : Nat :=
  let k := dKind d
  if dEmpty d then 0
  else if k = 0 ∨ k = 1 then sumOf ((dRuns d).map runSteps)
  else if k = 2 then (dBlkRows d * dBlkCols d + 1) * dBlkSteps d
  else if k = 3 then cdiv (3 * dCount d) 64 + 1 + dCount d * dPageBytes d / 64
  else if k = 4 then linesOf (dSrc d) (dSize d)
  else linesOf (dDst d) (dSize d)

/-- Duration of a descriptor of context n run by partition p; `cl` is the cluster of a cluster descriptor. -/
def State.descTime (s : State) (p : Nat) (cl : Option Nat) (n : Nat) (d : List Byte) : Nat :=
  if dEmpty d then 16
  else
    let lat (rd : Bool) (r : Nat × Nat) : Nat := s.rangeLat p cl n r.1 r.2 rd
    let src := (dSources d (s.walkPage p n d))
    let lList := if dKind d = 3 then lat true (dList d + 3 * dFirst d, 3 * dCount d) else 0
    let lRead := maxOf ((if dKind d = 3 then src.drop 1 else src).map (lat true))
    let lWrite := if dKind d = 4 then 64 else maxOf ((dDests d).map (lat false))
    16 + lList + lRead + lWrite + 4 * dSteps d

/-! ## Steps (R314, R315) -/

/-- Where a read goes beside its destinations: nowhere, into the list of a PAGE_WALK, into the block of a TRANSPOSE, or into the page
that a PAGE_WALK names again. -/
inductive Keep where
  | no | list | blk | page (k : Nat)
deriving DecidableEq, Repr

/-- One move of a step, which stays within a 64-byte line at either end: where its bytes come from, as a virtual address or as they
are, and the places they go to, virtual or physical. -/
structure DmaMove where
  src  : Option Nat
  data : List Byte
  len  : Nat
  dst  : List Nat
  phys : List Nat
  keep : Keep
deriving DecidableEq, Repr

/-- A range of `len` bytes from `src` to `dst`, in pieces that lie in one 64-byte line at either end, ascending; `k` bounds their
number. -/
def lineMoves : Nat → Nat → Nat → Nat → List (Nat × Nat × Nat)
  | 0, _, _, _ => []
  | k + 1, src, dst, len =>
    if len = 0 then []
    else
      let m := Nat.min len (Nat.min (64 - src % 64) (64 - dst % 64))
      (src, dst, m) :: lineMoves k (src + m) (dst + m) (len - m)

/-- The part of a range of `len` bytes from `a` that lies in the k-th line it touches, as offset and length. -/
def lineSpan (a len k : Nat) : Nat × Nat :=
  let lo := if k = 0 then 0 else 64 * (a / 64 + k) - a
  (lo, Nat.min len (64 * (a / 64 + k + 1) - a) - lo)

/-- Moves of step k of a run: the line of the side with more lines, in pieces (assumption 131). `side` chooses the destination. -/
def lineStep (side : Bool) (r : Nat × Nat × Nat) (k : Nat) : List (Nat × Nat × Nat) :=
  let q := lineSpan (if side then r.2.1 else r.1) r.2.2 k
  lineMoves 4 (r.1 + q.1) (r.2.1 + q.1) q.2

def runStep (r : Nat × Nat × Nat) (k : Nat) : List (Nat × Nat × Nat) :=
  lineStep (decide (linesOf r.1 r.2.2 ≤ linesOf r.2.1 r.2.2)) r k

/-- Step k of a list of runs. -/
def runsStep : List (Nat × Nat × Nat) → Nat → List (Nat × Nat × Nat)
  | [], _ => []
  | r :: l, k => if k < runSteps r then runStep r k else runsStep l (k - runSteps r)

/-- Moves from virtual source to virtual destination. -/
def virtMoves (keep : Keep) (l : List (Nat × Nat × Nat)) : List DmaMove :=
  l.map fun q => { src := some q.1, data := [], len := q.2.2, dst := [q.2.1], phys := [], keep := keep }

/-- Moves that only read, and moves that write known bytes. -/
def readMoves (keep : Keep) (a len : Nat) : List DmaMove :=
  (lineMoves 4 a a len).map fun q => { src := some q.1, data := [], len := q.2.2, dst := [], phys := [], keep := keep }
def putMoves (dst : Nat) (b : List Byte) : List DmaMove :=
  (lineMoves 4 dst dst b.length).map fun q =>
    { src := none, data := (b.drop (q.2.1 - dst)).take q.2.2, len := q.2.2, dst := [q.2.1], phys := [], keep := .no }

/-- Bytes lo to lo + n − 1 of a FILL: the pattern repeats and its last copy is truncated. -/
def fillBytes (pat : List Byte) (lo n : Nat) : List Byte := (List.range n).map fun i => pat.getD ((lo + i) % 8) 0

/-- Row j of the transposed block, of the 32 rows that `b` holds. -/
def transRow (d b : List Byte) (j : Nat) : List Byte :=
  let u := dBlkBytes d
  let w := dWidth d
  toLE u (pack w ((List.range 32).map fun i => unpackAt w (leAt b (u * i) u) j))

/-- Step k of a TRANSPOSE: group g of its steps reads block g and writes block g − 1 (R312: one group more than blocks; assumption
131); blocks are taken row by row. -/
def transMoves (d : List Byte) (r : DmaRun) (k : Nat) : List DmaMove :=
  let u := dBlkBytes d
  let g := k / dBlkSteps d
  let i := k % dBlkSteps d / dRowSteps d
  let lo := 64 * (k % dRowSteps d)
  let n := Nat.min 64 (u - lo)
  let bi (q : Nat) : Nat := q / dBlkCols d
  let bj (q : Nat) : Nat := q % dBlkCols d
  (if g < dBlkRows d * dBlkCols d then
    readMoves .blk (dSrc d + (32 * bi g + i) * dSrcPitch d + bj g * u + lo) n else []) ++
  if g = 0 then []
  else putMoves (dDst d + (32 * bj (g - 1) + i) * dDstPitchT d + bi (g - 1) * u + lo) (((transRow d r.last i).drop lo).take n)

/-- Step k of a PAGE_WALK: the list, a step that moves nothing, and the pages in the order of the list (assumption 121); a page that
is named again is not read again (R314). -/
def walkMoves (d : List Byte) (r : DmaRun) (k : Nat) : List DmaMove :=
  let c := cdiv (3 * dCount d) 64
  let page (i : Nat) : Nat := leAt r.list (3 * i) 3
  if k < c then readMoves .list (dList d + 3 * dFirst d + 64 * k) (Nat.min 64 (3 * dCount d - 64 * k))
  else if k = c then []
  else
    let i := 64 * (k - c - 1) / dPageBytes d
    let o := 64 * (k - c - 1) % dPageBytes d
    let dst := dDst d + i * dDstPitch d + o
    if (List.range i).any fun j => page j == page i then
      putMoves dst ((((tfind r.memo (page i)).getD []).drop o).take 64)
    else
      let again := (List.range (dCount d)).any fun j => decide (i < j) && page j == page i
      virtMoves (if again then .page (page i) else .no) (lineMoves 4 (dArena d + page i * dPageBytes d + o) dst 64)

/-- The moves of step k of a descriptor of a thread of cluster cl. DESIGN CHOICE (assumption 141): a MULTICAST whose DST_OFFSET + SIZE
passes the scratchpad goes on into the accumulator buffer of the windows, and faults above that (R54, R309). -/
def dMoves (cl : Nat) (d : List Byte) (r : DmaRun) (k : Nat) : List DmaMove :=
  let c := dKind d
  if c = 0 ∨ c = 1 then virtMoves .no (runsStep (dRuns d) k)
  else if c = 2 then transMoves d r k
  else if c = 3 then walkMoves d r k
  else if c = 4 then
    (lineStep false (dSrc d, dDstOffset d, dSize d) k).map fun q =>
      { src := some q.1, data := [], len := q.2.2, dst := [], keep := .no,
        phys := ((List.range 8).filter fun j => bit (dSlots d) j).map fun j =>
          windowOf (8 * cl + j) + Nat.min (windowSize - 64) q.2.1 }
  else
    let q := lineSpan (dDst d) (dSize d) k
    putMoves (dDst d + q.1) (fillBytes (dPattern d) q.1 q.2)

/-- The moves of step k of a copy to a physical place. -/
def placeMoves (src pa len k : Nat) : List DmaMove :=
  (runStep (src, pa, len) k).map fun q => { src := some q.1, data := [], len := q.2.2, dst := [], phys := [q.2.1], keep := .no }

/-! ## Running -/

/-- What a transfer has done before its first step. -/
def DmaRun.start (base key : Nat) (own : Waiter) : DmaRun :=
  { base := base, key := key, own := own, pos := 0, reads := 0, gr := 0, gw := 0, list := [], blk := [], last := [], memo := [], bad := false, late := 0 }

/-- A transfer that meets nothing. -/
def noHap : Hap := { hostLate := 0, cxlLate := 0, err := Option.none, edc := false, retries := 0, badWrite := false }

/-- A transfer reads a line, or writes one, at physical address a for context n of partition p: a line of GDDR7 is a TENANT access of
L2 (R533, R534), whose miss or write-through waits in the queue of its channel (R529, R530), and one of an expander waits for a slot of
the port (R553). -/
def State.dmaLine (s : State) (p n a : Nat) (rd : Bool) (r : DmaRun) : State × DmaRun :=
  match gddrPart a, cxlOf a with
  | some q, _ =>
    let o := a - gddrBase q
    let ch := (place o).1
    if rd && (s.part q).l2Hit o then (s.l2Access q o n, r)
    else
      ((s.tenantEnter q ch r.key (if rd then r.own else .free)).l2Access q o n,
        if rd then { r with gr := r.gr + 1 } else { r with gw := r.gw + 1 })
  | none, some (q, _) => (s.cxlEnter p q rd r.key 1 r.own, r)
  | none, none => (s, r)

/-- A read keeps its bytes where the step asks for it. -/
def DmaRun.hold (r : DmaRun) (k : Keep) (b : List Byte) : DmaRun :=
  match k with
  | .no => r
  | .list => { r with list := r.list ++ b }
  | .blk => { r with blk := r.blk ++ b }
  | .page i => { r with memo := tput r.memo i ((tfind r.memo i).getD [] ++ b) }

/-- The read of a move: none where it faults (R315), or comes back with an error (R537, R554, R561). `who` is the thread that soot
entries name. -/
def State.moveRead (s : State) (p n who : Nat) (h : Hap) (r : DmaRun) (m : DmaMove) (va : Nat) : State × DmaRun × List Byte :=
  match s.reach (some p) false n va true false with
  | some pa =>
    let q := (s.fromHost n pa m.len).dmaLine p n pa true r
    let q1 := match gddrPart pa with
      | some g => if h.edc && r.gr == 0 && q.2.gr == 1 then q.1.edcEvt g else q.1
      | none => q.1
    (match h.err with
     | some (i, st) =>
       if i = r.reads then (q1.readError n who pa st, { q.2 with bad := true }, [])
       else (q1, { q.2 with reads := r.reads + 1 }, s.readMem pa m.len)
     | none => (q1, { q.2 with reads := r.reads + 1 }, s.readMem pa m.len))
  | none => (s, { r with bad := true }, [])

/-- The writes of a move, each of which leaves through its host port as its context's function (R55). -/
def State.moveWrite (s : State) (p n : Nat) (h : Hap) (r : DmaRun) (b : List Byte) (l : List Nat) : State × DmaRun :=
  l.foldl (fun q a =>
    let t := ((q.1.writeMem a b).toHost n a b).dmaLine p n a false q.2
    match gddrPart a with
    | some g => (if q.2.gw = 0 then t.1.retryEvt g h.retries else t.1, t.2)
    | none => t) (s, r)

/-- One move. After a step that faults, or whose read comes back with an error, no further one is performed (R315). -/
def State.dmaMove (s : State) (p n who : Nat) (h : Hap) (r : DmaRun) (m : DmaMove) : State × DmaRun :=
  if r.bad then (s, r)
  else
    let q : State × DmaRun × List Byte := match m.src with
      | some va => s.moveRead p n who h r m va
      | none => (s, r, m.data)
    if q.2.1.bad then (q.1, q.2.1)
    else
      let ends := m.dst.map fun va => q.1.reach (some p) false n va false true
      if ends.all Option.isSome && m.phys.all q.1.backed then
        q.1.moveWrite p n h (q.2.1.hold m.keep q.2.2) q.2.2 (ends.filterMap id ++ m.phys)
      else (q.1, { q.2.1 with bad := true })

/-- One step (R314): its moves in order. With the first step of a TRANSPOSE group the block read before is the one to be written. -/
def State.dmaStep (s : State) (p n who : Nat) (h : Hap) (per : Nat) (moves : DmaRun → Nat → List DmaMove) (r : DmaRun) :
    State × DmaRun :=
  let r0 := if per ≠ 0 ∧ r.pos % per = 0 then { r with last := r.blk, blk := [] } else r
  let q := (moves r0 r0.pos).foldl (fun (a : State × DmaRun) m => a.1.dmaMove p n who h a.2 m) (s, r0)
  (q.1, { q.2 with pos := r.pos + 1 })

/-- Cycles for which a transfer waits for a host or an expander beyond its duration: a read that no completion answers is given up
after 16,384 marks (R280, R552, R561, R601). -/
def hapWait (h : Hap) : Nat :=
  Nat.max (Nat.max h.hostLate h.cxlLate) (match h.err with
    | some (_, 0) => readLimit
    | _ => 0)

/-- Cycles by which a transfer ends later than its duration, with its wait in queues (R96, R530, R553). -/
def transferLate (h : Hap) (r : DmaRun) : Nat := Nat.max (hapWait h) r.late

/-- HOST_SLOW and CXL_SLOW for a transfer that a host or an expander has made late, for the port of the first of its ranges that
leaves the partitions there (R280, R552, R562); the thread field of HOST_SLOW is 0xFFFF_FFFF for DMA (R593). -/
def State.lateTransfer (s : State) (p n : Nat) (h : Hap) (l : List (Nat × Nat)) : State :=
  let pas := l.filterMap fun r => s.xlate (some p) false n r.1 false false
  let s1 := match h.hostLate, pas.filterMap hostOf with
    | 0, _ => s
    | _, (k, _) :: _ => s.hostSlow k noThread h.hostLate
    | _, [] => s
  match h.cxlLate, pas.filterMap cxlOf with
  | 0, _ => s1
  | _, (q, _) :: _ => s1.cxlSlowEvt q h.cxlLate
  | _, [] => s1

/-- A write of a transfer to an expander is answered with an error response: the CXL_MEDIA entry, and whether there was one (R554). -/
def State.badWrite (s : State) (p n : Nat) (h : Hap) (l : List (Nat × Nat)) : State × Bool :=
  if h.badWrite then
    match (l.filterMap fun r => s.xlate (some p) false n r.1 false true).find? fun a => (cxlOf a).isSome with
    | some a => (s.cxlMediaEvt (((cxlOf a).map (·.1)).getD 0) a, true)
    | none => (s, false)
  else (s, false)

/-! ## Descriptors and commands on their channels -/

/-- Queued and running descriptors of a channel. -/
def State.channel (s : State) (cl ch : Nat) : List Desc := (tfind (s.cluster cl).channels ch).getD []
def State.setChannel (s : State) (cl ch : Nat) (l : List Desc) : State :=
  s.setCluster cl { s.cluster cl with channels := tset [] (s.cluster cl).channels ch l }

/-- The next step of the running descriptor of a channel. -/
def State.descStep (s : State) (cl ch : Nat) : State :=
  match s.channel cl ch with
  | d :: r =>
    let q := s.dmaStep (cl / 16) d.ctx d.thread d.hap (if dKind d.bytes = 2 then dBlkSteps d.bytes else 0) (dMoves cl d.bytes) d.run
    q.1.setChannel cl ch ({ d with run := q.2 } :: r)
  | [] => s

/-- A channel's running descriptor is ready for a step: it has one left, and the cycles of its steps have come (assumption 131). -/
def State.stepReady (s : State) (cl ch : Nat) : Bool :=
  match s.channel cl ch with
  | d :: _ => d.running && decide (d.run.base < s.now) && decide (d.run.pos < dSteps d.bytes)
  | [] => false

/-- The channel of cluster cl that makes the step of the present cycle: the first in rotation after the last that has a ready descriptor
(R36, R313). -/
def State.stepTurn (s : State) (cl : Nat) : Option Nat :=
  let c := s.cluster cl
  if decide (c.dmaFrom ≤ s.now) && c.frozenAt.isNone then
    ([1, 2, 3, 4].map fun i => (c.dmaLast + i) % 4).find? fun ch => s.stepReady cl ch
  else none

/-- The DMA step of cluster cl in the present cycle. -/
def State.clusterStep (s : State) (cl : Nat) : State :=
  match s.stepTurn cl with
  | some ch =>
    let t := s.descStep cl ch
    t.setCluster cl { t.cluster cl with dmaLast := ch, dmaFrom := s.now + 1 }
  | none => s

/-- The one descriptor that a command runs as (R309, R316). -/
def DmaJob.desc (j : DmaJob) : List Byte :=
  toLE 8 (if j.isFill then 5 else 0) ++ toLE 8 j.src ++ toLE 8 j.dst ++ toLE 8 j.size ++ toLE 8 j.pattern ++ toLE 24 0

/-- Steps of a command, and the moves of step k; the block of an adapter copy is a physical place. -/
def DmaJob.steps (j : DmaJob) : Nat := if j.adapter then runSteps (j.src, j.dst, j.size) else dSteps j.desc
def DmaJob.moves (j : DmaJob) (r : DmaRun) (k : Nat) : List DmaMove :=
  if j.adapter then placeMoves j.src j.dst j.size k else dMoves 0 j.desc r k

/-- The next step of the running command of p's channel. -/
def State.jobStep (s : State) (p : Nat) : State :=
  match (s.part p).dma with
  | j :: r =>
    let q := s.dmaStep p j.ctx noThread j.hap 0 j.moves j.run
    q.1.modPart p fun x => { x with dma := { j with run := q.2 } :: r }
  | [] => s

/-- The steps of the running command of p's channel that have come: one every 4 cycles (R313). -/
def State.jobCycle (s : State) (p : Nat) : State :=
  match (s.part p).dma with
  | j :: _ =>
    if j.running && s.gddrUp p then
      (List.range (Nat.min ((s.now - j.run.base) / 4) j.steps - j.run.pos)).foldl (fun a _ => a.jobStep p) s
    else s
  | [] => s

/-- The DMA steps of the present core cycle: those of the clusters, ascending, before those of the command channels (R529). -/
def State.dmaCycle (s : State) : State :=
  allParts.foldl (fun a p => a.jobCycle p)
    ((s.clusters.map (·.1)).foldl (fun a cl => a.clusterStep cl) s)

/-! ## The service of the queues (R529, R530, R553) -/

/-- An access has waited e cycles beyond its count, and ends so much later (R530, R553). -/
def State.delay (s : State) (who : Waiter) (e : Nat) : State :=
  match who with
  | .flight id =>
    { s with inflight := updFirst (fun i => i.id == id) (fun f =>
      if f.late < e then { f with due := f.due + (e - f.late), late := e } else f) s.inflight }
  | .desc cl ch id =>
    (match s.channel cl ch with
     | d :: r => if d.ifId = id then s.setChannel cl ch ({ d with run := { d.run with late := Nat.max d.run.late e } } :: r) else s
     | [] => s)
  | .job p cid =>
    (match (s.part p).dma with
     | j :: r => if j.cid = cid then s.modPart p fun x => { x with dma := { j with run := { j.run with late := Nat.max j.run.late e } } :: r }
       else s
     | [] => s)
  | .free => s

/-- The requests that go on waiting make their accesses late by what they have waited beyond the count by the next cycle. -/
def State.delayAll (s : State) (l : List MemReq) : State :=
  l.foldl (fun a r => if r.excess (s.now + 1) = 0 then a else a.delay r.who (r.excess (s.now + 1))) s

/-- The channels of p serve the TENANT requests whose turn has come; one that has waited beyond its count is reported (R529, R530). -/
def State.serveTenant (s : State) (p : Nat) : State :=
  if (s.part p).tenant.isEmpty then s
  else
    let q := takeTurns (s.tenantTurn p) [] (sortBy MemReq.before (s.part p).tenant)
    let s1 := q.1.foldl (fun a r => a.memLate p r.place (r.excess s.now)) (s.modPart p fun x => { x with tenant := q.2 })
    (s1.delayAll q.2).drawn

/-- The lines of p that wait for slots of the CXL ports are served; one that has waited beyond its count is reported (R553). -/
def State.serveCxl (s : State) (p : Nat) : State :=
  if (s.part p).cxlQ.isEmpty then s
  else
    let q := takeTurns s.cxlTurn [] (sortBy MemReq.before (s.part p).cxlQ)
    let more := (q.1.filter fun r => decide (1 < r.lines)).map fun r => { r with lines := r.lines - 1, entered := s.now }
    let s1 := q.1.foldl (fun a r => if r.excess s.now = 0 then a else a.cxlSlowEvt (r.place / 2) (r.excess s.now))
      (s.modPart p fun x => { x with cxlQ := more ++ q.2 })
    s1.delayAll q.2

/-- The queues of every partition in the present cycle. -/
def State.serveQueues (s : State) : State := allParts.foldl (fun a p => (a.serveTenant p).serveCxl p) s

/-- A line of an issued access still waits for its slot. -/
def State.cxlWaits (s : State) (id : Nat) : Bool := allParts.any fun p => (s.part p).cxlQ.any fun r => r.who == .flight id

/-- The destinations of a descriptor of a command that does not end OK are undefined (R622). -/
def State.undefDesc (s : State) (p n : Nat) (d : List Byte) : State :=
  if dEmpty d then s
  else ((dDests d).flatMap fun r => s.extents (some p) false n r.1 r.2 false true).foldl (fun a e => a.undefMem e.1 e.2) s

end Sys2Proof.Machine
end

