-- ==== Sys2Proof/Machine/Scalar.lean ====
section
/-!
DEFINITION. Scalar.lean: what an instruction of the SCALAR class computes and asks of the tile (R261, R264, R275).
-/
namespace Sys2Proof.Machine
open Sys2Proof.Config

/-- Two's complement reading of a 64-bit value. -/
def sgn (v : Nat) : Int := signed 64 v

/-- Register-register operations: result modulo 2^64 and count (R275). -/
def alu (op a b : Nat) : Option (Nat × Nat) :=
  if op = 0x00 then some (a + b, 2)
  else if op = 0x01 then some (a + (2 ^ 64 - b), 2)
  else if op = 0x02 then some (a &&& b, 2)
  else if op = 0x03 then some (a ||| b, 2)
  else if op = 0x04 then some (a ^^^ b, 2)
  else if op = 0x05 then some (a <<< (b % 64), 2)
  else if op = 0x06 then some (a >>> (b % 64), 2)
  else if op = 0x07 then some (unsigned 64 (sgn a / 2 ^ (b % 64)), 2)
  else if op = 0x08 then some (b2n (decide (sgn a < sgn b)), 2)
  else if op = 0x09 then some (b2n (decide (a < b)), 2)
  else if op = 0x0A then some (a * b, 4)
  else if op = 0x0B then some (a * b / 2 ^ 64, 4)
  else if op = 0x0C then some (if b = 0 then 2 ^ 64 - 1 else a / b, 34)
  else if op = 0x0D then some (if b = 0 then a else a % b, 34)
  else none

/-- Operations with an immediate, sign-extended to 64 bits (R263); MOVHI takes it zero-extended. -/
def aluImm (op a : Nat) (imm : Int) : Option Nat :=
  let i := unsigned 64 imm
  if op = 0x10 then some (a + i)
  else if op = 0x11 then some (a &&& i)
  else if op = 0x12 then some (a <<< (i % 64))
  else if op = 0x13 then some (a >>> (i % 64))
  else if op = 0x14 then some (a % 2 ^ 32 + i % 2 ^ 32 * 2 ^ 32)
  else none

/-- Branch conditions (R275). -/
def taken (op a b : Nat) : Bool :=
  if op = 0x20 then a == b
  else if op = 0x21 then a != b
  else if op = 0x22 then decide (sgn a < sgn b)
  else if op = 0x23 then decide (sgn b ≤ sgn a)
  else if op = 0x24 then decide (a < b)
  else decide (b ≤ a)

/-- Special registers (R261). -/
def State.special (s : State) (t : Nat) (x : Thread) (i : Nat) : Nat :=
  if i = 0 then t
  else if i = 1 then x.tileNo
  else if i = 2 then x.ctx
  else if i = 3 then s.stamp
  else if i = 4 then x.spBase
  else if i = 5 then x.spSize
  else if i = 6 then x.accBase + 2 ^ 8 * x.accBlocks
  else x.pc

/-- A plan with a scalar result. -/
def sresult (rd v count : Nat) (sread : List Nat) : Plan :=
  { Plan.none0 with sread := sread, swrite := dstOf rd, count := count, effects := [.sreg rd (BitVec.ofNat 64 v)] }

/-- The SCALAR class (R275). -/
def State.planScalar (s : State) (t : Nat) (x : Thread) (w : Nat) : Plan :=
  let op := wOp w
  let ra := wRa w
  let rb := wRb w
  let a := x.sreg ra
  let b := x.sreg rb
  let aux0 := wAux w == 0
  let rel := unsigned 64 ((x.pc : Int) + 8 * wImm w)
  if op < 0x0E then
    match alu op a b with
    | some (v, c) => (sresult (wRd w) v c [ra, rb]).guard [(2, aux0 && wImmU w == 0)]
    | none => Plan.illegal 1
  else if 0x10 ≤ op ∧ op < 0x15 then
    match aluImm op a (wImm w) with
    | some v => (sresult (wRd w) v 2 [ra]).guard [(2, aux0 && rb == 0)]
    | none => Plan.illegal 1
  else if op = 0x15 then
    (sresult (wRd w) (s.special t x (wImmU w)) 2 []).guard
      [(2, aux0 && ra == 0 && rb == 0), (7, decide (wImmU w ≤ 7))]
  else if 0x20 ≤ op ∧ op ≤ 0x25 then
    let p : Plan := { Plan.none0 with sread := [ra, rb] }
    (if taken op a b then { p with count := 3, jump := some rel } else p).guard [(2, aux0 && wRd w == 0)]
  else if op = 0x26 then
    { sresult (wRd w) (x.pc + 8) 3 [] with jump := some rel }.guard [(2, aux0 && ra == 0 && rb == 0)]
  else if op = 0x27 then
    { sresult (wRd w) (x.pc + 8) 3 [ra] with jump := some (unsigned 64 ((a : Int) + 8 * wImm w)) }.guard
      [(2, aux0 && rb == 0)]
  else Plan.illegal 1

end Sys2Proof.Machine
end

