-- ==== Sys2Proof/Machine/LoadStore.lean ====
section
/-!
DEFINITION. LoadStore.lean: what an instruction of the MEMORY, DMA and SYNC classes computes and asks of the tile (R264,
R268, R276 to R279, R288 to R291).
-/
namespace Sys2Proof.Machine
open Sys2Proof.Config

/-! ## Sets and orders -/

/-- Scoreboard regions of `n` bytes at physical address `a` that lie in the thread's own tile window. -/
def Thread.ownRegions (x : Thread) (a n : Nat) : List Nat :=
  match tileOf a with
  | some (t, o) =>
    if t = x.tileNo then
      (if o < scratchSize then spRegions o n else if o < accEnd then accRegions ((o - scratchSize) / 4) (cdiv n 4) else [])
    else []
  | none => []

/-- Regions of the own tile that a virtual range meets. -/
def State.virtRegions (s : State) (x : Thread) (rd : Bool) (r : Nat × Nat) : List Nat :=
  (rangePieces r.1 r.2).flatMap fun c =>
    match s.xlate (some x.part) false x.ctx c.1 rd (!rd) with
    | some a => x.ownRegions a c.2
    | none => []

/-- Instructions that address memory through the fabric: GLD, GST and SIG_ADD. -/
def isFabric (w : Nat) : Bool := (wClass w == 1 && (wOp w == 8 || wOp w == 9)) || (wClass w == 5 && wOp w == 0)

/-- GST and SIG_ADD. -/
def isRemoteWrite (w : Nat) : Bool := (wClass w == 1 && wOp w == 9) || (wClass w == 5 && wOp w == 0)

/-- Instructions that write memory, which a later SIG_ADD waits for (R289). -/
def writesMemory (w : Nat) : Bool :=
  (wClass w == 1 && (wOp w == 1 || wOp w == 3 || wOp w == 9)) || (wClass w == 5 && wOp w == 0) ||
    (wClass w == 3 && wOp w == 2) || (wClass w == 4 && wOp w == 0)

/-- Issued, incomplete instructions of a thread and of a tile. -/
def State.ofThread (s : State) (t : Nat) : List InFlight := s.inflight.filter fun i => i.thread == t
def State.ofTile (s : State) (tile : Nat) : List InFlight := s.inflight.filter fun i => i.thread / 16 == tile

/-- No earlier GST or SIG_ADD of the tile to a line is incomplete (R288). -/
def State.lineFree (s : State) (tile line : Nat) : Bool :=
  (s.ofTile tile).all fun i => !(isRemoteWrite i.word.toNat && i.line == some line)

/-! ## MEMORY class -/

/-- GLD, GST and SIG_ADD share the fields of their target. -/
def Plan.toTarget (p : Plan) (g : Target) (wr : Bool) : Plan :=
  { p with
    count := g.count, answer := g.cxl.isSome || (g.host.isSome && !wr),
    unit := g.host.getD (g.cxl.getD 0),
    tenant := match g.gddr with
      | some (q, off) => some (q, off, wr || g.miss)
      | none => none }

/-- LD and ST (R276). -/
def State.planLd (s : State) (x : Thread) (w : Nat) : Plan :=
  let n := 2 ^ (wAux w % 4)
  let o := localOff (x.sreg (wRa w)) (wImm w)
  { sresult (wRd w) (s.localLE x o n) 4 [wRa w] with reads := spRegions o n }.guard
    [(2, wRb w == 0 && decide (wAux w < 4)), (4, x.localOk o n n false)]

def State.planSt (_s : State) (x : Thread) (w : Nat) : Plan :=
  let n := 2 ^ (wAux w % 4)
  let o := localOff (x.sreg (wRa w)) (wImm w)
  { Plan.none0 with
    sread := [wRa w, wRb w], writes := spRegions o n, count := 4,
    effects := [.store (x.base + o) (toLE n (x.sreg (wRb w)))] }.guard
    [(2, wRd w == 0 && decide (wAux w < 4)), (4, x.localOk o n n true)]

/-- VLD and VST (R276). -/
def State.planVld (s : State) (x : Thread) (w : Nat) : Plan :=
  let o := localOff (x.sreg (wRa w)) (wImm w)
  { Plan.none0 with
    sread := [wRa w], vwrite := some (wRd w), reads := spRegions o 256, count := 4,
    effects := [.vreg (wRd w) (bytesLanes (s.localBytes x o 256))] }.guard
    [(2, wRb w == 0 && wAux w == 0 && decide (wRd w < 8)), (4, x.localOk o 256 64 false)]

def State.planVst (_s : State) (x : Thread) (w : Nat) : Plan :=
  let o := localOff (x.sreg (wRa w)) (wImm w)
  { Plan.none0 with
    sread := [wRa w], vread := [wRd w], writes := spRegions o 256, count := 4,
    effects := [.store (x.base + o) (laneBytes (x.vreg (wRd w)))] }.guard
    [(2, wRb w == 0 && wAux w == 0 && decide (wRd w < 8)), (4, x.localOk o 256 64 true)]

/-- GLD: a faulting load leaves its destination undefined and the thread FAULTED (R296). -/
def State.planGld (s : State) (x : Thread) (w : Nat) : Plan :=
  let va := x.sreg (wRa w)
  let o := localOff (x.sreg (wRb w)) (wImm w)
  let g := s.target x va true false false true
  let own := match g.pa with
    | some a => x.ownRegions a 64
    | none => []
  (({ Plan.none0 with
      sread := [wRa w, wRb w], reads := own, writes := spRegions o 64, line := g.pa.map (· / 64),
      ready := match g.pa with
        | some a => s.lineFree x.tileNo (a / 64)
        | none => true
      effects := match g.pa with
        | some a => [.load a (x.base + o) 64 none]
        | none => [.undef (x.base + o) 64, .fault x.ctx] } : Plan).toTarget g false).guard
    [(2, wRd w == 0 && wAux w == 0), (7, va % 64 == 0), (4, x.localOk o 64 64 true)]

/-- GST: performed at its home as one 64-byte write; a faulting store is not performed (R279, R296). DEDUCED (assumption 15): its 64
local bytes are those of the issue cycle. -/
def State.planGst (s : State) (x : Thread) (w : Nat) : Plan :=
  let va := x.sreg (wRa w)
  let o := localOff (x.sreg (wRb w)) (wImm w)
  let g := s.target x va false true false false
  let own := match g.pa with
    | some a => x.ownRegions a 64
    | none => []
  (({ Plan.none0 with
      sread := [wRa w, wRb w], reads := spRegions o 64, writes := own, line := g.pa.map (· / 64),
      ready := match g.pa with
        | some a => s.lineFree x.tileNo (a / 64)
        | none => true
      effects := match g.pa with
        | some a => [.store a (s.localBytes x o 64)]
        | none => [.fault x.ctx] } : Plan).toTarget g true).guard
    [(2, wRd w == 0 && wAux w == 0), (7, va % 64 == 0), (4, x.localOk o 64 64 false)]

/-! ## SYNC class -/

/-- SIG_ADD (R276, R279, R288, R289), which needs READ and WRITE (R547): in a replay the first signals of the original run are
not performed; a suppressed one returns the word's value of its issue cycle (R608). -/
def State.planSigAdd (s : State) (t : Nat) (x : Thread) (w : Nat) : Plan :=
  let va := x.sreg (wRa w)
  let res := wRd w != 0
  let g := s.target x va true true true res
  let sup := decide (0 < x.suppress)
  let own := match g.pa with
    | some a => x.ownRegions a 8
    | none => []
  (({ Plan.none0 with
      sread := [wRa w, wRb w], swrite := dstOf (wRd w), reads := own, writes := own, line := g.pa.map (· / 64),
      ready := (s.ofThread t).all (fun i => !writesMemory i.word.toNat) &&
        (match g.pa with
         | some a => s.lineFree x.tileNo (a / 64)
         | none => true)
      effects := match g.pa with
        | some a =>
          if sup then (if res then [.sreg (wRd w) (BitVec.ofNat 64 (s.readLE a 8))] else [])
          else [.sigAdd a (wRd w) (BitVec.ofNat 64 (x.sreg (wRb w))) true]
        | none => [.fault x.ctx]
      suppressed := sup && g.pa.isSome } : Plan).toTarget g true).guard
    [(2, wAux w == 0 && wImmU w == 0), (7, va % 8 == 0)]

/-- SIG_WAIT (R290): ready when the word is at least rb, at its timeout mark, and with AUX = 0 at once. -/
def State.planSigWait (s : State) (x : Thread) (w : Nat) : Plan :=
  let o := localOff (x.sreg (wRa w)) (wImm w)
  let v := s.localLE x o 8
  { sresult (wRd w) v 2 [wRa w, wRb w] with
    reads := spRegions o 8, ready := decide (x.sreg (wRb w) ≤ v) || wAux w == 0 || x.timedOut }.guard
    [(4, x.localOk o 8 8 false)]

/-- MARK_WAIT (R291). -/
def State.planMarkWait (s : State) (x : Thread) (w : Nat) : Plan :=
  { sresult (wRd w) s.stamp 1 [wRa w] with ready := decide (x.sreg (wRa w) ≤ s.time.mark) }.guard
    [(2, wRb w == 0 && wAux w == 0 && wImmU w == 0)]

/-- TFENCE and EXIT: ready when every earlier instruction of the thread has reached its count (R276). -/
def State.planDrained (s : State) (t : Nat) (w : Nat) (exit : Bool) : Plan :=
  { Plan.none0 with ready := (s.ofThread t).isEmpty, effects := if exit then [.exit] else [] }.guard
    [(2, bits w 10 54 == 0)]

/-! ## DMA class -/

/-- Regions of the own tile that a descriptor reads and writes (R268). -/
def State.descReads (s : State) (x : Thread) (d : List Byte) : List Nat :=
  (dSources d (s.walkPage x.part x.ctx d)).flatMap (s.virtRegions x true)
def State.descWrites (s : State) (x : Thread) (d : List Byte) : List Nat :=
  (dDests d).flatMap (s.virtRegions x false) ++
    if dKind d = 4 ∧ bit (dSlots d) (x.tileNo % 8) = true then x.ownRegions (x.base + dDstOffset d) (dSize d) else []

/-- DMA_SUBMIT (R277, R311): a sound descriptor is queued, and the instruction reaches its count when it ends; one that
breaks a check queues nothing and faults the thread 4 cycles later. DEDUCED (assumption 17): its local offsets leave IMM out, and
an IMM other than 0 is illegal. -/
def State.planDmaSubmit (s : State) (t : Nat) (x : Thread) (w : Nat) : Plan :=
  let o := x.sreg (wRa w)
  let ch := wAux w % 4
  let sig := bit (wAux w) 2
  let so := x.sreg (wRb w)
  let d := s.localBytes x o 64
  let cl := x.tileNo / 8
  let sup := sig && decide (0 < x.suppress)
  let sigR := if sig then spRegions so 8 else []
  let ok := s.descOk cl d
  let rs := spRegions o 64 ++ sigR ++ s.descReads x d
  let ws := sigR ++ s.descWrites x d
  let body : Plan :=
    if ok then
      { Plan.none0 with
        reads := rs, writes := ws, count := 4, answer := true, suppressed := sup, chan := ch,
        desc := some
          { thread := t, ifId := 0, bytes := d, ctx := x.ctx, queued := s.now + 4, running := false, endAt := 0,
            margin := 0, signal := if sig && !sup then some (x.base + so) else none, reads := rs, writes := ws, hap := noHap,
            run := DmaRun.start 0 0 .free } }
    else { Plan.none0 with reads := spRegions o 64 ++ sigR, count := 4, effects := [.badDesc o] }
  { body with
    sread := if sig then [wRa w, wRb w] else [wRa w]
    ready := decide ((s.channel cl ch).length < 8) }.guard
    [(2, wRd w == 0 && wImmU w == 0 && decide (wAux w < 8) && (sig || wRb w == 0)), (4, x.localOk o 64 1 false),
     (4, !sig || x.localOk so 8 8 true)]

/-! ## The classes -/

def State.planMemory (s : State) (x : Thread) (w : Nat) : Plan :=
  let op := wOp w
  if op = 0 then s.planLd x w
  else if op = 1 then s.planSt x w
  else if op = 2 then s.planVld x w
  else if op = 3 then s.planVst x w
  else if op = 8 then s.planGld x w
  else if op = 9 then s.planGst x w
  else Plan.illegal 1

def State.planSync (s : State) (t : Nat) (x : Thread) (w : Nat) : Plan :=
  let op := wOp w
  if op = 0 then s.planSigAdd t x w
  else if op = 1 then s.planSigWait x w
  else if op = 2 then s.planMarkWait x w
  else if op = 3 then s.planDrained t w false
  else if op = 4 then s.planDrained t w true
  else Plan.illegal 1

end Sys2Proof.Machine
end

