-- ==== Sys2Proof/Machine/ImageCodec.lean ====
section
/-!
DEFINITION. ImageCodec.lean: the bytes of a context image that R624 leaves to the device, in the layout this model fixes
(assumption 14): how a tile's banks, threads and DMA queue, and a partition's share of a step, are written and read back.
-/
namespace Sys2Proof.Machine
open Sys2Proof.Config

/-! ## Reading -/

/-- A number of n bytes, and the bytes that follow it. -/
def take1 (n : Nat) (b : List Byte) : Nat × List Byte := (ofLE (b.take n), b.drop n)

/-- k items read by `f`, one after the other. -/
def takeMany {α : Type} (f : List Byte → α × List Byte) : Nat → List Byte → List α × List Byte
  | 0, b => ([], b)
  | k + 1, b =>
    let (x, r) := f b
    let (l, z) := takeMany f k r
    (x :: l, z)

/-! ## CIF values: 20 bits each, packed (R172) -/

def packCif (c : Cif) : Nat :=
  b2n c.nan * 2 ^ 19 + b2n c.zero * 2 ^ 18 + b2n c.sign * 2 ^ 17 + unsigned 17 c.log

def unpackCif (v : Nat) : Cif := { nan := bit v 19, zero := bit v 18, sign := bit v 17, log := signed 17 v }

def packCifs : List Cif → Nat
  | [] => 0
  | c :: r => packCif c + 2 ^ 20 * packCifs r

def putCifs (l : List Cif) : List Byte := toLE (cdiv (20 * l.length) 8) (packCifs l)

def takeCifs (n : Nat) (b : List Byte) : List Cif × List Byte :=
  let k := cdiv (20 * n) 8
  let v := ofLE (b.take k)
  ((List.range n).map fun i => unpackCif (bits v (20 * i) 20), b.drop k)

/-! ## Banks (R209, R225) -/

/-- Rows of weights: where they hold at most 255 different values, as rows of a 4-bit or 8-bit format do, those values and a byte for each
weight; else 20 bits for each. -/
def putRows (rows : List (List Cif)) : List Byte :=
  let p := rows.flatten.foldl (fun l c => if l.contains c then l else l ++ [c]) []
  if p.length < 256 then toLE 1 p.length ++ putCifs p ++ rows.flatten.flatMap fun c => toLE 1 (p.findIdx (· == c))
  else toLE 1 0 ++ rows.flatMap putCifs

/-- A row of 32 weights as bytes that choose values. -/
def takeRow (p : List Cif) (b : List Byte) : List Cif × List Byte :=
  ((List.range 32).map fun i => p.getD (leAt b i 1) Cif.zero0, b.drop 32)

/-- k rows of 32 weights. -/
def takeRows (k : Nat) (b : List Byte) : List (List Cif) × List Byte :=
  let n := leAt b 0 1
  if n = 0 then takeMany (takeCifs 32) k (b.drop 1)
  else
    let (p, r) := takeCifs n (b.drop 1)
    takeMany (takeRow p) k r

def putExps (l : List Int) : List Byte := l.flatMap fun e => toLE 1 (unsigned 8 e)

def takeExps (b : List Byte) : List Int × List Byte :=
  takeMany (fun c => let (v, r) := take1 1 c; (signed 8 v, r)) 32 b

/-- A bank: class, layout, scale, and its rows, exponents and checksums with their numbers. -/
def putBank (k : Bank) : List Byte :=
  toLE 1 k.cls ++ toLE 1 (b2n k.paired) ++ toLE 2 (unsigned 16 k.scale) ++ toLE 1 k.rows.length ++ toLE 1 k.exps.length ++
    toLE 1 k.cw.length ++ toLE 1 k.aw.length ++ toLE 1 k.rw.length ++ toLE 1 k.ra.length ++ putRows k.rows ++
    k.exps.flatMap putExps ++ putCifs k.cw ++ putCifs k.aw ++ putCifs k.rw ++ putCifs k.ra

def takeBank (b : List Byte) : Bank × List Byte :=
  let f (i : Nat) : Nat := leAt b i 1
  let (rows, b1) := takeRows (f 4) (b.drop 10)
  let (exps, b2) := takeMany takeExps (f 5) b1
  let (cw, b3) := takeCifs (f 6) b2
  let (aw, b4) := takeCifs (f 7) b3
  let (rw, b5) := takeCifs (f 8) b4
  let (ra, b6) := takeCifs (f 9) b5
  ({ cls := f 0, paired := f 1 != 0, scale := signed 16 (leAt b 2 2), rows := rows, exps := exps, cw := cw, aw := aw, rw := rw,
     ra := ra }, b6)

/-! ## Threads (R257 to R259) -/

def stateCode (t : TState) : Nat :=
  match t with
  | .free => 0
  | .live => 1
  | .faulted => 2

/-- A thread of the saved context: 1 or 2 and its registers; 0 for any other. `owner` is the place of its step in the image,
0xFF for none. -/
def putThread (x : Thread) (mine : Bool) (owner : Nat) : List Byte :=
  if mine then
    toLE 1 (stateCode x.state) ++ toLE 1 owner ++ (x.record ++ toLE 64 0).take 64 ++ toLE 4 x.pc ++ toLE 4 x.sigs ++
      toLE 4 x.suppress ++ ((List.range 32).flatMap fun i => toLE 8 (x.sreg i)) ++
      ((List.range 8).flatMap fun i => (x.vreg i).flatMap fun v => toLE 4 v.toNat) ++
      (match x.checked with
       | some (w, c) => toLE 1 (1 + c) ++ toLE 8 w
       | none => toLE 9 0)
  else toLE 1 0

/-- The registers of a saved thread, frozen (R630). It runs on for context n, the target of the restore, whose seed and tables it
uses (R205). -/
def takeThread (n : Nat) (owner : Nat → Owner) (b : List Byte) : Option Thread × List Byte :=
  let st := leAt b 0 1
  if st = 0 then (none, b.drop 1)
  else
    let x0 := { Thread.dflt with
      state := if st = 2 then .faulted else .live, owner := owner (leAt b 1 1), record := (b.drop 2).take 4 ++ toLE 2 n ++ (b.drop 8).take 58,
      pc := leAt b 66 4, sigs := leAt b 70 4, suppress := leAt b 74 4, frozen := true,
      checked := if leAt b 2382 1 = 0 then none else some (leAt b 2383 8, leAt b 2382 1 - 1) }
    let x1 := (List.range 32).foldl (fun (x : Thread) i => x.setSreg i (BitVec.ofNat 64 (leAt b (78 + 8 * i) 8))) x0
    let lanes (i : Nat) : List Word32 := (List.range 64).map fun l => BitVec.ofNat 32 (leAt b (334 + 256 * i + 4 * l) 4)
    ((some ((List.range 8).foldl (fun (x : Thread) i => x.setVreg i (lanes i)) x1)), b.drop 2391)

/-! ## DMA queue -/

/-- A set of scoreboard regions as a bit mask of 224 bytes, and back (R267). -/
def putRegions (l : List Nat) : List Byte := toLE 224 (sumOf ((dedup l).map fun r => 2 ^ r))
def takeRegions (b : List Byte) : List Nat := (List.range 1792).filter fun r => bit (leAt b 0 224) r

/-- A queued or running descriptor with its channel, and the read and write sets of its DMA_SUBMIT. -/
def putDesc (ch : Nat) (d : Desc) : List Byte :=
  toLE 1 ch ++ toLE 1 (d.thread % 16) ++ toLE 1 (b2n d.signal.isSome) ++ toLE 8 (d.signal.getD 0) ++ (d.bytes ++ toLE 64 0).take 64 ++
    putRegions d.reads ++ putRegions d.writes

/-- What a saved descriptor gives: channel, thread within the tile, signal word, bytes and sets. -/
structure SavedDesc where
  ch     : Nat
  h      : Nat
  signal : Option Nat
  bytes  : List Byte
  reads  : List Nat
  writes : List Nat
deriving DecidableEq, Repr

def takeDesc (b : List Byte) : SavedDesc × List Byte :=
  ({ ch := leAt b 0 1, h := leAt b 1 1, signal := if leAt b 2 1 = 0 then none else some (leAt b 3 8),
     bytes := (b.drop 11).take 64, reads := takeRegions (b.drop 75), writes := takeRegions (b.drop 299) }, b.drop 523)

/-! ## The scoreboard: loads that are still to be answered -/

/-- A GLD, as its effects say: physical address, scratchpad address and what its home gave. -/
def InFlight.loadOf (f : InFlight) : Option (Nat × Nat × Option (List Byte)) :=
  match f.effects with
  | [.load pa dst _ got] => some (pa, dst, got)
  | _ => none

/-- The incomplete GLDs of a tile's threads that `mine` names: only they can be open when the records are written (R626, R280,
R552). -/
def State.openLoads (s : State) (t : Nat) (mine : Nat → Bool) : List InFlight :=
  (s.ofTile t).filter fun i => mine i.thread && i.loadOf.isSome

/-- An incomplete GLD of tile t: thread, word, PC, physical address, scratchpad offset, and the data if the home gave them. -/
def putLoad (t : Nat) (f : InFlight) : List Byte :=
  match f.loadOf with
  | some (pa, dst, got) =>
    toLE 1 (f.thread % 16) ++ toLE 8 f.word.toNat ++ toLE 4 f.pc ++ toLE 8 pa ++ toLE 4 (dst - windowOf t) ++ toLE 1 (b2n got.isSome) ++
      (got.getD [] ++ toLE 64 0).take 64
  | none => []

def takeLoad (b : List Byte) : (Nat × Nat × Nat × Nat × Nat × Option (List Byte)) × List Byte :=
  ((leAt b 0 1, leAt b 1 8, leAt b 9 4, leAt b 13 8, leAt b 21 4, if leAt b 25 1 = 0 then none else some ((b.drop 26).take 64)), b.drop 90)

/-- A restored GLD is under way again: its home is asked once more, and it is late from now on (assumption 91). -/
def State.reopen (s : State) (t : Nat) (e : Nat × Nat × Nat × Nat × Nat × Option (List Byte)) : State :=
  let (h, w, pc, pa, o, got) := e
  let x := s.thread (16 * t + h)
  let f : InFlight := {
    id := s.nextIf, thread := 16 * t + h, word := BitVec.ofNat 64 w, pc := pc, issue := s.now, stamp := s.stamp, due := s.now,
    late := 0, margin := s.fld (F.snufferMargin x.part), sdst := none, vdst := none, reads := x.ownRegions pa 64, writes :=
    spRegions o 64,
    line := some (pa / 64), mat := none, answer := (hostOf pa).isSome || (cxlOf pa).isSome,
    unit := match hostOf pa, cxlOf pa with
      | some (k, _), _ => k
      | _, some (q, _) => q
      | _, _ => 0
    effects := [.load pa (windowOf t + o) 64 got], run := none }
  { s.fromHost x.ctx pa 64 with inflight := s.inflight ++ [f], nextIf := s.nextIf + 1 }

/-! ## Tiles -/

/-- What a record holds beside the scratchpad and the accumulator buffer, in the 128 KiB that it leaves (R623): eight full PAIRED banks
take 40 KiB, the registers of 16 threads 38 KiB, and the 64 descriptors and GLDs that the trackers of a tile hold at most (R273) 33 KiB.
`mine` and `owner` tell the threads of the context and the places of their steps. -/
def State.putTile (s : State) (t : Nat) (mine : Nat → Bool) (owner : Nat → Nat) : List Byte :=
  let k := s.tile t
  let ds := (s.cluster (t / 8)).channels.flatMap fun c =>
    (c.2.filter fun d => d.thread / 16 == t && mine d.thread).map fun d => (c.1, d)
  let b := toLE 32 k.nf.toNat ++ toLE 1 k.current ++ ((List.range 8).flatMap fun i => putBank (tget Bank.dflt k.banks i)) ++
    ((List.range 16).flatMap fun h => putThread (s.thread (16 * t + h)) (mine (16 * t + h)) (owner (16 * t + h))) ++
    toLE 2 ds.length ++ (ds.flatMap fun e => putDesc e.1 e.2) ++ toLE 1 (s.openLoads t mine).length ++
      (s.openLoads t mine).flatMap (putLoad t)
  b.take 131072

/-- Descriptors of a restored tile are queued again, wait for their thread to resume, and are incomplete DMA_SUBMITs until they end,
with their read and write sets (R268, R270). -/
def State.requeue (s : State) (t : Nat) (e : SavedDesc) : State :=
  let th := 16 * t + e.h
  let x := s.thread th
  let d : Desc := {
    thread := th, ifId := s.nextIf, bytes := e.bytes, ctx := x.ctx, queued := 2 ^ 64, running := false, endAt := 0, margin := 0,
    signal := e.signal, reads := e.reads, writes := e.writes, hap := noHap, run := DmaRun.start 0 0 .free }
  let f : InFlight := {
    id := s.nextIf, thread := th, word := BitVec.ofNat 64 4, pc := x.pc, issue := s.now, stamp := s.stamp, due := s.now, late := 0, margin := 0,
    sdst := none, vdst := none, reads := e.reads, writes := e.writes, line := none, mat := none, answer := true, unit := 0,
    effects := [], run := none }
  let s1 := s.setChannel (t / 8) e.ch (s.channel (t / 8) e.ch ++ [d])
  { s1 with inflight := s1.inflight ++ [f], nextIf := s1.nextIf + 1 }

/-- A tile as its record gives it to context n (R630). -/
def State.takeTile (s : State) (n t : Nat) (owner : Nat → Owner) (b : List Byte) : State :=
  let nf := leAt b 0 32
  let cur := leAt b 32 1
  let (banks, b1) := takeMany takeBank 8 (b.drop 33)
  let (ths, b2) := takeMany (takeThread n owner) 16 b1
  let (q, b3) := take1 2 b2
  let (ds, b4) := takeMany takeDesc (Nat.min q 64) b3
  let (m, b5) := take1 1 b4
  let (gs, _) := takeMany takeLoad (Nat.min m 64) b5
  let bt := ((List.range 8).zip banks).foldl (fun l e => tset Bank.dflt l e.1 e.2) ([] : List (Nat × Bank))
  let s1 := s.setTile t { s.tile t with nf := BitVec.ofNat 256 nf, current := cur, banks := bt }
  let s2 := ((List.range 16).zip ths).foldl (fun (a : State) e => match e.2 with
    | some x => a.setThread (16 * t + e.1) x
    | none => a) s1
  gs.foldl (fun a e => a.reopen t e) (ds.foldl (fun a e => a.requeue t e) s2)

/-! ## A partition's share of a step -/

/-- Flags, outcomes and the place of the step in the image, as partition p has them. -/
def State.putShare (s : State) (t : Step) (p place : Nat) : List Byte :=
  let out (id : Nat) : Nat := match t.colls.find? fun e => e.1 == p && e.2.1 == id with
    | some e => e.2.2.1
    | none => 0xFF
  let flag (l : List Nat) : Nat := b2n (l.contains p)
  toLE 1 place ++ toLE 1 (s.fld (F.phase p)) ++ toLE 1 (s.sflags p) ++
    toLE 1 (flag t.hdrFault + 2 * flag t.threadFault + 4 * flag t.gate + 8 * flag t.late + 16 * flag t.gated + 32 * flag t.updUp) ++
    toLE 1 (match t.ended.find? fun e => e.1 == p with
      | some e => e.2
      | none => 0xFF) ++ toLE 1 ((tfind t.allow p).getD 16) ++ toLE 1 (out (t.view p).voteId) ++ toLE 1 0 ++
    (t.view p).list.flatMap fun e => toLE 1 (out e.1)

end Sys2Proof.Machine
end

