-- ==== Sys2Proof/Machine/Slots.lean ====
section
/-!
DEFINITION. Slots.lean: the four weight slots of a lantern partition (R456 to R460), pins (R474), the switch (R471), the
REFERENCE label (R476) and the adapter blocks (R477).
-/
namespace Sys2Proof.Machine
open Sys2Proof.Config

def slotIds : List Nat := [0, 1, 2, 3]

/-- Slot states (R456). -/
def slEmpty : Nat := 0
def slFilling : Nat := 1
def slReady : Nat := 2

/-- The ACTIVE slot of partition p. -/
def State.activeSlot (s : State) (p : Nat) : Option Nat := slotIds.find? fun i => s.flag (F.slActive p i)

/-- Version of the ACTIVE slot. -/
def State.activeVersion (s : State) (p : Nat) : Option Nat := (s.activeSlot p).map fun i => s.fld (F.slVersion p i)

/-- The slot that is not EMPTY and holds version v. -/
def State.slotWith (s : State) (p v : Nat) : Option Nat :=
  slotIds.find? fun i => s.fld (F.slState p i) != slEmpty && s.fld (F.slVersion p i) == v

/-- A slot becomes EMPTY: VERSION, labels and pins 0 (R456). -/
def State.emptySlot (s : State) (p i : Nat) : State := s.setReg (F.slotReg p i) 0

/-- All slots of p EMPTY, no ACTIVE version (R459). -/
def State.emptySlots (s : State) (p : Nat) : State := slotIds.foldl (fun a i => a.emptySlot p i) s

/-- R460 for one slot: a HELD slot without pins loses HELD, and a READY slot without labels and pins becomes EMPTY; RESERVED
keeps it (R475). -/
def State.sweepSlot (s : State) (p i : Nat) : State :=
  let s1 := if s.fld (F.slPins p i) = 0 then s.setFld (F.slHeld p i) 0 else s
  if s1.fld (F.slState p i) = slReady ∧ s1.flag (F.slActive p i) = false ∧ s1.flag (F.slIncoming p i) = false ∧
      s1.flag (F.slReference p i) = false ∧ s1.flag (F.slHeld p i) = false ∧ s1.flag (F.slReserved p i) = false ∧
      s1.fld (F.slPins p i) = 0 then s1.emptySlot p i
  else s1

/-- R460 for every slot of p. -/
def State.sweepSlots (s : State) (p : Nat) : State := slotIds.foldl (fun a i => a.sweepSlot p i) s

/-- A pinned sample adds 1 to PINS of a slot (R474). -/
def State.pinSlot (s : State) (p i : Nat) : State := s.setFld (F.slPins p i) (s.fld (F.slPins p i) + 1)

/-- A pin is released when its sample enters DONE (R343, R460, R474). -/
def State.unpinSlot (s : State) (p i : Nat) : State :=
  (s.setFld (F.slPins p i) (s.fld (F.slPins p i) - 1)).sweepSlot p i

/-- The switch of R471 on partition p: slot j, which is INCOMING, becomes ACTIVE, and the slot that was ACTIVE keeps HELD if it
has pins. -/
def State.switchSlot (s : State) (p j : Nat) : State :=
  if s.flag (F.slIncoming p j) then
    let s1 := (s.setFld (F.slIncoming p j) 0).setFld (F.slActive p j) 1
    match s.activeSlot p with
    | some i =>
      let s2 := s1.setFld (F.slActive p i) 0
      let s3 := if s2.fld (F.slPins p i) = 0 then s2 else s2.setFld (F.slHeld p i) 1
      s3.sweepSlot p i
    | none => s1
  else s

/-- Slot i of p, which a publication took, becomes EMPTY if it is still INCOMING (R472, R714); a REFERENCE_SET that has reserved it keeps
RESERVED until its effective mark (R476). -/
def State.dropSlot (s : State) (p i : Nat) : State :=
  if s.flag (F.slIncoming p i) then (s.emptySlot p i).setFld (F.slReserved p i) (s.fld (F.slReserved p i)) else s

/-- The REFERENCE label of p moves to the READY slot of version v, or goes when v is 0; RESERVED is cleared and R460
applied (R476). -/
def State.moveReference (s : State) (p v : Nat) : State :=
  let s1 := slotIds.foldl (fun a i => (a.setFld (F.slReference p i) 0)) s
  let s2 := match s1.slotWith p v with
    | some i => if v = 0 then s1 else s1.setFld (F.slReference p i) 1
    | none => s1
  s2.sweepSlots p

/-- RESERVED is cleared on the slots that a REFERENCE_SET has reserved (R475, R476). -/
def State.clearReserved (s : State) (c : Cmd) : State := c.targets.foldl (fun a t => a.setFld (F.slReserved t.1 t.2) 0) s

/-! ## Adapters (R477) -/

/-- Adapter states: 0 INSTALLING, 1 CURRENT, 2 RETIRED, 3 in quarantine. -/
def State.adapter (s : State) (p id st : Nat) : Option Adapter :=
  (s.part p).adapters.find? fun a => a.id == id && a.state == st

/-- RETIRED versions without references free their blocks (R477). -/
def Part.sweepAdapters (x : Part) : Part :=
  { x with adapters := x.adapters.filter fun a => !(a.state == 2 && a.refs == 0) }

/-- A sample pins, or no longer pins, the adapter version in a block. -/
def State.refAdapter (s : State) (p block : Nat) : State :=
  s.modPart p fun x => { x with adapters := x.adapters.map fun a => if a.block = block then { a with refs := a.refs + 1 } else a }
def State.unrefAdapter (s : State) (p : Nat) (block : Option Nat) : State :=
  match block with
  | none => s
  | some b => s.modPart p fun x =>
    let l := x.adapters.map fun a => if a.block = b ∧ a.state ≠ 3 then { a with refs := a.refs - 1 } else a
    { x with adapters := l }.sweepAdapters

/-- The lowest free adapter block of p (R479). -/
def State.freeBlock (s : State) (p : Nat) : Option Nat :=
  let used := (s.part p).adapters.map (·.block)
  let b := (List.range (used.length + 1)).find? fun i => !used.contains i
  match b with
  | some i => if i < s.fld (F.adpBlocks p) then some i else none
  | none => none

/-- Physical address of adapter block b of p. -/
def State.blockAt (s : State) (p b : Nat) : Nat :=
  gddrBase p + unit2M * (s.fld (F.adpBase p) + b * s.fld (F.blockUnits p))

end Sys2Proof.Machine
end

