-- ==== Sys2Proof/Machine/Kv.lean ====
section
/-!
DEFINITION. Kv.lean: the KV arena of a lantern partition: pages and their metadata (R371 to R384), page lists, copy on
write (R389, R390), prefix hashing (R401 to R405), score fold and eviction (R407 to R410), rollback (R411), release and
quarantine (R413, R414).
-/
namespace Sys2Proof.Machine
open Sys2Proof.Config

/-! ## The arena (R371 to R375) -/

def State.nPages (s : State) (p : Nat) : Nat := s.fld (F.kvPages p)
def State.pageSize (s : State) (p : Nat) : Nat := 64 * s.fld (F.pageLines p)
def State.arenaAt (s : State) (p : Nat) : Nat := gddrBase p + unit2M * s.fld (F.arenaBase p)
/-- Metadata record of page k (R374). -/
def State.metaAt (s : State) (p k : Nat) : Nat :=
  s.arenaAt p + s.fld (F.planes p) * s.nPages p * s.pageSize p + 512 * k
def State.listStride (s : State) (p : Nat) : Nat := 64 * cdiv (3 * s.fld (F.listEntries p)) 64
def State.listAt (s : State) (p i : Nat) : Nat := s.metaAt p (s.nPages p) + i * s.listStride p
/-- First byte after the arena (R374). -/
def State.arenaEnd (s : State) (p : Nat) : Nat :=
  s.listAt p (s.fld (F.kvLists p)) + 64 * 2 ^ s.fld (F.idxLog2 p)

/-- Bucket b of the prefix index (R374, R402). -/
def State.bucketAt (s : State) (p b : Nat) : Nat := s.listAt p (s.fld (F.kvLists p)) + 64 * b

/-- Every field of R371 lies in its range, and the arena within the 24 GiB of p (R371, R373). -/
def State.arenaOk (s : State) (p : Nat) : Bool :=
  decide (1 ≤ s.nPages p ∧ s.nPages p ≤ 2097152) && s.fld (F.pageLines p) % 128 == 0 &&
    decide (0 < s.fld (F.pageLines p)) && decide (1 ≤ s.fld (F.planes p)) &&
    decide (4 ≤ s.fld (F.idxLog2 p) ∧ s.fld (F.idxLog2 p) ≤ 24) &&
    decide (1 ≤ s.fld (F.kvLists p) ∧ s.fld (F.kvLists p) ≤ 65536) && decide (1 ≤ s.fld (F.listEntries p)) &&
    decide (s.arenaEnd p ≤ gddrBase p + gddrPerPart)

/-- Page states (R381). -/
def pgFree : Nat := 0
def pgUse : Nat := 1
def pgQuar : Nat := 2

def noPage : Nat := 0xFFFFFF

/-- The 512-byte metadata record (R380). -/
def Page.bytes (g : Page) : List Byte :=
  toLE 4 g.refs ++ toLE 1 g.fmt ++ toLE 1 (g.state + 4 * b2n g.hashed + 8 * b2n g.mixed) ++ toLE 2 g.owner ++
    toLE 1 g.fillN ++ toLE 3 g.prev ++ toLE 4 g.posBase ++ toLE 8 g.valid.toNat ++ toLE 8 g.hash.toNat ++
    toLE 2 g.polVer ++ toLE 2 g.adId ++ toLE 2 g.adVer ++ toLE 2 0 ++ toLE 8 g.freed ++ toLE 16 0 ++
    (List.range 64).flatMap (fun i => toLE 4 (tget 0 g.tokens i)) ++
    (List.range 64).flatMap (fun i => toLE 2 (tget 0 g.scores i)) ++ toLE 64 0

def State.pg (s : State) (p k : Nat) : Page := (s.part p).page k

/-- A page's record changes: in the Stoker's table, and in the metadata region that the kernels read (R380). -/
def State.setPg (s : State) (p k : Nat) (g : Page) : State :=
  (s.modPart p fun x => x.setPage k g).agentWrite (s.metaAt p k) g.bytes

/-- The page list of slot i. -/
def State.list (s : State) (p i : Nat) : List Nat := tget [] (s.part p).lists i

/-- A page list changes; it is a packed array of 24-bit page numbers (R309, R377). -/
def State.setList (s : State) (p i : Nat) (l : List Nat) : State :=
  (s.modPart p fun x => { x with lists := tset [] x.lists i l }).agentWrite (s.listAt p i) (l.flatMap fun k => toLE 3 k)

/-- Pages that are not FREE, and those QUARANTINED. -/
def Part.usedPages (x : Part) : Nat := (x.pages.filter fun e => e.2.state != pgFree).length
def Part.quarPages (x : Part) : Nat := (x.pages.filter fun e => e.2.state == pgQuar).length

/-- FREE_PAGES and QUAR_PAGES of KV_STATUS (R371). -/
def State.syncKv (s : State) (p : Nat) : State :=
  if s.role p = rLantern then
    (s.setFld (F.freePages p) (s.nPages p - (s.part p).usedPages)).setFld (F.quarPages p) (s.part p).quarPages
  else (s.setFld (F.freePages p) 0).setFld (F.quarPages p) 0

/-- Bytes [base, base + n) read 0. -/
def Memory.zeroRange (m : Memory) (base n : Nat) : Memory :=
  { cells := m.cells.filter fun c => !decide (base ≤ c.1 ∧ c.1 < base + n),
    undef := m.undef.flatMap fun u =>
      let lo := Nat.max u.1 base
      let hi := Nat.min (u.1 + u.2.1) (base + n)
      if lo < hi then
        (if u.1 < lo then [(u.1, lo - u.1, u.2.2)] else []) ++
          (if hi < u.1 + u.2.1 then [(hi, u.1 + u.2.1 - hi, u.2.2)] else [])
      else [u] }

/-- The arena in its entry state: every page FREE, every entry of the index empty, which is all ones (R375, R402, R415). -/
def State.enterArena (s : State) (p : Nat) : State :=
  let m := s.mem.zeroRange (s.metaAt p 0) (512 * s.nPages p)
  let s1 := { s with mem := m.fill (s.bucketAt p 0) (64 * 2 ^ s.fld (F.idxLog2 p)) .ones }
  (s1.modPart p fun x => { x with pages := [], lists := [], index := [] }).syncKv p

/-- The arena of a partition that leaves Lantern: its pages leave the pool (R157). -/
def State.leaveArena (s : State) (p : Nat) : State :=
  (s.modPart p fun x => { x with pages := [], lists := [], index := [] }).syncKv p

/-! ## The prefix index (R401 to R403) -/

/-- mix() of R401. -/
def mix (x : Nat) : Nat :=
  let a := x ^^^ (x >>> 30)
  let b := (a * 0xC2B61E3F9A47D58B) % 2 ^ 64
  let c := b ^^^ (b >>> 27)
  let d := (c * 0x8F1D5A63E27C4B19) % 2 ^ 64
  d ^^^ (d >>> 31)

/-- block_hash() of R401. -/
def blockHash (prev : Nat) (tok : List Nat) (aid pv av : Nat) (stale : Bool) : Nat :=
  let pv := if stale then 0 else pv
  let av := if stale then 0 else av
  let h0 := mix (prev ^^^ 0x7A3E5C19D4B28F61)
  let h1 := mix (h0 ^^^ (aid <<< 48) ^^^ (av <<< 32) ^^^ pv)
  (List.range 32).foldl (fun h i => mix (h ^^^ tok.getD (2 * i) 0 ^^^ (tok.getD (2 * i + 1) 0 <<< 32))) h1

def State.bucketOf (s : State) (p h : Nat) : Nat := h % 2 ^ s.fld (F.idxLog2 p)

/-- The entries of a bucket that are not empty: (place, page, TAG). -/
def State.bucket (s : State) (p b : Nat) : List (Nat × Nat × Nat) := tget [] (s.part p).index b

/-- The eight entries of a bucket: page and TAG, or all ones where empty (R402). -/
def bucketBytes (l : List (Nat × Nat × Nat)) : List Byte :=
  (List.range 8).flatMap fun i => match l.find? fun e => e.1 == i with
    | some e => toLE 3 e.2.1 ++ toLE 5 e.2.2
    | none => toLE 8 (2 ^ 64 - 1)

/-- A bucket changes, in the Stoker's table and in the arena (R374, R402). -/
def State.setBucket (s : State) (p b : Nat) (l : List (Nat × Nat × Nat)) : State :=
  (s.modPart p fun x => { x with index := tset [] x.index b l }).agentWrite (s.bucketAt p b) (bucketBytes l)

/-- The index entry of page k is emptied and HASHED cleared. -/
def State.unhash (s : State) (p k : Nat) : State :=
  let g := s.pg p k
  if g.hashed then
    let b := s.bucketOf p g.hash.toNat
    (s.setBucket p b ((s.bucket p b).filter fun e => e.2.1 != k)).setPg p k { g with hashed := false }
  else s

/-- Page k is entered in its bucket: in the lowest empty place, else in place of the lowest-numbered entry whose page is
FREE; otherwise INDEX_FULL (R402, R403). -/
def State.register (s : State) (p k : Nat) (h prev : Nat) : State :=
  let b := s.bucketOf p h
  let l := s.bucket p b
  let g := s.pg p k
  let enter (a : State) (i : Nat) : State :=
    ((a.setBucket p b (sortBy (fun x y => decide (x.1 ≤ y.1)) ((i, k, h >>> 24) :: (a.bucket p b).filter fun e => e.1 != i)))).setPg
      p k { g with hashed := true, hash := BitVec.ofNat 64 h, prev := prev }
  match (List.range 8).find? fun i => !(l.any fun e => e.1 == i) with
  | some i => enter s i
  | none =>
    match l.find? fun e => (s.pg p e.2.1).state == pgFree with
    | some e => enter (s.unhash p e.2.1) e.1
    | none => s.hwSet (F.indexFull p)

/-! ## Allocation (R382, R383) -/

/-- Lowest page from k on that is FREE and not HASHED, given the listed pages from k on. -/
def firstFree : Nat → List (Nat × Page) → Nat
  | k, [] => k
  | k, (i, g) :: r =>
    if k < i then k else if g.state == pgFree && !g.hashed then i else firstFree (i + 1) r

/-- The page that allocation takes next: FREE without HASHED first, ascending; then FREE with HASHED, by FREED_MARK and
page number. -/
def State.nextPage (s : State) (p : Nat) : Option Nat :=
  let x := s.part p
  let k := firstFree 0 x.pages
  if k < s.nPages p then some k
  else
    let l := x.pages.filter fun e => e.2.state == pgFree && e.2.hashed
    (sortBy (fun a b => decide (a.2.freed < b.2.freed ∨ (a.2.freed = b.2.freed ∧ a.1 ≤ b.1))) l).head?.map (·.1)

/-- FREE pages that no reservation of a guaranteed request or sample covers (R348, R352). -/
def State.unreserved (s : State) (p : Nat) : Nat :=
  s.nPages p - (s.part p).usedPages - sumOf ((s.reqs.filter fun r => r.2.part == p).map fun r => r.2.promptRes) -
    sumOf ((s.table.filter fun e => e.2.part == p && e.2.guar && e.2.state != sFree && e.2.state != sDone).map
      fun e => e.2.reserve)

/-- An allocated page (R383). -/
def State.freshPage (s : State) (owner posBase pv aid av : Nat) : Page :=
  { Page.dflt with
    refs := 1, state := pgUse, owner := owner, prev := noPage, posBase := posBase, polVer := pv, adId := aid, adVer := av,
    fmt := s.fld F.kDtype + 16 * s.fld F.vDtype }

/-- A page becomes FREE at this mark, keeping its index entry (R381, R413). -/
def State.freePage (s : State) (p k : Nat) : State :=
  s.setPg p k { s.pg p k with refs := 0, state := pgFree, freed := s.time.mark }

/-- A page that leaves sample e before DONE returns to the reservation of a guaranteed sample (R352). -/
def State.returnPage (s : State) (e : Nat) : State :=
  if (s.entry e).guar then s.setEntry e { s.entry e with reserve := (s.entry e).reserve + 1 } else s

/-- Sample e obtains one page from its reservation, or from the unreserved pool. -/
def State.chargePage (s : State) (e : Nat) : State :=
  if (s.entry e).guar then s.setEntry e { s.entry e with reserve := (s.entry e).reserve - 1 } else s

def State.req (s : State) (i : Nat) : Option Request := tfind s.reqs i
def State.modReq (s : State) (i : Nat) (f : Request → Request) : State :=
  { s with reqs := s.reqs.map fun e => if e.1 = i then (i, f e.2) else e }

/-- The request of sample e obtains one prompt page, which counts once however many samples share it (R348, R352). -/
def State.chargeUnit (s : State) (e : Nat) : State :=
  if (s.entry e).guar then s.modReq (s.entry e).reqRec fun r => { r with promptRes := r.promptRes - 1 } else s

/-- A prompt page that its unit has obtained returns, once, to the reservation of the request (R352, R411). -/
def State.returnUnit (s : State) (e : Nat) : State :=
  if (s.entry e).guar then s.modReq (s.entry e).reqRec fun r => { r with promptRes := r.promptRes + 1 } else s

/-- The next page is taken for the 64-block of `posBase` on behalf of sample e, running on version pv; it keeps the mark at
which it last became FREE (R380, R383). -/
def State.takePage (s : State) (e posBase pv : Nat) : Option (Nat × State) :=
  let x := s.entry e
  match s.nextPage x.part with
  | some k =>
    let s1 := s.unhash x.part k
    some (k, s1.setPg x.part k { s.freshPage x.ctx posBase pv x.adapter x.adapterVer with freed := (s.pg x.part k).freed })
  | none => none

/-- Allocate a page of sample e's own. -/
def State.allocPage (s : State) (e posBase pv : Nat) : Option (Nat × State) := (s.chargePage e).takePage e posBase pv

/-! ## Page lists -/

/-- Place and page of the listed page that covers a position (R410). -/
def State.pageOf (s : State) (e q : Nat) : Option (Nat × Nat) :=
  let x := s.entry e
  let l := s.list x.part x.pageList
  ((l.zip (List.range l.length)).find? fun a =>
    decide ((s.pg x.part a.1).posBase ≤ q ∧ q < (s.pg x.part a.1).posBase + 64)).map fun a => (a.2, a.1)

def State.listOf (s : State) (e : Nat) : List Nat := s.list (s.entry e).part (s.entry e).pageList

/-- POS_BASE values of the pages that positions first to first + count − 1 reach and the sample does not list. -/
def State.newBlocks (s : State) (e first count : Nat) : List Nat :=
  if count = 0 then []
  else
    let b0 := first / 64
    let bases := (List.range ((first + count - 1) / 64 + 1 - b0)).map fun i => 64 * (b0 + i)
    bases.filter fun b => !((s.listOf e).any fun k => (s.pg (s.entry e).part k).posBase == b)

/-- Sample e lists page k last. -/
def State.listPage (s : State) (e k : Nat) : State :=
  s.setList (s.entry e).part (s.entry e).pageList (s.listOf e ++ [k])

/-- The first samples of a prefill unit share the pages that its chunk reaches: each is obtained once, by the first sample,
and listed by all (R389). -/
def State.obtainUnit (s : State) (es : List Nat) (pv : Nat) : List Nat → State
  | [] => s
  | b :: r =>
    match es with
    | [] => s
    | e :: _ =>
      (match (s.chargeUnit e).takePage e b pv with
       | some (k, s1) =>
         let s2 := s1.setPg (s.entry e).part k { s1.pg (s.entry e).part k with refs := es.length }
         es.foldl (fun (a : State) x => a.listPage x k) s2
       | none => s).obtainUnit es pv r

/-- The page in which sample e writes its first position is shared, and e must take a copy, when `writers` write in the
frame: the lowest of them keeps the page when they are all its referents (R389). -/
def State.copyNeeded (s : State) (writers : List Nat) (e first : Nat) : Option (Nat × Nat) :=
  match s.pageOf e first with
  | some (i, k) =>
    let x := s.entry e
    let g := s.pg x.part k
    let ws := writers.filter fun w => (s.entry w).part == x.part &&
      ((s.pageOf w ((s.entry w).length - 1)).map (·.2)) == some k
    if g.refs ≤ 1 then none
    else if ws.length = g.refs ∧ minOf e ws = e then none
    else some (i, k)
  | none => none

/-- Copy on write of the page at list index i (R389): the copy, and the state with it. -/
def State.copyPage (s : State) (e i k pv : Nat) : Option (Nat × State) :=
  let x := s.entry e
  let g := s.pg x.part k
  match s.allocPage e g.posBase pv with
  | some (n, s1) =>
    let s2 := s1.setPg x.part n { s1.pg x.part n with
      fillN := g.fillN, valid := g.valid, tokens := g.tokens, scores := g.scores, polVer := g.polVer, adId := g.adId,
      adVer := g.adVer }
    let s3 := s2.setPg x.part k { s2.pg x.part k with refs := g.refs - 1 }
    some (n, s3.setList x.part x.pageList ((s3.listOf e).set i n))
  | none => none

/-- The undoing of a copy (R390). -/
def State.undoCopy (s : State) (e i k n : Nat) : State :=
  let x := s.entry e
  let g := s.pg x.part k
  let s1 := s.setPg x.part k { g with refs := g.refs + 1, state := pgUse }
  let s2 := s1.setList x.part x.pageList ((s1.listOf e).set i k)
  (s2.freePage x.part n).returnPage e

/-- Lower the reference count of page k by n; at 0 it becomes FREE (R413). -/
def State.dropRefs (s : State) (p k n : Nat) : State :=
  let g := s.pg p k
  if g.refs ≤ n then s.freePage p k else s.setPg p k { g with refs := g.refs - n }

/-! ## Eviction (R408 to R410) -/

def popcount (v : BitVec 64) : Nat := ((List.range 64).filter fun i => v.getLsbD i).length

/-- Live positions of sample e. -/
def State.liveCount (s : State) (e : Nat) : Nat :=
  sumOf ((s.listOf e).map fun k => popcount (s.pg (s.entry e).part k).valid)

/-- An eviction candidate: score, position, page. -/
structure Cand where
  score : Nat
  pos   : Nat
  page  : Nat
deriving DecidableEq, Repr

/-- The candidates of R408 in ascending (score, q). -/
def State.candidates (s : State) (e : Nat) : List Cand :=
  let x := s.entry e
  let hi := x.length - 1 - 64 * s.fld (F.recent x.ctx)
  let all := (s.listOf e).flatMap fun k =>
    let g := s.pg x.part k
    if g.refs = 1 then
      ((List.range 64).filter fun i => g.valid.getLsbD i && decide (s.fld (F.sinks x.ctx) ≤ g.posBase + i) &&
        decide (g.posBase + i < hi)).map fun i => { score := tget 0 g.scores i, pos := g.posBase + i, page := k : Cand }
    else []
  sortBy (fun a b => decide (a.score < b.score ∨ (a.score = b.score ∧ a.pos ≤ b.pos))) all

/-- Evict one candidate; the flag says whether its page was emptied. -/
def State.evictOne (s : State) (e : Nat) (c : Cand) : State × Bool :=
  let x := s.entry e
  let s1 := s.unhash x.part c.page
  let g := s1.pg x.part c.page
  let i := c.pos - g.posBase
  let v := g.valid &&& ~~~(BitVec.ofNat 64 (2 ^ i))
  let s2 := s1.setPg x.part c.page { g with valid := v, tokens := tset 0 g.tokens i 0, scores := tset 0 g.scores i 0 }
  if v = 0 then
    (((s2.setList x.part x.pageList ((s2.listOf e).filter fun k => k != c.page)).freePage x.part c.page).returnPage e, true)
  else (s2, false)

/-- The loop of evict(): stops once `want` pages are freed, or at `limit` live positions when want is 0. -/
def State.evictLoop (s : State) (e want limit : Nat) : Nat → List Cand → State
  | _, [] => s
  | freed, c :: r =>
    if 0 < want ∧ want ≤ freed then s
    else if want = 0 ∧ s.liveCount e ≤ limit then s
    else
      let (s1, f) := s.evictOne e c
      s1.evictLoop e want limit (freed + b2n f) r

/-- Pages that evicting every candidate would empty. -/
def State.emptied (s : State) (e : Nat) (cs : List Cand) : Nat :=
  ((s.listOf e).filter fun k =>
    let n := (cs.filter fun c => c.page == k).length
    decide (0 < n) && n == popcount (s.pg (s.entry e).part k).valid).length

/-- evict(x, want, limit) of R408: the state, and whether it succeeded. -/
def State.evict (s : State) (e want limit : Nat) : State × Bool :=
  let cs := s.candidates e
  if 0 < want ∧ s.emptied e cs < want then (s, false)
  else (s.evictLoop e want limit 0 cs, true)

/-! ## Rollback (R411) -/

/-- Position q becomes live with its token (R411). -/
def State.liveAt (s : State) (e q tok : Nat) : State :=
  match s.pageOf e q with
  | some (_, k) =>
    let p := (s.entry e).part
    let g := s.pg p k
    let i := q - g.posBase
    s.setPg p k { g with valid := g.valid ||| BitVec.ofNat 64 (2 ^ i), tokens := tset 0 g.tokens i tok }
  | none => s

/-- A slot written under other versions than the page's sets MIXED (R384). -/
def State.markMixed (s : State) (e q pv : Nat) : State :=
  match s.pageOf e q with
  | some (_, k) =>
    let x := s.entry e
    let g := s.pg x.part k
    if g.polVer = pv ∧ g.adVer = x.adapterVer then s else s.setPg x.part k { g with mixed := true }
  | none => s

/-- The written positions with their tokens, of which those below `bound` become live. -/
def State.commitPos (s : State) (e bound pv : Nat) : List (Nat × Nat) → State
  | [] => s
  | (q, tok) :: r =>
    let s1 := s.markMixed e q pv
    (if q < bound then s1.liveAt e q tok else s1).commitPos e bound pv r

/-- Pages of sample e from position `bound` on leave its list and are freed (R411). -/
def State.dropPages (s : State) (e bound : Nat) : State :=
  let p := (s.entry e).part
  let l := s.listOf e
  let gone := l.filter fun k => decide (bound ≤ (s.pg p k).posBase)
  let s1 := s.setList p (s.entry e).pageList (l.filter fun k => !decide (bound ≤ (s.pg p k).posBase))
  gone.foldl (fun a k =>
    let a1 := a.dropRefs p k 1
    if (a1.pg p k).state = pgFree then a1.returnPage e else a1) s1

/-- Pages from position `bound` on leave the lists of the samples of a prefill unit, which obtained each of them once (R389,
R411). -/
def State.dropShared (s : State) (es : List Nat) (bound : Nat) : State :=
  match es with
  | [] => s
  | e :: _ =>
    let p := (s.entry e).part
    let gone := (s.listOf e).filter fun k => decide (bound ≤ (s.pg p k).posBase)
    let s1 := es.foldl (fun (a : State) x => a.setList p (a.entry x).pageList ((a.listOf x).filter fun k => !gone.contains k)) s
    gone.foldl (fun a k =>
      let a1 := a.dropRefs p k es.length
      if (a1.pg p k).state = pgFree then a1.returnUnit e else a1) s1

/-- FILL of the page that holds position `bound` (R411), or 64 where the position before it is the last of its page. -/
def State.setFill (s : State) (e bound : Nat) : State :=
  let p := (s.entry e).part
  match s.pageOf e bound with
  | some (_, k) => s.setPg p k { s.pg p k with fillN := bound - (s.pg p k).posBase }
  | none => s

/-- Pages wholly below position `bound` are filled. -/
def State.fillFull (s : State) (e bound first : Nat) : State :=
  let p := (s.entry e).part
  (s.listOf e).foldl (fun a k =>
    let g := a.pg p k
    if first < g.posBase + 64 ∧ g.posBase + 64 ≤ bound then a.setPg p k { g with fillN := 64 } else a) s

/-- Steps 1 to 3 of R411 for the positions that the frame wrote: those below `bound` are live. -/
def State.commitFill (s : State) (e bound pv : Nat) (written : List (Nat × Nat)) : State :=
  let first := minOf bound (written.map (·.1))
  ((s.commitPos e bound pv written).setFill e bound).fillFull e bound first

/-- Rollback and commit of R411. -/
def State.rollback (s : State) (e bound pv : Nat) (written : List (Nat × Nat)) : State :=
  (s.commitFill e bound pv written).dropPages e bound

/-! ## Score fold (R407) -/

/-- round(256 × m) of an FP32 score mass; a NaN or negative mass counts as 0 (R407). -/
def massUnits (v : Nat) : Nat :=
  match ofF32 v with
  | .fin s m e => if s then 0 else roundInt m (e + 8) none
  | .inf s => if s then 0 else 0xFFFF
  | .nan => 0

/-- The fold over one page: masses are (page, slot, FP32). -/
def State.foldPage (s : State) (p : Nat) (masses : List (Nat × Nat × Word32)) (k : Nat) : State :=
  let g := s.pg p k
  let d := s.fld (F.decay g.owner)
  let mine := masses.filter fun m => m.1 == k
  let sc := (List.range 64).foldl (fun t i =>
    if g.valid.getLsbD i then
      tset 0 t i (Nat.min 0xFFFF (tget 0 g.scores i * d / 256 +
        sumOf ((mine.filter fun m => m.2.1 == i).map fun m => massUnits m.2.2.toNat)))
    else tset 0 t i 0) g.scores
  s.setPg p k { g with scores := sc }

/-! ## Registration and matching (R401 to R405) -/

/-- Tokens of a page's 64 slots. -/
def Page.toks (g : Page) : List Nat := (List.range 64).map fun i => tget 0 g.tokens i

/-- Registration of sample e's list from index k on, with the chain hash and the page before (R403). The chain ends at the
first page that is not HASHED and cannot be registered. -/
def State.registerFrom (s : State) (e : Nat) : Nat → Nat → Nat → List Nat → State
  | _, _, _, [] => s
  | k, h, prev, pgNo :: r =>
    let x := s.entry e
    let g := s.pg x.part pgNo
    let h1 := blockHash h g.toks x.adapter x.version x.adapterVer (s.flag (F.staleReuse x.ctx))
    if g.hashed then s.registerFrom e (k + 1) h1 pgNo r
    else if g.state = pgUse ∧ g.owner = x.ctx ∧ g.mixed = false ∧ g.valid = BitVec.allOnes 64 ∧ g.posBase = 64 * k ∧
        g.posBase + 65 ≤ x.length then
      let s1 := s.register x.part pgNo h1 prev
      if (s1.pg x.part pgNo).hashed then s1.registerFrom e (k + 1) h1 pgNo r else s1
    else s

def State.registerAll (s : State) (e : Nat) : State :=
  if s.flag (F.prefixEn (s.entry e).ctx) then s.registerFrom e 0 0 noPage (s.listOf e) else s

/-- The page of R404 that matches block b of a prompt. -/
def State.matchBlock (s : State) (e b h prev : Nat) (toks : List Nat) : Option Nat :=
  let x := s.entry e
  let stale := s.flag (F.staleReuse x.ctx)
  ((s.bucket x.part (s.bucketOf x.part h)).find? fun en =>
    let g := s.pg x.part en.2.1
    en.2.2 == h >>> 24 && g.hash.toNat == h && g.state != pgQuar && g.owner == x.ctx && g.prev == prev && g.posBase == 64 * b &&
      g.adId == x.adapter && (stale || (g.polVer == x.version && g.adVer == x.adapterVer)) && g.toks == toks).map fun en => en.2.1

/-- A matched page is listed by every sample of the request; one taken from FREE counts against the pool from which the
request draws (R404, R405). -/
def State.takeMatch (s : State) (es : List Nat) (k : Nat) : State :=
  match es with
  | [] => s
  | e :: _ =>
    let p := (s.entry e).part
    let g := s.pg p k
    let s1 := if g.state = pgFree then s.chargeUnit e else s
    let s2 := s1.setPg p k { g with refs := g.refs + es.length, state := pgUse }
    es.foldl (fun a x => a.listPage x k) s2

/-- match() of R404 over the whole blocks below position P − 1: blocks matched, and the state with their pages listed. -/
def State.matchFrom (s : State) (es : List Nat) : Nat → Nat → Nat → List (List Nat) → Nat × State
  | b, _, _, [] => (b, s)
  | b, h, prev, toks :: r =>
    match es with
    | [] => (b, s)
    | e :: _ =>
      let x := s.entry e
      let h1 := blockHash h toks x.adapter x.version x.adapterVer (s.flag (F.staleReuse x.ctx))
      match s.matchBlock e b h1 prev toks with
      | some k => (s.takeMatch es k).matchFrom es (b + 1) h1 k r
      | none => (b, s)

/-! ## Release and quarantine (R413, R414) -/

/-- A sample enters DONE: its list entries are released (R413). -/
def State.releasePages (s : State) (e : Nat) : State :=
  let p := (s.entry e).part
  let l := s.listOf e
  let s1 := s.setList p (s.entry e).pageList []
  let s2 := l.foldl (fun a k => a.dropRefs p k 1) s1
  (s2.setEntry e { s2.entry e with reserve := 0 }).syncKv p

/-- Pages of context n on partition p lose their index entries (R414). -/
def State.unhashCtx (s : State) (p n : Nat) : State :=
  ((s.part p).pages.filter fun e => e.2.owner == n && e.2.hashed).foldl (fun a e => a.unhash p e.1) s

/-- At a teardown completion the pages `was` of the target, which were IN_USE or HASHED before its samples released them, become
QUARANTINED (R414). -/
def State.quarantinePages (s : State) (p : Nat) (was : List Nat) : State :=
  (was.foldl (fun a k => (a.unhash p k).setPg p k { (a.unhash p k).pg p k with
    refs := 0, state := pgQuar, freed := a.time.mark, hashed := false, quar := a.now }) s).syncKv p

/-- Pages of context n that entered quarantine at core cycle t become FREE (R147, R414). -/
def State.endQuarantine (s : State) (p n t : Nat) : State :=
  (((s.part p).pages.filter fun e => e.2.state == pgQuar && e.2.owner == n && e.2.quar == t).foldl
    (fun a e => a.freePage p e.1) s).syncKv p

end Sys2Proof.Machine
end

