-- ==== Sys2Proof/Machine/Reals.lean ====
section
/-!
DEFINITION. Reals.lean: powers of 2, logarithms, square roots and the sine and cosine of an exact number, in fixed point to
far more places than the accuracies that R301, R328, R330 and R395 leave to the part, and what those rules allow (assumption
7).
-/
namespace Sys2Proof.Machine
open Sys2Proof.Config

/-! ## Exact numbers -/

/-- A finite number in units of 2^q, rounded toward zero; 0 for the others. -/
def Num.units (x : Num) (q : Int) : Int :=
  match x with
  | .fin s m e => unitsOf s m e q
  | _ => 0

def Num.absOf : Num → Num
  | .fin _ m e => .fin false m e
  | .inf _ => .inf false
  | .nan => .nan

/-- v lies within a distance of r. -/
def Num.within (v r d : Num) : Bool :=
  match v with
  | .fin _ _ _ => !d.lt (v.add r.neg1).absOf
  | _ => false

/-- What the part gives for the exact value r: its own value v where that keeps the accuracy d, else r. -/
def allow (v r d : Num) : Num := if v.within r d then v else r

/-- 2^k as a number. -/
def Num.two (k : Int) : Num := .fin false 1 k

/-- `n` units in the last place of a value of FP32 (R301). -/
def ulps (n : Nat) (r : Num) : Num :=
  match r with
  | .fin _ m e => .fin false n (lead m e - 23)
  | _ => Num.zero0

/-! ## Constants, in units of 2^-128 -/

/-- Natural logarithm of 2. -/
def ln2Fix : Nat := 0xB17217F7D1CF79ABC9E3B39803F2F6AF
/-- A full turn in radians, 2π. -/
def turnFix : Nat := 0x6487ED5110B4611A62633145C06E0E689

/-! ## 2^x and square roots -/

/-- The numbers 2^(1/2), 2^(1/4), … in units of 2^-128, each the square root of the one before. -/
def halvings : Nat → Nat → List Nat
  | 0, _ => []
  | n + 1, c =>
    let r := rootBits 2 (c * 2 ^ 128) 130 0
    r :: halvings n r

/-- 2^(f/2^96) in units of 2^-128, for f below 2^96. -/
def pow2Frac (f : Nat) : Nat :=
  ((halvings 96 (2 ^ 129)).zip (List.range 96)).foldl (fun a q => if bit f (95 - q.2) then a * q.1 / 2 ^ 128 else a) (2 ^ 128)

/-- 2^(t/2^96). -/
def pow2Fix (t : Int) : Num := .fin false (pow2Frac (t % 2 ^ 96).toNat) (t / 2 ^ 96 - 128)

/-- Square root of a number that is not negative, to 100 significant bits or more. -/
def Num.root : Num → Num
  | .fin _ m e =>
    let k := if e % 2 = 0 then 200 else 201
    .fin false (rootBits 2 (m <<< k) (Nat.log2 m / 2 + 102) 0) ((e - k) / 2)
  | x => x

/-! ## Logarithms -/

/-- Bits of the logarithm of y / 2^191, for y from 2^191 to 2^192, each found by squaring. -/
def log2Bits : Nat → Nat → Nat → Nat
  | 0, _, a => a
  | n + 1, y, a =>
    let z := y * y / 2 ^ 191
    if 2 ^ 192 ≤ z then log2Bits n (z / 2) (2 * a + 1) else log2Bits n z (2 * a)

/-- log2 of m × 2^e in units of 2^-96. -/
def log2Fix (m : Nat) (e : Int) : Int :=
  let k := Nat.log2 m
  (log2Bits 96 (m * 2 ^ 191 / 2 ^ k) 0 : Nat) + 2 ^ 96 * (e + k)

/-- Natural logarithm of m × 2^e in units of 2^-96. -/
def lnFix (m : Nat) (e : Int) : Int := log2Fix m e * ln2Fix / 2 ^ 128

/-- e^x for a finite number x; 0 below 2^-300. -/
def expNum (x : Num) : Num :=
  let t := x.units (-96) * 2 ^ 128 / ln2Fix
  if t < -300 * 2 ^ 96 then Num.zero0 else pow2Fix t

/-! ## Sine and cosine -/

/-- A series of alternating terms: from term u of order k and the square q of the angle. -/
def series : Nat → Nat → Int → Int → Int → Int
  | 0, _, _, _, a => a
  | n + 1, k, q, u, a => series n (k + 2) q (-(u * q / 2 ^ 128) / ((k + 1) * (k + 2) : Nat)) (a + u)

/-- The fraction of a number of turns as an angle from −π to π, in units of 2^-128. -/
def angleOf (x : Num) : Int :=
  let f := x.units (-128) % 2 ^ 128
  (if 2 ^ 127 ≤ f then f - 2 ^ 128 else f) * turnFix / 2 ^ 128

/-- Sine and cosine of a finite number of turns. -/
def sinTurn (x : Num) : Num :=
  let t := angleOf x
  Num.ofInt (series 26 1 (t * t / 2 ^ 128) t 0) (-128)
def cosTurn (x : Num) : Num :=
  let t := angleOf x
  Num.ofInt (series 26 0 (t * t / 2 ^ 128) (2 ^ 128) 0) (-128)

end Sys2Proof.Machine
end

