-- ==== Sys2Proof/Machine/Spark.lean ====
section
/-!
DEFINITION. Spark.lean: the Spark random words (R318 to R322). A generator state (a, b) is one 128-bit number a + 2^64 b.
-/
namespace Sys2Proof.Machine
open Sys2Proof.Config

/-- One step of the generator (R319). -/
def sparkStep (s : Nat) : Nat :=
  let a := s % 2 ^ 64
  let b := s / 2 ^ 64
  let t := a ^^^ (a <<< 24) % 2 ^ 64
  b + 2 ^ 64 * (b ^^^ (b >>> 11) ^^^ t ^^^ (t >>> 37))

/-- The output word (R319). -/
def sparkOut (s : Nat) : Nat :=
  let a := s % 2 ^ 64
  let b := s / 2 ^ 64
  let r := (b <<< 29) % 2 ^ 64 + b >>> 35
  ((a + r) % 2 ^ 64) >>> 32

def sparkSteps : Nat → Nat → Nat
  | 0, s => s
  | n + 1, s => sparkSteps n (sparkStep s)

/-- A linear map of the state over GF(2), as the images of its 128 bits. -/
def sparkMap (cols : List Nat) (s : Nat) : Nat :=
  ((cols.zip (List.range 128)).filter fun c => bit s c.2).foldl (fun x c => x ^^^ c.1) 0

/-- The map applied twice. -/
def sparkSquare (cols : List Nat) : List Nat := cols.map (sparkMap cols)

def sparkPow : Nat → List Nat → List Nat
  | 0, c => c
  | n + 1, c => sparkPow n (sparkSquare c)

/-- 2^(64 + j) applications of the step, which is what a jump constant gives (R320). -/
def sparkJump (j : Nat) : List Nat := sparkPow (64 + j) ((List.range 128).map fun i => sparkStep (2 ^ i))

/-- Seed and stream give the first state (R321). -/
def sparkInit (z k : Nat) : Nat :=
  let a := z % 2 ^ 64
  let b := (k % 2 ^ 32 * 0xA3C59E217F4D0B95) % 2 ^ 64 ^^^ 0x5D3A91C4E07F2B68
  sparkSteps 64 (a + 2 ^ 64 * (if a = 0 ∧ b = 0 then 1 else b))

/-- The word of element e of stream k under seed z (R321). -/
def sparkWord (z k e : Nat) : Nat :=
  let s := (List.range 58).foldl (fun x j => if bit (e / 64) j then sparkMap (sparkJump j) x else x) (sparkInit z k)
  sparkOut (sparkSteps (e % 64 + 1) s)

/-- The 64 words of elements e to e + 63, for e a multiple of 64. -/
def sparkLanes (z k e : Nat) : List Nat :=
  let s := (List.range 58).foldl (fun x j => if bit (e / 64) j then sparkMap (sparkJump j) x else x) (sparkInit z k)
  (List.range 64).map fun i => sparkOut (sparkSteps (i + 1) s)

/-- Spark seed of a context (R318). -/
def State.seedOf (s : State) (n : Nat) : Nat := s.fld (F.seed n)

end Sys2Proof.Machine
end

