-- ==== Sys2Proof/Machine/Vector.lean ====
section
/-!
DEFINITION. Vector.lean: lane arithmetic of the vector unit (R298 to R307), and what an instruction of the VECTOR and SPARK
classes computes and asks of the tile (R281, R282, R328).
-/
namespace Sys2Proof.Machine
open Sys2Proof.Config

/-! ## Lanes and elements -/

/-- The FP32 values of a register's elements: 64 lanes, or 128 BF16 elements (R260, R299). -/
def elems (dt : Nat) (v : List Word32) : List Num :=
  if dt = 1 then
    (List.range 128).map fun i => bf16.decode (bits (ofLane v (i / 2)) (16 * (i % 2)) 16)
  else (List.range 64).map fun i => ofF32 (ofLane v i)

/-- A register from the codes of its elements. -/
def fromElems (dt : Nat) (l : List Nat) : List Word32 :=
  if dt = 1 then lanes fun i => l.getD (2 * i) 0 + 2 ^ 16 * l.getD (2 * i + 1) 0 else lanes fun i => l.getD i 0

/-- A result as an element: FP32, and for BF16 the FP32 result rounded once more (R298, R299). -/
def elemOf (dt : Nat) (x : Num) : Nat := if dt = 1 then bf16.ieee (ofF32 (toF32 x)) else toF32 x

/-- VFMA rounds once, directly to its format (R299). -/
def elemOnce (dt : Nat) (x : Num) : Nat := if dt = 1 then bf16.ieee x else toF32 x

def map2 (dt : Nat) (f : Num → Num → Num) (a b : List Word32) : List Word32 :=
  fromElems dt (((elems dt a).zip (elems dt b)).map fun p => elemOf dt (f p.1 p.2))

/-- Maximum and minimum: NaN when either input is NaN (R300). -/
def numMax (a b : Num) : Num := if a.isNan || b.isNan then .nan else if a.lt b then b else a
def numMin (a b : Num) : Num := if a.isNan || b.isNan then .nan else if b.lt a then b else a

/-- VCMP under a condition code (R281, R300). -/
def compare (cc : Nat) (a b : Num) : Bool :=
  if cc = 0 then a.eqv b
  else if cc = 1 then !a.eqv b
  else if cc = 2 then a.lt b
  else a.lt b || a.eqv b

/-! ## Special functions (R301) -/

/-- Floor of a finite number. -/
def floorOf (s : Bool) (m : Nat) (e : Int) : Int :=
  let q := unitsOf s m e (min e 0)
  q / (2 ^ (-(min e 0)).toNat : Nat)

/-- 2^x to 2 ulp (assumption 7). -/
def exp2 (x : Num) : Num :=
  match x with
  | .nan => .nan
  | .inf s => if s then Num.zero0 else .inf false
  | .fin s m e =>
    let fl := floorOf s m e
    if 128 ≤ fl then .inf false
    else if fl < -126 then Num.zero0
    else
      let r := pow2Fix (x.units (-96))
      allow (ofF32 (special 0x10 (toF32 x))) r (ulps 2 r)

/-- log2 x to 2 ulp, or to 2^-22 where the result is smaller than 1 in magnitude (assumption 7). -/
def log2Of (x : Num) : Num :=
  match x with
  | .nan => .nan
  | .inf s => if s then .nan else .inf false
  | .fin s m e =>
    if m = 0 then .inf true
    else if s then .nan
    else
      let r := Num.ofInt (log2Fix m e) (-96)
      allow (ofF32 (special 0x11 (toF32 x))) r (if r.absOf.lt (Num.two 0) then Num.two (-22) else ulps 2 r)

/-- Reciprocal: exact where representable, else one of the two neighbours (1 ulp). -/
def rcpOf (x : Num) : Num :=
  match x with
  | .nan => .nan
  | .inf _ => Num.zero0
  | .fin s m e =>
    if m = 0 then .inf false
    else
      let k := Nat.log2 m
      if m = 2 ^ k then .fin s 1 (-e - k)
      else .fin s (2 ^ (k + 24) / m + special 0x12 (toF32 x) % 2) (-e - (k + 24 : Nat))

/-- Reciprocal square root: exact where representable, else one of the two neighbours (1 ulp). -/
def rsqrtOf (x : Num) : Num :=
  match x with
  | .nan => .nan
  | .inf s => if s then .nan else Num.zero0
  | .fin s m e =>
    if m = 0 then .inf false
    else if s then .nan
    else
      let odd := e % 2 != 0
      let m1 := if odd then 2 * m else m
      let e1 := if odd then e - 1 else e
      let k := Nat.log2 m1 / 2 + 24
      let q := Nat.sqrt (2 ^ (2 * k) / m1)
      if q * q * m1 = 2 ^ (2 * k) then .fin false q (-(e1 / 2) - k)
      else .fin false (q + special 0x13 (toF32 x) % 2) (-(e1 / 2) - k)

/-- Sine and cosine of an argument in turns, to 2^-22 (assumption 7). -/
def trig (op : Nat) (x : Num) : Num :=
  match x with
  | .fin _ _ _ => allow (ofF32 (special op (toF32 x))) (if op = 0x14 then sinTurn x else cosTurn x) (Num.two (-22))
  | _ => .nan

def specialOf (op : Nat) (x : Num) : Num :=
  if op = 0x10 then exp2 x
  else if op = 0x11 then log2Of x
  else if op = 0x12 then rcpOf x
  else if op = 0x13 then rsqrtOf x
  else trig op x

/-! ## Reductions (R302, R303) -/

/-- One level of the tree: element i combines with element i + h. -/
def treeLevel (f : Nat → Nat → Nat) (h : Nat) (l : List Nat) : List Nat :=
  (List.range h).map fun i => f (l.getD i 0) (l.getD (i + h) 0)

/-- The fixed tree over FP32 codes, with BF16 pairs combined first. -/
def reduce (dt : Nat) (f : Num → Num → Num) (v : List Word32) : Nat :=
  let g (a b : Nat) : Nat := toF32 (f (ofF32 a) (ofF32 b))
  let l0 := (elems dt v).map toF32
  let l := if dt = 1 then (List.range 64).map fun i => g (l0.getD (2 * i) 0) (l0.getD (2 * i + 1) 0) else l0
  ([32, 16, 8, 4, 2, 1].foldl (fun a h => treeLevel g h a) l).getD 0 0

def lane0 (a : Nat) : List Word32 := lanes fun i => if i = 0 then a else 0

/-- Largest value and its lowest index, NaNs ignored. -/
def argmax (l : List Num) : Nat × Nat :=
  let r := ((List.range l.length).zip l).foldl (fun (best : Option (Nat × Num)) p =>
    if p.2.isNan then best
    else match best with
      | none => some p
      | some b => if b.2.lt p.2 then some p else best) none
  match r with
  | some b => (toF32 b.2, b.1)
  | none => (0x7FC00000, 0)

/-! ## Conversion (R305, R306) -/

/-- VCVT: the packed elements, and the block scales from byte 252. -/
def vcvt (dt : Nat) (v : List Word32) (words : List (Option Nat)) : List Word32 :=
  let r := encodeVec dt false (elems 0 v) words
  let n := pack (elemBits dt) r.1 + 2 ^ 2016 * pack 8 r.2
  lanes fun i => bits n (32 * i) 32

def vunpk (dt : Nat) (v : List Word32) : List Word32 :=
  let n := pack 32 (v.map (·.toNat))
  lanes fun i =>
    let sc := if blockOf dt = 0 then 0 else bits n (2016 + 8 * (i / blockOf dt)) 8
    toF32 (decodeElem dt sc (unpackAt (elemBits dt) n i))

/-- Noise −ln(−ln u) of a Spark word, u = (w + 0.5) / 2^32, to 2^-18 × (1 + |g|) (R328; assumption 7). -/
def gumbelNum (w : Nat) : Num :=
  let g := -(lnFix (-(lnFix (2 * w + 1) (-33))).toNat (-96))
  let r := Num.ofInt g (-96)
  allow (Num.ofInt (((gumbel w % 2 ^ 46 : Nat) : Int) - 2 ^ 45) (-40)) r (Num.ofInt (2 ^ 96 + g.natAbs) (-114))

/-! ## Plans -/

/-- A VECTOR or SPARK plan: `in_` input cycles and a count. -/
def vplan (vread : List Nat) (vd : Nat) (v : List Word32) (in_ count : Nat) : Plan :=
  { Plan.none0 with vread := vread, vwrite := some vd, effects := [.vreg vd v], count := count, port := 1, useInput := in_ }

/-- DT 0 or 1, nearest-even, and the reserved bits and the fields in `zero` are 0. -/
def vcheck (w : Nat) (dtOk : Bool) (zero : List Nat) : List (Nat × Bool) :=
  [(2, vRes w == 0 && zero.all (fun z => z == 0)), (6, dtOk && vRnd w == 0)]

def isF (dt : Nat) : Bool := dt == 0 || dt == 1

/-- Two-operand lane arithmetic: VADD, VSUB, VMUL, VMAX, VMIN. -/
def planV2 (x : Thread) (w : Nat) (f : Num → Num → Num) (count : Nat) : Plan :=
  (vplan [vVa w, vVb w] (vVd w) (map2 (vDt w) f (x.vreg (vVa w)) (x.vreg (vVb w))) 1 count).guard
    (vcheck w (isF (vDt w)) [vVc w, vCc w, vRs w, vRt w])

def planVfma (x : Thread) (w : Nat) : Plan :=
  let dt := vDt w
  let r := ((elems dt (x.vreg (vVa w))).zip ((elems dt (x.vreg (vVb w))).zip (elems dt (x.vreg (vVc w))))).map
    fun p => elemOnce dt ((p.1.mul p.2.1).add p.2.2)
  (vplan [vVa w, vVb w, vVc w] (vVd w) (fromElems dt r) 1 6).guard (vcheck w (isF dt) [vCc w, vRs w, vRt w])

def planVcmp (x : Thread) (w : Nat) : Plan :=
  let dt := vDt w
  let ones := if dt = 1 then 0xFFFF else 0xFFFFFFFF
  let r := ((elems dt (x.vreg (vVa w))).zip (elems dt (x.vreg (vVb w)))).map
    fun p => if compare (vCc w) p.1 p.2 then ones else 0
  (vplan [vVa w, vVb w] (vVd w) (fromElems dt r) 1 4).guard
    (vcheck w (isF dt) [vVc w, vRs w, vRt w] ++ [(7, decide (vCc w < 4))])

/-- Bitwise and integer lane operations on two operands (R304). -/
def planVi (x : Thread) (w : Nat) (f : Nat → Nat → Nat) (count : Nat) : Plan :=
  let a := x.vreg (vVa w)
  let b := x.vreg (vVb w)
  (vplan [vVa w, vVb w] (vVd w) (lanes fun i => f (ofLane a i) (ofLane b i)) 1 count).guard
    (vcheck w (vDt w == 0) [vVc w, vCc w, vRs w, vRt w])

def planVsel (x : Thread) (w : Nat) : Plan :=
  let a := x.vreg (vVa w)
  let b := x.vreg (vVb w)
  let c := x.vreg (vVc w)
  (vplan [vVa w, vVb w, vVc w] (vVd w) (lanes fun i => if ofLane c i = 0 then ofLane b i else ofLane a i) 1 2).guard
    (vcheck w (vDt w == 0) [vCc w, vRs w, vRt w])

def planVbcast (x : Thread) (w : Nat) : Plan :=
  { vplan [] (vVd w) (lanes fun _ => x.sreg (vRs w)) 1 2 with sread := [vRs w] }.guard
    (vcheck w (vDt w == 0) [vVa w, vVb w, vVc w, vCc w, vRt w])

def planVextr (x : Thread) (w : Nat) : Plan :=
  { Plan.none0 with
    sread := [vRs w], vread := [vVa w], swrite := dstOf (vRt w), count := 4, port := 1, useInput := 1,
    effects := [.sreg (vRt w) (BitVec.ofNat 64 (ofLane (x.vreg (vVa w)) (x.sreg (vRs w) % 64)))] }.guard
    (vcheck w (vDt w == 0) [vVd w, vVb w, vVc w, vCc w])

def planVspecial (x : Thread) (w : Nat) : Plan :=
  let dt := vDt w
  (vplan [vVa w] (vVd w) (fromElems dt ((elems dt (x.vreg (vVa w))).map fun a => elemOf dt (specialOf (wOp w) a)))
    4 12).guard (vcheck w (isF dt) [vVb w, vVc w, vCc w, vRs w, vRt w])

def planVreduce (x : Thread) (w : Nat) (f : Num → Num → Num) (count : Nat) : Plan :=
  (vplan [vVa w] (vVd w) (lane0 (reduce (vDt w) f (x.vreg (vVa w)))) 1 count).guard
    (vcheck w (isF (vDt w)) [vVb w, vVc w, vCc w, vRs w, vRt w])

def planVargmax (x : Thread) (w : Nat) : Plan :=
  let r := argmax (elems (vDt w) (x.vreg (vVa w)))
  (vplan [vVa w] (vVd w) (lanes fun i => if i = 0 then r.1 else if i = 1 then r.2 else 0) 1 8).guard
    (vcheck w (isF (vDt w)) [vVb w, vVc w, vCc w, vRs w, vRt w])

/-- VCVT: RND 1 takes the words of stream rs from element rt, a multiple of 64 (R282, R305, R307). -/
def State.planVcvt (s : State) (x : Thread) (w : Nat) : Plan :=
  let st := vRnd w == 1
  let rt := x.sreg (vRt w)
  let words : List (Option Nat) :=
    if st then (sparkLanes (s.seedOf x.ctx) (x.sreg (vRs w)) rt).map some else List.replicate 64 none
  { vplan [vVa w] (vVd w) (vcvt (vDt w) (x.vreg (vVa w)) words) 1 6 with
    sread := if st then [vRs w, vRt w] else [] }.guard
    [(2, vRes w == 0 && [vVb w, vVc w, vCc w].all (· == 0) && (st || (vRs w == 0 && vRt w == 0))),
     (6, decide (vDt w < 15) && decide (vRnd w < 2)), (7, !st || rt % 64 == 0)]

def planVunpk (x : Thread) (w : Nat) : Plan :=
  (vplan [vVa w] (vVd w) (vunpk (vDt w) (x.vreg (vVa w))) 1 6).guard
    (vcheck w (decide (vDt w < 15)) [vVb w, vVc w, vCc w, vRs w, vRt w])

/-- SPK_BITS and SPK_GUMBEL (R281, R307, R321, R328). -/
def State.planSpkBits (s : State) (x : Thread) (w : Nat) : Plan :=
  let rt := x.sreg (vRt w)
  { vplan [] (vVd w) ((sparkLanes (s.seedOf x.ctx) (x.sreg (vRs w)) rt).map (BitVec.ofNat 32)) 1 10 with
    sread := [vRs w, vRt w] }.guard
    (vcheck w (vDt w == 0) [vVa w, vVb w, vVc w, vCc w] ++ [(7, rt % 64 == 0)])

def State.planSpkGumbel (s : State) (x : Thread) (w : Nat) : Plan :=
  let rt := x.sreg (vRt w)
  let a := x.vreg (vVa w)
  let g := sparkLanes (s.seedOf x.ctx) (x.sreg (vRs w)) rt
  { vplan [vVa w] (vVd w) (lanes fun i => toF32 ((ofF32 (ofLane a i)).add (gumbelNum (g.getD i 0)))) 4 16 with
    sread := [vRs w, vRt w] }.guard
    (vcheck w (vDt w == 0) [vVb w, vVc w, vCc w] ++ [(7, rt % 64 == 0)])

/-- The VECTOR class (R281). -/
def State.planVector (s : State) (x : Thread) (w : Nat) : Plan :=
  let op := wOp w
  if op = 0x00 then planV2 x w Num.add 6
  else if op = 0x01 then planV2 x w (fun a b => a.add b.neg1) 6
  else if op = 0x02 then planV2 x w Num.mul 6
  else if op = 0x03 then planVfma x w
  else if op = 0x04 then planV2 x w numMax 4
  else if op = 0x05 then planV2 x w numMin 4
  else if op = 0x06 then planVcmp x w
  else if op = 0x07 then planVsel x w
  else if op = 0x08 then planVbcast x w
  else if op = 0x09 then planVextr x w
  else if 0x10 ≤ op ∧ op ≤ 0x15 then planVspecial x w
  else if op = 0x18 then planVreduce x w Num.add 10
  else if op = 0x19 then planVreduce x w numMax 8
  else if op = 0x1A then planVargmax x w
  else if op = 0x20 then planVi x w (fun a b => a + b) 4
  else if op = 0x21 then planVi x w (fun a b => a + (2 ^ 32 - b)) 4
  else if op = 0x22 then planVi x w (fun a b => a * b) 4
  else if op = 0x23 then planVi x w (fun a b => a &&& b) 2
  else if op = 0x24 then planVi x w (fun a b => a ||| b) 2
  else if op = 0x25 then planVi x w (fun a b => a ^^^ b) 2
  else if op = 0x26 then planVi x w (fun a b => a <<< (b % 32)) 2
  else if op = 0x27 then planVi x w (fun a b => a >>> (b % 32)) 2
  else if op = 0x30 then s.planVcvt x w
  else if op = 0x31 then planVunpk x w
  else Plan.illegal 1

/-- The SPARK class (R281). -/
def State.planSpark (s : State) (x : Thread) (w : Nat) : Plan :=
  if wOp w = 0 then s.planSpkBits x w
  else if wOp w = 1 then s.planSpkGumbel x w
  else Plan.illegal 1

end Sys2Proof.Machine
end

