-- ==== Sys2Proof/Machine/Embers.lean ====
section
/-!
DEFINITION. Embers.lean: ember rings and their slots (R109, R110, R156, R333, R347, R362, R363, R482), the end of a sample
(R340, R343) and the token sampler (R325 to R330).
-/
namespace Sys2Proof.Machine
open Sys2Proof.Config

/-! ## Ember slots (R156, R347) -/

/-- Unconsumed embers in the ring of context n. -/
def State.emUsed (s : State) (n : Nat) : Nat :=
  let c := s.ctx n
  (c.emTail + s.ringSize n 2 - c.emHead) % s.ringSize n 2

/-- Slots that hold no unconsumed ember, are not reserved and not in quarantine (R147, R347). -/
def State.emFree (s : State) (n : Nat) : Nat :=
  s.ringSize n 2 - 1 - s.emUsed n - (s.ctx n).emReserved - sumOf ((s.ctx n).quars.map (·.2))

def State.reserveEm (s : State) (n k : Nat) : State := s.modCtx n fun c => { c with emReserved := c.emReserved + k }
def State.releaseEm (s : State) (n k : Nat) : State := s.modCtx n fun c => { c with emReserved := c.emReserved - k }

/-- An ember's 32 bytes but for PHASE (R482): stamp, token or value, log-probability word, table index, versions, kind and
flags, position, context, generation count. -/
def emberBytes (stamp tok lp idx pv av flags pos ctx gen : Nat) (phase : Bool) : List Byte :=
  toLE 8 stamp ++ toLE 4 tok ++ toLE 4 lp ++ toLE 2 idx ++ toLE 2 pv ++ toLE 2 av ++
    toLE 2 (flags + 2 ^ 15 * b2n phase) ++ toLE 4 pos ++ toLE 2 ctx ++ toLE 2 gen

/-- Write an ember into a reserved slot of context n's ring, and advance the tail (R110, R144). -/
def State.postEmber (s : State) (n : Nat) (bytes : Bool → List Byte) : State :=
  let c := s.ctx n
  let s1 := s.ringWrite n (s.ringAt n 2 + 32 * c.emTail) (bytes c.emPhase)
  let wrap := decide (s.ringSize n 2 ≤ c.emTail + 1)
  s1.modCtx n fun x =>
    { x with
      emTail := if wrap then 0 else c.emTail + 1, emPhase := if wrap then !c.emPhase else c.emPhase,
      emReserved := x.emReserved - 1 }

/-! ## Samples -/

def activeState (st : Nat) : Bool := decide (1 ≤ st ∧ st ≤ 5)

/-- Table entries of a context, and of a partition, that are neither FREE nor DONE. -/
def State.liveSamples (s : State) (f : Sample → Bool) : List Nat :=
  (s.table.filter fun e => e.2.state != sFree && e.2.state != sDone && f e.2).map (·.1)
def State.samplesOf (s : State) (n : Nat) : List Nat := s.liveSamples fun x => x.ctx == n
def State.samplesOn (s : State) (p : Nat) : List Nat := s.liveSamples fun x => x.part == p

/-- Pending drafts are discarded (R341). -/
def Sample.noDrafts (x : Sample) : Sample := { x with pending := 0, draftToks := [] }

/-- The active samples of a request, in sample order: one prefill unit (R356). -/
def State.unitOf (s : State) (i : Nat) : List Nat :=
  match s.req i with
  | some r => r.entries.filter fun e => activeState (s.entry e).state && (s.entry e).reqRec == i
  | none => []

/-- The 64-byte KV work record (R387); the score-row address is the Stoker's own and left open. -/
def State.workRecord (s : State) (w : Work) : List Byte :=
  let x := s.entry w.entry
  let idx := (s.pageOf w.entry w.first).map (·.1)
  toLE 4 (w.entry + 65536 * x.gen) ++ toLE 2 x.pageList ++ toLE 2 (s.listOf w.entry).length ++ toLE 4 w.first ++
    toLE 4 w.count ++ toLE 2 (idx.getD 0) ++ toLE 2 0 ++
    toLE 4 (match w.copyFrom with
      | some (_, k, _) => k
      | none => noPage) ++ toLE 8 (freeNat (s.free + w.entry) % 2 ^ 48) ++ toLE 32 0

/-- What is left of a work record when sample e has left the frame: its own goes, and one that it held for a prefill unit passes
to the unit's next sample (R367, R387). -/
def State.rehome (s : State) (e : Nat) (w : Work) : Option Work :=
  if w.entry = e then
    match (if w.prefill then s.unitOf (s.entry e).reqRec else []) with
    | k :: _ => some { w with entry := k, record := s.workRecord { w with entry := k } }
    | [] => none
  else some w

/-- Sample e, which is no longer active, leaves every work list, and no further token of it is posted (R366 to R368). -/
def State.dropFromWork (s : State) (e : Nat) : State :=
  s.modPart (s.entry e).part fun y => { y with
    curWork := y.curWork.filterMap (s.rehome e), sealed := y.sealed.map fun z => (z.1, z.2.filterMap (s.rehome e)),
    staged := y.staged.filter fun g => g.entry != e }

/-- The kernel threads that carry a work record of sample e go on carrying what is left of it (R364, R461). -/
def State.passCarried (s : State) (e : Nat) : State :=
  let heirs := ((s.part (s.entry e).part).curWork.filter fun w => w.entry == e).filterMap fun w => (s.rehome e w).map (·.entry)
  { s with threads := s.threads.map fun x =>
      if x.2.state != .free && x.2.carries.contains e then (x.1, { x.2 with carries := (x.2.carries.filter fun k => k != e) ++ heirs }) else x }

/-- Sample e leaves every work list, and its kernel threads carry what is left of the work. -/
def State.leaveWork (s : State) (e : Nat) : State := (s.passCarried e).dropFromWork e

/-- SEQ_CANCEL commands of sample e that a FENCE still holds learn its final length (R129, R366). -/
def State.noteEnd (s : State) (e gen length : Nat) : State :=
  { s with cmds := s.cmds.map fun c =>
      if c.op == opSeqCancel && c.phase == .held && c.handle == e && c.fld 10 2 == gen then
        { c with started := true, bytes := length } else c }

/-- A sample enters DONE with a status at stamp `at_` (R340, R343, R361, R363): its END ember is posted into the slot held
since admission, its pages, unused ember reservations, pin, adapter reference and chunks are released, and a SEQ_CANCEL of it
completes with its final length (R366). -/
def State.sampleDone (s : State) (e st at_ : Nat) (cancelled : Bool) : State :=
  let x := s.entry e
  let flags := 1 + 2 ^ 7 * b2n x.skipped + 2 ^ 9 * b2n cancelled
  let s1 := s.postEmber x.ctx (emberBytes at_ st 0 e x.version x.adapterVer flags x.length x.ctx x.gen)
  let s2 := s1.releaseEm x.ctx x.emRes
  let s3 := s2.releasePages e
  let s4 := match x.slot with
    | some i => s3.unpinSlot x.part i
    | none => s3
  let s5 := s4.unrefAdapter x.part x.adBlock
  let s6 := s5.setEntry e { (s5.entry e).noDrafts with
    state := sDone, endStatus := st, slot := none, adBlock := none, emRes := 0, endAs := none, cancelCid := none, starve := false,
    skipNext := false, waitFrames := 0, doneAt := s.time.mark }
  let s7 := match s6.req x.reqRec with
    | some r =>
      if r.entries.all fun k => (s6.entry k).state == sDone || (s6.entry k).state == sFree || (s6.entry k).reqRec != x.reqRec then
        s6.modReq x.reqRec fun q => { q with placed := [], toPlace := [], promptRes := 0 }
      else s6
    | none => s6
  let s8 := (s7.leaveWork e).noteEnd e x.gen x.length
  match x.cancelCid with
  | some cid => s8.finish cid stOk (toLE 4 x.length) ((s.cmd cid).any fun c => s.pastCount c)
  | none => s8

/-- A sample enters DRAINING and leaves every work list (R366 to R368): no further token of it is posted. -/
def State.drainSample (s : State) (e : Nat) : State :=
  (s.setEntry e { s.entry e with state := sDraining, endAs := none, starve := false, skipNext := false, waitFrames := 0 }).leaveWork e

/-- Post one token ember of a sample at boundary mark b (R333, R362, R369, R370); `late` marks tokens posted under R335. -/
def State.postToken (s : State) (b : Nat) (late : Bool) (g : Staged) : State :=
  let x := s.entry g.entry
  let first := !x.firstDone
  let ttftMiss := first && x.ttft != 0 && decide (x.admitMark + x.ttft < b)
  let tbtBad := !first && x.tbt != 0 && decide (x.admitMark + x.lastTok + x.tbt < b)
  let tbtFlag := tbtBad || late
  let flags := 2 ^ 4 * b2n first + 2 ^ 5 * b2n ttftMiss + 2 ^ 6 * b2n tbtFlag + 2 ^ 7 * b2n x.skipped +
    2 ^ 8 * b2n g.draft
  let s1 := s.postEmber x.ctx (emberBytes (b * 1024) g.token g.lp g.entry g.version x.adapterVer flags g.pos x.ctx x.gen)
  s1.setEntry g.entry { s1.entry g.entry with
    firstDone := true, ttftMiss := x.ttftMiss || ttftMiss, lastTok := b - x.admitMark, skipped := false, wait := 0,
    emRes := x.emRes - 1, version := if x.pin then x.version else g.version,
    tbtMiss := if tbtBad then satInc 0xFFFF x.tbtMiss else x.tbtMiss }

/-! ## The sampler (R325 to R330) -/

/-- TEMPERATURE is accepted: not negative, NaN, infinite or subnormal; negative zero counts as zero (R325). -/
def temperatureOk (t : Nat) : Bool :=
  let e := bits t 23 8
  let m := bits t 0 23
  if e = 0 then m == 0 else e != 255 && !bit t 31

/-- z_j of the scores (R326). -/
def scaled (t : Nat) (sc : Num) : Num :=
  let tv := ofF32 t
  match tv with
  | .fin _ 0 _ => sc
  | _ => ofF32 (toF32 (sc.mul (ofF32 (toF32 (rcpOf tv)))))

/-- a ≥ b for numbers that are not NaN. -/
def Num.geq (a b : Num) : Bool := !a.isNan && !b.isNan && !a.lt b

/-- The kept candidates of R327: (index, z), in ascending index. -/
def keptSet (t topK : Nat) (scores : List Num) : List (Nat × Num) :=
  let all := ((List.range scores.length).zip scores).filterMap fun a =>
    let z := scaled t a.2
    if a.2.isNan || z.isNan then none else some (a.1, z)
  let sorted := sortBy (fun (x y : Nat × Num) => x.2.geq y.2) all
  let cut := if topK ≠ 0 ∧ topK < all.length then
      match sorted[topK - 1]? with
      | some a => all.filter fun x => x.2.geq a.2
      | none => all
    else all
  cut.filter fun x => x.2 != .inf true

/-- The best of the kept candidates by (z + g), ties to the lowest index (R329). DESIGN CHOICE (assumption 141): each sum is rounded to FP32
before the comparison, so that close ones tie. -/
def bestOf (noise : Nat → Option Num) : List (Nat × Num) → Option (Nat × Num × Num) → Option (Nat × Num × Num)
  | [], b => b
  | (j, z) :: r, b =>
    let v := match noise j with
      | some g => ofF32 (toF32 (z.add g))
      | none => z
    bestOf noise r (match b with
      | some (i, w, zi) => if w.lt v then some (j, v, z) else some (i, w, zi)
      | none => some (j, v, z))

/-- The behaviour log-probability of a kept z (R330): the limit −ln k for an infinite one among k, else z less the log-sum-exp
of the kept set, to 2^-16 + 2^-23 × |lp| (assumption 7). -/
def logProbOf (kept : List (Nat × Num)) (z : Num) : Num :=
  if z = .inf false then Num.ofInt (-lnFix (kept.filter fun a => a.2 == .inf false).length 0) (-96)
  else
    let top := kept.foldl (fun m a => if m.lt a.2 then a.2 else m) z
    match kept.foldl (fun t a => t.add (expNum (a.2.add top.neg1))) Num.zero0 with
    | .fin _ m e =>
      let r := z.add (top.add (Num.ofInt (lnFix m e) (-96))).neg1
      allow (ofF32 (logProb (kept.map fun a => toF32 a.2) (toF32 z))) r ((Num.two (-16)).add (r.absOf.mul (Num.two (-23))))
    | x => x

/-- The token at position q and its log-probability (R326 to R330), or none where no candidate is kept. -/
def sampleToken (seed stream t topK q : Nat) (scores : List Num) : Option (Nat × Nat) :=
  let kept := keptSet t topK scores
  let hot := match ofF32 t with
    | .fin _ 0 _ => false
    | _ => true
  let noise (j : Nat) : Option Num :=
    if hot then some (gumbelNum (sparkWord seed stream (q * 2 ^ 24 + j))) else none
  match bestOf noise kept none with
  | some (j, _, z) => some (j, toF32 (logProbOf kept z))
  | none => none

end Sys2Proof.Machine
end

