-- ==== Sys2Proof/Machine/Stoker.lean ====
section
/-!
DEFINITION. Stoker.lean: frame schedules (R89, R332), budgets and reservations (R348, R353, R354), the chunk ledger (R349,
R715) and the building of a frame's work list (R356 to R359, R386 to R391, R404, R612).
-/
namespace Sys2Proof.Machine
open Sys2Proof.Config

/-! ## Schedules (R89, R90, R332) -/

def Sched.boundary (sc : Sched) (k : Nat) : Nat := sc.origin + k * sc.len

/-- m is a frame boundary of the schedule. -/
def Sched.hits (sc : Sched) (m : Nat) : Bool := decide (sc.origin ≤ m) && (m - sc.origin) % sc.len == 0

/-- Schedule of partition p in force at a mark (R90). -/
def State.schedAt (s : State) (p m : Nat) : Option Sched :=
  let l := match (s.part p).nextSched with
    | some e => e :: (s.part p).laterScheds
    | none => []
  match (l.filter fun e => decide (e.2.origin ≤ m)).getLast? with
  | some e => some e.2
  | none => (s.part p).sched

/-- An accepted FRAME_SET joins those that wait for their origins; of two with one origin the later admitted schedule stands
(R90). -/
def Part.addSched (x : Part) (cid : Nat) (sc : Sched) : Part :=
  let old := match x.nextSched with
    | some e => e :: x.laterScheds
    | none => []
  match insertBy (fun a b => decide (a.2.origin ≤ b.2.origin)) (cid, sc) (old.filter fun e => e.2.origin != sc.origin) with
  | e :: r => { x with nextSched := some e, laterScheds := r }
  | [] => x

/-- FRAME_SET `cid` no longer waits. -/
def Part.dropSched (x : Part) (cid : Nat) : Part :=
  let old := match x.nextSched with
    | some e => e :: x.laterScheds
    | none => []
  match old.filter fun e => e.1 != cid with
  | e :: r => { x with nextSched := some e, laterScheds := r }
  | [] => { x with nextSched := none, laterScheds := [] }

/-- Accepted FRAME_SETs of p whose origin is not later than m. -/
def State.frameSets (s : State) (p m : Nat) : List Nat :=
  ((s.openCmds opFrameSet).filter fun c => c.fld 8 1 == p && decide (c.fld 16 8 ≤ m)).map (·.cid)

/-- m is a frame boundary of the schedule of p in force at m (R467, R475). -/
def State.isBoundary (s : State) (p m : Nat) : Bool :=
  match s.schedAt p m with
  | some sc => sc.hits m
  | none => false

/-- First boundary of p after mark m: of the schedule in force at m, or the origin of one that waits (R90, R331). -/
def State.boundAfter (s : State) (p m : Nat) : Option Nat :=
  let x := s.part p
  let cur := (s.schedAt p m).map fun sc => if m < sc.origin then sc.origin else sc.boundary ((m - sc.origin) / sc.len + 1)
  let waiting := ((x.nextSched.toList ++ x.laterScheds).map fun e => e.2.origin).filter fun o => decide (m < o)
  match cur.toList ++ waiting with
  | [] => none
  | b :: r => some (r.foldl Nat.min b)

/-- The first n boundaries of p from boundary b on. -/
def State.boundsFrom (s : State) (p : Nat) : Nat → Nat → List Nat
  | _, 0 => []
  | b, n + 1 =>
    match s.boundAfter p b with
    | some c => b :: s.boundsFrom p c n
    | none => [b]

/-- Boundary of the first frame of R332 for a sample admitted at mark a: the first one whose seal lies after a. -/
def State.firstFrame (s : State) (p a : Nat) : Option Nat := s.boundAfter p (a + 16)

/-- The mark from which on a boundary can be sealed for frames of p: of a role change that has not entered service yet, its service mark,
less the one mark that R332 asks beyond (R45). -/
def State.serveFrom (s : State) (p : Nat) : Nat :=
  match (s.part p).serveAt with
  | some (_, _, m) => m - 1
  | none => 0

/-! ## Budgets (R353, R354, R670) -/

/-- The three budget components: positions, samples, page reads. -/
structure Bud where
  pos   : Nat
  seqs  : Nat
  pages : Nat
deriving DecidableEq, Repr

def budgetOf (w : Nat) : Bud := ⟨bits w 0 16, bits w 16 16, bits w 32 24⟩

/-- Bc_x: the budget under a factor in sixteenths. -/
def capped (w f : Nat) : Bud := let b := budgetOf w; ⟨b.pos * f / 16, b.seqs * f / 16, b.pages * f / 16⟩

/-- The guaranteed figures G_x. -/
def guarFig (w f : Nat) : Bud :=
  let c := capped w f
  let g := bits w 56 8 + 1
  ⟨c.pos * g / 256, c.seqs * g / 256, c.pages * g / 256⟩

def chunkOf (w : Nat) : Nat := bits w 0 16
def orderOf (w : Nat) : Nat := bits w 16 2
def ageOf (w : Nat) : Nat := bits w 24 8

/-- Factor of partition p for a frame whose boundary falls at mark b (R670). -/
def State.factorFor (s : State) (p b : Nat) : Nat :=
  if s.board.capBudget && decide ((s.time.mark / marksPerCandle + 1) * marksPerCandle ≤ b) then (s.part p).pendF
  else s.fld (F.factor p)

/-- Pages of one sample's reservation beyond the prompt's, without its copy-on-write page (R348). -/
def ownPages (maxLen promptLen drafts : Nat) : Nat := cdiv maxLen 64 - promptLen / 64 + cdiv drafts 64

/-- Decode reservations of the live guaranteed samples of p (R348). -/
def State.guarHeld (s : State) (p : Nat) : Bud :=
  let xs := (s.table.filter fun e => e.2.part == p && e.2.guar && e.2.state != sFree && e.2.state != sDone).map (·.2)
  let rs := dedup (xs.map (·.reqRec))
  let prompt (r : Nat) : Nat := match xs.find? fun x => x.reqRec == r with
    | some x => cdiv x.promptLen 64
    | none => 0
  ⟨sumOf (xs.map fun x => 1 + x.drafts), xs.length,
    sumOf (xs.map fun x => ownPages x.maxLen x.promptLen x.drafts) + sumOf (rs.map prompt)⟩

/-- Prefill positions that the ledger holds for the frame of p that begins at mark b (R349). -/
def State.ledger (s : State) (p b : Nat) : Nat :=
  sumOf ((s.reqs.filter fun r => r.2.part == p).map fun r =>
    sumOf ((r.2.placed.filter fun c => c.1 == b).map fun c => c.2.2))

/-- The effective budget of the frame of p that begins at mark b (R354). -/
def State.effFor (s : State) (p b w f : Nat) : Bud :=
  let c := capped w f
  let h := s.guarHeld p
  ⟨Nat.max c.pos (h.pos + s.ledger p b), Nat.max c.seqs h.seqs, Nat.max c.pages h.pages⟩

/-- LANTERN_BUDGET and LANTERN_CTRL as they are in force from the next boundary on, and so for the frame that is sealed before it (R353;
assumption 135). -/
def Part.comingBudget (x : Part) : Nat × Nat := x.nextBudget.getD (x.budget, x.ctrl)

/-! ## The chunk ledger (R349, R715) -/

/-- Chunks placed in order in the frames that begin at the listed marks, each in the earliest one after that of the chunk before it in
which it fits: (placed, left over). -/
def State.placeList (s : State) (p dec g : Nat) : List Nat → List (Nat × Nat) → List (Nat × Nat × Nat) × List (Nat × Nat)
  | _, [] => ([], [])
  | frames, c :: r =>
    match frames.dropWhile fun b => decide (g < dec + s.ledger p b + c.2) with
    | b :: later =>
      let t := s.placeList p dec g later r
      ((b, c.1, c.2) :: t.1, t.2)
    | [] => ([], c :: r)

/-- The chunks of a prompt (R349). -/
def chunksFrom (c p : Nat) : List (Nat × Nat) :=
  (List.range (cdiv p c)).map fun j => (j * c, Nat.min ((j + 1) * c) p - j * c)

/-- Guaranteed position figure of p now. -/
def State.guarPos (s : State) (p : Nat) : Nat := (guarFig (s.part p).budget (s.fld (F.factor p))).pos

/-- Chunks of request i from position `first` on leave the ledger and are placed again, in frames that begin at the listed marks
(R715). -/
def State.replaceIn (s : State) (i first : Nat) (frames : List Nat) : State :=
  match s.req i with
  | some r =>
    let again := (r.placed.filter fun c => decide (first < c.2.1 + c.2.2)).map (fun c => (c.2.1, c.2.2)) ++ r.toPlace
    let s1 := s.modReq i fun q => { q with placed := q.placed.filter fun c => !decide (first < c.2.1 + c.2.2), toPlace := [] }
    let t := s1.placeList r.part (s1.guarHeld r.part).pos (s1.guarPos r.part) frames again
    s1.modReq i fun q => { q with placed := q.placed ++ t.1, toPlace := t.2 }
  | none => s

/-- The same, not before the frame that begins at mark lo. -/
def State.replaceChunks (s : State) (i first lo : Nat) : State :=
  match s.req i with
  | some r => s.replaceIn i first (s.boundsFrom r.part lo 256)
  | none => s

/-- A FRAME_SET of p that will not take effect is dropped (R129, R142): chunks placed in frames of its schedule are placed again in frames
that the schedule left in force has, so that R351 holds of their samples (DEDUCED, assumption 142). -/
def State.dropFrameSet (s : State) (p cid : Nat) : State :=
  let t := s.modPart p fun x => x.dropSched cid
  (t.reqs.filter fun r => r.2.part == p).foldl (fun a r =>
    match r.2.placed.find? fun c => decide (t.time.mark < c.1) && !t.isBoundary p c.1 with
    | some (b, c0, _) =>
      let before := maxOf ((r.2.placed.filter fun c => decide (c.1 < b)).map (·.1))
      a.replaceIn r.1 c0 (match a.boundAfter p (Nat.max (a.time.mark + 16) before) with
        | some lo => a.boundsFrom p lo 256
        | none => [])
    | none => a) t

/-- Chunks that wait are placed as soon as a frame entering the horizon, whose first frame begins at mark lo, admits them (R715). -/
def State.placeWaiting (s : State) (p lo : Nat) : State :=
  (s.reqs.filter fun r => r.2.part == p && !r.2.toPlace.isEmpty).foldl (fun a r =>
    let last := maxOf (r.2.placed.map fun c => c.1 + 1)
    let frames := (a.boundsFrom p lo 256).filter fun b => decide (last ≤ b)
    let t := a.placeList p (a.guarHeld p).pos (a.guarPos p) frames r.2.toPlace
    a.modReq r.1 fun q => { q with placed := q.placed ++ t.1, toPlace := t.2 }) s

/-! ## Prompts and versions -/

/-- Prompt tokens first to first + count − 1, read by the control core of p; none where an access faults (R339). -/
def State.promptToks (s : State) (r : Request) (first count : Nat) : Option (List Nat) :=
  if s.reachRange (some r.part) false r.ctx (r.promptAddr + 4 * first) (4 * count) true false then
    let b := s.readVirt (some r.part) false r.ctx (r.promptAddr + 4 * first) (4 * count)
    some ((List.range count).map fun i => leAt b (4 * i) 4)
  else none

/-- The version that a PUBLISH switches in on p at boundary mark b, or the ACTIVE one (R471, R473). -/
def State.versionAt (s : State) (p b : Nat) : Nat :=
  match s.cmds.find? fun c => c.op == opPublish && c.phase == .running && !c.abandoned && bit (c.fld 9 1) p &&
      c.fld 16 8 == b with
  | some c => c.fld 12 2
  | none => (s.activeVersion p).getD 0

/-- The version a sample runs on in a frame with boundary mark b (R473, R474). -/
def State.frameVersion (s : State) (e b : Nat) : Nat :=
  let x := s.entry e
  if x.pin then x.version else s.versionAt x.part b

/-- A sample whose prompt is not complete yet. -/
def State.inPrefill (s : State) (e : Nat) : Bool := decide ((s.entry e).length < (s.entry e).promptLen)

/-! ## Ordering (R358) -/

def lexLe : List Nat → List Nat → Bool
  | [], _ => true
  | _ :: _, [] => false
  | a :: r, b :: t => if a < b then true else if b < a then false else lexLe r t

/-- The next deadline of R358. -/
def Sample.deadline (x : Sample) : Nat :=
  if x.firstDone then (if x.tbt = 0 then 2 ^ 54 else x.admitMark + x.lastTok + x.tbt)
  else (if x.ttft = 0 then 2 ^ 54 else x.admitMark + x.ttft)

/-- key(x) of R358 under the LANTERN_CTRL word w. -/
def State.key358 (s : State) (p w builder e : Nat) : List Nat :=
  let x := s.entry e
  let age := ageOf w
  let pr := if age = 0 then x.priority else Nat.min 7 (x.priority + x.wait / age)
  if builder = 1 then [7 - x.priority, x.deadline, x.admitMark, e]
  else if orderOf w = 1 then [x.deadline, 7 - pr, x.admitMark, e]
  else if orderOf w = 2 then [2 ^ 32 - tget 0 (s.part p).idle x.ctx, 7 - pr, x.deadline, x.admitMark, e]
  else [7 - pr, x.deadline, x.admitMark, e]

/-! ## Building (R356, R357, R359) -/

/-- A work list under construction. -/
structure Build where
  st    : State
  used  : Bud
  seen  : List Nat              -- pages already counted (R391)
  works : List Work
  units : List Nat              -- requests placed as prefill units

/-- What building needs to know of its frame. -/
structure FrameCtx where
  p  : Nat
  b  : Nat                      -- boundary mark
  ctrl : Nat                    -- LANTERN_CTRL for the frame
  eff : Bud
  only : Option Nat             -- the suspect of a replay frame (R612)
  writers : List Nat            -- decode samples taken to write in the frame (R389)
deriving DecidableEq, Repr

/-- skip(x) (R357): the sample is left out of the frame. While tokens of the frame before wait to be posted, SKIPPED is set after
them: they were not preceded by a frame that left the sample out (R362; assumption 113). -/
def State.skipSample (s : State) (e : Nat) : State :=
  if (s.part (s.entry e).part).staged.any fun g => g.entry == e then s.setEntry e { s.entry e with skipNext := true }
  else s.setEntry e { s.entry e with skipped := true }

/-- reserve_embers for one sample (R357). -/
def State.reserveFrame (s : State) (e n : Nat) : State :=
  (s.reserveEm (s.entry e).ctx n).setEntry e { s.entry e with emRes := (s.entry e).emRes + n }

/-- Pages of a sample's list not yet counted in this frame. -/
def State.unseen (s : State) (e : Nat) (seen : List Nat) : Nat := ((s.listOf e).filter fun k => !seen.contains k).length

/-- obtain_pages, as far as it decides: whether `need` pages can be had for a best-effort sample, evicting its own positions
where its tenant says so (R359, R410). -/
def State.canObtain (s : State) (e need : Nat) : State × Bool :=
  let x := s.entry e
  let have_ := s.unreserved x.part
  if need ≤ have_ then (s, true)
  else if s.flag (F.selfEvict x.ctx) then s.evict e (need - have_) 0
  else (s, false)

/-- The sample enters WAIT_PAGE at the next boundary (R359). -/
def State.starved (s : State) (e : Nat) : State := s.setEntry e { s.entry e with starve := true }

/-- Allocate the pages of a decode sample's positions, a copy first (R383, R389). -/
def State.takePages (s : State) (e pv first count : Nat) (cp : Option (Nat × Nat)) :
    State × Option (Nat × Nat × Nat) :=
  let (s1, from_) := match cp with
    | some (i, k) =>
      (match s.copyPage e i k pv with
       | some (n, a) => (a, some (i, k, n))
       | none => (s, none))
    | none => (s, none)
  ((s1.newBlocks e first count).foldl (fun a b =>
    match a.allocPage e b pv with
    | some (k, t) => t.listPage e k
    | none => a) s1, from_)

/-- add() for a decode sample. -/
def Build.addDecode (b : Build) (f : FrameCtx) (e : Nat) (cost : Bud) (cp : Option (Nat × Nat)) : Build :=
  let x := b.st.entry e
  let pv := b.st.frameVersion e f.b
  let first := x.length - 1
  let count := 1 + x.pending
  let old := b.st.listOf e
  let (s1, from_) := b.st.takePages e pv first count cp
  { b with
    st := s1.reserveFrame e count, used := ⟨b.used.pos + cost.pos, b.used.seqs + cost.seqs, b.used.pages + cost.pages⟩,
    seen := dedup (b.seen ++ old ++ s1.listOf e),
    works := b.works ++ [Work.mk e first count false false from_ pv false [] []] }

/-- A decode sample in its turn: guaranteed ones run from their reservation, best-effort ones within the budget (R356). -/
def Build.decode (b : Build) (f : FrameCtx) (e : Nat) : Build :=
  let s := b.st
  let x := s.entry e
  let first := x.length - 1
  let count := 1 + x.pending
  let cp := s.copyNeeded f.writers e first
  let need := (s.newBlocks e first count).length + (if cp.isSome then 1 else 0)
  let cost : Bud := ⟨count, 1, s.unseen e b.seen + need⟩
  let room := decide (count ≤ s.emFree x.ctx)
  if x.guar then
    (if room then b.addDecode f e cost cp else { b with st := s.skipSample e })
  else if f.eff.pos < b.used.pos + cost.pos ∨ f.eff.seqs < b.used.seqs + 1 ∨ f.eff.pages < b.used.pages + cost.pages then b
  else
    let (s1, ok) := s.canObtain e need
    if !ok then { b with st := s1.starved e }
    else if !room then { b with st := s1.skipSample e }
    else { b with st := s1 }.addDecode f e cost cp

/-- End of a best-effort chunk, shortened to the start of a segment that it would split (R400). -/
def segmentEnd (toks : List Nat) (first e : Nat) : Nat :=
  let seg (q : Nat) : Bool := bit (toks.getD q 0) 31
  if e < toks.length ∧ 0 < e ∧ seg (e - 1) = true ∧ seg e = true then
    let run := ((List.range e).reverse.takeWhile seg).length
    if first < e - run then e - run else e
  else e

/-- add() for a prefill unit that writes positions first to first + count − 1 (R356, R389). -/
def Build.addUnit (b : Build) (f : FrameCtx) (i : Nat) (es : List Nat) (first count : Nat) (cost : Bud) : Build :=
  match es with
  | [] => b
  | e :: _ =>
    let s := b.st
    let pv := s.frameVersion e f.b
    let s1 := s.obtainUnit es pv (s.newBlocks e first count)
    let s2 := es.foldl (fun a x => a.reserveFrame x 1) s1
    { b with
      st := s2, used := ⟨b.used.pos + cost.pos, b.used.seqs + cost.seqs, b.used.pages + cost.pages⟩,
      seen := dedup (b.seen ++ s2.listOf e), units := i :: b.units,
      works := b.works ++ [Work.mk e first count true (decide ((s.entry e).promptLen ≤ first + count)) none pv false [] []] }

/-- A prefill unit in the turn of one of its samples. -/
def Build.unit (b : Build) (f : FrameCtx) (e : Nat) : Build :=
  let s := b.st
  let x := s.entry e
  let i := x.reqRec
  let es := s.unitOf i
  match s.req i with
  | none => b
  | some r =>
    if b.units.contains i then b
    else
      let room := decide (es.length ≤ s.emFree x.ctx)
      if x.guar then
        match r.placed.find? fun c => c.1 == f.b with
        | some (_, c0, len) =>
          let first := Nat.max c0 x.length
          let count := c0 + len - first
          if count = 0 then b
          else
            let need := (s.newBlocks e first count).length
            if room then b.addUnit f i es first count ⟨count, 0, s.unseen e b.seen + need⟩
            else { b with st := es.foldl (fun a k => a.skipSample k) s, units := i :: b.units }
        | none => b
      else
        let left := x.promptLen - x.length
        let n0 := Nat.min (Nat.min (chunkOf f.ctrl) left) (f.eff.pos - b.used.pos)
        let n1 := if n0 = left then n0 else n0 / 64 * 64
        match s.promptToks r 0 (Nat.min x.promptLen (x.length + n1 + 1)) with
        | none => { b with st := es.foldl (fun a k => a.setEntry k { a.entry k with endAs := some stFaultContext }) s }
        | some toks =>
          let count := segmentEnd toks x.length (x.length + n1) - x.length
          let need := (s.newBlocks e x.length count).length
          let cost : Bud := ⟨count, 0, s.unseen e b.seen + need⟩
          if count = 0 ∨ f.eff.pages < b.used.pages + cost.pages then b
          else
            let (s1, ok) := s.canObtain e need
            if !ok then { b with st := es.foldl (fun a k => a.starved k) s1, units := i :: b.units }
            else if !room then { b with st := es.foldl (fun a k => a.skipSample k) s1, units := i :: b.units }
            else { b with st := s1 }.addUnit f i es x.length count cost

/-- One sample in its turn. -/
def Build.visit (b : Build) (f : FrameCtx) (e : Nat) : Build :=
  if b.st.inPrefill e then b.unit f e else b.decode f e

/-- The samples that may take part in the frame of p: active, admitted before the seal (R332), and of the suspect's context
in a replay frame (R612). -/
def State.candidatesFor (s : State) (f : FrameCtx) (guar : Bool) : List Nat :=
  (s.table.filter fun e => e.2.part == f.p && activeState e.2.state && e.2.guar == guar && e.2.endAs == none &&
    decide (e.2.admitMark + 16 < f.b) && (match f.only with
      | some n => e.2.ctx == n
      | none => true) &&
    !(match s.req e.2.reqRec with
      | some r => s.fenced r.cid
      | none => false)).map (·.1)

/-- build(k) of R356, for the frame k that begins at boundary f.b. -/
def State.build (s : State) (f : FrameCtx) : Build :=
  let b0 : Build := { st := s, used := ⟨0, 0, 0⟩, seen := [], works := [], units := [] }
  let b1 := (s.candidatesFor f true).foldl (fun b e => b.visit f e) b0
  let builder := ((s.schedAt f.p f.b).map (·.builder)).getD 0
  let be := sortBy (fun a c => lexLe (s.key358 f.p f.ctrl builder a) (s.key358 f.p f.ctrl builder c)) (s.candidatesFor f false)
  be.foldl (fun b e => b.visit f e) b1

/-- The decode samples of a work list. -/
def writersOf (ws : List Work) : List Nat :=
  sortBy (fun a b => decide (a ≤ b)) ((ws.filter fun w => !w.prefill).map (·.entry))

/-- Copy on write depends on which samples write in the frame (R389): the build is repeated until its writers are those it
was made for. -/
def State.buildFix (s : State) (f : FrameCtx) : Nat → Build
  | 0 => s.build f
  | n + 1 =>
    let b := s.build f
    if writersOf b.works = f.writers then b else s.buildFix { f with writers := writersOf b.works } n

/-! ## Prefix matching at the seal (R386, R404, R405) -/

/-- Match the prompt of request i, whose samples have not begun. -/
def State.matchReq (s : State) (i : Nat) (r : Request) : State :=
  let es := s.unitOf i
  match es with
  | [] => s
  | e :: _ =>
    let x := s.entry e
    let n := (x.promptLen - 1) / 64
    match s.promptToks r 0 (64 * n) with
    | none => s
    | some toks =>
      let (m, s1) := (s.askHosts (some r.part) false r.ctx r.promptAddr (256 * n)).matchFrom es 0 0 noPage ((List.range n).map fun b => (toks.drop (64 * b)).take 64)
      let s2 := es.foldl (fun a k => a.setEntry k { a.entry k with length := 64 * m }) s1
      s2.modReq i fun q => { q with matched := true, prefilled := 64 * m }

/-- The request's first prefill frame can be this one: nothing prefilled, its prompt not matched yet. -/
def State.matchNow (s : State) (f : FrameCtx) (r : Nat × Request) : Bool :=
  r.2.part == f.p && !r.2.matched && s.flag (F.prefixEn r.2.ctx) &&
    (match s.unitOf r.1 with
     | e :: _ => (s.entry e).length == 0 && decide ((s.entry e).admitMark + 16 < f.b) &&
         (!(s.entry e).guar || r.2.placed.any fun c => c.1 == f.b && c.2.1 == 0) && !s.fenced r.2.cid &&
         (match f.only with
          | some n => r.2.ctx == n
          | none => true)
     | [] => false)

/-- A match made for a request that the frame then leaves out is taken back: the pages as they were. -/
def State.unmatch (s : State) (i : Nat) : State :=
  let es := s.unitOf i
  match es with
  | [] => s
  | e :: _ =>
    let p := (s.entry e).part
    let l := s.listOf e
    let s1 := es.foldl (fun a k => (a.setList p (a.entry k).pageList []).setEntry k { a.entry k with length := 0 }) s
    let s2 := l.foldl (fun a k =>
      let g := a.pg p k
      let n := g.refs - es.length
      let a1 := a.setPg p k { g with refs := n, state := if n = 0 then pgFree else g.state }
      if n = 0 then a1.returnUnit e else a1) s1
    s2.modReq i fun q => { q with matched := false, prefilled := 0 }

/-! ## The seal (R331, R356, R612, R614, R715) -/

/-- Guaranteed chunks placed in the frame that begins at mark b, and that it does not run, are placed again (R715). -/
def State.moveChunks (s : State) (p b : Nat) (ran : List Nat) : State :=
  (s.reqs.filter fun r => r.2.part == p && !ran.contains r.1).foldl (fun a r =>
    match r.2.placed.find? fun c => c.1 == b with
    | some (_, c0, len) => if c0 + len ≤ r.2.prefilled then a else a.replaceChunks r.1 c0 ((a.boundAfter p b).getD (b + 1))
    | none => a) s

/-- Clusters of partition p in replay, as numbers of the device. -/
def State.replayClusters (s : State) (p : Nat) : List Nat :=
  ((List.range 16).filter fun c => bit (s.fld (F.replaying p)) c).map (· + 16 * p)

/-- A lantern partition in replay, which turns guaranteed submissions away and whose frames set SKIPPED (R614). -/
def State.inReplay (s : State) (p : Nat) : Bool :=
  s.fld (F.replaying p) != 0 || !(s.part p).replaySus.isEmpty || (s.part p).replayCtx.isSome

/-- Samples of a list of work: of a prefill unit all. -/
def State.frameSamples (s : State) (ws : List Work) : List Nat :=
  ws.flatMap fun w => (if w.prefill then s.unitOf (s.entry w.entry).reqRec else [w.entry])

/-- The samples of p that the frame which begins at mark b could take and leaves out set SKIPPED (R332, R614). -/
def State.skipOthers (s : State) (p b : Nat) (ws : List Work) : State :=
  (s.samplesOn p).foldl (fun a e =>
    if activeState (a.entry e).state && decide ((a.entry e).admitMark + 16 < b) && !(s.frameSamples ws).contains e then a.skipSample e else a) s

/-- The replay of a suspect on a lantern partition ends (R593, R612). -/
def State.endReplay (s : State) (p n result : Nat) : State :=
  let cl := ((s.replayClusters p).head?).getD (16 * p)
  s.soot1 0x22 p 0 (sootCtx n) cl (toLE 1 result)

/-- When no suspect is left, no cluster of p is in replay. -/
def State.settleReplay (s : State) (p : Nat) : State :=
  if (s.part p).replaySus.isEmpty && (s.part p).replayCtx.isNone then s.setFld (F.replaying p) 0 else s

/-- The list that a seal builds: prefixes are matched in ascending table index, the list is built, matches of requests that it leaves
out are taken back, and the chunks that it does not run are placed again (R331, R386, R404, R715). -/
def State.sealList (s : State) (f : FrameCtx) : State × List Work :=
  let todo := sortBy (fun (a b : Nat × Request) => decide ((s.unitOf a.1).headD 0 ≤ (s.unitOf b.1).headD 0))
    (s.reqs.filter fun r => s.matchNow f r)
  let s1 := todo.foldl (fun a r => a.matchReq r.1 r.2) s
  let w0 := sortBy (fun a c => decide (a ≤ c)) ((s1.candidatesFor f true ++ s1.candidatesFor f false).filter fun e => !s1.inPrefill e)
  let bd := s1.buildFix { f with writers := w0 } 8
  let s2 := todo.foldl (fun a r =>
    if bd.works.any (fun w => w.prefill && (a.entry w.entry).reqRec == r.1) || (r.2.placed.any fun c => c.1 == f.b) then a
    else a.unmatch r.1) bd.st
  (s2.moveChunks f.p f.b ((bd.works.filter (·.prefill)).map fun w => (s2.entry w.entry).reqRec), bd.works)

/-- The control core reads the prompt tokens of a prefill chunk at the seal of its frame (R339; assumption 138): the requests to a host
and what the read meets (R55, R537, R561). -/
def State.promptRead (s : State) (w : Work) (meets : List (Nat × Meet)) : State :=
  let i := (s.entry w.entry).reqRec
  match w.prefill, s.req i with
  | true, some r => s.readMeets (some r.part) false r.ctx (r.promptAddr + 4 * w.first) (4 * w.count) (meetOf meets i)
  | _, _ => s

/-- A chunk whose read comes back with an error is lost to its context's fault, which ends its samples (R364, R561). -/
def State.promptWork (s : State) (w : Work) (meets : List (Nat × Meet)) : Work :=
  if w.prefill && (meetOf meets (s.entry w.entry).reqRec).err.isSome then
    { w with lost := true, lostCtx := (s.entry w.entry).ctx :: w.lostCtx }
  else w

/-- The seal of the frame of p that begins at mark b (R331, R354, R386, R612, R614). A boundary that starts no work gets an empty
list (R335, R612). The frame's effective budget is that of its seal (assumption 135). -/
def State.sealFrame (s : State) (p b : Nat) (meets : List (Nat × Meet)) : State :=
  let x := s.part p
  let replay := s.inReplay p
  let s0 := s.placeWaiting p b
  let eff := s0.effFor p b x.comingBudget.1 (s0.factorFor p b)
  let shown (y : Part) : Part := { y with sealEff := (eff.pos, eff.seqs, eff.pages) }
  let busy := (!x.curWork.isEmpty || x.overrun) && x.finalised.isNone
  if busy || decide (b < x.noWorkTill) then
    let s1 := (s0.moveChunks p b []).modPart p fun y => { shown y with sealed := some (b, []) }
    if replay then s1.skipOthers p b [] else s1
  else
    let s1 := match x.replayCtx with
      | some n => (s0.endReplay p n 0).modPart p fun y => { y with replayCtx := none }
      | none => s0
    let only := x.replaySus.head?
    let (s2, ws) := s1.sealList { p := p, b := b, ctrl := x.comingBudget.2, eff := eff, only := only, writers := [] }
    let s3 := match only with
      | some n => if ws.isEmpty then s2.endReplay p n 0 else s2
      | none => s2
    let s4 := if replay then s3.skipOthers p b ws else s3
    let works := (ws.map fun w => { w with record := s4.workRecord w }).map fun w => s4.promptWork w meets
    let s5 := ws.foldl (fun a w => a.promptRead w meets) s4
    ((((s5.modPart p fun y => { shown y with
      sealed := some (b, works), replaySus := y.replaySus.drop 1,
      replayCtx := if works.isEmpty then none else only }).settleReplay p)).syncKv p).drawn

end Sys2Proof.Machine
end

