-- ==== Sys2Proof/Machine/Damper.lean ====
section
/-!
DEFINITION. Damper.lean: the Damper slots of a partition (R246 to R254): ownership, reports, updates, history images, and
the plans of the Damper instructions (R283 to R286).
-/
namespace Sys2Proof.Machine
open Sys2Proof.Config

/-! ## Slots -/

/-- Mark of an empty history entry (R247). -/
def emptyHist : Int := -32768

/-- Slot sl of partition p belongs to context n (R246, R248). -/
def State.slotOf (s : State) (p sl n : Nat) : Bool := s.flag (F.dValid p sl) && s.fld (F.dCtx p sl) == n

/-- The history of a slot, oldest first. -/
def State.history (s : State) (p sl : Nat) : List Int := (tfind (s.part p).hist sl).getD []
def State.setHistory (s : State) (p sl : Nat) (h : List Int) : State :=
  s.modPart p fun x => { x with hist := tset [] x.hist sl h }

/-- Tensor scale offset of a slot, in units of 1/8 (R176). -/
def State.damperOffset (s : State) (p sl : Nat) : Int := signed 12 (s.fld (F.dOffset p sl))

/-- A slot at its reset values with an empty history, unowned (R248, R254). -/
def State.clearSlot (s : State) (p sl : Nat) : State := (s.resetRegs (F.damper p sl) 16).setHistory p sl []

/-- Every owned slot of partition p whose context is one that `sel` names returns to its reset values (R248). -/
def State.clearSlots (s : State) (p : Nat) (sel : Nat → Bool) : State :=
  ((List.range 512).filter fun sl => s.flag (F.dValid p sl) && sel (s.fld (F.dCtx p sl))).foldl
    (fun a sl => a.clearSlot p sl) s

/-- Target of a data type (R250). -/
def damperTarget (fmt : Nat) : Int :=
  [1023, 1023, 127, 70, 126, 70, 38, 23, 20, 55, 22, 511, 63, 30, 12].getD fmt 0

/-- A report (R249). DESIGN CHOICE (assumption 141): a PENDING_MAX that DAMPER_WRITE made NaN stays until the next update, which counts
it as empty. -/
def State.damperReport (s : State) (p sl max : Nat) (nf : Bool) : State :=
  let old := s.fld (F.dPendMax p sl)
  let s1 := if (ofF32 old).lt (ofF32 max) then s.setFld (F.dPendMax p sl) max else s
  if nf then s1.setFld (F.dPendNf p sl) 1 else s1

/-- Significand of c[j], the smallest FP32 value not less than 2^(j/8), with 23 fraction bits (R251). -/
def eighthUp (j : Nat) : Nat :=
  let r := rootBits 8 (2 ^ (184 + j)) 25 0
  if r ^ 8 = 2 ^ (184 + j) then r else r + 1

/-- Smallest n with the FP32 value at most c[n mod 8] × 2^(n div 8) (R251): none for a value that is not positive; for an
infinite one no such n exists and the entry is open (assumption 2). -/
def damperLog (v open_ : Nat) : Option Int :=
  match ofF32 v with
  | .nan => none
  | .inf neg => if neg then none else some (signed 15 open_)
  | .fin neg m e =>
    if neg ∨ m = 0 then none
    else
      let fits := (List.range 8).filter fun j => decide (m ≤ eighthUp j)
      some (8 * (e + 23) + (match fits with
        | j :: _ => (j : Int)
        | [] => 8))

/-- An update of one slot (R251); `abandon` for an abandonment with FAULT_NONFINITE. DESIGN CHOICE (assumption 133): an update that is not
finite leaves the history as it is, and drops no entries beyond a lowered HLEN_M1. -/
def State.damperUpdate (s : State) (p sl : Nat) (abandon : Bool) : State :=
  let hlen := s.fld (F.dHlenM1 p sl) + 1
  let ofs := s.damperOffset p sl
  let clear (t : State) : State := (t.setFld (F.dPendMax p sl) 0).setFld (F.dPendNf p sl) 0
  if abandon || s.flag (F.dPendNf p sl) then
    let f := unsigned 12 (min (ofs + s.fld (F.dBackoff p sl)) 2047)
    clear (((s.setFld (F.dFloor p sl) f).setFld (F.dOffset p sl) f).setFld (F.dHold p sl) hlen)
  else
    let lm := (damperLog (s.fld (F.dPendMax p sl)) s.drawVal).getD emptyHist
    let h0 := s.history p sl ++ [lm]
    let h := h0.drop (h0.length - hlen)
    let live := h.filter fun e => e != emptyHist
    let new := match live with
      | [] => ofs
      | e :: r => r.foldl max e - damperTarget (s.fld (F.dFmt p sl)) + s.fld (F.dMargin p sl)
    let hold := s.fld (F.dHold p sl)
    let new1 := if 0 < hold then max new (signed 12 (s.fld (F.dFloor p sl))) else new
    let s1 := (s.drawn.setHistory p sl h).setFld (F.dHold p sl) (hold - 1)
    clear (s1.setFld (F.dOffset p sl) (unsigned 12 (min (max new1 (-2048)) 2047)))

/-- Every AUTO slot of the listed contexts on partition p is updated (R252). -/
def State.damperAuto (s : State) (p : Nat) (ctxs : List Nat) (abandon : Bool) : State :=
  ((List.range 512).filter fun sl => s.flag (F.dValid p sl) && s.flag (F.dAuto p sl) &&
    ctxs.contains (s.fld (F.dCtx p sl))).foldl (fun a sl => a.damperUpdate p sl abandon) s

/-- The result word of DAMPER_READ (R284). -/
def State.damperWord (s : State) (p sl : Nat) : Nat :=
  s.fld (F.dPendMax p sl) + 2 ^ 32 * s.fld (F.dOffset p sl) + 2 ^ 44 * s.fld (F.dPendNf p sl) +
    2 ^ 45 * s.fld (F.dHold p sl)

/-- The 128-byte history image: 64 entries, entry 0 the oldest (R285). -/
def histImage (h : List Int) : List Byte :=
  (List.range 64).flatMap fun i => toLE 2 (unsigned 16 (h.getD i emptyHist))

/-- The first n entries of a history image. -/
def histEntries (b : List Byte) (n : Nat) : List Int := (List.range n).map fun i => signed 16 (leAt b (2 * i) 2)

/-- The history that DAMPER_HLOAD takes: the first hlen entries of the image. Empty ones at the end are no entries yet, as in the
image of a history that is not full (R285; DESIGN CHOICE, assumption 119). -/
def imageHist (b : List Byte) (hlen : Nat) : List Int :=
  ((histEntries b hlen).reverse.dropWhile fun e => e == emptyHist).reverse

/-! ## Plans -/

/-- The checks that the Damper instructions share: unused fields, and the ownership of the slot (R246, R284). -/
def State.damperChecks (s : State) (x : Thread) (w : Nat) (ra rb : Bool) : List (Nat × Bool) :=
  [(2, bits w 10 12 == 0 && (ra || mRa w == 0) && (rb || mRb w == 0) && mRc w == 0 && mImm w == 0 && mDslotEn w),
   (7, s.slotOf x.part (mDslot w) x.ctx)]

def damperPlan (count : Nat) (sread : List Nat) (effects : List Effect) : Plan :=
  { Plan.none0 with sread := sread, count := count, effects := effects, port := 4 }

def State.planDamperUpdate (s : State) (x : Thread) (w : Nat) : Plan :=
  (damperPlan 24 [] [.damperUpdate x.part (mDslot w)]).guard
    (s.damperChecks x w false false ++ [(7, !s.flag (F.dAuto x.part (mDslot w)))])

def State.planDamperRead (s : State) (x : Thread) (w : Nat) : Plan :=
  { damperPlan 24 [] [.damperRead x.part (mDslot w) (mRb w)] with swrite := dstOf (mRb w) }.guard
    (s.damperChecks x w false true)

def State.planDamperWrite (s : State) (x : Thread) (w : Nat) : Plan :=
  (damperPlan 24 [mRa w] [.damperWrite x.part (mDslot w) (x.sreg (mRa w) % 2 ^ 32)]).guard
    (s.damperChecks x w true false)

def State.planDamperHsave (s : State) (x : Thread) (w : Nat) : Plan :=
  let o := x.sreg (mRa w)
  { damperPlan 40 [mRa w] [.damperSave x.part (mDslot w) (x.base + o)] with writes := spRegions o 128 }.guard
    (s.damperChecks x w true false ++ [(4, x.localOk o 128 8 true)])

/-- DAMPER_HLOAD (R285). DEDUCED (assumption 15): its image and HLEN_M1 are read in the issue cycle. -/
def State.planDamperHload (s : State) (x : Thread) (w : Nat) : Plan :=
  let o := x.sreg (mRa w)
  let h := imageHist (s.localBytes x o 128) (s.fld (F.dHlenM1 x.part (mDslot w)) + 1)
  { damperPlan 40 [mRa w] [.damperLoad x.part (mDslot w) h] with reads := spRegions o 128 }.guard
    (s.damperChecks x w true false ++ [(4, x.localOk o 128 8 false)])

end Sys2Proof.Machine
end

