-- ==== Sys2Proof/Machine/Matrix.lean ====
section
/-!
DEFINITION. Matrix.lean: the matrix arrays, the rotary unit and the output conversion unit (R207 to R245, R283, R284, R393
to R396), and what an instruction of the MATRIX class computes and asks of the tile.
-/
namespace Sys2Proof.Machine
open Sys2Proof.Config

/-- Arrays of a mask, ascending. -/
def arraysOf (m : Nat) : List Nat := [0, 1, 2, 3].filter fun a => bit m a

/-- Tensor scale offset of an instruction: from its Damper slot, or 0 (R222, R263). -/
def State.scaleOffset (s : State) (x : Thread) (w : Nat) : Int :=
  if mDslotEn w then s.damperOffset x.part (mDslot w) else 0

/-- A named Damper slot belongs to the thread's context (R246); without DSLOT_EN the slot field is unused. -/
def State.slotChecks (s : State) (x : Thread) (w : Nat) : List (Nat × Bool) :=
  [(2, mDslotEn w || mDslot w == 0), (7, !mDslotEn w || s.slotOf x.part (mDslot w) x.ctx)]

/-- Bank b of array a as the loads issued so far leave it (R213). -/
def State.bankNow (s : State) (tile a b : Nat) : Bank :=
  let pendingLoads := (s.ofTile tile).flatMap fun i => i.effects.filterMap fun e => match e with
    | .bank t a' b' v => if t = tile ∧ a' = a ∧ b' = b then some v else none
    | _ => none
  match pendingLoads.getLast? with
  | some v => v
  | none => tget Bank.dflt (s.tile tile).banks (2 * a + b)

/-! ## Weight loading (R209 to R213, R225) -/

/-- A CIF value as the arrays multiply it: sign × t[f] × 2^(i − 11), exactly (R175, R177). DEDUCED (assumption 145): the loader's sums in
exact fixed point take weights at this value too (R225). -/
def Cif.linear (c : Cif) (blk : Int) : Num :=
  if c.nan then .nan
  else if c.zero then Num.zero0
  else
    let l := c.log + 256 * blk
    let i := l / 256
    .fin c.sign (fracTable (l - 256 * i).toNat) (i - 11)

/-- Nearest CIF value of an exact number, LOG rounded to 1/256. -/
def Num.toCif (v : Num) : Cif :=
  match v with
  | .fin s m e =>
    if m = 0 then Cif.zero0 else Cif.val s (256 * ((Nat.log2 m : Int) + e) + log256 m (Nat.log2 m))
  | _ => Cif.nanV

def sumNum (l : List Num) : Num := l.foldl Num.add Num.zero0

/-- A bank with its checksum values (R225). -/
def mkBank (cls : Nat) (paired : Bool) (scale : Int) (rows : List (List Cif)) (exps : List (List Int)) : Bank :=
  let lin := (rows.zip (List.range rows.length)).map fun r =>
    (r.1.zip (List.range 32)).map fun c => c.1.linear ((exps.getD (r.2 / 32) []).getD c.2 0)
  let col (f : Num → Num) (c : Nat) : Cif := (sumNum (lin.map fun r => f (r.getD c Num.zero0))).toCif
  { cls := cls, paired := paired, rows := rows, exps := exps, scale := scale,
    cw := lin.map fun r => (sumNum r).toCif,
    aw := lin.map fun r => (sumNum (r.map Num.absOf)).toCif,
    rw := (List.range 32).map (col id), ra := (List.range 32).map (col Num.absOf) }

/-- The weight rows that a load reads for one array: `base` is the source of row load 0. DESIGN CHOICE (assumption 117): of the 64
weights of a PAIRED row load, the first 32 are those of row 2i. -/
def State.loadRows (s : State) (x : Thread) (dt base stride r : Nat) (paired : Bool) (scaleAt : Nat) :
    List (List Cif) × List (List Int) :=
  let w := elemBits dt
  let per := if paired then 64 else 32
  let n := if paired then 2 * r else r
  let blocks := blockOf dt != 0
  let exps := (List.range (cdiv n 32)).map fun g => (List.range 32).map fun c =>
    if blocks then blockExp dt (s.localLE x (scaleAt + 32 * g + c) 1) else (0, false)
  let rows := (List.range r).flatMap fun i =>
    let v := s.localLE x (base + i * stride) (per * w / 8)
    let cells := (List.range per).map fun k => toCif dt (unpackAt w v k)
    if paired then [cells.take 32, cells.drop 32] else [cells]
  let rows' := (rows.zip (List.range n)).map fun q => (q.1.zip (List.range 32)).map fun c =>
    if ((exps.getD (q.2 / 32) []).getD c.2 (0, false)).2 then Cif.nanV else c.1
  (rows', exps.map fun g => g.map (·.1))

/-- MAT_LOAD (R209 to R213, R284). RC must name s0 where there are no block scales (R264, assumption 17). Its source rows and scale
bytes are those of the issue cycle (assumption 15); the bank takes them row load by row load (Machine/Passes.lean). -/
def State.planMatLoad (s : State) (x : Thread) (w : Nat) : Plan :=
  let dt := mDtype w
  let ok := matrixType dt
  let cls := rateClass dt
  let paired := cls == 0 && pairedLoad w
  let a := x.sreg (mRa w)
  let src := bits a 0 24
  let stride := bits a 24 24
  let arrStride := bits (x.sreg (mRb w)) 0 24
  let scaleAt := bits (x.sreg (mRc w)) 0 24
  let r := mImm w % 64 + 1
  let rho := if cls = 2 then 2 else 1
  let rowBytes := (if paired then 64 else 32) * elemBits dt / 8
  let blocks := blockOf dt != 0
  let groups := cdiv (if paired then 2 * r else r) 32
  let arrays := arraysOf (mMask w)
  let srcOf (k : Nat) : Nat := src + k * arrStride
  let rowsAt := (List.range arrays.length).flatMap fun k => (List.range r).map fun i => srcOf k + i * stride
  let first := s.now + 2 + rho
  let last := s.now + rho * (r - 1) + 2 + rho
  let others := s.ofTile x.tileNo
  { Plan.none0 with
    sread := [mRa w, mRb w, mRc w],
    reads := rowsAt.flatMap (fun o => spRegions o rowBytes) ++ (if blocks then spRegions scaleAt (32 * groups) else [])
    count := rho * r + 3
    mat := some ⟨true, mMask w, mBank w, first, last⟩
    ready := others.all (fun i => match i.mat with
      | some u =>
        if u.mask &&& mMask w = 0 then true
        else if u.load then false
        else u.bank != mBank w || decide (u.last < first)
      | none => true)
    effects := (arrays.zip (List.range arrays.length)).map fun (ak : Nat × Nat) =>
      let q := s.loadRows x dt (srcOf ak.2) stride r paired scaleAt
      Effect.bank x.tileNo ak.1 (mBank w) (mkBank cls paired (s.scaleOffset x w) q.1 q.2) }.guard
    ([(2, !mAf w && !mInit w && !mRot w && decide (mImm w < 64) && (blocks || mRc w == 0)), (6, ok)] ++
      s.slotChecks x w ++
      [(4, rowsAt.all (fun o => x.localOk o rowBytes 1 false) && (!blocks || x.localOk scaleAt (32 * groups) 1 false))])

/-! ## The rotary unit (R393 to R396) -/

/-- The rotary descriptor of a stream. -/
structure Rotary where
  pos0 : Nat
  step : Int
  vpp : Nat
  posAddr : Nat
  mode : Bool
  dims : Nat
  freq : Nat
deriving DecidableEq, Repr

def rotaryOf (b : List Byte) : Rotary :=
  { pos0 := leAt b 0 4, step := signed 16 (leAt b 4 2), vpp := leAt b 6 2, posAddr := leAt b 8 4,
    mode := bit (leAt b 12 1) 0, dims := leAt b 14 2, freq := leAt b 16 4 }

/-- The conditions of R393 for vectors of `ev` elements. -/
def rotaryOk (b : List Byte) (ev : Nat) : Bool :=
  let d := rotaryOf b
  decide (1 ≤ d.vpp ∧ d.vpp ≤ 64) && decide (leAt b 12 1 < 2) && leAt b 13 1 == 0 && d.dims % 2 == 0 &&
    decide (d.dims ≤ ev * d.vpp) && d.freq % 4 == 0 && (!d.mode || d.posAddr % 4 == 0) && leAt b 20 44 == 0

/-- Position that vector j stands for. -/
def State.rotPos (s : State) (x : Thread) (d : Rotary) (j : Nat) : Nat :=
  if d.mode then s.localLE x (d.posAddr + 4 * j) 4
  else unsigned 32 ((d.pos0 : Int) + (j / d.vpp : Nat) * d.step)

/-- A CIF element as one number, to name it to the free values of the part. -/
def Cif.code (c : Cif) : Int := if c.zero then 2 ^ 30 else 2 * c.log + (if c.sign then 1 else 0)

/-- The value ±2^(LOG/256) of a CIF element, to 90 bits or more. -/
def Cif.num (c : Cif) : Num :=
  if c.nan then .nan
  else if c.zero then Num.zero0
  else match pow2Fix (c.log * 2 ^ 88) with
    | .fin _ m e => .fin c.sign m e
    | x => x

/-- A value as a CIF element: LOG rounded to the nearest 1/256, ties to even; ZERO below 2^-256 (R395). -/
def Num.toCifNear (v : Num) : Cif :=
  match v with
  | .fin s m e =>
    if m = 0 ∨ lead m e < -256 then Cif.zero0
    else
      let l := log2Fix m e
      let q := l / 2 ^ 88
      let d := l % 2 ^ 88
      Cif.val s (if 2 ^ 87 < d ∨ (d = 2 ^ 87 ∧ q % 2 = 1) then q + 1 else q)
  | _ => Cif.nanV

/-- An error of the part of magnitude at most 2^(b − 64), as its free value v decides (assumption 7). -/
def errOf (b : Nat) (v : Int) : Num := Num.ofInt (v % (2 ^ (b + 1) + 1) - 2 ^ b) (-64)

/-- The pair (2i, 2i + 1) rotated for position q by the code of its frequency, of which a subnormal one counts as zero (R203, R395): the
cosine and the sine are within 2^-22, and each result within 2^-24 of the pair's magnitude. -/
def rotPair (a b : Cif) (q code : Nat) : Cif × Cif :=
  let freq := toF32 (ofF32 code)
  match ofF32 freq with
  | .fin fs fm fe =>
    if a.nan || b.nan then (Cif.nanV, Cif.nanV)
    else
      let turns := (Num.ofInt q 0).mul (.fin fs fm fe)
      let c := (cosTurn turns).add (errOf 42 (rotTrig q freq 0))
      let s := (sinTurn turns).add (errOf 42 (rotTrig q freq 1))
      let x := a.num
      let y := b.num
      let r := ((x.mul x).add (y.mul y)).root
      let e (k : Nat) : Num := r.mul (errOf 40 (rotElem a.code b.code q freq k))
      ((((x.mul c).add (y.mul s).neg1).add (e 0)).toCifNear, (((x.mul s).add (y.mul c)).add (e 1)).toCifNear)
  | _ => (Cif.nanV, Cif.nanV)

/-- Vector j of a stream through the rotary unit. -/
def State.rotate (s : State) (x : Thread) (d : Rotary) (ev j : Nat) (v : List Cif) : List Cif :=
  let q := s.rotPos x d j
  let base := ev * (j % d.vpp)
  (List.range (ev / 2)).flatMap fun i =>
    let a := v.getD (2 * i) Cif.zero0
    let b := v.getD (2 * i + 1) Cif.zero0
    if base + 2 * i < d.dims then
      let r := rotPair a b q (s.localLE x (d.freq + 4 * (base / 2 + i)) 4)
      [r.1, r.2]
    else [a, b]

/-! ## Streams (R207 to R231) -/

/-- A stream's rate class: that of the recorded weight formats of its banks and its own format (R160, R284). -/
def State.streamClass (s : State) (tile mask b dt : Nat) : Nat :=
  (arraysOf mask).foldl (fun c a => pairClass c (s.bankNow tile a b).cls) (rateClass dt)

/-- Every bank in the mask has the layout that the class needs (R208). -/
def State.layoutOk (s : State) (tile mask b cls : Nat) : Bool :=
  (arraysOf mask).all fun a =>
    let k := s.bankNow tile a b
    k.paired == (cls == 0)

/-- Column sum of column c of a bank for an activation vector with its block exponents (R175 to R179). -/
def colSum (k : Bank) (n : Nat) (v : List Cif) (bexp : List Int) (blk : Nat) (ta : Int) (c : Nat) : ColSum :=
  columnSum ((List.range n).map fun r =>
    product (v.getD r Cif.zero0) ((k.rows.getD r []).getD c Cif.zero0)
      (if blk = 0 then 0 else bexp.getD (r / blk) 0) ((k.exps.getD (r / 32) []).getD c 0) ta k.scale)

/-- Accumulator entries from word `base`: the physical address of entry i. -/
def accAddr (tile base : Nat) (wide : Bool) (i : Nat) : Nat :=
  windowOf tile + scratchSize + 4 * (base + (if wide then 2 * i else i))

/-- Bytes of the FREQ entries that V vectors use (R393, R394). -/
def Rotary.freqBytes (d : Rotary) (ev v : Nat) : Nat := 2 * Nat.min d.dims (ev * Nat.min d.vpp v)

/-- MAT_STREAM (R207, R214 to R224, R284, R393, R394): what its issue fixes. Its passes run in Machine/Passes.lean. -/
def State.planMatStream (s : State) (x : Thread) (w : Nat) : Plan :=
  let dt := mDtype w
  let tile := x.tileNo
  let mask := mMask w
  let bk := mBank w
  let cls := s.streamClass tile mask bk dt
  let ev := if cls = 0 then 128 else 64
  let r := if cls = 2 then 4 else 1
  let a := x.sreg (mRa w)
  let src := bits a 0 24
  let stride := bits a 24 24
  let base := bits (x.sreg (mRb w)) 0 16
  let c := x.sreg (mRc w)
  let rotAt := bits c 0 24
  let scaleAt := bits c 24 24
  let v := bits (mImm w) 0 10 + 1
  let wide := mAf w
  let words := v * (if wide then 256 else 128)
  let blk := blockOf dt
  let nb := if blk = 0 then 0 else ev / blk
  let vecBytes := ev * elemBits dt / 8
  let cur := (s.tile tile).current
  let sw := (arraysOf mask).any fun k => bit cur k != (bk == 1)
  let wn := b2n sw
  let newCur := (arraysOf mask).foldl (fun m k =>
    if bit m k then (if bk = 1 then m else m - 2 ^ k) else (if bk = 1 then m + 2 ^ k else m)) cur
  let firstRead := if sw then s.now + 7 else s.now + r - 1 + 7
  let rot := mRot w
  let rd := s.localBytes x rotAt 64
  let d := rotaryOf rd
  let vecs := (List.range v).map fun j => src + j * stride
  { Plan.none0 with
    sread := [mRa w, mRb w, mRc w]
    reads := vecs.flatMap (fun o => spRegions o vecBytes) ++ (if blk = 0 then [] else spRegions scaleAt (v * nb)) ++
      (if rot then spRegions rotAt 64 ++ spRegions d.freq (d.freqBytes ev v) ++
        (if d.mode then spRegions d.posAddr (4 * v) else []) else [])
    writes := accRegions base words
    count := wn + r * (v + 1) + 26
    port := 3
    useInput := wn + r * v + r + 12
    current := some newCur
    mat := some ⟨false, mask, bk, firstRead, s.now + wn + r * v + r + 18⟩
    run := some
      { w := wn, r := r, v := v, ev := ev, mask := mask, bank := bk, dt := dt, src := src, stride := stride, scaleAt := scaleAt,
        base := base, wide := wide, init := mInit w, rot := if rot then rd else [], ta := s.scaleOffset x w, upsets := [],
        vecs := [], sums := [], begun := [], claimed := none, out := false }
    ready := (s.ofTile tile).all fun i => match i.mat with
      | some u => !u.load || u.mask &&& mask == 0 || u.bank != bk || decide (u.last < firstRead)
      | none => true }.guard
    ([(2, decide (mImm w < 1024) && (rot || blk != 0 || mRc w == 0)), (6, matrixType dt)] ++ s.slotChecks x w ++
      [(7, s.layoutOk tile mask bk cls), (7, decide (v ≤ 512)), (7, rot || rotAt == 0),
       (4, !rot || x.localOk rotAt 64 64 false), (7, !rot || rotaryOk rd ev),
       (4, vecs.all (fun o => x.localOk o vecBytes 1 false) && (blk == 0 || x.localOk scaleAt (v * nb) 1 false) &&
         (!rot || ((d.freqBytes ev v == 0 || x.localOk d.freq (d.freqBytes ev v) 4 false) &&
           (!d.mode || x.localOk d.posAddr (4 * v) 4 false)))),
       (5, decide (base + words ≤ 65536) && (!wide || base % 2 == 0) && decide (256 * x.accBase ≤ base) &&
         decide (base + words ≤ 256 * (x.accBase + x.accBlocks))),
       (7, !mInit w || (base % 256 == 0 && words % 256 == 0))])

/-! ## The output conversion unit (R232 to R245) -/

/-- A stage result rounded to a 40-bit significand (R235). -/
def round40 (v : Num) : Num :=
  match v with
  | .fin s m e => if m = 0 then Num.zero0 else .fin s (roundSig 40 m e none).1 (roundSig 40 m e none).2
  | x => x

/-- A stage-2 or stage-3 result: magnitude 2^128 or more is an overflow (R236). -/
def stage (v : Num) : Num :=
  match round40 v with
  | .fin s m e => if m ≠ 0 ∧ 128 ≤ lead m e then .inf s else .fin s m e
  | x => x

/-- FP32 vector elements of a descriptor: NaN and infinity count as NaN (R236). -/
def ocuScale (v : Nat) : Num :=
  match ofF32 v with
  | .inf _ => .nan
  | x => x

/-- v × 2^(−o/8) rounded to a 40-bit significand, exponent range unbounded (R235, R237). -/
def scaleBy (o : Int) (v : Num) : Num :=
  match v with
  | .fin s m e =>
    if m = 0 then Num.zero0
    else
      let i := -o / 8
      let j := (-o - 8 * i).toNat
      if j = 0 then round40 (.fin s m (e + i))
      else
        let t := rootBits 8 (m ^ 8 * 2 ^ (j + 8 * 44)) (Nat.log2 m + 47) 0
        round40 (.fin s (2 * t + 1) (e + i - 45))
  | x => x

/-- A magnitude rounded upward to FP32 and saturated (R239). -/
def upF32 (m : Nat) (e : Int) : Nat :=
  if m = 0 then 0
  else
    let b := Nat.log2 m + 1
    let q := if b ≤ 24 then m <<< (24 - b) else (m + 2 ^ (b - 24) - 1) >>> (b - 24)
    let x : Int := e + (b : Int) - 24
    let q1 := if q = 2 ^ 24 then 2 ^ 23 else q
    let x1 : Int := (if q = 2 ^ 24 then x + 1 else x) + 23
    if 127 < x1 then 0x7F7FFFFF
    else if x1 < -126 then 0x00800000
    else (x1 + 127).toNat * 2 ^ 23 + (q1 - 2 ^ 23)

/-- One entry through stages 1 to 7: the mask bit, the magnitude of stage 6 where it is finite, and the value to encode. DESIGN
CHOICE (assumption 133): a clip bound of plus or minus infinity can make v non-finite at stage 5; such an entry is then written as a
non-finite one, as one that stage 4 leaves out (R234). -/
def ocuElem (v0 : Num) (scale bias : Option Num) (maskMode : Nat) (lo hi : Num) (clip : Bool) (o : Int) :
    Bool × Option (Nat × Int) × Num :=
  let v2 := match scale with
    | some c => stage (v0.mul c)
    | none => v0
  let v3 := match bias with
    | some b => stage (v2.add b)
    | none => v2
  match v0, v3 with
  | .fin _ _ _, .fin _ _ _ =>
    let m := if maskMode = 1 then Num.zero0.lt v3 else if maskMode = 2 then lo.lt v3 && v3.lt hi else false
    let v5 := if clip then (if v3.lt lo then lo else if hi.lt v3 then hi else v3) else v3
    match v5 with
    | .fin _ mm ee => (m, some (mm, ee), scaleBy o v5)
    | x => (m, none, x)
  | .fin _ _ _, x => (false, none, x)
  | x, _ => (false, none, x)

/-- `nb` bits to be stored from an address on: the bytes they take, with the bits of the last one that lie above them. -/
def State.mergeBits (s : State) (pa nb v : Nat) : List Byte :=
  let n := cdiv nb 8
  toLE n (v % 2 ^ nb + s.readLE pa n / 2 ^ nb * 2 ^ nb)

/-! ### Fields of the OCU descriptor (R233) -/

def DrainRun.field (d : DrainRun) (off n : Nat) : Nat := leAt d.desc off n
def DrainRun.word (d : DrainRun) : Nat := d.field 0 2
def DrainRun.wide (d : DrainRun) : Bool := d.field 2 1 == 1
def DrainRun.dtype (d : DrainRun) : Nat := d.field 3 1
def DrainRun.entries (d : DrainRun) : Nat := d.field 4 4
def DrainRun.rowLen (d : DrainRun) : Nat := d.field 8 4
def DrainRun.mode (d : DrainRun) : Nat := d.field 12 1
def DrainRun.maskMode (d : DrainRun) : Nat := bits d.mode 2 2
def DrainRun.scaleEn (d : DrainRun) : Bool := bit d.mode 4
def DrainRun.biasEn (d : DrainRun) : Bool := bit d.mode 5
def DrainRun.clip (d : DrainRun) : Bool := bit d.mode 6
def DrainRun.damper (d : DrainRun) : Bool := bit d.mode 7
def DrainRun.slot (d : DrainRun) : Nat := d.field 44 2 % 512
/-- Accumulator words of the entries. -/
def DrainRun.words (d : DrainRun) : Nat := d.entries * (if d.wide then 2 else 1)
/-- Entries read per cycle (R232). -/
def DrainRun.perCycle (d : DrainRun) : Nat := if d.wide then 64 else 128
def DrainRun.outBits (d : DrainRun) : Nat := d.entries * elemBits d.dtype
def DrainRun.outBytes (d : DrainRun) : Nat := cdiv d.outBits 8
def DrainRun.scaleBytes (d : DrainRun) : Nat := if blockOf d.dtype = 0 then 0 else d.entries / blockOf d.dtype
def DrainRun.maskBytes (d : DrainRun) : Nat := if d.maskMode = 0 then 0 else cdiv d.entries 8

/-- The entries that cycle c of the drain reads (R232). -/
def State.readEntries (s : State) (d : DrainRun) (c : Nat) : DrainRun :=
  { d with codes := d.codes ++ (List.range (min d.perCycle (d.entries - d.perCycle * c))).map fun i =>
      s.readLE (accAddr d.tile d.word d.wide (d.perCycle * c + i)) (if d.wide then 6 else 4) }

/-- Entry i through the stages of the OCU (R234). -/
def DrainRun.elem (d : DrainRun) (i : Nat) : Bool × Option (Nat × Int) × Num :=
  let k := i % d.rowLen
  ocuElem (accDecode d.wide (d.codes.getD i 0)) (if d.scaleEn then some (ocuScale (d.scale.getD k 0)) else none)
    (if d.biasEn then some (ocuScale (d.bias.getD k 0)) else none) d.maskMode (ofF32 (d.field 16 4)) (ofF32 (d.field 20 4))
    d.clip (signed 12 (d.field 14 2))

/-- The random word of entry i (R245). DESIGN CHOICE (assumption 133): an element index beyond 2^64 − 1 wraps modulo 2^64. -/
def DrainRun.random (d : DrainRun) (i : Nat) : Option Nat :=
  if bit d.mode 0 then some (sparkWord d.seed (d.field 48 4) ((d.field 56 8 + i) % 2 ^ 64)) else none

/-- What a drain does at its count: outputs, block scales and mask bits, its result register and its Damper report (R234 to
R245). -/
def State.drainEffects (s : State) (d : DrainRun) : List Effect :=
  let base := windowOf d.tile
  let rs := (List.range d.entries).map d.elem
  let enc := encodeVec d.dtype (bit d.mode 1) (rs.map fun r => r.2.2) ((List.range d.entries).map d.random)
  let top := (rs.filterMap fun r => r.2.1).foldl maxMag (0, 0)
  let max := upF32 top.1 top.2
  let nf := d.nf || rs.any fun r => match r.2.2 with
    | .fin _ _ _ => false
    | _ => true
  let dst := base + d.field 24 4
  let mask := base + d.field 32 4
  (if d.outBytes = 0 then [] else [Effect.store dst (s.mergeBits dst d.outBits (pack (elemBits d.dtype) enc.1))]) ++
    (if d.scaleBytes = 0 then [] else [Effect.store (base + d.field 28 4) (enc.2.map fun v => BitVec.ofNat 8 v)]) ++
    (if d.maskBytes = 0 then [] else [Effect.store mask (s.mergeBits mask d.entries (pack 1 (rs.map fun r => b2n r.1)))]) ++
    [Effect.sreg d.rd (BitVec.ofNat 64 (max + 2 ^ 32 * b2n nf))] ++
    (if d.damper then [Effect.damperReport d.part d.slot max nf] else [])

/-- The drain that a MAT_DRAIN starts: its descriptor, its vectors, the NF bits and its first entries as the issue cycle finds them
(assumption 15). -/
def State.drainOf (s : State) (x : Thread) (w : Nat) : DrainRun :=
  let d : DrainRun := { desc := s.localBytes x (x.sreg (mRa w)) 64, tile := x.tileNo, part := x.part, rd := mRb w, seed := s.seedOf x.ctx,
                        scale := [], bias := [], nf := false, codes := [] }
  let vec (en : Bool) (off : Nat) : List Nat :=
    if en then (List.range (min d.rowLen d.entries)).map fun k => s.localLE x (d.field off 4 + 4 * k) 4 else []
  s.readEntries { d with
    scale := vec d.scaleEn 36, bias := vec d.biasEn 40
    nf := (accRegions d.word d.words).any fun k => (s.tile x.tileNo).nf.getLsbD (k - 1536) } 0

/-- MAT_DRAIN (R232 to R245). -/
def State.planMatDrain (s : State) (x : Thread) (w : Nat) : Plan :=
  let o := x.sreg (mRa w)
  let d := s.drainOf x w
  let e := d.entries
  let lo := ofF32 (d.field 16 4)
  let hi := ofF32 (d.field 20 4)
  let blk := blockOf d.dtype
  let idx := if d.wide then d.word / 2 else d.word
  let ok (off n : Nat) (write : Bool) : Bool := n == 0 || x.localOk (d.field off 4) n 1 write
  let n := 4 * d.rowLen
  { Plan.none0 with
    sread := [mRa w], swrite := dstOf (mRb w)
    reads := spRegions o 64 ++ accRegions d.word d.words ++ (if d.scaleEn then spRegions (d.field 36 4) n else []) ++
      (if d.biasEn then spRegions (d.field 40 4) n else [])
    writes := spRegions (d.field 24 4) d.outBytes ++ spRegions (d.field 28 4) d.scaleBytes ++ spRegions (d.field 32 4) d.maskBytes
    count := 14 + cdiv e d.perCycle
    port := 2
    useInput := cdiv e d.perCycle
    effects := [.drain d] }.guard
    [(2, bits w 10 12 == 0 && mRc w == 0 && bits w 37 27 == 0), (4, x.localOk o 64 64 false),
     (6, decide (d.dtype < 15)),
     (7, decide (d.field 2 1 < 2) && (!d.wide || d.word % 2 == 0) && decide (1 ≤ d.rowLen ∧ d.rowLen ≤ 65536) &&
       decide (d.maskMode < 3) && d.field 13 1 == 0 && decide (d.field 14 2 < 4096) && decide (d.field 44 2 < 512) &&
       d.field 46 2 == 0 && d.field 52 4 == 0 && decide (e ≤ 65536)),
     (7, !(d.clip || d.maskMode == 2) || (!lo.isNan && !hi.isNan && !hi.lt lo)),
     (5, decide (d.word + d.words ≤ 65536) && (e == 0 || (decide (256 * x.accBase ≤ d.word) &&
       decide (d.word + d.words ≤ 256 * (x.accBase + x.accBlocks))))),
     (7, blk == 0 || (idx % blk == 0 && e % blk == 0 && d.rowLen % blk == 0)),
     (4, e == 0 || (ok 24 d.outBytes true && ok 28 d.scaleBytes true && ok 32 d.maskBytes true)),
     (4, e == 0 || ((!d.scaleEn || ok 36 n false) && (!d.biasEn || ok 40 n false))),
     (7, !d.damper || s.slotOf x.part d.slot x.ctx)]

/-- The MATRIX class (R283). -/
def State.planMatrix (s : State) (x : Thread) (w : Nat) : Plan :=
  let op := wOp w
  if op = 0x00 then s.planMatLoad x w
  else if op = 0x01 then s.planMatStream x w
  else if op = 0x02 then s.planMatDrain x w
  else if op = 0x08 then s.planDamperUpdate x w
  else if op = 0x09 then s.planDamperRead x w
  else if op = 0x0A then s.planDamperWrite x w
  else if op = 0x0B then s.planDamperHsave x w
  else if op = 0x0C then s.planDamperHload x w
  else Plan.illegal 1

end Sys2Proof.Machine
end

