-- ==== Sys2Proof/Machine/Issue.lean ====
section
/-!
DEFINITION. Issue.lean: the issue stage and the scoreboard (R17, R18, R265 to R274, R288 to R295): when the next instruction
of a thread issues and what its issue does.
-/
namespace Sys2Proof.Machine
open Sys2Proof.Config

/-- The plan of an instruction word by its class (R262, R294). -/
def State.planOf (s : State) (t : Nat) (x : Thread) (w : Nat) : Plan :=
  let c := wClass w
  if c = 0 then s.planScalar t x w
  else if c = 1 then s.planMemory x w
  else if c = 2 then s.planVector x w
  else if c = 3 then s.planMatrix x w
  else if c = 4 then (if wOp w = 0 then s.planDmaSubmit t x w else Plan.illegal 1)
  else if c = 5 then s.planSync t x w
  else if c = 6 then s.planSpark x w
  else Plan.illegal 1

/-- PC lies in the code range, at a multiple of 8 (R262, R294). -/
def Thread.pcOk (x : Thread) : Bool :=
  x.pc % 8 == 0 && decide (x.codeBase ≤ x.pc ∧ x.pc + 8 ≤ x.codeBase + x.codeSize)

/-- Thread t offers its next instruction: it is LIVE, started and not held by a jump, a save or a freeze (R258, R265, R604,
R626). -/
def State.offers (s : State) (t : Nat) : Bool :=
  let x := s.thread t
  let c := s.cluster (t / 128)
  x.state == .live && decide (x.startAt ≤ s.now) && decide (x.nextAt ≤ s.now) && !x.frozen && c.frozenAt.isNone &&
    !c.outOfService && s.tileUp (t / 16)

/-- The legality of an instruction is that of its first check (R294); an instruction that has taken its place in memory since is checked
anew. -/
def Plan.asChecked (p : Plan) (x : Thread) (w : Nat) : Plan :=
  match x.checked with
  | some (v, c) => if v = w then { p with cond := c } else p
  | none => p

/-- The word and plan that thread t offers. -/
def State.nextOf (s : State) (t : Nat) : Option (Nat × Plan) :=
  let x := s.thread t
  if s.offers t then
    (if x.pcOk then let w := s.localLE x x.pc 8; some (w, (s.planOf t x w).asChecked x w) else some (0, Plan.illegal 3))
  else none

/-- No register that the instruction reads or writes has a pending write of the thread (R269). -/
def State.regsFree (s : State) (t : Nat) (p : Plan) : Bool :=
  (s.ofThread t).all fun i =>
    (match i.sdst with
     | some r => !p.sread.contains r && p.swrite != some r
     | none => true) &&
    (match i.vdst with
     | some r => !p.vread.contains r && p.vwrite != some r
     | none => true)

/-- The legality check of thread t's next instruction, in the first cycle in which its registers are free (R294). -/
def State.latchLegal (s : State) (t : Nat) : State :=
  match s.nextOf t with
  | some (w, p) =>
    if (s.thread t).checked.isNone && s.regsFree t p then s.modThread t fun x => { x with checked := some (w, p.cond) } else s
  | none => s

/-- Every thread's check at the end of a cycle. -/
def State.latchChecks (s : State) : State := s.threads.foldl (fun a e => a.latchLegal e.1) s

def meets (a b : List Nat) : Bool := a.any fun x => b.contains x

def isStream (w : Nat) : Bool := wClass w == 3 && wOp w == 1
def isDivide (w : Nat) : Bool := wClass w == 0 && (wOp w == 0x0C || wOp w == 0x0D)
def isDamper (w : Nat) : Bool := wClass w == 3 && decide (8 ≤ wOp w)

/-- Storage is free (R270, R271): a stream does not wait for an earlier stream. -/
def State.regionsFree (s : State) (tile w : Nat) (p : Plan) : Bool :=
  (s.ofTile tile).all fun i =>
    (isStream w && isStream i.word.toNat) ||
      (!meets i.writes p.reads && !meets i.writes p.writes && !meets i.reads p.writes)

/-- Structural limits (R217, R232, R272). -/
def State.structOk (s : State) (t w : Nat) (p : Plan) : Bool :=
  let k := s.tile (t / 16)
  let q := s.ofTile (t / 16)
  decide (k.lastIssue ≠ some s.now) && (p.port != 1 || decide (k.vecFree ≤ s.now)) && (p.port != 2 || decide (k.ocuFree ≤ s.now)) &&
    (p.port != 3 || decide (k.portFree ≤ s.now)) && (p.port != 4 || q.all fun i => !isDamper i.word.toNat) &&
    (!isDivide w || q.all fun i => !isDivide i.word.toNat) &&
    (!isFabric w || decide ((q.filter fun i => isFabric i.word.toNat).length < 32))

/-- Tracker limits (R273). -/
def State.trackerOk (s : State) (t : Nat) : Bool :=
  decide ((s.ofTile (t / 16)).length < 64) && decide ((s.ofThread t).length < 8)

/-- Structural and tracker limits. -/
def State.limitsOk (s : State) (t w : Nat) (p : Plan) : Bool := s.structOk t w p && s.trackerOk t

/-- A legal next instruction is ready (R266). -/
def State.ready (s : State) (t w : Nat) (p : Plan) : Bool :=
  s.regsFree t p && p.cond == 0 && p.ready && s.regionsFree (t / 16) w p && s.limitsOk t w p

def State.threadReady (s : State) (t : Nat) : Bool :=
  match s.nextOf t with
  | some (w, p) => s.ready t w p
  | none => false

/-- The threads of a tile in the rotation that starts after the thread that issued last (R18). -/
def State.rotation (s : State) (tile : Nat) : List Nat :=
  (List.range 16).map fun i => 16 * tile + ((s.tile tile).lastThread + 1 + i) % 16

/-- The issue stage picks thread t: it is the first ready thread of the rotation (R18). -/
def State.picks (s : State) (t : Nat) : Bool :=
  (s.rotation (t / 16)).find? (fun u => s.threadReady u) == some t

/-! ## Issue -/

/-- The access of a plan reads its home, or writes it (R279, R533). -/
def Plan.readsHome (p : Plan) : Bool := p.effects.any fun e => match e with
  | .load _ _ _ _ => true
  | .sigAdd _ _ _ _ => true
  | .memUe _ _ => true
  | _ => false
def Plan.writesHome (p : Plan) : Bool := p.effects.any fun e => match e with
  | .store _ _ => true
  | .sigAdd _ _ _ _ => true
  | _ => false

/-- The GDDR7 side of an access by thread t for context n: a read that misses L2 enters the TENANT queue, for which a result waits, and
so does the write-through of a write; a SIG_ADD that misses makes both (R529 to R534). -/
def State.gddrSide (s : State) (t n : Nat) (p : Plan) : State :=
  match p.tenant with
  | some (q, off, _) =>
    let ch := (place off).1
    let waits := p.swrite.isSome || !p.writesHome
    let s1 := if p.readsHome && !(s.part q).l2Hit off then s.tenantEnter q ch (threadKey t) (if waits then .flight s.nextIf else .free) else s
    (if p.writesHome then s1.tenantEnter q ch (threadKey t) .free else s1).l2Access q off n
  | none => s

/-- CXL port to which the plan's access goes, and whether it is a load. -/
def Plan.cxlLine (p : Plan) : Option (Nat × Bool) :=
  match p.effects with
  | [.load pa _ _ _] => (cxlOf pa).map fun q => (q.1, true)
  | [.store pa _] => (cxlOf pa).map fun q => (q.1, false)
  | _ => none

/-- The CXL side of an access by thread t of partition `part`: its line waits for a slot of the port (R553). -/
def State.cxlSide (s : State) (t part : Nat) (p : Plan) : State :=
  match p.cxlLine with
  | some (q, rd) => s.cxlEnter part q rd (threadKey t) 1 (.flight s.nextIf)
  | none => s

/-- The record of an issued instruction. -/
def State.flight (s : State) (t w : Nat) (p : Plan) : InFlight :=
  { id := s.nextIf, thread := t, word := BitVec.ofNat 64 w, pc := (s.thread t).pc, issue := s.now, stamp := s.stamp,
    due := s.now + p.count, late := 0, margin := s.fld (F.snufferMargin (s.thread t).part), sdst := p.swrite, vdst := p.vwrite,
    reads := p.reads, writes := p.writes, line := p.line, mat := p.mat, answer := p.answer,
    unit := p.unit, effects := p.effects, run := p.run }

/-- The thread after an issue: the next instruction is the following one, or the target of a jump at its count (R265). -/
def State.advance (s : State) (x : Thread) (p : Plan) : Thread :=
  { x with
    pc := p.jump.getD (x.pc + 8), nextAt := if p.jump.isSome then s.now + p.count else s.now,
    nextMark := s.time.mark, timedOut := false, checked := none, suppress := if p.suppressed then x.suppress - 1 else x.suppress,
    sigs := if p.suppressed then x.sigs + 1 else x.sigs }

/-- The tile after an issue (R18, R214, R217, R232, R272). -/
def State.occupy (s : State) (k : Tile) (t : Nat) (p : Plan) : Tile :=
  { k with
    lastThread := t % 16, lastIssue := some s.now, current := p.current.getD k.current,
    vecFree := if p.port = 1 then s.now + p.useInput else k.vecFree,
    ocuFree := if p.port = 2 then s.now + p.useInput else k.ocuFree,
    portFree := if p.port = 3 then s.now + p.useInput else k.portFree }

/-- A descriptor joins its channel (R277). -/
def State.queueDesc (s : State) (t : Nat) (p : Plan) : State :=
  match p.desc with
  | some d =>
    let cl := t / 128
    let d1 := { d with ifId := s.nextIf, margin := s.fld (F.snufferMargin (s.thread t).part) }
    s.setChannel cl p.chan (s.channel cl p.chan ++ [d1])
  | none => s

/-- A load of a host window asks its host (R55). -/
def State.askLoad (s : State) (n : Nat) (p : Plan) : State :=
  match p.effects with
  | [.load pa _ len _] => s.fromHost n pa len
  | _ => s

/-- The instruction of thread t issues. -/
def State.issue (s : State) (t w : Nat) (p : Plan) : State :=
  let x := s.thread t
  let f := s.flight t w p
  let s1 := (((s.queueDesc t p).gddrSide t x.ctx p).cxlSide t x.part p).askLoad x.ctx p
  let s2 := (s1.setThread t (s.advance x p)).setTile (t / 16) (s.occupy (s.tile (t / 16)) t p)
  { s2 with inflight := s2.inflight ++ [f], nextIf := s.nextIf + 1 }

/-- The issue stage looks at thread t, whose next instruction has class `cls` and opcode `op`; `adj` adjusts its plan to
what the hardware meets. An illegal instruction faults the thread (R295); one that is not ready, or is not picked, waits. -/
def State.runIns (s : State) (t cls op : Nat) (adj : Nat → Plan → Plan) : State :=
  match s.nextOf t with
  | none => s
  | some (w, p) =>
    if !s.regsFree t p then s
    else if p.cond ≠ 0 then s.illegalThread t (s.thread t).pc p.cond
    else if wClass w ≠ cls ∨ wOp w ≠ op then s
    else if s.picks t then s.issue t w (adj w p)
    else s

/-- The common case: the plan as it is. -/
def asIs (_w : Nat) (p : Plan) : Plan := p

/-- An uncorrectable read leaves the destination of a GLD undefined, performs no SIG_ADD, and faults at the count (R296, R537). DESIGN
CHOICE (assumption 133): a suppressed SIG_ADD with a result (R608) accesses nothing that could fault; it completes, also where that word is
uncorrectable or its home no longer answers. -/
def Plan.withEdc (p : Plan) (n edc : Nat) : Plan :=
  match p.tenant, p.effects with
  | some (q, off, true), [.load _ dst len _] =>
    if 2 ≤ edc then { p with effects := [.undef dst len, .memUe q off, .fault n] } else p
  | some (q, off, true), [.sigAdd _ _ _ _] => if 2 ≤ edc then { p with effects := [.memUe q off, .fault n] } else p
  | _, _ => p

/-- Home of the GDDR7 request that thread t's next instruction makes, if it enters a TENANT queue. -/
def State.tenantHome (s : State) (t : Nat) : Option Nat :=
  match s.nextOf t with
  | some (_, p) =>
    (match p.tenant with
     | some (q, _, true) => some q
     | _ => none)
  | none => none

/-! ## The meanings of the issue rows, in the order of the table -/

def execAdd (t : Nat) (s : State) : Host.Outcome State Fault Refusal := s.act (s.runIns t 0 0x00 asIs)
def execSub (t : Nat) (s : State) : Host.Outcome State Fault Refusal := s.act (s.runIns t 0 0x01 asIs)
def execAnd (t : Nat) (s : State) : Host.Outcome State Fault Refusal := s.act (s.runIns t 0 0x02 asIs)
def execOr (t : Nat) (s : State) : Host.Outcome State Fault Refusal := s.act (s.runIns t 0 0x03 asIs)
def execXor (t : Nat) (s : State) : Host.Outcome State Fault Refusal := s.act (s.runIns t 0 0x04 asIs)
def execShl (t : Nat) (s : State) : Host.Outcome State Fault Refusal := s.act (s.runIns t 0 0x05 asIs)
def execShr (t : Nat) (s : State) : Host.Outcome State Fault Refusal := s.act (s.runIns t 0 0x06 asIs)
def execSra (t : Nat) (s : State) : Host.Outcome State Fault Refusal := s.act (s.runIns t 0 0x07 asIs)
def execSlt (t : Nat) (s : State) : Host.Outcome State Fault Refusal := s.act (s.runIns t 0 0x08 asIs)
def execSltu (t : Nat) (s : State) : Host.Outcome State Fault Refusal := s.act (s.runIns t 0 0x09 asIs)
def execMul (t : Nat) (s : State) : Host.Outcome State Fault Refusal := s.act (s.runIns t 0 0x0A asIs)
def execMulhu (t : Nat) (s : State) : Host.Outcome State Fault Refusal := s.act (s.runIns t 0 0x0B asIs)
def execDivu (t : Nat) (s : State) : Host.Outcome State Fault Refusal := s.act (s.runIns t 0 0x0C asIs)
def execRemu (t : Nat) (s : State) : Host.Outcome State Fault Refusal := s.act (s.runIns t 0 0x0D asIs)
def execAddi (t : Nat) (s : State) : Host.Outcome State Fault Refusal := s.act (s.runIns t 0 0x10 asIs)
def execAndi (t : Nat) (s : State) : Host.Outcome State Fault Refusal := s.act (s.runIns t 0 0x11 asIs)
def execShli (t : Nat) (s : State) : Host.Outcome State Fault Refusal := s.act (s.runIns t 0 0x12 asIs)
def execShri (t : Nat) (s : State) : Host.Outcome State Fault Refusal := s.act (s.runIns t 0 0x13 asIs)
def execMovhi (t : Nat) (s : State) : Host.Outcome State Fault Refusal := s.act (s.runIns t 0 0x14 asIs)
def execMovs (t : Nat) (s : State) : Host.Outcome State Fault Refusal := s.act (s.runIns t 0 0x15 asIs)
def execBeq (t : Nat) (s : State) : Host.Outcome State Fault Refusal := s.act (s.runIns t 0 0x20 asIs)
def execBne (t : Nat) (s : State) : Host.Outcome State Fault Refusal := s.act (s.runIns t 0 0x21 asIs)
def execBlt (t : Nat) (s : State) : Host.Outcome State Fault Refusal := s.act (s.runIns t 0 0x22 asIs)
def execBge (t : Nat) (s : State) : Host.Outcome State Fault Refusal := s.act (s.runIns t 0 0x23 asIs)
def execBltu (t : Nat) (s : State) : Host.Outcome State Fault Refusal := s.act (s.runIns t 0 0x24 asIs)
def execBgeu (t : Nat) (s : State) : Host.Outcome State Fault Refusal := s.act (s.runIns t 0 0x25 asIs)
def execJal (t : Nat) (s : State) : Host.Outcome State Fault Refusal := s.act (s.runIns t 0 0x26 asIs)
def execJalr (t : Nat) (s : State) : Host.Outcome State Fault Refusal := s.act (s.runIns t 0 0x27 asIs)
def execSt (t : Nat) (s : State) : Host.Outcome State Fault Refusal := s.act (s.runIns t 1 0x01 asIs)
def execVst (t : Nat) (s : State) : Host.Outcome State Fault Refusal := s.act (s.runIns t 1 0x03 asIs)

/-- A read of thread t at its home meets link errors or uncorrectable data: `edc` 1 for a read repeated once within its count, 2
for a second mismatch and 3 for a report of the device's ECC, both uncorrectable, where GDDR7 is read (R537). -/
def State.runRead (s : State) (t cls op edc : Nat) : State :=
  let reads := match s.nextOf t with
    | some (_, p) => (match p.tenant with
      | some (q, off, true) => if (s.part q).l2Hit off then none else some q
      | _ => none)
    | none => none
  match reads with
  | some q =>
    let s1 := s.runIns t cls op (fun _ p => p.withEdc (s.thread t).ctx edc)
    if s1.nextIf ≠ s.nextIf ∧ (edc = 1 ∨ edc = 2) then s1.edcEvt q else s1
  | none => s.runIns t cls op asIs

/-- GLD (R276, R278, R537). -/
def execGld (t edc : Nat) (s : State) : Host.Outcome State Fault Refusal := s.act (s.runRead t 1 0x08 edc)

/-- SIG_ADD (R276, R279); the word is read at its home like that of a GLD (R537), and `retries` link writes are repeated (R538). -/
def execSigAdd (t edc retries : Nat) (s : State) : Host.Outcome State Fault Refusal :=
  s.act (
    let s1 := s.runRead t 5 0x00 edc
    if s1.nextIf ≠ s.nextIf then
      (match s.tenantHome t with
       | some q => s1.retryEvt q retries
       | none => s1)
    else s1)

/-- SIG_WAIT_TIMEOUT (R290): due at cycle 0 of the mark that lies AUX marks after the mark in which the waiting SIG_WAIT
became the thread's next instruction. -/
def execSigWaitTimeout (t : Nat) (s : State) : Host.Outcome State Fault Refusal :=
  s.act (
    let x := s.thread t
    let w := s.localLE x x.pc 8
    if s.offers t && x.pcOk && wClass w == 5 && wOp w == 1 && decide (x.nextMark + wAux w ≤ s.time.mark) then
      s.setThread t { x with timedOut := true }
    else s)

def execMarkWait (t : Nat) (s : State) : Host.Outcome State Fault Refusal := s.act (s.runIns t 5 0x02 asIs)
def execTfence (t : Nat) (s : State) : Host.Outcome State Fault Refusal := s.act (s.runIns t 5 0x03 asIs)
def execExit (t : Nat) (s : State) : Host.Outcome State Fault Refusal := s.act (s.runIns t 5 0x04 asIs)
def execVadd (t : Nat) (s : State) : Host.Outcome State Fault Refusal := s.act (s.runIns t 2 0x00 asIs)
def execVsub (t : Nat) (s : State) : Host.Outcome State Fault Refusal := s.act (s.runIns t 2 0x01 asIs)
def execVmul (t : Nat) (s : State) : Host.Outcome State Fault Refusal := s.act (s.runIns t 2 0x02 asIs)
def execVfma (t : Nat) (s : State) : Host.Outcome State Fault Refusal := s.act (s.runIns t 2 0x03 asIs)
def execVmax (t : Nat) (s : State) : Host.Outcome State Fault Refusal := s.act (s.runIns t 2 0x04 asIs)
def execVmin (t : Nat) (s : State) : Host.Outcome State Fault Refusal := s.act (s.runIns t 2 0x05 asIs)
def execVcmp (t : Nat) (s : State) : Host.Outcome State Fault Refusal := s.act (s.runIns t 2 0x06 asIs)
def execVsel (t : Nat) (s : State) : Host.Outcome State Fault Refusal := s.act (s.runIns t 2 0x07 asIs)
def execVbcast (t : Nat) (s : State) : Host.Outcome State Fault Refusal := s.act (s.runIns t 2 0x08 asIs)
def execVextr (t : Nat) (s : State) : Host.Outcome State Fault Refusal := s.act (s.runIns t 2 0x09 asIs)
def execVexp2 (t : Nat) (s : State) : Host.Outcome State Fault Refusal := s.act (s.runIns t 2 0x10 asIs)
def execVlog2 (t : Nat) (s : State) : Host.Outcome State Fault Refusal := s.act (s.runIns t 2 0x11 asIs)
def execVrcp (t : Nat) (s : State) : Host.Outcome State Fault Refusal := s.act (s.runIns t 2 0x12 asIs)
def execVrsqrt (t : Nat) (s : State) : Host.Outcome State Fault Refusal := s.act (s.runIns t 2 0x13 asIs)
def execVsin (t : Nat) (s : State) : Host.Outcome State Fault Refusal := s.act (s.runIns t 2 0x14 asIs)
def execVcos (t : Nat) (s : State) : Host.Outcome State Fault Refusal := s.act (s.runIns t 2 0x15 asIs)
def execVrsum (t : Nat) (s : State) : Host.Outcome State Fault Refusal := s.act (s.runIns t 2 0x18 asIs)
def execVrmax (t : Nat) (s : State) : Host.Outcome State Fault Refusal := s.act (s.runIns t 2 0x19 asIs)
def execVrargmax (t : Nat) (s : State) : Host.Outcome State Fault Refusal := s.act (s.runIns t 2 0x1A asIs)
def execViadd (t : Nat) (s : State) : Host.Outcome State Fault Refusal := s.act (s.runIns t 2 0x20 asIs)
def execVisub (t : Nat) (s : State) : Host.Outcome State Fault Refusal := s.act (s.runIns t 2 0x21 asIs)
def execVimul (t : Nat) (s : State) : Host.Outcome State Fault Refusal := s.act (s.runIns t 2 0x22 asIs)
def execVand (t : Nat) (s : State) : Host.Outcome State Fault Refusal := s.act (s.runIns t 2 0x23 asIs)
def execVor (t : Nat) (s : State) : Host.Outcome State Fault Refusal := s.act (s.runIns t 2 0x24 asIs)
def execVxor (t : Nat) (s : State) : Host.Outcome State Fault Refusal := s.act (s.runIns t 2 0x25 asIs)
def execVshl (t : Nat) (s : State) : Host.Outcome State Fault Refusal := s.act (s.runIns t 2 0x26 asIs)
def execVshr (t : Nat) (s : State) : Host.Outcome State Fault Refusal := s.act (s.runIns t 2 0x27 asIs)
def execVcvt (t : Nat) (s : State) : Host.Outcome State Fault Refusal := s.act (s.runIns t 2 0x30 asIs)
def execVunpk (t : Nat) (s : State) : Host.Outcome State Fault Refusal := s.act (s.runIns t 2 0x31 asIs)
def execSpkBits (t : Nat) (s : State) : Host.Outcome State Fault Refusal := s.act (s.runIns t 6 0x00 asIs)
def execSpkGumbel (t : Nat) (s : State) : Host.Outcome State Fault Refusal := s.act (s.runIns t 6 0x01 asIs)
/-- MAT_STREAM (R214): `upsets` names the hardware errors that its passes meet, as pass, array, column and error of the column
sum in units of its last place (assumption 29). -/
def execMatStream (t : Nat) (upsets : List (Nat × Nat × Nat × Int)) (s : State) : Host.Outcome State Fault Refusal :=
  s.act (s.runIns t 3 0x01 (fun _ p => { p with run := p.run.map fun u => { u with upsets := upsets } }))

def execDamperUpdate (t : Nat) (s : State) : Host.Outcome State Fault Refusal := s.act (s.runIns t 3 0x08 asIs)
def execDamperRead (t : Nat) (s : State) : Host.Outcome State Fault Refusal := s.act (s.runIns t 3 0x09 asIs)
def execDamperWrite (t : Nat) (s : State) : Host.Outcome State Fault Refusal := s.act (s.runIns t 3 0x0A asIs)
def execDamperHsave (t : Nat) (s : State) : Host.Outcome State Fault Refusal := s.act (s.runIns t 3 0x0B asIs)
end Sys2Proof.Machine
end

