-- ==== Sys2Proof/Machine/Snuffer.lean ====
section
/-!
DEFINITION. Snuffer.lean: the freeze of an engine (R604 to R606, R612, R613, R615, R616) and the soot sample that is written
at it (R597 to R599).
-/
namespace Sys2Proof.Machine
open Sys2Proof.Config

/-! ## Soot samples (R597 to R599) -/

/-- A limit of R272 that the plan holds among its own conditions: a full DMA channel queue, and an array loader in use (R211). -/
def State.unitBusy (s : State) (t w : Nat) (p : Plan) : Bool :=
  if wClass w = 4 ∧ wOp w = 0 then !p.ready
  else if wClass w = 3 ∧ wOp w = 0 then
    (s.ofTile (t / 16)).any fun i => i.mat.any fun u => u.load && u.mask &&& mMask w != 0
  else false

/-- Why the next instruction of a thread is not ready: the condition number of R266, 6 SIG_WAIT, 7 MARK_WAIT (R599). -/
def State.holdCode (s : State) (t : Nat) : Nat :=
  match s.nextOf t with
  | none => 0
  | some (w, p) =>
    if !s.regsFree t p then 1
    else if !s.regionsFree (t / 16) w p then 2
    else if !s.structOk t w p || s.unitBusy t w p then 3
    else if !s.trackerOk t then 4
    else if !p.ready then (if wClass w = 5 ∧ wOp w = 1 then 6 else if wClass w = 5 ∧ wOp w = 2 then 7 else 5)
    else 0

/-- A thread record of 64 bytes. -/
def State.threadRecord (s : State) (t : Nat) : List Byte :=
  let x := s.thread t
  let q := s.ofThread t
  let st := match x.state with
    | .free => 0
    | .live => 1
    | .faulted => 2
  toLE 8 x.pc ++ toLE 2 x.ctx ++ toLE 1 st ++ toLE 1 (s.holdCode t) ++ toLE 2 q.length ++ toLE 2 0 ++
    toLE 8 (match q with
      | i :: _ => i.stamp
      | [] => 0) ++
    toLE 8 (match q with
      | i :: _ => i.word.toNat
      | [] => 0) ++ toLE 32 0

/-- A tile record of 67,584 bytes. -/
def State.tileRecord (s : State) (tile : Nat) : List Byte :=
  let q := s.ofTile tile
  let tag (b : Nat) : Nat :=
    b2n ((s.tile tile).nf.getLsbD b) + 2 * b2n (q.any fun i => i.reads.contains (1536 + b)) +
      4 * b2n (q.any fun i => i.writes.contains (1536 + b))
  s.readMem (windowOf tile) 65536 ++ ((List.range 256).flatMap fun b => toLE 4 (tag b)) ++
    (List.range 16).flatMap fun h => s.threadRecord (16 * tile + h)

/-- The sample of a frozen cluster, written into its slot of the partition's sample area. -/
def State.writeSample (s : State) (cl cause : Nat) : State :=
  let p := cl / 16
  if s.flag (F.sampleEn p) then
    let s1 := s.setFld (F.sampleSeq p) (s.fld (F.sampleSeq p) + 1)
    let base := gddrBase p + s.fld (F.sampleBase p) * unit2M + cl % 16 * 2 ^ 20
    let up := (List.range 8).filter fun j => s.fld (F.slotMap cl j) != 15
    let map := (List.range 8).foldl (fun m j => m + s.fld (F.slotMap cl j) * 16 ^ j) 0
    let hdr := toLE 8 s.stamp ++ toLE 4 (s1.fld (F.sampleSeq p)) ++ toLE 1 cause ++ toLE 1 up.length ++ toLE 2 0 ++
      toLE 4 map ++ toLE 4076 0
    (up.zip (List.range 8)).foldl (fun a ju => a.agentWrite (base + 4096 + 67584 * ju.2) (s.tileRecord (8 * cl + ju.1)))
      (s1.agentWrite base hdr)
  else s

/-! ## Work on a cluster -/

/-- Threads of a cluster. -/
def clusterThreads (cl : Nat) : List Nat := (List.range 128).map (· + 128 * cl)

/-- Contexts with LIVE threads or descriptors on a cluster (R606). -/
def State.clusterCtxs (s : State) (cl : Nat) : List Nat :=
  let th := ((s.threads.filter fun e => e.1 / 128 == cl && e.2.state == .live).map fun e => e.2.ctx)
  let ds := (s.cluster cl).channels.flatMap fun c => c.2.map (·.ctx)
  sortBy (fun a b => decide (a ≤ b)) (dedup (th ++ ds))

/-- Contexts with a sample in the work list of the current frame (R606). -/
def State.frameCtxs (s : State) (p : Nat) : List Nat :=
  sortBy (fun a b => decide (a ≤ b)) (dedup ((s.part p).curWork.map fun w => (s.entry w.entry).ctx))

/-- The descriptors of a cluster that `sel` names end: running ones stop after their current step, whose writes and those before it stay
in memory, queued ones are discarded, and their DMA_SUBMITs are over (R258, R604, R605). -/
def State.dropDescs (s : State) (cl : Nat) (sel : Desc → Bool) : State :=
  (s.cluster cl).channels.foldl (fun a c =>
    let gone := c.2.filter sel
    { a with inflight := a.inflight.filter fun i => !(gone.any fun d => d.ifId == i.id) }.setChannel cl c.1
      (c.2.filter fun d => !sel d)) s

/-- Threads of a cluster with a state become FREE. -/
def State.freeThreads (s : State) (l : List Nat) : State := l.foldl (fun a t => a.setThread t Thread.dflt) s

/-! ## The freeze (R604) -/

/-- The work of the current frame of a lantern partition is lost (R364, R612). -/
def State.loseFrame (s : State) (p : Nat) : State :=
  s.modPart p fun x => { x with curWork := x.curWork.map fun w => { w with lost := true } }

/-- Samples of context n end with a status at the next boundary (R613). -/
def State.endSamples (s : State) (p n st : Nat) : State :=
  { s with table := s.table.map fun e =>
      if e.2.part = p ∧ e.2.ctx = n ∧ e.2.state ≠ sFree ∧ e.2.state ≠ sDone then (e.1, { e.2 with endAs := some st })
      else e }

/-- First boundary mark that may start work after an engine reset of this freeze (R612). -/
def State.quietTill (s : State) : Nat := s.time.mark + 512 + 16 + (if s.time.cyc = 0 then 0 else 1)

/-- The replay state of a lantern partition at a freeze (R612, R613, R616): its frame is lost, and the contexts of the frame
become suspects. A hang in a suspect's replay frame ends its replay instead; a replay frame that is sealed and not current
waits again. A repair isolates no suspect, and no replay frame follows it. -/
def State.freezeLantern (s : State) (cl : Nat) (repair : Bool) : State :=
  let p := cl / 16
  let x := s.part p
  let s1 := (s.loseFrame p).modPart p fun y => { y with replayCtx := none, noWorkTill := s.quietTill }
  let wait (l : List Nat) : State := s1.modPart p fun y => { y with replaySus := sortBy (fun a b => decide (a ≤ b)) (dedup l) }
  if repair then (wait []).setFld (F.replaying p) 0
  else
    match x.replayCtx with
    | some n =>
      if x.curWork.any fun w => (s.entry w.entry).ctx == n then
        (s1.soot1 0x22 p 0 (sootCtx n) cl (toLE 1 1)).setCluster cl { s1.cluster cl with current := some n }
      else wait (n :: x.replaySus ++ s.frameCtxs p)
    | none => wait (x.replaySus ++ s.frameCtxs p)

/-- A suspect whose relaunched thread hung is faulted: its threads enter FAULTED, its step records a thread fault, and its
replay ends with a REPLAY entry (R610, R593). -/
def State.faultSuspect (s : State) (cl n : Nat) : State :=
  let p := cl / 16
  let ts := (clusterThreads cl).filter fun t => (s.thread t).state == .live && (s.thread t).ctx == n
  let s1 := ts.foldl (fun a t => a.stopThread t) s
  s1.soot1 0x22 p 0 (sootCtx n) cl (toLE 1 1)

/-- Context of a launch record. -/
def Relaunch.ctx (r : Relaunch) : Nat := leAt r.record 4 2 % 4096

/-- The suspects and relaunches of a hearth partition at a freeze (R606, R607, R610, R616). A repair, and a hang of threads that
a repair relaunched, fault nobody. -/
def State.freezeHearth (s : State) (cl : Nat) (repair : Bool) : State :=
  let c := s.cluster cl
  let s1 := match c.current with
    | some n => if repair || c.repair then s else (s.faultSuspect cl n).dropDescs cl fun d => d.ctx == n
    | none => s
  let live := (clusterThreads cl).filter fun t => (s1.thread t).state == .live
  let again := live.map fun t =>
    { thread := t, record := (s1.thread t).record, owner := (s1.thread t).owner, index := (s1.thread t).index,
      sigs := (s1.thread t).sigs + (s1.thread t).suppress : Relaunch }
  let left := c.replay.filter fun r => !live.contains r.thread && !(c.current.isSome && (c.repair || c.current == some r.ctx))
  s1.setCluster cl { s1.cluster cl with
    suspects := sortBy (fun a b => decide (a ≤ b)) (dedup (c.suspects ++ s1.clusterCtxs cl)), current := none,
    replay := left ++ again }

/-- The engine of cluster cl freezes with a cause (R604): its tiles stop issuing, its descriptors stop, its instructions
are abandoned, and HANG_EVT, the engine interrupt and the sample follow. The fourth freeze of the engine in a candle
triggers a partition reset (R615). -/
def State.freeze (s : State) (cl cause : Nat) (repair : Bool) : State :=
  let p := cl / 16
  if (s.cluster cl).frozenAt.isSome then s
  else
    let s1 := (s.writeSample cl cause)
    let s2 := if s.role p = rLantern then s1.freezeLantern cl repair else s1.freezeHearth cl repair
    let s3 := s2.dropDescs cl fun _ => true
    let s4 := { s3 with inflight := s3.inflight.filter fun i => i.thread / 128 != cl }
    let n := (s4.cluster cl).freezes + 1
    let s5 := s4.setCluster cl { s4.cluster cl with
      frozenAt := some s.now, cause := cause, repair := repair, freezes := n, sample := s4.fld (F.sampleSeq p) }
    let s6 := s5.setFld (F.hangs p) (satInc 15 (s5.fld (F.hangs p)))
    let s7 := (s6.hwSet (F.hangEvt p)).raise 1
    if 4 ≤ n then s7.triggerReset p 1 else s7

/-- A hang: the HANG entry, with SAMPLE set when a sample is taken, then the freeze (R600, R604). -/
def State.hang (s : State) (cl cause thread detail deadline : Nat) : State :=
  let p := cl / 16
  if (s.cluster cl).frozenAt.isSome then s
  else
    ((s.soot1 0x20 p (b2n (s.flag (F.sampleEn p))) 0 cl
      (toLE 1 cause ++ toLE 4 thread ++ toLE 4 detail ++ toLE 4 deadline)).freeze cl cause false)

/-- A second mismatch takes the tile out of service, leaves its slot without a tile, and freezes the engine for a repair
reset (R21, R22, R230, R616). -/
def State.tileOut (s : State) (tile pass : Nat) : State :=
  let cl := tile / 8
  let j := tile % 8
  let p := cl / 16
  let k := s.fld (F.slotMap cl j)
  let s1 := s.soot1 0x18 p (b2n (s.flag (F.sampleEn p))) 0 cl (toLE 1 k ++ toLE 1 j ++ toLE 2 pass)
  let s2 := s1.freeze cl 5 true
  let h := s2.fld (F.healthy cl)
  let s3 := (s2.setFld (F.healthy cl) (if bit h k then h - 2 ^ k else h)).setFld (F.slotMap cl j) 15
  s3.setCluster cl { s3.cluster cl with repair := true, outSlots := (s3.cluster cl).outSlots ++ [(j, k)] }

end Sys2Proof.Machine
end

