-- ==== Sys2Proof/Machine/Threads.lean ====
section
/-!
DEFINITION. Threads.lean: launching threads (R255 to R257), the counts of issued instructions (R274, R286 to R288, R296),
late answers of hosts and expanders (R280, R552, R554, R561, R601), and the cluster DMA channels (R277, R312 to R317).
-/
namespace Sys2Proof.Machine
open Sys2Proof.Config

/-! ## Launches (R255 to R257) -/

/-- The fields of a launch record meet R255 for a launch by partition p. -/
def recordOk (p : Nat) (r : List Byte) : Bool :=
  let x := { Thread.dflt with record := r }
  decide (x.tileNo / 128 = p) && decide (x.hNo < 16) && decide (leAt r 3 1 < 2) && decide (leAt r 4 2 < 4096) &&
    decide (x.accBlocks ≤ 256) && x.spBase % 1024 == 0 && x.spSize % 1024 == 0 &&
    decide (x.spBase + x.spSize ≤ scratchSize) && x.codeBase % 8 == 0 && x.codeSize % 8 == 0 && decide (8 ≤ x.codeSize) &&
    decide (x.spBase ≤ x.codeBase ∧ x.codeBase + x.codeSize ≤ x.spBase + x.spSize) && x.entryOf % 8 == 0 &&
    decide (x.entryOf < x.codeSize) && leAt r 28 4 == 0 && decide (x.accBase + x.accBlocks ≤ 256)

/-- Two ranges, as base and length, have an element in common; an empty one has none. -/
def rangesMeet (a n b m : Nat) : Bool := decide (0 < n) && decide (0 < m) && decide (a < b + m) && decide (b < a + n)

/-- Two allotments overlap in the scratchpad or in accumulator blocks. -/
def overlap (x y : Thread) : Bool :=
  rangesMeet x.spBase x.spSize y.spBase y.spSize || rangesMeet x.accBase x.accBlocks y.accBase y.accBlocks

/-- Number of the thread that a launch record names. -/
def recordThread (r : List Byte) : Nat := 16 * leAt r 0 2 + leAt r 2 1

/-- The control core of partition p runs: p is Lantern or Hearth, has entered service, and is not in a partition reset (R40, R45). -/
def State.coreRuns (s : State) (p : Nat) : Bool :=
  (s.role p == rLantern || s.role p == rHearth) && s.flag (F.inService p) && !s.flag (F.inReset p)

/-- The control core of partition p accepts a launch record: R255 and R256, the named slot has a tile (R607, R616), and the
context is not in a reset or a teardown, which stop its threads (R142, R145; assumption 108). -/
def State.launchOk (s : State) (p : Nat) (r : List Byte) : Bool :=
  let x := { Thread.dflt with record := r }
  let t := recordThread r
  recordOk p r && s.coreRuns p && (s.thread t).state == .free && s.tileUp (t / 16) && !s.ending x.ctx &&
    (List.range 16).all fun h =>
      let y := s.thread (t / 16 * 16 + h)
      y.state == .free || y.ctx == x.ctx || !overlap x y

/-- While a suspect is replayed on the engine of cluster cl, the launches of context n there wait: n is another suspect (R607). -/
def State.replayBars (s : State) (n cl : Nat) : Bool :=
  match (s.cluster cl).current with
  | some k => !(s.cluster cl).repair && k != n && (s.cluster cl).suspects.contains n
  | none => false

/-- An accepted launch (R257): registers cleared, s1 to s4 from ARGS, LIVE from its start cycle. -/
def State.startThread (s : State) (r : List Byte) (owner : Owner) (index start : Nat) (carries : List Nat) : State :=
  let x0 := { Thread.dflt with record := r }
  let regs := [1, 2, 3, 4].foldl (fun l i => tset 0 l i (BitVec.ofNat 64 (x0.arg (i - 1)))) ([] : List (Nat × Word))
  s.setThread (recordThread r)
    { x0 with
      state := .live, owner := owner, index := index, carries := carries, startAt := start, pc := x0.codeBase + x0.entryOf, sregs := regs, nextAt := start,
      nextMark := s.time.mark + (s.time.cyc + (start - s.now)) / cyclesPerMark }

/-- On whose behalf a partition's control core launches: the step in flight, or the current frame. -/
def State.launchOwner (s : State) (p k : Nat) : Owner :=
  if s.role p = rHearth then
    (match s.stepOn p with
     | some t => .step t.cid
     | none => .none)
  else if s.role p = rLantern then .frame p k else .none

/-- A refused launch is logged (R365, R607). -/
def State.launchRefused (s : State) (p index : Nat) (r : List Byte) : State :=
  s.soot1 0x11 p 0 0 (leAt r 0 2 / 8) (toLE 4 (recordThread r) ++ toLE 4 index)

/-- The record's tile lies within the cluster allowance of the step in flight on p (R671). -/
def State.withinAllowance (s : State) (p : Nat) (r : List Byte) : Bool :=
  match s.stepOn p with
  | some t => (match tfind t.allow p with
    | some a => decide (leAt r 0 2 / 8 % clustersPerPart < a)
    | none => true)
  | none => true

/-- The samples whose work a launch record of partition p carries: those of the current frame on the version of the slot that s4
names (R461). -/
def State.carried (s : State) (p : Nat) (r : List Byte) : List Nat :=
  let i := { Thread.dflt with record := r }.arg 3
  ((s.part p).curWork.filter fun w => decide (i < 4) && w.version == s.fld (F.slVersion p i)).map (·.entry)

/-- THREAD_LAUNCH (R255 to R257): the control core of p takes one launch record. A refused one does not start: on a lantern
partition it is logged and the samples whose work it carries lose the frame (R364, R365), and on a hearth partition it is a header
fault of the step, which sets FAULT (R423, R430). A record with SHARED is such a fault there (R297). -/
def execThreadLaunch (p index : Nat) (record : List Byte) (startCycle : Nat) (s : State) : Host.Outcome State Fault Refusal :=
  s.act (
    let own := s.launchOwner p ((s.part p).curFrame.getD 0)
    let es := if s.role p = rLantern then s.carried p record else []
    let ok := s.launchOk p record && s.withinAllowance p record && !(s.role p == rHearth && bit (leAt record 3 1) 0)
    if !s.coreRuns p || s.replayBars ({ Thread.dflt with record := record }.ctx) (recordThread record / 128) then s
    else if ok then s.startThread record own index (Nat.max startCycle s.now) es
    else if s.role p = rLantern then (s.launchRefused p index record).loseCarried p es none
    else
      match s.stepOn p with
      | some t => (s.modStep t.cid (Step.noteHeader p)).setStepFlag t p (F.fault p)
      | none => s)

/-! ## Effects at a count (R274) -/

/-- The NF bit of an accumulator block (R189). -/
def State.setNf (s : State) (tile b : Nat) (v : Bool) : State :=
  let k := s.tile tile
  let m : BitVec 256 := BitVec.ofNat 256 (2 ^ b)
  s.setTile tile { k with nf := if v then k.nf ||| m else k.nf &&& ~~~m }

/-- A column sum accumulated into an entry, and NF where the entry becomes non-finite (R181, R183, R184, R190, R220). DESIGN
CHOICE (assumption 115): an entry that software wrote non-finite, and that stays so, sets NF as well. -/
def State.accumulate (s : State) (pa : Nat) (wide init : Bool) (c : ColSum) : State :=
  let n := if wide then 8 else 4
  let old := if init then Num.zero0 else accDecode wide (s.readLE pa (if wide then 6 else 4))
  let new := accAdd wide old c
  let code := accEncode wide new
  let s1 := s.writeMem pa (toLE n code)
  match tileOf pa, accDecode wide code with
  | some _, .fin _ _ _ => s1
  | some (t, o), _ => s1.setNf t ((o - scratchSize) / 1024) true
  | none, _ => s1

/-- One effect of an instruction of thread t. EXIT frees a LIVE thread; one that has turned FAULTED before that count stays so
(R258). An access whose home no longer answers faults (R47). DESIGN CHOICE (assumption 141): a Damper instruction or a report issued while
its context owned the slot takes effect at its count, also where the slot has been released since (R248). -/
def State.effect (s : State) (t : Nat) (e : Effect) : State :=
  let x := s.thread t
  match e with
  | .sreg r v => s.setThread t (x.setSreg r v)
  | .vreg r v => s.setThread t (x.setVreg r v)
  | .store pa d => if s.backed pa then (s.writeMem pa d).toHost x.ctx pa d else s.faultThread t x.ctx
  | .load pa dst len got =>
    if s.backed pa then s.writeMem dst (got.getD (s.readMem pa len)) else (s.undefMem dst len).faultThread t x.ctx
  | .sigAdd pa rd v _ =>
    if s.backed pa then
      let old := s.readLE pa 8
      let s1 := s.writeMem pa (toLE 8 ((old + v.toNat) % 2 ^ 64))
      s1.setThread t { x.setSreg rd (BitVec.ofNat 64 old) with sigs := x.sigs + 1 }
    else s.faultThread t x.ctx
  | .undef pa len => s.undefMem pa len
  | .bank tile a b v => s.setTile tile { s.tile tile with banks := tset Bank.dflt (s.tile tile).banks (2 * a + b) v }
  | .damperReport p sl m nf => s.damperReport p sl m nf
  | .damperUpdate p sl => s.damperUpdate p sl false
  | .damperRead p sl rd => s.setThread t (x.setSreg rd (BitVec.ofNat 64 (s.damperWord p sl)))
  | .damperWrite p sl m => s.setFld (F.dPendMax p sl) m
  | .damperLoad p sl h => s.setHistory p sl h
  | .damperSave p sl pa => s.writeMem pa (histImage (s.history p sl))
  | .fault n => s.faultThread t n
  | .badDesc off =>
    (s.soot1 0x10 x.part 0 (sootCtx x.ctx) (x.tileNo / 8) (toLE 4 t ++ toLE 4 off ++ toLE 1 8)).faultThread t 0xFFFF
  | .memUe p off => s.memUe p off
  | .drain _ => s
  | .tileOut pass => s.tileOut (t / 16) pass
  | .exit => if x.state = .live then s.setThread t Thread.dflt else s

/-- What an effect stands for at its count: a drain computes its results then (R232). -/
def State.spread (s : State) : Effect → List Effect
  | .drain d => s.drainEffects d
  | e => [e]

def State.effects (s : State) (t : Nat) (l : List Effect) : State := (l.flatMap s.spread).foldl (fun a e => a.effect t e) s

/-! ## Replays on hearth partitions (R607, R610) -/

/-- Commands of a context that were incomplete at the freeze carry REPLAYED once the context is replayed (R138, R610). -/
def State.markReplayed (s : State) (n frozen : Nat) : State :=
  { s with cmds := s.cmds.map fun c =>
      if c.ctx = n ∧ c.incomplete = true ∧ c.admitCyc ≤ frozen then { c with replayed := true } else c }

/-- The replay of suspect n ends with a result, and the next suspect may be relaunched at cycle 64 of mark m (R607, R610); a
repair isolates no suspect and writes no REPLAY entry (R616). -/
def State.endSuspect (s : State) (cl n result m : Nat) : State :=
  let c := s.cluster cl
  let s1 := if c.repair then s else s.soot1 0x22 (cl / 16) 0 (sootCtx n) cl (toLE 1 result)
  let left := if c.repair || c.suspects.isEmpty then [] else c.replay.filter fun r => r.ctx != n
  let s2 := s1.setCluster cl { s1.cluster cl with
    current := none, suspects := if c.repair then [] else c.suspects, relaunchMark := m, repair := false, replay := left }
  if c.repair || c.suspects.isEmpty then
    s2.setFld (F.replaying (cl / 16)) (s2.fld (F.replaying (cl / 16)) &&& (65535 - 2 ^ (cl % 16)))
  else s2

/-- A relaunched thread of the current suspect is LIVE. -/
def State.suspectLive (s : State) (cl n : Nat) : Bool :=
  let c := s.cluster cl
  c.replay.any fun r => (c.repair || r.ctx == n) && (s.thread r.thread).state == .live

/-- The replay of the current suspect ends when none of its relaunched threads is LIVE: it passes (R607, R610). -/
def State.replayCheck (s : State) (cl : Nat) : State :=
  let c := s.cluster cl
  match c.current with
  | some n => if c.frozenAt.isNone && !s.suspectLive cl n then s.endSuspect cl n 0 (s.time.mark + 1) else s
  | none => s

/-- It is looked at in each cycle: the last relaunched thread may have faulted with nothing in flight. -/
def State.dueReplays (s : State) : State :=
  ((s.clusters.filter fun e => e.2.current.isSome).map (·.1)).foldl (fun a cl => a.replayCheck cl) s

/-! ## Counts (R274) -/

def State.flightOf (s : State) (t id : Nat) : Option InFlight := s.inflight.find? fun i => i.thread == t && i.id == id

def State.dropFlight (s : State) (id : Nat) : State := { s with inflight := s.inflight.filter fun i => i.id != id }

/-- A GLD, GST or SIG_ADD has a line; the earlier GLDs of its tile to that line that are still to answer get what the line holds
now, before a GST or SIG_ADD is performed there (R288). -/
def State.serveLoads (s : State) (f : InFlight) : State :=
  if isRemoteWrite f.word.toNat && f.line.isSome then
    { s with inflight := s.inflight.map fun i =>
        if i.thread / 16 = f.thread / 16 ∧ i.id < f.id ∧ i.line = f.line then
          { i with effects := i.effects.map fun e => match e with
            | .load pa dst len none => .load pa dst len (some (s.readMem pa len))
            | x => x }
        else i }
  else s

/-- An instruction reaches its count: its results, registers and regions are released (R274). -/
def State.complete (s : State) (f : InFlight) : State :=
  let t := f.thread
  let s1 := ((s.dropFlight f.id).serveLoads f).effects t f.effects
  let x := s1.thread t
  let s2 := if x.state = .live ∧ x.nextAt = f.due then s1.setThread t { x with nextMark := s.time.mark } else s1
  ((s2.freeFaulted t).replayCheck (t / 128)).pollSteps

/-! ## The order of the completions of one cycle -/

/-- A GLD. -/
def isLoad (i : InFlight) : Bool := wClass i.word.toNat == 1 && wOp i.word.toNat == 8

/-- Completions of one core cycle take effect in ascending rank (R286, R293): local stores, then Damper instructions, then fabric
writes and atomic adds by thread number, then the others but for loads; DMA writes come after all of them, and loads read last
(R292). -/
def InFlight.rank (f : InFlight) : Nat :=
  let w := f.word.toNat
  if wClass w = 1 ∧ (wOp w = 1 ∨ wOp w = 3) then 0
  else if isDamper w then 1
  else if isRemoteWrite w then 2 + f.thread
  else if wClass w = 1 ∧ wOp w = 8 then 2 + 16385
  else 2 + 16384

/-- A step commits in this very cycle on partition p, and its STEP_COMMIT is still to come (R437). -/
def State.commitDue (s : State) (p : Nat) : Bool :=
  s.time.cyc == 0 && s.steps.any fun q => q.parts.contains p && q.commit == s.time.mark && !q.frozen

/-- The effects of f on a Damper slot wait for the AUTO update of a commit in this cycle (R249, R287). -/
def State.damperHolds (s : State) (f : InFlight) : Bool :=
  s.commitDue (f.thread / 2048) && f.effects.any fun e => match e with
    | .damperReport _ _ _ _ => true
    | .drain d => d.damper
    | .damperUpdate _ _ => true
    | .damperWrite _ _ _ => true
    | .damperLoad _ _ _ => true
    | _ => false

/-- The instruction with number `id` has its count in this cycle and reaches it now. -/
def State.completeNow (s : State) (id : Nat) : State :=
  match s.inflight.find? fun i => i.id == id with
  | some f => if !f.answer && f.due == s.now && !s.damperHolds f then s.complete f else s
  | none => s

/-- Every instruction of rank below k whose count is this cycle reaches it, in ascending rank. -/
def State.completeBelow (s : State) (k : Nat) : State :=
  ((sortBy (fun (a b : InFlight) => decide (a.rank ≤ b.rank)) (s.inflight.filter fun i =>
    !i.answer && i.due == s.now && decide (i.rank < k))).map (·.id)).foldl (fun a id => a.completeNow id) s

/-- The signal word of a descriptor is incremented, and counts as a signal of its thread (R276, R608). -/
def State.signalDesc (s : State) (d : Desc) : State :=
  match d.signal with
  | some a =>
    let s1 := s.writeMem a (toLE 8 ((s.readLE a 8 + 1) % 2 ^ 64))
    s1.modThread d.thread fun x => if x.state = .live then { x with sigs := x.sigs + 1 } else x
  | none => s

/-- The ranges that a descriptor reads and writes. -/
def Desc.ranges (d : Desc) : List (Nat × Nat) := dSources d.bytes (fun i => leAt d.run.list (3 * i) 3) ++ dDests d.bytes

/-- A running descriptor ends (R312, R315): a step that has faulted, or an access that has come back with an error, faults its thread
and increments no signal word. -/
def State.endDesc (s : State) (cl ch : Nat) (d : Desc) (r : List Desc) : State :=
  let p := cl / 16
  let q := ((s.setChannel cl ch r).lateTransfer p d.ctx d.hap d.ranges).badWrite p d.ctx d.hap (dDests d.bytes)
  let s1 := if d.run.bad || q.2 then q.1.faultThread d.thread d.ctx else q.1.signalDesc d
  match s1.flightOf d.thread d.ifId with
  | some f => s1.complete f
  | none => s1.pollSteps

/-- The running descriptor of a channel ends, where its duration ends in this cycle. -/
def State.endDue (s : State) (cl ch : Nat) : State :=
  match s.channel cl ch with
  | d :: r =>
    if d.running && decide (d.endAt + transferLate d.hap d.run = s.now) && (s.cluster cl).frozenAt.isNone then s.endDesc cl ch d r else s
  | [] => s

/-- The descriptors whose duration ends in this cycle end, with the writes of their signal words. -/
def State.endDescs (s : State) : State :=
  (s.clusters.map (·.1)).foldl (fun a cl => [0, 1, 2, 3].foldl (fun b ch => b.endDue cl ch) a) s

/-- The writes of the instructions that reach their counts in the present core cycle, and then its DMA steps (R293). -/
def State.settleSteps (s : State) : State := (s.completeBelow (2 + 16385)).dmaCycle

/-- The writes of the present core cycle, with the signal words of the descriptors that end in it. A read that reaches its home in this
cycle sees them (R292). -/
def State.settleWrites (s : State) : State := s.settleSteps.endDescs

/-- A host that withholds posted credits makes a write to it late, with a HOST_SLOW entry (R562). -/
def State.lateWrite (s : State) (f : InFlight) : State :=
  match f.effects with
  | [.store pa _] =>
    (match hostOf pa with
     | some (n, _) => if f.due < s.now then s.hostSlow n f.thread (s.now - f.due) else s
     | none => s)
  | _ => s

/-! ## INSTRUCTION_COMPLETE -/

/-- INSTRUCTION_COMPLETE (R274): due at the count of the issued instruction; one that waits for a host, an expander or its
descriptor completes when that answers. The instructions that the order of the cycle puts before it reach their counts first;
one with an effect on a Damper slot waits for the STEP_COMMIT of its cycle. -/
def execInstructionComplete (t id : Nat) (s : State) : Host.Outcome State Fault Refusal :=
  s.act (
    match s.flightOf t id with
    | some f =>
      if f.answer || decide (s.now < f.due) || s.damperHolds f then s
      else
        let s1 := if isLoad f then s.settleWrites else s.completeBelow f.rank
        (match s1.flightOf t id with
         | some g => (s1.lateWrite g).complete g
         | none => s1)
    | none => s)

/-! ## Answers of hosts and expanders -/

/-- An access whose answer has come: its effects and its count are fixed, and it completes in the order of that cycle (R293). An answer that
comes in the cycle of the count, or later, is taken with the next cycle, in which every access answered with it takes its place (DESIGN
CHOICE, assumption 4). -/
def State.answered (s : State) (f : InFlight) (due : Nat) (effects : List Effect) : State :=
  let g := { f with answer := false, due := Nat.max due (s.now + 1), late := 0, effects := effects }
  { s with inflight := updFirst (fun i => i.id == f.id) (fun _ => g) s.inflight }

/-- What a faulting read leaves: its destination undefined and its thread FAULTED (R296). -/
def InFlight.failed (f : InFlight) (n : Nat) : List Effect :=
  match f.effects with
  | [.load _ dst len _] => [.undef dst len, .fault n]
  | _ => [.fault n]

/-- HOST_COMPLETION_ARRIVE (R280, R561): the data of a host-window read arrive, or an error completion with its PCIe status;
a late answer writes HOST_SLOW. -/
def execHostCompletionArrive (t id status : Nat) (data : List Byte) (s : State) : Host.Outcome State Fault Refusal :=
  s.act (
    match s.flightOf t id with
    | some f =>
      (match f.effects with
       | [.load pa dst len _] =>
         (match f.answer, hostOf pa with
          | true, some (n, _) =>
            let s1 := if f.due < s.now then s.hostSlow n t (s.now - f.due) else s
            if status = 0 then
              (s1.writeMem pa (data.take len)).answered f f.due
                [.store dst ((data ++ List.replicate len 0).take len)]
            else
              (s1.hostError n (s.thread t).ctx t status).answered f f.due (f.failed (s.thread t).ctx)
          | _, _ => s)
       | _ => s)
    | none => s)

/-- CXL_RESPONSE_ARRIVE (R552, R554): an expander answers, once the line has had its slot (R553), `late` cycles beyond its limit;
poisoned data or an error response faults the context at the count. -/
def execCxlResponseArrive (t id late : Nat) (err : Bool) (s : State) : Host.Outcome State Fault Refusal :=
  s.act (
    match s.flightOf t id with
    | some f =>
      if f.answer && f.line.isSome && (cxlOf (f.line.getD 0 * 64)).isSome && !s.cxlWaits id then
        let q := f.unit
        let s1 := if late = 0 then s else s.cxlSlowEvt q late
        if err then (s1.cxlMediaEvt q (f.line.getD 0 * 64)).answered f (f.due + late) (f.failed (s.thread t).ctx)
        else s1.answered f (f.due + late) f.effects
      else s
    | none => s)

/-- READ_TIMEOUT (R561, R601): a host or CXL read unanswered 16,384 marks after its count faults its context. -/
def execReadTimeout (t id : Nat) (s : State) : Host.Outcome State Fault Refusal :=
  s.act (
    match s.flightOf t id with
    | some f =>
      if f.answer && isLoad f && decide (f.due + 16384 * cyclesPerMark ≤ s.now) then
        (match cxlOf (f.line.getD 0 * 64) with
         | some _ => (s.cxlSlowEvt f.unit ((s.now - f.due) % 2 ^ 32)).answered f s.now (f.failed (s.thread t).ctx)
         | none =>
           (s.hostError f.unit (s.thread t).ctx t 0).answered f s.now (f.failed (s.thread t).ctx))
      else s
    | none => s)

/-! ## Cluster DMA (R277, R312 to R317) -/

/-- The next descriptor of a channel starts when it is of kind k: 4 cycles after its issue at the earliest, after the end of
the previous one (R277). Its end is fixed at its start (R312), and its steps fall in the last 4n cycles before it (assumption 131). -/
def State.startDesc (s : State) (cl ch k : Nat) (h : Hap) : State :=
  match s.channel cl ch with
  | d :: r =>
    if !d.running && decide (d.queued ≤ s.now) && dKind d.bytes == k && (s.cluster cl).frozenAt.isNone then
      let e := s.now + s.descTime (cl / 16) (some cl) d.ctx d.bytes
      s.setChannel cl ch ({ d with
        running := true, endAt := e, margin := s.fld (F.snufferMargin (cl / 16)), hap := h,
        run := DmaRun.start (e + (hapWait h) - 4 * dSteps d.bytes) (stepKey cl) (.desc cl ch d.ifId) } :: r)
    else s
  | [] => s

def execCopy (cl ch : Nat) (h : Hap) (s : State) : Host.Outcome State Fault Refusal := s.act (s.startDesc cl ch 0 h)
def execStrided (cl ch : Nat) (h : Hap) (s : State) : Host.Outcome State Fault Refusal := s.act (s.startDesc cl ch 1 h)
def execTranspose (cl ch : Nat) (h : Hap) (s : State) : Host.Outcome State Fault Refusal := s.act (s.startDesc cl ch 2 h)
def execPageWalk (cl ch : Nat) (h : Hap) (s : State) : Host.Outcome State Fault Refusal := s.act (s.startDesc cl ch 3 h)
def execMulticast (cl ch : Nat) (h : Hap) (s : State) : Host.Outcome State Fault Refusal := s.act (s.startDesc cl ch 4 h)
def execFill (cl ch : Nat) (h : Hap) (s : State) : Host.Outcome State Fault Refusal := s.act (s.startDesc cl ch 5 h)

/-- DMA_DESCRIPTOR_END (R312): the end of the duration, or later where a host, an expander or a queue has made it late (R530, R552,
R553, R561, R562). -/
def execDmaDescriptorEnd (cl ch : Nat) (s : State) : Host.Outcome State Fault Refusal :=
  s.act (
    match s.channel cl ch with
    | d :: _ =>
      if d.running && decide (d.endAt + transferLate d.hap d.run ≤ s.now) && (s.cluster cl).frozenAt.isNone then
        let s1 := s.settleSteps
        (match s1.channel cl ch with
         | e :: r => if e.ifId = d.ifId && decide (e.endAt + transferLate e.hap e.run ≤ s.now) then s1.endDesc cl ch e r else s1
         | [] => s1)
      else s
    | [] => s)

/-- At a context reset or teardown the engines discard the context's queued descriptors and stop its running ones after their current
step: what they have written stays, and their instructions are over (R317). -/
def State.stopDescs (s : State) (n : Nat) : State :=
  s.clusters.foldl (fun a e =>
    (s.cluster e.1).channels.foldl (fun b c =>
      let gone := c.2.filter fun d => d.ctx == n
      { b.setChannel e.1 c.1 (c.2.filter fun d => d.ctx != n) with
        inflight := b.inflight.filter fun i => !(gone.any fun d => d.ifId == i.id && d.thread == i.thread) }) a) s

end Sys2Proof.Machine
end

