-- ==== Sys2Proof/Machine/Frames.lean ====
section
/-!
DEFINITION. Frames.lean: the fixed points of a frame (R331): boundary, kernel start, finalisation, seal; verification of
drafts (R360), lost work (R364, R365), the weight switch and the REFERENCE move at a boundary (R471, R472, R476).
-/
namespace Sys2Proof.Machine
open Sys2Proof.Config

/-- A lantern partition whose frame schedule passes its boundaries. -/
def State.framing (s : State) (p : Nat) : Bool := s.role p == rLantern && !s.flag (F.inReset p)

/-- A lantern partition that runs frames: it has entered service (R45, R699). -/
def State.serving (s : State) (p : Nat) : Bool := s.framing p && s.flag (F.inService p)

/-! ## Finalisation (R331, R360, R392) -/

/-- A sample's work in the frame is lost (R341, R364): no token, its drafts go, SKIPPED is set; the third loss in a row, or an
access fault in its own address space, ends it. -/
def State.loseSample (s : State) (e : Nat) (fctxs : List Nat) : State :=
  let x := s.entry e
  let n := x.lost + 1
  s.setEntry e { x.noDrafts with
    skipped := true, lost := n,
    endAs := if fctxs.contains x.ctx ∨ 3 ≤ n then some stFaultContext else x.endAs }

/-- The lost work of one record: copies are undone (R390), nothing it wrote becomes live (R411), and a guaranteed chunk is
placed again, not before the frame that begins at mark lo (R715). -/
def State.loseWork (s : State) (w : Work) (es : List Nat) (fctxs : List Nat) (lo : Nat) : State :=
  let s1 := match w.copyFrom with
    | some (i, k, n) => s.undoCopy w.entry i k n
    | none => s
  let s2 := es.foldl (fun a e => a.loseSample e fctxs) s1
  if w.prefill then
    let s3 := s2.dropShared es (s.entry w.entry).length
    if (s.entry w.entry).guar then s3.replaceChunks (s.entry w.entry).reqRec w.first lo else s3
  else s2.rollback w.entry ((s.entry w.entry).length - 1) w.version []

/-- Draws of R360 from position n on: tokens with log-probabilities, until the first that no draft equals; none where the
sampler reports no token. -/
def drawTokens (draw : Nat → List Num → Option (Nat × Nat)) (n : Nat) :
    List Nat → List (List Num) → Option (List (Nat × Nat))
  | [], sc =>
    match draw n (sc.getD 0 []) with
    | some t => some [t]
    | none => none
  | d :: ds, sc =>
    match draw n (sc.getD 0 []) with
    | some t =>
      if t.1 = d then
        (match drawTokens draw (n + 1) ds (sc.drop 1) with
         | some r => some (t :: r)
         | none => none)
      else some [t]
    | none => none

/-- The tokens kept: those up to the STOP_TOKEN, and none past the declared maximum. -/
def keepTokens (stop : Option Nat) (room : Nat) : List (Nat × Nat) → List (Nat × Nat) × Bool
  | [] => ([], false)
  | t :: r =>
    match room with
    | 0 => ([], false)
    | k + 1 =>
      if stop = some t.1 then ([t], true)
      else
        let q := keepTokens stop k r
        (t :: q.1, q.2)

/-- Verification of one sample of length n with its pending drafts (R360). -/
def State.verify (s : State) (p e pv : Nat) (r : Request) (o : KernelOut) : State :=
  let x := s.entry e
  let n := x.length
  let scores := o.scores.map fun l => (l.take (s.fld F.vocabM1 + 1)).map fun v => ofF32 v.toNat
  let draw := fun q sc => sampleToken (s.seedOf x.ctx) ((r.streamBase + x.sample) % 2 ^ 32) r.temperature r.topK q sc
  match drawTokens draw n x.draftToks scores with
  | none => (s.setEntry e { x.noDrafts with endAs := some stFaultNonfinite, lost := 0 })
  | some ts =>
    let (kept, stopped) := keepTokens (if r.stopEn then some r.stopToken else none) (x.maxLen - n) ts
    let accepted := ts.length - 1
    let len := n + kept.length
    let ended := if stopped then some stOk else if x.maxLen ≤ len then some stLengthLimit else none
    let k := if ended.isSome then 0 else Nat.min x.drafts (x.maxLen - len)
    let drafts := (List.range k).map fun i => (o.drafts.getD i 0).toNat
    let staged := (kept.zip (List.range kept.length)).map fun a =>
      { entry := e, token := a.1.1, lp := a.1.2, pos := n + a.2, draft := decide (a.2 < accepted), version := pv : Staged }
    let last := kept.getLast?.map fun t => (len - 1, t.1)
    let s1 := s.setEntry e { x with
      length := len, lost := 0, pending := k, draftToks := drafts, tokens := last.toList,
      endAs := if x.endAs.isSome then x.endAs else ended }
    s1.modPart p fun y => { y with staged := y.staged ++ staged }

/-- Tokens of the positions that a decode record wrote: the last accepted token and the drafts. -/
def writtenOf (x : Sample) (w : Work) : List (Nat × Nat) :=
  (List.range w.count).map fun i =>
    if i = 0 then (w.first, tget 0 x.tokens w.first) else (w.first + i, x.draftToks.getD (i - 1) 0)

/-- What the kernels left for a sample; nothing where the frame gives nothing for it. -/
def outOf (outs : List KernelOut) (e : Nat) : KernelOut :=
  (outs.find? fun o => o.entry == e).getD { entry := e, scores := [], drafts := [], masses := [] }

/-- The frame has completed the prompt of P positions for the samples `es` of a unit, of which e0 has the lowest index (R411): a sample
that drew no token keeps LENGTH at P, so that position P − 1 is dead for it. The pages are shared (R389), so the position stays dead
where no sample of the unit drew a token. -/
def State.rollbackUnit (s : State) (e0 : Nat) (es : List Nat) (len pv : Nat) (written : List (Nat × Nat)) : State :=
  let stuck := es.filter fun e => (s.entry e).length == len
  if stuck.length = es.length then
    (s.commitFill e0 (len - 1) pv written).dropShared es (len - 1)
  else (s.rollback e0 len pv written).dropShared stuck (len - 1)

/-- Pass A for one work record (R392). -/
def State.passA (s : State) (p lo : Nat) (outs : List KernelOut) (w : Work) : State :=
  let x := s.entry w.entry
  let es := (if w.prefill then s.unitOf x.reqRec else [w.entry]).filter fun e => activeState (s.entry e).state
  match es, s.req x.reqRec with
  | e0 :: _, some r =>
    if w.lost then s.loseWork w es w.lostCtx lo
    else if w.prefill then
      match s.promptToks r w.first w.count with
      | none => s.loseWork w es [x.ctx] lo
      | some toks =>
        let done := w.first + w.count
        let written := ((List.range w.count).map (· + w.first)).zip toks
        let s1 := es.foldl (fun a e => a.setEntry e { a.entry e with length := done, lost := 0 }) s
        let s2 := s1.modReq x.reqRec fun q => { q with
          prefilled := done, placed := q.placed.filter fun c => !decide (c.2.1 + c.2.2 ≤ done) }
        if w.final then
          let s3 := es.foldl (fun a e => a.verify p e w.version r (outOf outs e)) s2
          s3.rollbackUnit e0 es done w.version written
        else s2.rollback e0 done w.version written
    else
      let s1 := s.verify p w.entry w.version r (outOf outs w.entry)
      s1.rollback w.entry ((s1.entry w.entry).length - 1) w.version (writtenOf x w)
  | _, _ => s

/-- Pass C for one sample: compression, then registration (R392, R403, R409). -/
def State.passC (s : State) (e : Nat) : State :=
  let x := s.entry e
  let keep := s.fld (F.keep x.ctx)
  let limit := 2 ^ (keep + 7)
  let s1 := if keep ≠ 0 ∧ limit < s.liveCount e then (s.evict e 0 limit).1 else s
  s1.registerAll e

/-- Finalisation of the current frame: passes A, B and C of R392, each in ascending table index. Pass B folds the pages that the
lists named in the frame, before pass A changes them (R407). -/
def State.finalise (s : State) (p : Nat) (outs : List KernelOut) : State :=
  let ws := sortBy (fun (a b : Work) => decide (a.entry ≤ b.entry)) (s.part p).curWork
  let lo := (s.firstFrame p s.time.mark).getD 0
  let s1 := ws.foldl (fun a w => a.passA p lo outs w) s
  let es := s.frameSamples ws
  let pages := dedup (es.flatMap fun e => s.listOf e)
  let masses := (outs.filter fun o => es.contains o.entry).flatMap (·.masses)
  let s2 := pages.foldl (fun a k => a.foldPage p masses k) s1
  let s3 := (sortBy (fun (a b : Nat) => decide (a ≤ b)) es).foldl (fun a e =>
    if activeState (a.entry e).state then a.passC e else a) s2
  (s3.modPart p fun x => { x with finalised := some s.time.mark }).syncKv p

/-- A kernel thread of the frame has not reached EXIT. -/
def State.kernelsLive (s : State) (p : Nat) : Bool :=
  s.threads.any fun e => e.2.state == .live && (match e.2.owner with
    | .frame q _ => q == p
    | _ => false)

/-- Cutoff mark of the current frame (R331). -/
def State.cutoff (s : State) (p : Nat) : Option Nat :=
  match (s.part p).sched, (s.part p).curFrame with
  | some sc, some k => some (sc.boundary (k + 1) - 32)
  | _, _ => none

/-- FRAME_FINALISE (R331, R335, R392): at the cutoff; a kernel thread that has not exited makes the frame an overrun. -/
def execFrameFinalise (p : Nat) (outs : List KernelOut) (s : State) : Host.Outcome State Fault Refusal :=
  s.act (
    match s.cutoff p with
    | some m =>
      let x := s.part p
      if s.serving p && decide (m ≤ s.time.mark) && x.finalised.isNone && !x.overrun then
        (if s.kernelsLive p then
          ((s.soot1 0x28 p 0 0 p (toLE 8 (x.curFrame.getD 0))).setEvt (F.overrunF p) 14).modPart p fun y =>
            { y with overrun := true }
         else s.finalise p outs)
      else s
    | none => s)

/-- LATE_FINALISATION (R335): finalisation of an overrun frame, once its last thread has exited. -/
def execLateFinalisation (p : Nat) (outs : List KernelOut) (s : State) : Host.Outcome State Fault Refusal :=
  s.act (
    let x := s.part p
    if s.serving p && x.overrun && x.finalised.isNone && !s.kernelsLive p then s.finalise p outs else s)

/-! ## The boundary (R331) -/

/-- Last boundary that partition p has passed. -/
def State.lastBoundary (s : State) (p : Nat) : Option Nat :=
  match (s.part p).sched, (s.part p).curFrame with
  | some sc, some k => some (sc.boundary k)
  | _, _ => none

/-- The next boundary of p: the first after the one that began its current frame (R331). -/
def State.nextBoundary (s : State) (p : Nat) : Option Nat :=
  match s.lastBoundary p with
  | some b => s.boundAfter p b
  | none =>
    match (s.part p).sched with
    | some sc => some sc.origin
    | none => (s.part p).nextSched.map fun e => e.2.origin

/-- A sample drains for a SEQ_CANCEL, and is to end at the next boundary, which is the count of the command (R130, R366). -/
def State.drainFor (s : State) (e cid : Nat) : State :=
  let s1 := s.drainSample e
  (s1.setEntry e { s1.entry e with endAs := some stOk, cancelCid := some cid }).modCmd cid fun d =>
    { d with phase := .running, handle := e, endAt := (s.nextBoundary (s.entry e).part).getD 0 }

/-- SEQ_CANCEL c, which a FENCE held and holds no more: its sample drains, and one that has ended meanwhile completes it (R129,
R366). In a reset or teardown of the context it waits to be ended (R142, R146). -/
def State.freeCancel (s : State) (c : Cmd) : State :=
  if c.started then s.finish c.cid stOk (toLE 4 c.bytes) false
  else if s.ending c.ctx = true ∨ (s.entry c.handle).state = sDraining then s
  else s.drainFor c.handle c.cid

/-- The SEQ_CANCELs that no FENCE holds any more. -/
def State.dueCancels (s : State) : State :=
  (s.cmds.filter fun c => c.op == opSeqCancel && c.phase == .held && !s.fenced c.cid).foldl (fun a c => a.freeCancel c) s

/-- Sample e has work in a work list. -/
def State.hasWork (s : State) (ws : List Work) (e : Nat) : Bool := (s.frameSamples ws).contains e

/-- A sample at the boundary b: its tokens and END ember are posted, then its state changes take effect (R331, R333, R335,
R340, R359, R361). -/
def State.boundarySample (s : State) (p b : Nat) (post : Bool) (new : List Work) (e : Nat) : State :=
  let y := s.part p
  let x0 := s.entry e
  let s0 := if post && (activeState x0.state || x0.state == sSuspended) then
      (y.staged.filter fun g => g.entry == e).foldl (fun a g => a.postToken b y.missed g) s else s
  let s1 := if post && (s0.entry e).skipNext then s0.setEntry e { s0.entry e with skipped := true, skipNext := false } else s0
  let x := s1.entry e
  let waits := s.hasWork y.curWork e || y.staged.any fun g => g.entry == e
  let open_ := post || !(y.finalised.isSome && waits && x.state != sDraining)
  match (if open_ then x.endAs else none) with
  | some st => s1.sampleDone e st (b * 1024) x.cancelCid.isSome
  | none =>
    if x.state = sDraining then s1
    else if x.state = sSuspended then
      (if s.live x.ctx then s1.setEntry e { x.noDrafts with state := x.susp } else s1)
    else
      let st := if x.state = sWaitPage ∨ 0 < x.lost then x.state
        else if x.firstDone then (if x.pending = 0 then sDecode else sVerify)
        else if x.state = sAdmitted ∧ s.hasWork new e = true then sPrefill else x.state
      let limit := s.fld (F.waitLimit x.ctx)
      if x.state = sWaitPage then
        (if s.hasWork new e then
          s1.setEntry e { x with
            state := if x.prev = sAdmitted then sPrefill else x.prev,
            waitFrames := 0, starve := false }
         else if limit ≤ x.waitFrames + 1 then s1.sampleDone e stPageStarved (b * 1024) false
         else s1.setEntry e { x with waitFrames := Nat.min 255 (x.waitFrames + 1), starve := false })
      else if x.starve then
        (if limit = 0 then s1.sampleDone e stPageStarved (b * 1024) false
         else s1.setEntry e { x.noDrafts with state := sWaitPage, prev := st, waitFrames := 0, starve := false })
      else s1.setEntry e { x with state := st }

/-- Ember slots that a work list reserved for sample e (R357). -/
def State.slotsFor (s : State) (ws : List Work) (e : Nat) : Nat :=
  match ws.find? fun w => if w.prefill then (s.unitOf (s.entry w.entry).reqRec).contains e else w.entry == e with
  | some w => if w.prefill then 1 else w.count
  | none => 0

/-- Unused reservations return at the boundary that ends the frame; those of the new list stay (R357). -/
def State.trimSlots (s : State) (new : List Work) (e : Nat) : State :=
  let x := s.entry e
  let n := Nat.min x.emRes (s.slotsFor new e)
  (s.releaseEm x.ctx (x.emRes - n)).setEntry e { x with emRes := n }

/-- A sealed list that no frame runs: its copies are undone and its new pages freed (R335, R390, R612). -/
def State.discardWork (s : State) (w : Work) : State :=
  let s1 := match w.copyFrom with
    | some (i, k, n) => s.undoCopy w.entry i k n
    | none => s
  if w.prefill then s1.dropShared (s.unitOf (s.entry w.entry).reqRec) (s.entry w.entry).length
  else s1.rollback w.entry ((s.entry w.entry).length - 1) w.version []

/-- Frames waited since the last token ember, and by context the frames since it had a sample placed on p (R358; assumption 135: a
context counts from the first frame on at which it has a sample here). -/
def State.countWaits (s : State) (p : Nat) (new : List Work) : State :=
  let es := s.samplesOn p
  let s1 := es.foldl (fun a e => a.setEntry e { a.entry e with wait := (a.entry e).wait + 1 }) s
  let placed := (s.frameSamples new).map fun e => (s.entry e).ctx
  let known := dedup ((s.part p).idle.map (·.1) ++ es.map fun e => (s.entry e).ctx)
  s1.modPart p fun y => { y with idle := known.map fun n => (n, if placed.contains n then 0 else tget 0 y.idle n + 1) }

/-- LANTERN_EFF of the frame that begins at mark b: as its seal had it (R353, R354). -/
def State.showEff (s : State) (p b : Nat) : State :=
  let x := s.part p
  let now := s.effFor p b x.comingBudget.1 (s.factorFor p b)
  let e := if x.sealed.any (fun q => q.1 == b) then x.sealEff else (now.pos, now.seqs, now.pages)
  ((s.setFld (F.effPos p) (Nat.min e.1 0xFFFF)).setFld (F.effSeq p) (Nat.min e.2.1 0xFFFF)).setFld (F.effPages p)
    (Nat.min e.2.2 0xFFFFFF)

/-- The weight switch of partition p at mark b: its INCOMING slot becomes ACTIVE, or EMPTY where the publication is abandoned
or still held by a FENCE (R129, R471, R472). -/
def State.switchAt (s : State) (p b : Nat) : State :=
  (s.cmds.filter fun c => c.op == opPublish && (c.phase == .running || c.phase == .held) && c.fld 16 8 == b &&
    c.targets.any fun t => t.1 == p).foldl (fun a c =>
      let good := c.phase == .running && !s.fenced c.cid && !c.abandoned
      let a1 := (c.targets.filter fun t => t.1 == p).foldl (fun (b : State) t =>
        if good then b.switchSlot t.1 t.2 else b.dropSlot t.1 t.2) a
      a1.modCmd c.cid fun d => { d with targets := d.targets.filter fun t => t.1 != p }) s

/-- The part of p at boundary b of frame k: the frame that it begins becomes current, with the budgets written since (R331, R353);
where the frame before could not be posted, that frame stays and misses the boundary (R335). -/
def State.turnFrame (s : State) (p k b : Nat) (sc : Sched) (switching post : Bool) (live : List Work) : State :=
  s.modPart p fun y =>
    let bw := y.comingBudget
    let z := { y with
      curFrame := some k, sealed := none, curFactor := s.factorFor p b, budget := bw.1, ctrl := bw.2, nextBudget := none,
      sched := some sc, nextSched := if switching then y.laterScheds.head? else y.nextSched,
      laterScheds := if switching then y.laterScheds.tail else y.laterScheds }
    if post then
      { z with
        curWork := live, staged := [], finalised := none, overrun := false, missed := false, kernelUp := false
        hangMark := sc.boundary (k + 1) - 32 + s.fld (F.snufferMargin p) }
    else { z with missed := true }

/-- The work of the frame that begins, on the version in force: it is the one that the seal foresaw, but for a PUBLISH abandoned since;
the pages that the seal took for that version, which nothing has filled yet, are of this one then (R383, R472, R473). -/
def State.beginWork (s : State) (w : Work) : State × Work :=
  let x := s.entry w.entry
  let v := if x.pin then x.version else (s.activeVersion x.part).getD 0
  let s1 := if v = w.version then s else
    (s.listOf w.entry).foldl (fun a k =>
      let g := a.pg x.part k
      if g.polVer = w.version ∧ g.fillN = 0 ∧ w.first < g.posBase + 64 then a.setPg x.part k { g with polVer := v } else a) s
  (s1, { w with version := v })

/-- Every work record of the frame that begins. -/
def State.beginWorks (s : State) : List Work → State × List Work
  | [] => (s, [])
  | w :: r =>
    let a := s.beginWork w
    let b := a.1.beginWorks r
    (b.1, a.2 :: b.2)

/-- The samples of p that had no work in the frame just posted have lost no frame in a row any more, nor has any after a boundary that
started no work (R364). -/
def State.unbroken (s : State) (p : Nat) (worked : List Nat) (missed : Bool) : State :=
  (s.samplesOn p).foldl (fun a e => if missed || !worked.contains e then a.setEntry e { a.entry e with lost := 0 } else a) s

/-- Frame boundary b of p, which begins frame k. -/
def State.frameBoundaryAt (s : State) (p k b : Nat) (sc : Sched) (switching : Option Nat) : State :=
  let x := s.part p
  let post := (x.curWork.isEmpty && !x.overrun) || (match x.finalised with
    | some f => decide (f + 16 ≤ b)
    | none => false)
  let sealedFor (y : Part) : List Work := match y.sealed with
    | some (j, ws) => if j = b then ws else []
    | none => []
  let runs := post && s.serving p && decide (x.noWorkTill ≤ b)
  let s0 := s.showEff p b
  let s1 := if runs then s0
    else ((((sealedFor x).foldl (fun a w => a.discardWork w) s0).moveChunks p b []).modPart p fun y => { y with sealed := none }).syncKv p
  let new := if runs then sealedFor x else []
  let s2 := (s1.samplesOn p).foldl (fun a e => a.boundarySample p b post new e) s1
  let s3 := (if post then s2.unbroken p (s.frameSamples x.curWork) x.missed else s2).switchAt p b
  let (s4, live) := s3.beginWorks
    ((if runs then sealedFor (s3.part p) else []).filter fun w => activeState (s3.entry w.entry).state)
  let s5 := if post then (s4.samplesOn p).foldl (fun a e => a.trimSlots live e) s4 else s4
  let s6 := (s5.turnFrame p k b sc switching.isSome post live).countWaits p live
  if switching.isSome then s6.finishAll stOk (s6.frameSets p b) else s6

/-! ## Publications and REFERENCE moves that are due (R471, R472, R476) -/

/-- The variant entry that a PUBLISH copies from returns to READY (R471, R472). -/
def State.variantReady (s : State) (c : Cmd) : State :=
  if c.fld 8 1 = 1 then
    match (List.range 8).find? fun v => s.fld (F.varVersion v) == c.fld 10 2 && s.fld (F.varState v) == 2 with
    | some v => s.setFld (F.varState v) 1
    | none => s
  else s

/-- A target that will pass no boundary of its own: it left its role or its schedule, or is in a partition reset. -/
def State.noFrames (s : State) (p : Nat) : Bool := !s.framing p || (s.part p).sched.isNone

/-- A PUBLISH whose switch mark has come on every target completes (R471); an abandoned one empties the slots that are left
and completes FAULT_CONTEXT or DEADLINE_MISSED (R472). -/
def State.settlePublish (s : State) (c : Cmd) : State :=
  if c.fld 16 8 ≤ s.time.mark ∧ (c.targets.all fun t => s.noFrames t.1) = true then
    let s1 := c.targets.foldl (fun a t => a.dropSlot t.1 t.2) s
    let missed := c.abandoned || c.phase == .held || s.fenced c.cid || !c.targets.isEmpty
    (s1.variantReady c).finish c.cid (if c.faulted then stFaultContext else if missed then stDeadlineMissed else stOk) []
      (decide (c.fld 16 8 < s.time.mark))
  else s

/-- A REFERENCE_SET whose effective mark has come on every target moves the label, or misses it; one with a target in a partition
reset ends with that reset (R476, R618). -/
def State.settleReference (s : State) (c : Cmd) : State :=
  let ps := maskParts (c.fld 8 1)
  let m := c.fld 16 8
  let v := c.fld 10 2
  let passed (p : Nat) : Bool := s.noFrames p || (match s.lastBoundary p with
    | some b => decide (m ≤ b)
    | none => false)
  if m ≤ s.time.mark ∧ ps.all passed = true ∧ (ps.any fun p => s.flag (F.inReset p)) = false then
    let have_ (p : Nat) : Bool := match s.slotWith p v with
      | some i => s.fld (F.slState p i) == slReady
      | none => false
    let s1 := s.clearReserved c
    if c.phase == .running && !s.fenced c.cid && (v == 0 || ps.all have_) then
      (ps.foldl (fun a p => a.moveReference p v) s1).finish c.cid stOk [] false
    else (ps.foldl (fun a p => a.sweepSlots p) s1).finish c.cid stDeadlineMissed [] (decide (m < s.time.mark))
  else s

/-- Publications first, then REFERENCE_SETs (R87). -/
def State.settleMarks (s : State) : State :=
  let s1 := (s.openCmds opPublish).foldl (fun a c => match a.cmd c.cid with
    | some d => a.settlePublish d
    | none => a) s
  (s1.openCmds opReferenceSet).foldl (fun a c => match a.cmd c.cid with
    | some d => a.settleReference d
    | none => a) s1

/-- Boundary b of p is taken, under the schedule in force from it on. -/
def State.takeBoundary (s : State) (p b : Nat) : State :=
  let x := s.part p
  match x.nextSched.filter fun e => decide (e.2.origin ≤ b) with
  | some (cid, n) => s.frameBoundaryAt p 0 b n (some cid)
  | none =>
    match x.sched with
    | some sc => s.frameBoundaryAt p ((b - sc.origin) / sc.len) b sc none
    | none => s

/-- FRAME_SETs of p that a FENCE still holds at their origin miss it (R129). -/
def State.missFrameSets (s : State) (p : Nat) : State :=
  let l := (s.frameSets p s.time.mark).filter fun cid => s.fenced cid
  (l.foldl (fun a cid => a.dropFrameSet p cid) s).finishAll stDeadlineMissed l

/-- FRAME_BOUNDARY (R331): due at each boundary of p's schedule, of several that a forward jump has passed the earliest one first (R62);
at the origin of an accepted FRAME_SET the new schedule takes effect and the command completes (R90). -/
def execFrameBoundary (p : Nat) (s : State) : Host.Outcome State Fault Refusal :=
  s.act (
    let s := s.dueCancels.missFrameSets p
    let s1 := match (s.nextBoundary p).filter fun b => s.framing p && decide (b ≤ s.time.mark) with
      | some b => s.takeBoundary p b
      | none => s
    s1.settleMarks)

/-- FRAME_SEAL (R331, R356): due from 16 marks before the next boundary on, and before that boundary, also where a forward jump has
passed both (R62). Frame 0 of a schedule that replaces none is sealed only where its FRAME_SET was admitted before that seal (R90). -/
def execFrameSeal (p : Nat) (meets : List (Nat × Meet)) (s : State) : Host.Outcome State Fault Refusal :=
  s.act (
    let x := s.part p
    let early := x.sched.isSome || (match x.nextSched with
      | some (cid, n) => (match s.cmd cid with
        | some c => decide (c.admitMark + 16 < n.origin)
        | none => false)
      | none => false)
    match s.nextBoundary p with
    | some b => if s.serving p && early && decide (b ≤ s.time.mark + 16) && x.sealed.all (fun q => q.1 != b) then s.sealFrame p b meets else s
    | none => s)

/-! ## Kernels (R365, R387, R461 to R463) -/

/-- The 64-byte frame version record (R462). -/
def State.versionRecord (s : State) (p : Nat) : List Byte :=
  slotIds.flatMap fun i =>
    let lab := s.fld (F.slActive p i) + 2 * s.fld (F.slIncoming p i) + 4 * s.fld (F.slReference p i) + 8 * s.fld (F.slHeld p i)
    toLE 2 (s.fld (F.slVersion p i)) ++ toLE 1 lab ++ toLE 1 (s.fld (F.slState p i)) ++ toLE 4 0 ++
      toLE 8 (unit2M * (s.fld (F.winVa p) + i * s.fld (F.slotUnits p)))

/-- Virtual address of the adapter block that a sample pins, or 0 (R463). -/
def State.adapterVa (s : State) (p e : Nat) : Nat :=
  match (s.entry e).adBlock with
  | some b => unit2M * (s.fld (F.winVa p) + 4 * s.fld (F.slotUnits p) + b * s.fld (F.blockUnits p))
  | none => 0

/-- One launch of R461: the arrays that s1 to s3 name are written for the samples of its version, and the thread starts; a
refused launch loses them (R365). -/
def State.kernelLaunch (s : State) (p k : Nat) (r : List Byte × Nat) : State :=
  let x := { Thread.dflt with record := r.1 }
  let es := s.carried p r.1
  let ws := (s.part p).curWork.filter fun w => es.contains w.entry
  let s1 := s.writeVirt (some p) false x.ctx (x.arg 0) (ws.flatMap fun w => w.record)
  let s2 := s1.writeVirt (some p) false x.ctx (x.arg 1) (s.versionRecord p)
  let s3 := s2.writeVirt (some p) false x.ctx (x.arg 2) (ws.flatMap fun w => toLE 8 (s.adapterVa p w.entry))
  if s3.launchOk p r.1 then s3.startThread r.1 (.frame p k) r.2 (Nat.max s3.now (s3.now - s3.time.cyc + 64)) es
  else (s3.launchRefused p r.2 r.1).loseCarried p es none

/-- The launches of a frame are those of R461: s4 names a slot of the partition, and there are kernels for each version that the work
list uses, and for no other. -/
def State.launchesOk (s : State) (p : Nat) (records : List (List Byte)) : Bool :=
  let slots := records.map fun r => { Thread.dflt with record := r }.arg 3
  let vs := slots.map fun i => s.fld (F.slVersion p i)
  slots.all (fun i => decide (i < 4)) && (s.part p).curWork.all (fun w => vs.contains w.version) && vs.all fun v => (s.part p).curWork.any fun w => w.version == v

/-- Cycle 64 of the mark of the last boundary has come: in that mark, or in the cycle of a forward jump past it (R62). -/
def State.kernelsDue (s : State) (p : Nat) : Bool :=
  (s.lastBoundary p).any fun b => (b == s.time.mark && decide (64 ≤ s.time.cyc)) || (decide (b < s.time.mark) && s.time.boundary)

/-- FRAME_KERNEL_START (R331, R461): at cycle 64 of the boundary mark, once, with kernels for each version that the frame uses. -/
def execFrameKernelStart (p : Nat) (records : List (List Byte)) (s : State) : Host.Outcome State Fault Refusal :=
  s.act (
    let x := s.part p
    let due := s.serving p && !x.curWork.isEmpty && !x.overrun && x.finalised.isNone && !x.kernelUp &&
      s.kernelsDue p && s.launchesOk p records
    if due then
      (records.zip (List.range records.length)).foldl (fun a r => a.kernelLaunch p (x.curFrame.getD 0) r)
        (s.modPart p fun y => { y with kernelUp := true })
    else s)

/-! ## Table entries (R336, R340) -/

/-- SEQ_ENTRY_FREE (R340): 65,536 marks after DONE, at the partition's first boundary from then on, or at once where it has no
schedule; the generation count rises, skipping 0 (R336). -/
def execSeqEntryFree (e : Nat) (s : State) : Host.Outcome State Fault Refusal :=
  s.act (
    let x := s.entry e
    let due := x.doneAt + marksPerCandle
    let gone := (s.part x.part).sched.isNone || (match s.lastBoundary x.part with
      | some b => decide (due ≤ b)
      | none => false)
    if x.state = sDone ∧ due ≤ s.time.mark ∧ gone = true then
      let s1 := s.setEntry e { Sample.dflt with gen := if x.gen = 65535 then 1 else x.gen + 1 }
      match s1.req x.reqRec with
      | some r =>
        if r.entries.all fun k => (s1.entry k).state == sFree || (s1.entry k).reqRec != x.reqRec then
          { s1 with reqs := tdel s1.reqs x.reqRec }
        else s1
      | none => s1
    else s)

end Sys2Proof.Machine
end

