-- ==== Sys2Proof/Machine/Sequences.lean ====
section
/-!
DEFINITION. Sequences.lean: SEQ_SUBMIT (R325, R332, R336, R337, R344 to R350), SEQ_CANCEL (R366), SEQ_REWARD (R483, R484)
and SEQ_QUERY (R338).
-/
namespace Sys2Proof.Machine
open Sys2Proof.Config

/-! ## Handles (R132, R336) -/

/-- Table entry of the command's handle, with the checks of R132: its owner, and that it is current. -/
def Cmd.handleIdx (c : Cmd) : Nat := c.fld 8 2
def State.handleOwned (s : State) (c : Cmd) : Bool :=
  let x := s.entry c.handleIdx
  x.state == sFree || x.ctx == c.ctx
def State.handleOk (s : State) (c : Cmd) : Bool :=
  let x := s.entry c.handleIdx
  x.state != sFree && x.gen == c.fld 10 2

/-! ## SEQ_SUBMIT -/

/-- The `m` lowest-numbered FREE entries (R337). -/
def State.freeEntries (s : State) (m : Nat) : List Nat :=
  ((List.range (Nat.min tableEntries (s.table.length + m))).filter fun e => (s.entry e).state == sFree).take m

/-- The `m` lowest-numbered free page-list slots of p (R377). -/
def State.freeLists (s : State) (p m : Nat) : List Nat :=
  let used := (s.table.filter fun e => e.2.part == p && e.2.state != sFree).map fun e => e.2.pageList
  ((List.range (Nat.min (s.fld (F.kvLists p)) (used.length + m))).filter fun i => !used.contains i).take m

/-- Entries that context n holds outside FREE (R345). -/
def State.heldEntries (s : State) (n : Nat) : Nat :=
  (s.table.filter fun e => e.2.ctx == n && e.2.state != sFree).length

/-- What a SEQ_SUBMIT can take: entries, list slots, END ember slots, quota (R345, R347, R377). -/
def State.roomFor (s : State) (n p k : Nat) : Nat :=
  Nat.min (Nat.min (s.freeEntries k).length (s.freeLists p k).length)
    (Nat.min (s.emFree n) (s.fld (F.seqQuota n) - s.heldEntries n))

/-- Placed chunks and promise mark of a guaranteed request, if it can be admitted (R348 to R350). -/
def State.guarPlan (s : State) (c : Cmd) : Option (List (Nat × Nat × Nat) × Nat) :=
  let p := c.fld 24 1
  let n := c.fld 27 1
  let pl := c.fld 16 4
  let ml := c.fld 20 4
  let d := c.fld 38 1
  let x := s.part p
  match s.firstFrame p (Nat.max c.admitMark (s.serveFrom p)) with
  | none => none
  | some b0 =>
    let own := ownPages ml pl d
    let h := s.guarHeld p
    let g := guarFig x.budget (s.fld (F.factor p))
    let need := cdiv pl 64 + n * (own + 1)
    let pos := h.pos + n * (1 + d)
    let fits := decide (n ≤ s.roomFor c.ctx p n) && (c.fld 32 4 == 0 || ((s.schedAt p b0).all fun sc => decide (sc.len ≤ c.fld 32 4))) &&
      decide (need ≤ s.unreserved p) && decide (pos ≤ g.pos) && decide (h.seqs + n ≤ g.seqs) &&
      decide (h.pages + cdiv pl 64 + n * own ≤ g.pages)
    let t := s.placeList p pos g.pos (s.boundsFrom p b0 256) (chunksFrom (chunkOf x.ctrl) pl)
    let promise := (s.boundAfter p (maxOf (t.1.map fun q => q.1))).getD 0
    if fits && t.2.isEmpty && (c.fld 28 4 == 0 || decide (promise ≤ c.admitMark + c.fld 28 4)) then some (t.1, promise)
    else none

/-- The checks of SEQ_SUBMIT (R124, R325, R344, R345, R348). -/
def State.checkSubmit (s : State) (c : Cmd) : Verdict :=
  let n := c.ctx
  let p := c.fld 24 1
  let pl := c.fld 16 4
  let ml := c.fld 20 4
  let k := c.fld 27 1
  let ad := c.fld 36 2
  let fmt := [(8, badAddr (c.fld 8 8)), (24, decide (8 ≤ p)), (25, decide (2 ≤ c.fld 25 1)), (26, decide (8 ≤ c.fld 26 1)),
    (38, decide (8 ≤ c.fld 38 1)), (39, decide (2 ≤ c.fld 39 1)), (40, !temperatureOk (c.fld 40 4)),
    (56, badAddr (c.fld 56 8))] ++ reservedBad c [(8, 38), (48, 16)]
  let perm := s.flag (F.cGen n) && !(ad != 0 && allParts.any fun q =>
    (s.part q).adapters.any fun a => a.id == ad && a.ctx != n && a.state != 3)
  let len := [(8, !s.mapped n (c.fld 8 8) (4 * pl) true false), (16, decide (ml < pl + 1)),
    (20, decide (s.fld F.maxPos < ml)), (27, decide (64 < k)),
    (27, decide (1 < k) && !s.mapped n (c.fld 56 8) (4 * k) false true)]
  let state := s.role p == rLantern && (s.part p).sched.isSome && !s.flag (F.pending p) && !s.flag (F.inReset p) &&
    (s.activeSlot p).isSome && (ad == 0 || (s.adapter p ad 1).isSome) && decide (c.fld 38 1 ≤ s.fld F.xheads) &&
    !(c.fld 25 1 == 1 && s.inReplay p)
  let time := !(c.fld 25 1 == 1 && s.tstate == tUnfit)
  let cap := if c.fld 25 1 = 1 then (s.guarPlan c).isSome else decide (1 ≤ s.roomFor n p k)
  verdict fmt perm len (pl == 0 || k == 0 || ml == 0) state time cap

/-- One admitted sample's table entry (R337, R338, R346, R348). -/
def State.newSample (s : State) (c : Cmd) (i e lslot rec_ promise : Nat) : Sample :=
  let p := c.fld 24 1
  let pl := c.fld 16 4
  let guar := c.fld 25 1 == 1
  let pin := s.flag (F.pinPerSeq c.ctx)
  let ad := c.fld 36 2
  let own := ownPages (c.fld 20 4) pl (c.fld 38 1) + 1
  { Sample.dflt with
    state := sAdmitted, guar := guar, pin := pin, priority := c.fld 26 1, part := p, gen := (s.entry e).gen, ctx := c.ctx,
    sample := i, drafts := c.fld 38 1, maxLen := c.fld 20 4, promptLen := pl, pageList := lslot, admitMark := c.admitMark,
    ttft := c.fld 28 4, tbt := c.fld 32 4, promise := if guar then promise - c.admitMark else 0,
    version := (s.activeVersion p).getD 0, adapter := ad,
    adapterVer := ((s.adapter p ad 1).map (·.ver)).getD 0, adBlock := (s.adapter p ad 1).map (·.block), reqRec := rec_,
    slot := if pin then s.activeSlot p else none,
    reserve := if guar then own else 0 }

/-- The samples enter the table one by one, with pin, adapter reference and END ember slot (R346, R347, R474). -/
def State.addSamples (s : State) (c : Cmd) (rec_ promise : Nat) : Nat → List (Nat × Nat) → State
  | _, [] => s
  | i, (e, l) :: r =>
    let x := s.newSample c i e l rec_ promise
    let s1 := (s.setEntry e x).reserveEm c.ctx 1
    let s2 := match x.slot with
      | some j => s1.pinSlot x.part j
      | none => s1
    let s3 := match x.adBlock with
      | some b => s2.refAdapter x.part b
      | none => s2
    s3.addSamples c rec_ promise (i + 1) r

/-- Bytes of a virtual range that an unfinished write leaves are undefined (R95, R622), also behind a port that is down. -/
def State.undefVirt (s : State) (perf : Option Nat) (n va len : Nat) : State :=
  (rangePieces va len).foldl (fun a c => match s.xlate perf false n c.1 false true with
    | some pa => a.undefMem pa c.2
    | none => a) s

/-- The control core of p copies bytes to a virtual address for a command of 2 marks, which ends OK with a RESULT, or FAULT_CONTEXT where
the copy faults or an expander answers it with an error response (R135, R554); it waits for the expander's completion. -/
def State.copyOut (s : State) (c : Cmd) (p va : Nat) (d res resBad : List Byte) (m : Meet) : State :=
  let ends := s.extents (some p) false c.ctx va d.length false true
  let pas := ends.map (·.1)
  if s.reachRange (some p) false c.ctx va d.length false true then
    let s1 := ((s.writeVirt (some p) false c.ctx va d).writeMeets (some p) ends m).waitLate c.cid (lateAt m pas)
    if badAt m pas then (s1.undefVirt (some p) c.ctx va d.length).waitCmd c.cid stFaultContext resBad
    else s1.waitCmd c.cid stOk res
  else (s.undefVirt (some p) c.ctx va d.length).waitCmd c.cid stFaultContext resBad

/-- An accepted SEQ_SUBMIT (R345 to R350). -/
def State.submit (s : State) (c : Cmd) (m : Meet) : State :=
  let p := c.fld 24 1
  let k := c.fld 27 1
  let guar := c.fld 25 1 == 1
  let got := if guar then k else Nat.min k (s.roomFor c.ctx p k)
  let es := s.freeEntries got
  let plan := if guar then (s.guarPlan c).getD ([], 0) else ([], 0)
  let rec_ := 1 + maxOf (s.reqs.map (·.1))
  let rq : Request :=
    { ctx := c.ctx, cid := c.cid, part := p, promptAddr := c.fld 8 8, temperature := c.fld 40 4, topK := c.fld 44 2,
      stopEn := bit (c.fld 39 1) 0, stopToken := c.fld 48 4, streamBase := c.fld 52 4, entries := es,
      promptRes := if guar then cdiv (c.fld 16 4) 64 else 0, prefilled := 0, placed := plan.1, toPlace := [], matched := false }
  let s1 := (s.addSamples c rec_ plan.2 0 (es.zip (s.freeLists p got)))
  let s2 := { s1 with reqs := s1.reqs ++ [(rec_, rq)] }
  let handle (i : Nat) : Nat := match es[i]? with
    | some e => e + 65536 * (s.entry e).gen
    | none => 0
  let result := toLE 8 (if guar then plan.2 else 0) ++ toLE 4 (handle 0) ++ toLE 1 got
  let bytes := (List.range k).flatMap fun i => toLE 4 (handle i)
  if k ≤ 1 then s2.waitCmd c.cid stOk result
  else s2.copyOut c p (c.fld 56 8) bytes result result m

/-- SEQ_SUBMIT (R344): the oldest admitted, unchecked entry of context n is checked and carried out; m: what its write of the handles
meets. -/
def execSeqSubmit (n : Nat) (m : Meet) (s : State) : Host.Outcome State Fault Refusal :=
  s.act (match s.freshCmd n opSeqSubmit with
    | some c => s.settle c (s.checkSubmit c) fun t => t.submit c m
    | none => s)

/-! ## SEQ_CANCEL (R366) -/

def State.checkCancel (s : State) (c : Cmd) : Verdict :=
  let x := s.entry c.handleIdx
  verdict (reservedBad c [(8, 4)]) (s.flag (F.cGen c.ctx) && s.handleOwned c) [] false
    (s.handleOk c && x.state != sDraining && x.state != sDone) true true

/-- The sample enters DRAINING and is to end at the next boundary. Behind a FENCE that waits (R129). -/
def State.cancel (s : State) (c : Cmd) : State :=
  let e := c.handleIdx
  if s.fenced c.cid then s.modCmd c.cid fun d => { d with phase := .held, handle := e }
  else s.drainFor e c.cid

def execSeqCancel (n : Nat) (s : State) : Host.Outcome State Fault Refusal :=
  s.act (match s.freshCmd n opSeqCancel with
    | some c => s.settle c (s.checkCancel c) fun t => t.cancel c
    | none => s)

/-! ## SEQ_REWARD (R483, R484) -/

def State.checkReward (s : State) (c : Cmd) : Verdict :=
  let x := s.entry c.handleIdx
  verdict (reservedBad c [(8, 14)]) (s.flag (F.cGen c.ctx) && s.handleOwned c) [] false
    (s.handleOk c && decide (c.fld 12 4 < x.length)) true (decide (1 ≤ s.emFree c.ctx))

def execSeqReward (n : Nat) (s : State) : Host.Outcome State Fault Refusal :=
  s.act (match s.freshCmd n opSeqReward with
    | some c => s.settle c (s.checkReward c) fun t =>
        ((t.reserveEm n 1).waitCmd c.cid stOk []).modCmd c.cid fun d => { d with handle := c.handleIdx }
    | none => s)

/-- REWARD_EMBER_WRITE (R484): in the core cycle before the count of an accepted SEQ_REWARD; its ring index becomes the
RESULT. Behind a FENCE it waits for the earlier commands (R129). -/
def execRewardEmberWrite (cid : Nat) (s : State) : Host.Outcome State Fault Refusal :=
  s.act (match s.cmd cid with
    | some c =>
      if c.op = opSeqReward ∧ c.phase = .waiting ∧ c.status = stOk ∧ c.started = false ∧
          c.presented + 2 * cyclesPerMark ≤ s.now + 1 ∧ s.fenced cid = false then
        let x := s.entry c.handle
        let idx := (s.ctx c.ctx).emTail
        let s1 := s.postEmber c.ctx (emberBytes s.stamp (c.fld 16 4) (c.fld 20 2) c.handle x.version x.adapterVer 2
          (c.fld 12 4) c.ctx x.gen)
        s1.modCmd cid fun d => { d with started := true, result := toLE 4 idx }
      else s
    | none => s)

/-! ## SEQ_QUERY (R338) -/

/-- The 64-byte table entry (R338). -/
def Sample.bytes (x : Sample) : List Byte :=
  toLE 1 (x.state + 16 * b2n x.guar + 32 * b2n x.pin + 64 * b2n x.firstDone + 128 * b2n x.ttftMiss) ++
    toLE 1 (x.priority + 8 * x.part + 64 * b2n x.skipped) ++ toLE 2 x.gen ++ toLE 2 x.ctx ++ toLE 1 x.sample ++
    toLE 1 (x.drafts + 8 * x.pending) ++ toLE 4 x.length ++ toLE 4 x.maxLen ++ toLE 4 x.promptLen ++ toLE 4 x.pageList ++
    toLE 8 x.admitMark ++ toLE 4 x.ttft ++ toLE 4 x.tbt ++ toLE 4 x.promise ++ toLE 4 x.lastTok ++ toLE 2 x.version ++
    toLE 2 x.adapter ++ toLE 2 x.adapterVer ++ toLE 2 x.tbtMiss ++ toLE 1 x.waitFrames ++ toLE 1 x.endStatus ++ toLE 2 0 ++
    toLE 4 x.reqRec

def State.checkQuery (s : State) (c : Cmd) : Verdict :=
  verdict ((16, badAddr (c.fld 16 8)) :: reservedBad c [(8, 4), (16, 8)]) (s.flag (F.cGen c.ctx) && s.handleOwned c) []
    false (s.handleOk c) true true

/-- SEQ_QUERY: accepted; its copy is made before its completion. -/
def execSeqQuery (n : Nat) (s : State) : Host.Outcome State Fault Refusal :=
  s.act (match s.freshCmd n opSeqQuery with
    | some c => s.settle c (s.checkQuery c) fun t => t.modCmd c.cid fun d => { d with phase := .held, handle := c.handleIdx }
    | none => s)

/-- The copy of SEQ_QUERY to OUT_ADDR and its RESULT; a copy that faults completes FAULT_CONTEXT (R135, R338). -/
def State.queryEffect (s : State) (c : Cmd) (m : Meet) : State :=
  let x := s.entry c.handle
  let res := toLE 4 x.state ++ toLE 4 x.length
  s.copyOut c x.part (c.fld 16 8) x.bytes res [] m

end Sys2Proof.Machine
end

