-- ==== Sys2Proof/Machine/Steps.lean ====
section
/-!
DEFINITION. Steps.lean: training steps (R416 to R448): STEP_LAUNCH, the fixed points of a step (R422), header faults (R423,
R671), ready words (R426), the update gate (R432), the commit vote (R433, R434), commit and abandonment (R436 to R446) and
REVERT (R447).
-/
namespace Sys2Proof.Machine
open Sys2Proof.Config

/-! ## Admission (R421) -/

/-- An accepted, incomplete PUBLISH copies the version that is live on p (R421, R447). -/
def State.publishing (s : State) (p : Nat) (till : Option Nat) : Bool :=
  (s.openCmds opPublish).any fun c => c.fld 8 1 == 0 && c.fld 10 2 == s.fld (F.liveVersion p) &&
    (match till with
     | some m => decide (m ≤ c.fld 16 8)
     | none => true)

/-- A thread of an earlier step on p is not FREE. -/
def State.stepResidue (s : State) (p : Nat) : Bool :=
  s.threads.any fun e => e.1 / 2048 == p && e.2.state != .free && (match e.2.owner with
    | .step _ => true
    | _ => false)

def State.checkStep (s : State) (c : Cmd) : Verdict :=
  let prog := c.fld 8 8
  let batch := c.fld 16 8
  let count := c.fld 24 4
  let ps := maskParts (c.fld 30 1)
  let m := c.fld 40 8
  let v := c.fld 48 2
  let fmt := [(8, badAddr prog || prog % 64 != 0), (16, badAddr batch), (30, ps.isEmpty), (48, v == 0)] ++
    reservedBad c [(8, 23), (32, 18)]
  let owned (p : Nat) : Bool := s.flag (F.hearthValid p) && s.fld (F.hearthCtx p) == c.ctx
  let len := [(16, !s.mapped c.ctx batch (16 * count) true false), (8, !s.mapped c.ctx prog 64 true false)]
  let ready (p : Nat) : Bool := s.role p == rHearth && s.flag (F.inService p) && !s.flag (F.pending p) && !s.flag (F.inReset p) && (s.stepOn p).isNone &&
    !s.stepResidue p && s.fld (F.liveVersion p) != v && !s.publishing p (some m)
  let groupOk := match s.group (c.fld 28 2) with
    | some g => g.ctx == c.ctx
    | none => true
  verdict fmt (s.flag (F.cLearn c.ctx) && ps.all owned && groupOk) len (count == 0)
    (s.marksOk && decide (c.admitMark + 256 ≤ m) && ps.all ready) true true

/-- An accepted STEP_LAUNCH: the step is in flight on every partition of its mask (R421). -/
def State.launchStep (s : State) (c : Cmd) : State :=
  let ps := maskParts (c.fld 30 1)
  let t : Step := {
    cid := c.cid, ctx := c.ctx, parts := ps, commit := c.fld 40 8, number := c.fld 32 8, version := c.fld 48 2,
    views := [], started := false, hdrFault := [], threadFault := [], mainUp := false, gate := [], gated := [],
    updUp := [], colls := [], ended := [], startAt := 0, frozen := false, late := [], allow := [] }
  let s1 := ps.foldl (fun a p => (((((a.setFld (F.inFlight p) 1).setFld (F.phase p) 0).setFld (F.nf p) 0).setFld (F.poison p) 0).setFld
    (F.skew p) 0).setFld (F.fault p) 0) s
  let s2 := ps.foldl (fun a p => a.modPart p fun x => { x with step := some c.cid, poisonIds := [] }) { s1 with steps := s1.steps ++ [t] }
  s2.modCmd c.cid fun d => { d with phase := .running }

def execStepLaunch (n : Nat) (s : State) : Host.Outcome State Fault Refusal :=
  s.act (match s.freshCmd n opStepLaunch with
    | some c => s.settle c (s.checkStep c) fun t => t.launchStep c
    | none => s)

/-! ## Step start (R422, R423, R435, R448) -/

/-- Header fields that break R416, the lead of U (R423), or a mode restriction (R428, R433). `adm` is the mark of admission. -/
def headerBad (v : StepView) (commit adm : Nat) : Bool :=
  let h := v.header
  leAt h 0 1 != 1 || decide (2 < v.mode) || decide (4096 < v.collCount) || v.lead == 0 || decide (1048575 < v.lead) ||
    leAt h 24 4 == 0 || decide (16384 < leAt h 24 4) || decide (16384 < leAt h 28 4) || leAt h 48 8 % 2048 != 0 ||
    decide (commit < adm + 8 + v.lead) || (v.tied && v.mode != 0) || (v.mode == 2 && v.collCount != 0)

/-- A record that partition p launches fails R423, R671 or R256 as things stand. -/
def State.recordBad (s : State) (t : Step) (p allow : Nat) (r : List Byte) : Bool :=
  leAt r 4 2 != t.ctx || bit (leAt r 3 1) 0 || !s.launchOk p r || decide (allow ≤ leAt r 0 2 / 8 % clustersPerPart)

/-- Records of a table that lie in partition p (R417). -/
def mine (p : Nat) (tab : List (List Byte)) : List (List Byte) := tab.filter fun r => leAt r 0 2 / 128 == p

/-- The control area lies in GDDR7 (R416). -/
def State.ctlOk (s : State) (p : Nat) (t : Step) : Bool :=
  let a := leAt (t.view p).header 48 8
  s.reachRange (some p) false t.ctx a 2048 true true &&
    (match s.xlate (some p) false t.ctx a true true with
     | some pa => (gddrPart pa).isSome
     | none => false)

/-- Ranges of the two tables and of the collective list (R416), as base and length. -/
def StepView.tables (v : StepView) : List (Nat × Nat) :=
  [(leAt v.header 16 8, 64 * Nat.min 16384 (leAt v.header 24 4)), (leAt v.header 32 8, 64 * Nat.min 16384 (leAt v.header 28 4)),
   (leAt v.header 40 8, 16 * Nat.min 4096 v.collCount)]

/-- Partition p has a header fault (R423). -/
def State.headerFault (s : State) (t : Step) (p adm : Nat) : Bool :=
  let v := t.view p
  v.header.isEmpty || headerBad v t.commit adm || !s.ctlOk p t ||
    v.tables.any (fun r => r.2 != 0 && !s.reachRange (some p) false t.ctx r.1 r.2 true false) ||
    (mine p (v.mainTab ++ v.updTab)).any (s.recordBad t p ((tfind t.allow p).getD 16))

/-- The control block as the device initialises it (R419). -/
def controlInit (t : Step) (c : Cmd) : List Byte :=
  toLE 16 0 ++ toLE 8 t.number ++ toLE 8 (c.fld 16 8) ++ toLE 4 (c.fld 24 4) ++ toLE 2 t.version ++ toLE 154 0

/-- The tables and the collective list that header h names, as partition p reads them for context n, each translated by p itself (R422,
R713). -/
def State.readTabs (s : State) (n p : Nat) (h : List Byte) : StepView :=
  let tab (va k : Nat) : List (List Byte) := (List.range k).map fun i => s.readVirt (some p) false n (va + 64 * i) 64
  let v : StepView := { header := h, list := [], mainTab := [], updTab := [] }
  { v with
    mainTab := tab (leAt h 16 8) (Nat.min 16384 (leAt h 24 4)), updTab := tab (leAt h 32 8) (Nat.min 16384 (leAt h 28 4)),
    list := (List.range (Nat.min 4096 v.collCount)).map fun i =>
      let e := s.readVirt (some p) false n (leAt h 40 8 + 16 * i) 16
      (leAt e 0 4, leAt e 4 4, leAt e 8 8) }

/-- Header and tables at `prog` as partition p reads them for context n (R422, R713); no header where it is unreachable. -/
def State.readStep (s : State) (n p prog : Nat) : StepView :=
  if s.reachRange (some p) false n prog 64 true false then s.readTabs n p (s.readVirt (some p) false n prog 64)
  else { header := [], list := [], mainTab := [], updTab := [] }

/-- The reads of the tables go out, and the first meets what it meets (R55, R537, R552, R561). -/
def State.tabReads (s : State) (n p : Nat) (v : StepView) (m : Meet) : State :=
  (v.tables.foldl (fun (q : State × Meet) r => (q.1.readMeets (some p) false n r.1 r.2 q.2, Meet.none)) (s, m)).1

/-- The reads of header and tables likewise. -/
def State.stepReads (s : State) (n p prog : Nat) (v : StepView) (m : Meet) : State :=
  (s.readMeets (some p) false n prog 64 m).tabReads n p v Meet.none

/-- A table of the step that partition p cannot read, or a read that comes back with an error (R56, R423, R561). -/
def State.tabsBad (s : State) (n p : Nat) (v : StepView) (m : Meet) : Bool :=
  m.err.isSome || v.tables.any fun r => r.2 != 0 && !s.reachRange (some p) false n r.1 r.2 true false

/-- A NORMAL step starts on p: a checkpoint that a commit or REVERT has followed misses its deadline (R635). -/
def State.spoilCheckpoints (s : State) (p : Nat) : State :=
  ((s.part p).ckpt.filter (·.2)).foldl (fun a e => a.modCmd e.1 fun d => { d with abandoned := true }) s

/-- Step start on partition p: reads, control block, header faults, skew, and PREV_VALID (R419, R423, R435, R448). A read that comes
back with an error is a header fault, as an unmapped one is (R423, R561; assumption 136). -/
def State.startOn (s : State) (t : Step) (c : Cmd) (p : Nat) (m : Meet) : State :=
  let v := t.view p
  let s1 := ((s.stepReads t.ctx p (c.fld 8 8) v m).writeVirt (some p) false t.ctx (t.ctl p) (controlInit t c)).setFld (F.phase p) 1
  let s2 := if v.header.isEmpty ∨ v.mode ≠ 0 then s1
    else
      let s3 := (s1.spoilCheckpoints p).setFld (F.prevValid p) 0
      if t.number = (s.fld (F.stepCount p) + 1) % 2 ^ 64 then s3 else s3.setStepFlag t p (F.skew p)
  if m.err.isSome ∨ s.headerFault t p c.admitMark = true then s2.modStep t.cid (Step.noteHeader p) else s2

/-- STEP_START (R422): due at mark a + 2, or once no FENCE holds the command any more (R129), or its resume has come (R631). -/
def execStepStart (cid : Nat) (meets : List (Nat × Meet)) (s : State) : Host.Outcome State Fault Refusal :=
  s.act (
    match s.cmd cid, s.step? cid with
    | some c, some t =>
      if c.op = opStepLaunch ∧ c.phase = .running ∧ t.started = false ∧ t.frozen = false ∧ c.admitMark + 2 ≤ s.time.mark ∧
          s.fenced cid = false then
        let q := { t with
          allow := t.parts.map fun p => (p, s.fld (F.factor p)), views := t.parts.map fun p => (p, s.readStep t.ctx p (c.fld 8 8))
          started := true, startAt := s.time.mark }
        t.parts.foldl (fun a p => a.startOn q c p (meetOf meets p)) (s.modStep cid fun _ => q)
      else s
    | _, _ => s)

/-! ## Launches of the two tables -/

/-- The control core of p launches one record at cycle 64 of the present mark; a refusal is a header fault (R423). -/
def State.launchOne (s : State) (t : Step) (p : Nat) (r : List Byte) (index : Nat) : State :=
  if s.launchOk p r then s.startThread r (.step t.cid) index (Nat.max s.now (s.now - s.time.cyc + 64)) []
  else (s.modStep t.cid (Step.noteHeader p)).setStepFlag t p (F.fault p)

def State.launchTable (s : State) (t : Step) (p : Nat) (tab : List (List Byte)) : State :=
  ((tab.zip (List.range tab.length)).filter fun e => leAt e.1 0 2 / 128 == p).foldl (fun a e => a.launchOne t p e.1 e.2) s

/-- No record of a table of p waits for the replay of another suspect (R607). -/
def State.tableFree (s : State) (t : Step) (p : Nat) (tab : List (List Byte)) : Bool :=
  (mine p tab).all fun r => !s.replayBars t.ctx (recordThread r / 128)

/-- MAIN_LAUNCH (R422): due 2 marks after the step start. Header faults set FAULT; the other partitions launch. -/
def execMainLaunch (cid : Nat) (s : State) : Host.Outcome State Fault Refusal :=
  s.act (
    match s.step? cid with
    | some t =>
      if t.started && !t.mainUp && !t.frozen && decide (t.startAt + 2 ≤ s.time.mark) &&
          t.parts.all (fun p => s.tableFree t p (t.view p).mainTab) then
        let s1 := s.modStep cid fun q => { q with mainUp := true }
        t.parts.foldl (fun a p => if t.hdrFault.contains p then a.setStepFlag t p (F.fault p) else a.launchTable t p (t.view p).mainTab) s1
      else s
    | none => s)

/-! ## Collectives of a step (R426, R430, R431, R434) -/

/-- The collective is the commit vote of the step on p: an all-reduce of 64 bytes of FP32 over VOTE_GROUP with id VOTE_ID (R433). -/
def Step.isVote (t : Step) (p : Nat) (co : Coll) : Bool :=
  let v := t.view p
  t.started && v.mode != 2 && v.voteId == co.id && v.voteGroup == co.group && co.op == 0 && co.dtype == 0 && co.size == 64

/-- Partition p is late for a listed collective: POISON, poisoned chunks from then on, and a GRAD_LATE entry (R426). -/
def State.gradLate (s : State) (t : Step) (p id w target : Nat) : State :=
  ((s.setStepFlag t p (F.poison p)).modStep t.cid fun q => { q with late := if q.late.contains p then q.late else q.late ++ [p] }).soot1
    0x30 p 0 (sootCtx t.ctx) p (toLE 4 id ++ toLE 4 w ++ toLE 4 target)

/-- The ready check of a listed collective on partition p at its start mark (R426). A ready word that cannot be read, or that comes back
with an error, faults the step like a header fault (R54, R561; assumption 136). -/
def State.readyCheck (s : State) (p id : Nat) (m : Meet) : State :=
  match s.stepOn p with
  | some t =>
    (match (t.view p).list.find? fun e => e.1 == id && e.2.2 != 0 with
     | some (_, target, addr) =>
       let va := addr + 8 * p
       let w := leAt (s.readVirt (some p) false t.ctx va 8) 0 8
       let s1 := s.readMeets (some p) false t.ctx va 8 m
       if m.err.isSome ∨ s.reachRange (some p) false t.ctx va 8 true false = false then
         (s1.modStep t.cid (Step.noteHeader p)).setStepFlag t p (F.fault p)
       else if w < target then s1.gradLate t p id w target
       else s1
     | none => s)
  | none => s

/-- One word of VOTE_IN (R434). -/
def voteWord (b : Bool) : List Byte := toLE 4 (if b then 0x3F800000 else 0)

/-- The vote starts on partition p: a step thread that is LIVE sets FAULT, and VOTE_IN is written (R430, R434). -/
def State.voteStart (s : State) (p : Nat) (co : Coll) : State :=
  match s.stepOn p with
  | some t =>
    if t.isVote p co then
      let liveOne := s.threads.any fun e => e.1 / 2048 == p && e.2.state == .live && e.2.owner == .step t.cid
      let s1 := (if liveOne then s.setStepFlag t p (F.fault p) else s).setFld (F.phase p) 3
      s1.writeVirt (some p) false t.ctx (t.ctl p + 64)
        (voteWord (s1.flag (F.skew p)) ++ voteWord (s1.flag (F.nf p)) ++ voteWord (s1.flag (F.poison p)) ++
          voteWord (s1.flag (F.fault p)) ++ toLE 48 0)
    else s
  | none => s

/-- NF and POISON that the step in flight on p puts on the chunks of collective id (R426, R431). -/
def State.stepMarks (s : State) (p id : Nat) : Bool × Bool :=
  match s.stepOn p with
  | some t =>
    if (t.view p).listed id then
      (leAt (s.readVirt (some p) false t.ctx (t.ctl p) 8) 0 8 != 0, s.flag (F.fault p) || t.late.contains p)
    else (false, false)
  | none => (false, false)

/-- A collective of the step in flight on p has an outcome there (R430). -/
def State.stepOutcome (s : State) (p : Nat) (co : Coll) (st : Nat) : State :=
  let id := co.id
  match s.stepOn p with
  | some t =>
    let listed := (t.view p).listed id
    if listed || t.isVote p co then
      let s1 := s.modStep t.cid fun q => { q with colls := q.colls ++ [(p, id, st, s.time.mark)] }
      if listed = true ∧ st = stFaultNonfinite then s1.setStepFlag t p (F.nf p)
      else if listed = true ∧ st = stFaultPoison then s1.setStepFlag t p (F.poison p)
      else s1
    else s
  | none => s

/-- Outcome of collective id on partition p, if it has one. -/
def Step.outcome (t : Step) (p id : Nat) : Option (Nat × Nat) := (t.colls.find? fun e => e.1 == p && e.2.1 == id).map (·.2.2)

/-! ## The update gate (R432) -/

/-- The gate of partition p at U. A listed collective that is incomplete sets FAULT, as does one that ended without a flag of
its own and without a result. -/
def State.gateOn (s : State) (t : Step) (p : Nat) : State :=
  let sts := (t.view p).list.map fun e => (t.outcome p e.1).map (·.1)
  let lost := sts.any fun o => match o with
    | none => true
    | some st => st != stOk && st != stFaultNonfinite && st != stFaultPoison && st != stTimeoutPeer
  let s1 := if lost then s.setStepFlag t p (F.fault p) else s
  if s1.sflags p = 0 ∧ (sts.all fun o => o == some stOk) = true then
    (s1.modStep t.cid fun q => { q with gate := q.gate ++ [p] }).setFld (F.phase p) 2
  else s1.setFld (F.phase p) 3

/-- Partitions of a step whose update mark has come. -/
def State.updateDue (s : State) (t : Step) : List Nat := t.parts.filter fun p => decide (t.updateMark p ≤ s.time.mark)

/-- UPDATE_GATE (R432): due at mark U, on each partition at its own. -/
def execUpdateGate (cid : Nat) (s : State) : Host.Outcome State Fault Refusal :=
  s.act (
    match s.step? cid with
    | some t =>
      if t.mainUp && !t.frozen then
        let ps := (s.updateDue t).filter fun p => !t.gated.contains p
        ps.foldl (fun a p => a.gateOn t p) (s.modStep cid fun q => { q with gated := q.gated ++ ps })
      else s
    | none => s)

/-- UPDATE_LAUNCH (R422): at cycle 64 of U the update-table threads of the partitions whose gate opened become LIVE. -/
def execUpdateLaunch (cid : Nat) (s : State) : Host.Outcome State Fault Refusal :=
  s.act (
    match s.step? cid with
    | some t =>
      let ps := (s.updateDue t).filter fun p => t.gated.contains p && !t.updUp.contains p && s.tableFree t p (t.view p).updTab
      if !t.frozen then
        (ps.filter fun p => t.gate.contains p).foldl (fun a p => a.launchTable t p (t.view p).updTab)
          (s.modStep cid fun q => { q with updUp := q.updUp ++ ps })
      else s
    | none => s)

/-- SELF_TEST_CHECK_MARK (R424, R430): at mark COMMIT_MARK − 1 of a SELF_TEST step, a LIVE thread sets FAULT. -/
def execSelfTestCheckMark (cid : Nat) (s : State) : Host.Outcome State Fault Refusal :=
  s.act (
    match s.step? cid with
    | some t =>
      if t.started && decide (t.commit ≤ s.time.mark + 1) && decide (s.time.mark < t.commit) then
        (t.parts.filter fun p => (t.view p).mode == 2).foldl (fun a p =>
          if a.threads.any fun e => e.1 / 2048 == p && e.2.state == .live && e.2.owner == .step cid then
            a.setStepFlag t p (F.fault p) else a) s
      else s
    | none => s)

/-! ## The end of a step (R436 to R446) -/

/-- Word i of VOTE_OUT is not zero. -/
def State.voteOut (s : State) (t : Step) (p i : Nat) : Bool :=
  leAt (s.readVirt (some p) false t.ctx (t.ctl p + 128 + 4 * i) 4) 0 4 % 2 ^ 31 != 0

/-- The first row of R436 that applies on partition p. -/
def State.stepRow (s : State) (t : Step) (p : Nat) : Nat :=
  let timeout := t.colls.any fun e => e.1 == p && e.2.2.1 == stTimeoutPeer
  let v := t.view p
  let voted := v.mode == 2 || (match t.outcome p v.voteId with
    | some (st, m) => st == stOk && decide (m < t.commit)
    | none => false)
  if t.threadFault.contains p || t.hdrFault.contains p then stFaultContext
  else if timeout then stTimeoutPeer
  else if s.flag (F.nf p) || s.voteOut t p 1 then stFaultNonfinite
  else if s.flag (F.poison p) || s.voteOut t p 2 then stFaultPoison
  else if s.flag (F.skew p) || s.voteOut t p 0 then stStepSkew
  else if s.flag (F.fault p) || s.voteOut t p 3 || !voted || !t.started then stDeadlineMissed
  else stOk

/-- A commit or a REVERT on p follows the mark of every checkpoint that reads p (R635). -/
def State.noteCommit (s : State) (p : Nat) : State :=
  s.modPart p fun x => { x with ckpt := x.ckpt.map fun e => (e.1, true) }

/-- LIVE_HALF of every valid region of p inverted. -/
def State.flipHalves (s : State) (p : Nat) : State :=
  (s.validRegions p).foldl (fun a i => a.setFld (F.crLiveHalf p i) (1 - a.fld (F.crLiveHalf p i))) s

/-- Commit of partition p (R444). -/
def State.commitOn (s : State) (t : Step) (p : Nat) : State :=
  let old := s.fld (F.liveVersion p)
  let s1 := (((((s.noteCommit p).flipHalves p).setFld (F.prevVersion p) old)).setFld (F.liveVersion p) t.version).setFld (F.prevValid p) 1
  s1.setFld (F.stepCount p) (s1.fld (F.stepCount p) + 1)

/-- The step has started on p as a NORMAL one, whose destination is the shadow halves of p: PREV_VALID fell at its start (R448). -/
def Step.writesShadow (t : Step) (p : Nat) : Bool := t.started && !(t.view p).header.isEmpty && (t.view p).mode == 0

/-- The destination of a NORMAL step on p, the shadow halves of its commit regions, is undefined after an abort or a fault (R137, R622;
assumption 24). -/
def State.spoilShadows (s : State) (t : Step) (p st : Nat) : State :=
  if t.writesShadow p = false then s
  else if st = stAbortedReset ∨ st = stAbortedTeardown ∨ st = stRestartNeeded ∨ st = stFaultContext then
    (s.validRegions p).foldl (fun a i => a.undefMem (a.shadowBase p i) (a.crBytes p i)) s
  else s

/-- Partition p leaves the step with a status: OUTCOME, SFLAGS and LAST_STATUS are written, flags cleared (R419, R439). -/
def State.leaveStep (s : State) (t : Step) (p st : Nat) (committed : Bool) : State :=
  let s1 := if t.started then
      (s.writeVirt (some p) false t.ctx (t.ctl p + 38) (toLE 1 st)).mirror t p (if committed then 16 else 0) else s
  let s2 := (((((s1.setFld (F.inFlight p) 0).setFld (F.phase p) 0).setFld (F.nf p) 0).setFld (F.poison p) 0).setFld (F.skew p) 0).setFld
    (F.fault p) 0
  ((s2.spoilShadows t p st).setFld (F.lastStatus p) st).modPart p fun x => { x with step := none }

/-- Outcome of partition p at COMMIT_MARK (R436, R444 to R446). -/
def State.decideOn (s : State) (t : Step) (p st : Nat) : State :=
  let commits := st == stOk && (t.view p).mode == 0
  let s1 := if commits then s.commitOn t p else s
  let s2 := if st = stOk then s1.damperAuto p [t.ctx] false
    else if st = stFaultNonfinite then s1.damperAuto p [t.ctx] true else s1
  s2.leaveStep t p st commits

/-- The step is no longer in flight. Its LIVE threads are logged and enter FAULTED (R438). -/
def State.removeStep (s : State) (t : Step) : State :=
  let s1 := { s with steps := s.steps.filter fun q => q.cid != t.cid }
  let orphans := (s1.threads.filter fun e => e.2.state == .live && e.2.owner == .step t.cid).map (·.1)
  let s2 := orphans.foldl (fun a h =>
    let x := a.thread h
    (a.soot1 0x12 x.part 0 (sootCtx t.ctx) (x.tileNo / 8) (toLE 4 h ++ toLE 4 x.pc)).stopThread h) s1
  s2.freeStopped

/-- Statuses in the order of R436. -/
def stepOrder : List Nat :=
  [stFaultContext, stTimeoutPeer, stFaultNonfinite, stFaultPoison, stStepSkew, stDeadlineMissed, stOk]

/-- The step ends on every partition with one status and no commit (R429, R437, R618). -/
def State.abortStep (s : State) (cid st : Nat) : State :=
  match s.step? cid with
  | some t => (t.parts.foldl (fun a p => a.leaveStep t p st false) s).removeStep t
  | none => s

/-- A step in flight ends with one status, and its command with it: RESULT is the live version (R130, R437). -/
def State.abortWith (s : State) (cid st : Nat) : State :=
  match s.step? cid with
  | some t => (s.abortStep cid st).finish cid st (toLE 2 (s.fld (F.liveVersion (t.parts.headD 0)))) false
  | none => s

/-- STEP_COMMIT (R436, R437): due at COMMIT_MARK. A step with a partition in a partition reset commits nothing, and ends with that
reset (R618). -/
def execStepCommit (cid : Nat) (s : State) : Host.Outcome State Fault Refusal :=
  s.act (
    match s.step? cid with
    | some t =>
      if decide (t.commit ≤ s.time.mark) && !t.frozen && !s.fenced cid && !(t.parts.any fun p => s.flag (F.inReset p)) then
        let sts := t.parts.map fun p => (p, s.stepRow t p)
        let s1 := sts.foldl (fun a e => a.decideOn t e.1 e.2) s
        let st := (stepOrder.find? fun x => sts.any fun e => e.2 == x).getD stOk
        (s1.removeStep t).finish cid st (toLE 2 (s1.fld (F.liveVersion (t.parts.headD 0)))) false
      else s
    | none => s)

/-- To the end of each listed collective and of the vote, the partitions of a step send their chunks with POISON set (R611). -/
def State.poisonColls (s : State) (t : Step) : State :=
  let ids (p : Nat) : List Nat :=
    (t.view p).list.map (·.1) ++ (if t.started && (t.view p).mode != 2 then [(t.view p).voteId] else [])
  let mark (id : Nat) (x : Member) : Member :=
    if t.parts.contains x.p && x.outcome.isNone && (ids x.p).contains id then { x with poison := true } else x
  let s1 := { s with colls := s.colls.map fun co => { co with locals := co.locals.map (mark co.id) } }
  t.parts.foldl (fun a p => a.modPart p fun x => { x with poisonIds := ids p }) s1

/-- RESTART_NEEDED: a tied step that a replay or a restore would resume completes at that instant (R429). -/
def State.restartNeeded (s : State) (cid : Nat) : State :=
  match s.step? cid with
  | some t =>
    (s.poisonColls t).abortWith cid stRestartNeeded
  | none => s

/-! ## REVERT (R447) -/

/-- A REVERT of p is ignored (R447). -/
def State.revertBad (s : State) (p : Nat) : Bool :=
  (s.stepOn p).isSome || !s.flag (F.prevValid p) || s.publishing p none

/-- REVERT: a management PF writes 1 to REVERT of HEARTH_CTRL[p]. -/
def execRevert (port p : Nat) (s : State) : Host.Outcome State Fault Refusal :=
  s.actHost port 0 (
    if s.revertBad p then s.setEvt (F.hearthCfgErr p) 10
    else
      let s1 := (((s.noteCommit p).flipHalves p).setFld (F.liveVersion p) (s.fld (F.prevVersion p))).setFld (F.prevValid p) 0
      s1.setReg (F.pb p 0x308) (BitVec.ofNat 64 ((s1.fld (F.stepCount p) + (2 ^ 64 - 1)) % 2 ^ 64)))

end Sys2Proof.Machine
end

