-- ==== Sys2Proof/Machine/FluePlan.lean ====
section
/-!
DEFINITION. FluePlan.lean: the plan of a collective (R490, R491, R494 to R496) and its schedule (R500, R501): which chunk a
member sends or receives in which step, and when.
-/
namespace Sys2Proof.Machine
open Sys2Proof.Config

/-! ## Shapes and parts -/

/-- What a plan is computed from: operation, plan code of R494, SIZE, members M, ranks k and device slots G of a regular
group, and the root. -/
structure PlanOf where
  op   : Nat
  code : Nat
  size : Nat
  m    : Nat
  k    : Nat
  g    : Nat
  root : Nat
deriving DecidableEq, Repr

/-- A transfer as one member sees it: its peer, the bytes read and written, whether they are added, and whether the bytes read
lie in the source (R491). Ranges are (offset, length). -/
structure Xfer where
  peer : Nat
  rd   : List (Nat × Nat)
  wr   : List (Nat × Nat)
  add  : Bool
  src  : Bool
deriving DecidableEq, Repr

/-- Ranks k and device slots G of a regular group, from the devices of its members (R490). -/
def regularShape (devs : List Nat) : Option (Nat × Nat) :=
  match devs with
  | [] => none
  | d :: _ =>
    let k := (devs.takeWhile fun x => x == d).length
    let g := devs.length / k
    let heads := (List.range g).map fun i => devs.getD (i * k) 0
    if 2 ≤ k ∧ 2 ≤ g ∧ devs.length % k = 0 ∧
        ((List.range devs.length).all fun m => devs.getD m 0 == devs.getD (m / k * k) 0) = true ∧
        (dedup heads).length = g then some (k, g) else none

/-- Smallest q with M ≤ 2^q. -/
def ceilLog2 (m : Nat) : Nat := if m ≤ 1 then 0 else Nat.log2 (m - 1) + 1

/-- M is a power of two of at least 2. -/
def powerOfTwo (m : Nat) : Bool := decide (2 ≤ m) && 2 ^ Nat.log2 m == m

/-- The plan code of R494. -/
def planCode (op size m thr : Nat) (regular : Bool) : Nat :=
  if op ≤ 2 then (if size < thr ∧ powerOfTwo m = true then 0 else if regular then 2 else 1)
  else if op = 3 then (if size < thr then 3 else 4)
  else 5

/-- Part i of a range of `n` bytes at `lo` split into k parts of whole lines (R496). -/
def linePart (lo n k i : Nat) : Nat × Nat :=
  let a := i * (n / 64) / k
  let b := (i + 1) * (n / 64) / k
  (lo + 64 * a, 64 * (b - a))

/-- Part r of the collective's SIZE bytes. -/
def PlanOf.part (c : PlanOf) (r : Nat) : Nat × Nat := linePart 0 c.size c.m (r % c.m)

/-- The range that member m holds after i halving steps (R494). -/
def PlanOf.held (c : PlanOf) (m : Nat) : Nat → Nat × Nat
  | 0 => (0, c.size)
  | i + 1 =>
    let r := c.held m i
    linePart r.1 r.2 2 (b2n (bit m (Nat.log2 c.m - 1 - i)))

/-- Parts of one local rank, in ascending index (R494, RING2). -/
def PlanOf.rankParts (c : PlanOf) (j : Nat) : List (Nat × Nat) := (List.range c.g).map fun d => c.part (d * c.k + j)

/-! ## Steps (R494) -/

/-- Reduce steps and gather steps of a plan, without the flag round. -/
def PlanOf.reduceSteps (c : PlanOf) : Nat :=
  if 2 ≤ c.op then 0
  else if c.code = 0 then Nat.log2 c.m else if c.code = 2 then c.k - 1 + (c.g - 1) else c.m - 1
def PlanOf.gatherSteps (c : PlanOf) : Nat :=
  if c.op = 1 then 0
  else if c.code = 0 then Nat.log2 c.m
  else if c.code = 2 then c.g - 1 + (c.k - 1)
  else if c.code = 3 then ceilLog2 c.m
  else c.m - 1
def PlanOf.flagSteps (c : PlanOf) : Nat := if c.op = 3 then ceilLog2 c.m else 0
def PlanOf.steps (c : PlanOf) : Nat := c.reduceSteps + c.gatherSteps + c.flagSteps

/-- Step i is header-only. -/
def PlanOf.isFlag (c : PlanOf) (i : Nat) : Bool := decide (c.reduceSteps + c.gatherSteps ≤ i)

/-- Next and previous member by local rank and by device slot. -/
def PlanOf.devNext (c : PlanOf) (m : Nat) : Nat := m / c.k * c.k + (m % c.k + 1) % c.k
def PlanOf.devPrev (c : PlanOf) (m : Nat) : Nat := m / c.k * c.k + (m % c.k + c.k - 1) % c.k
def PlanOf.slotNext (c : PlanOf) (m : Nat) : Nat := (m / c.k + 1) % c.g * c.k + m % c.k
def PlanOf.slotPrev (c : PlanOf) (m : Nat) : Nat := (m / c.k + c.g - 1) % c.g * c.k + m % c.k

/-- RING2 step i is a link step. -/
def PlanOf.linkOf (c : PlanOf) (i : Nat) : Bool :=
  if i < c.reduceSteps then decide (c.k - 1 ≤ i) else decide (i - c.reduceSteps < c.g - 1)

def sendTo (peer : Nat) (seg : List (Nat × Nat)) (add : Bool) : Option Xfer := some ⟨peer, seg, seg, add, false⟩

/-- What member m sends in reduce step i. -/
def PlanOf.sendReduce (c : PlanOf) (m i : Nat) : Option Xfer :=
  if c.code = 0 then
    let b := Nat.log2 c.m - 1 - i
    let r := c.held m i
    sendTo (m ^^^ 2 ^ b) [linePart r.1 r.2 2 (1 - b2n (bit m b))] true
  else if c.code = 2 then
    (if i < c.k - 1 then sendTo (c.devNext m) (c.rankParts ((m % c.k + c.k - i - 1) % c.k)) true
     else
       let j := i - (c.k - 1)
       sendTo (c.slotNext m) [c.part (m % c.k + c.k * ((m / c.k + c.g - j - 1) % c.g))] true)
  else sendTo ((m + 1) % c.m) [c.part ((m + c.m - i - 1) % c.m)] true

/-- What member m sends in gather step i of an all-reduce. -/
def PlanOf.sendGather (c : PlanOf) (m i : Nat) : Option Xfer :=
  if c.code = 0 then sendTo (m ^^^ 2 ^ i) [c.held m (Nat.log2 c.m - i)] false
  else if c.code = 2 then
    (if i < c.g - 1 then sendTo (c.slotNext m) [c.part (m % c.k + c.k * ((m / c.k + c.g - i) % c.g))] false
     else
       let j := i - (c.g - 1)
       sendTo (c.devNext m) (c.rankParts ((m % c.k + c.k - j) % c.k)) false)
  else sendTo ((m + 1) % c.m) [c.part ((m + c.m - i) % c.m)] false

/-- What member m sends in step i of an all-gather. -/
def PlanOf.sendAll (c : PlanOf) (m i : Nat) : Option Xfer :=
  let s := c.size
  if c.code = 0 then sendTo (m ^^^ 2 ^ i) [(m / 2 ^ i * 2 ^ i * s, s * 2 ^ i)] false
  else if c.code = 2 then
    (if i < c.g - 1 then sendTo (c.slotNext m) [(s * (c.k * ((m / c.k + c.g - i) % c.g) + m % c.k), s)] false
     else
       let j := i - (c.g - 1)
       sendTo (c.devNext m) ((List.range c.g).map fun d => (s * (d * c.k + (m % c.k + c.k - j) % c.k), s)) false)
  else sendTo ((m + 1) % c.m) [(s * ((m + c.m - i) % c.m), s)] false

/-- What member m sends in step i of a broadcast. -/
def PlanOf.sendCast (c : PlanOf) (m i : Nat) : Option Xfer :=
  let v := (m + c.m - c.root) % c.m
  let give (w : Nat) : Option Xfer := sendTo ((w + c.root) % c.m) [(0, c.size)] false
  if c.code = 3 then (if v < 2 ^ i ∧ v + 2 ^ i < c.m then give (v + 2 ^ i) else none)
  else (if v = i then give (v + 1) else none)

/-- What member m sends in step i of the plan, if anything (R494). -/
def PlanOf.sends (c : PlanOf) (m i : Nat) : Option Xfer :=
  if c.isFlag i then sendTo ((m + 2 ^ (i - c.reduceSteps - c.gatherSteps)) % c.m) [] false
  else if c.op = 3 then c.sendCast m i
  else if c.op = 4 then
    (let t := (m + i + 1) % c.m
     let o := c.part m
     some ⟨t, [c.part t], [o], false, true⟩)
  else if c.op = 2 then c.sendAll m i
  else if i < c.reduceSteps then c.sendReduce m i
  else c.sendGather m (i - c.reduceSteps)

/-- The member from which member m receives in step i, if one sends to it. -/
def PlanOf.sender (c : PlanOf) (m i : Nat) : Option Nat :=
  if c.isFlag i then some ((m + c.m - 2 ^ (i - c.reduceSteps - c.gatherSteps) % c.m) % c.m)
  else if c.op = 3 then
    (let v := (m + c.m - c.root) % c.m
     if c.code = 3 then (if 2 ^ i ≤ v ∧ v < 2 ^ (i + 1) then some ((v - 2 ^ i + c.root) % c.m) else none)
     else if v = i + 1 then some ((i + c.root) % c.m) else none)
  else if c.op = 4 then some ((m + c.m - i - 1) % c.m)
  else if c.code = 0 then
    some (if i < c.reduceSteps then m ^^^ 2 ^ (Nat.log2 c.m - 1 - i) else m ^^^ 2 ^ (i - c.reduceSteps))
  else if c.code = 2 then some (if c.linkOf i then c.slotPrev m else c.devPrev m)
  else some ((m + c.m - 1) % c.m)

/-- What member m receives in step i; its peer is the sender. -/
def PlanOf.receives (c : PlanOf) (m i : Nat) : Option Xfer :=
  match c.sender m i with
  | some q => (c.sends q i).map fun x => { x with peer := q }
  | none => none

/-- Members that member m sends to in the flag-round pattern (R494, R512). -/
def flagTargets (m n : Nat) : List Nat := (List.range (ceilLog2 n)).map fun i => (m + 2 ^ i) % n

/-! ## The schedule (R495, R500) -/

/-- One step of the schedule: chunk size, chunks, time per chunk, latency, planned send of chunk 0, first chunk index. -/
structure StepPlan where
  chunk : Nat
  n     : Nat
  gap   : Nat
  lat   : Nat
  send  : Nat
  base  : Nat
deriving DecidableEq, Repr

def segLen (l : List (Nat × Nat)) : Nat := sumOf (l.map (·.2))

/-- P(i): the largest part that step i moves (R496). -/
def PlanOf.moved (c : PlanOf) (i : Nat) : Nat :=
  maxOf ((List.range c.m).map fun m => match c.sends m i with
    | some x => segLen x.rd
    | none => 0)

/-- Step i joins members on different devices (R495). -/
def PlanOf.linkLevel (c : PlanOf) (devs : List Nat) (i : Nat) : Bool :=
  (List.range c.m).any fun m => match c.sends m i with
    | some x => devs.getD m 0 != devs.getD x.peer 0
    | none => false

/-- Timing of a step's level: latency and rate. -/
structure Timing where
  devLat : Nat
  devRate : Nat
  linkLat : Nat
  linkRate : Nat
deriving DecidableEq, Repr

/-- The schedule of R500 from step i on; `sigma` and `base` are those of step i, `k` the steps left. -/
def PlanOf.schedFrom (c : PlanOf) (devs : List Nat) (t : Timing) (chunk : Nat) : Nat → Nat → Nat → Nat → List StepPlan
  | 0, _, _, _ => []
  | k + 1, i, sigma, base =>
    let p := c.moved i
    let link := c.linkLevel devs i
    let h := if link then t.linkLat else t.devLat
    let w := if link then t.linkRate else t.devRate
    let sz := cdiv (Nat.min chunk p) 64 * 64
    let n := if sz = 0 then 1 else Nat.max 1 (cdiv p sz)
    let g := cdiv (sz + 32) w
    ⟨sz, n, g, h, sigma, base⟩ :: c.schedFrom devs t chunk k (i + 1) (sigma + Nat.max (n * g) (g + h)) (base + n)

def PlanOf.schedule (c : PlanOf) (devs : List Nat) (t : Timing) (chunk : Nat) : List StepPlan :=
  c.schedFrom devs t chunk c.steps 0 0 0

/-- The planned duration D (R500). -/
def duration (l : List StepPlan) : Nat :=
  match l.getLast? with
  | some x => x.send + x.n * x.gap + x.lat + 1024
  | none => 1024

/-- Chunks of the whole plan. -/
def chunkTotal (l : List StepPlan) : Nat := sumOf (l.map (·.n))

/-- Bytes [a, b) of the concatenation of segments, as segments. -/
def cutSegs : List (Nat × Nat) → Nat → Nat → List (Nat × Nat)
  | [], _, _ => []
  | (o, n) :: r, a, b =>
    let hi := Nat.min b n
    let rest := cutSegs r (a - n) (b - n)
    if a < hi then (o + a, hi - a) :: rest else rest

/-- One chunk as its sender or receiver sees it: index, step, peer, bytes, and planned send and arrival cycles. -/
structure Chunk where
  idx  : Nat
  step : Nat
  peer : Nat
  rd   : List (Nat × Nat)
  wr   : List (Nat × Nat)
  add  : Bool
  src  : Bool
  at_  : Nat
  due  : Nat
deriving DecidableEq, Repr

/-- The chunks of a transfer of step i. -/
def chunksOfXfer (sp : StepPlan) (i : Nat) (x : Xfer) : List Chunk :=
  let total := segLen x.rd
  let n := if sp.chunk = 0 then 1 else Nat.max 1 (cdiv total sp.chunk)
  (List.range n).map fun j =>
    let a := j * sp.chunk
    let b := Nat.min total (a + sp.chunk)
    ⟨sp.base + j, i, x.peer, cutSegs x.rd a b, cutSegs x.wr a b, x.add, x.src, sp.send + j * sp.gap,
      sp.send + j * sp.gap + sp.gap + sp.lat⟩

/-- The chunks that member m sends, in plan order, and those it receives. -/
def PlanOf.outChunks (c : PlanOf) (l : List StepPlan) (m : Nat) : List Chunk :=
  (l.zip (List.range l.length)).flatMap fun e => match c.sends m e.2 with
    | some x => chunksOfXfer e.1 e.2 x
    | none => []
def PlanOf.inChunks (c : PlanOf) (l : List StepPlan) (m : Nat) : List Chunk :=
  (l.zip (List.range l.length)).flatMap fun e => match c.receives m e.2 with
    | some x => chunksOfXfer e.1 e.2 x
    | none => []

/-- Two lists of ranges share a byte. -/
def segsMeet (x y : List (Nat × Nat)) : Bool :=
  x.any fun a => y.any fun b => decide (a.1 < b.1 + b.2) && decide (b.1 < a.1 + a.2)

/-- Units of the destination that step i makes final at a member (R519, R520). -/
def PlanOf.unitsIn (c : PlanOf) (m i : Nat) : Nat :=
  if c.isFlag i || (c.receives m i).isNone then 0
  else if c.op = 1 then b2n (i + 1 == c.reduceSteps)
  else if i < c.reduceSteps then 0
  else if c.code = 0 then 2 ^ (i - c.reduceSteps)
  else if c.code = 2 then (if c.linkOf i then 1 else c.g)
  else 1

end Sys2Proof.Machine
end

