-- ==== Sys2Proof/Machine/Links.lean ====
section
/-!
DEFINITION. Links.lean: the sending side of a device link: CRC-32C (R509), management messages (R577), flow control of
the virtual channels (R571) and routing (R575).
-/
namespace Sys2Proof.Machine
open Sys2Proof.Config

/-! ## CRC-32C (R509) -/

/-- One bit of the reflected CRC-32C division. -/
def crcBit (c : BitVec 32) : BitVec 32 := if c &&& 1 = 1 then (c >>> 1) ^^^ 0x82F63B78 else c >>> 1

/-- One byte of it. -/
def crcByte (c : BitVec 32) (b : Byte) : BitVec 32 :=
  crcBit (crcBit (crcBit (crcBit (crcBit (crcBit (crcBit (crcBit (c ^^^ b.setWidth 32))))))))

/-- CRC-32C of a byte string. -/
def crc32c (bs : List Byte) : Nat := ((bs.foldl crcByte 0xFFFFFFFF) ^^^ 0xFFFFFFFF).toNat

/-! ## Management messages (R577) -/

/-- The 36 payload bytes of a management message of a KIND, with its words at bytes 8, 16 and 24 and its CRC. -/
def mgmtMsg (kind w8 w16 w24 : Nat) : List Byte :=
  let b := toLE 8 kind ++ toLE 8 w8 ++ toLE 8 w16 ++ toLE 4 w24 ++ toLE 4 0
  b ++ toLE 4 (crc32c b)

/-- The CRC of a received management message holds. -/
def mgmtOk (m : List Byte) : Bool := decide (36 ≤ m.length) && leAt m 32 4 == crc32c (m.take 32)

/-! ## Ports -/

def State.lkState (s : State) (k : Nat) : Nat := s.fld (F.lkState k)

/-- The port carries traffic: UP or DEGRADED (R578, R712). -/
def State.linkUp (s : State) (k : Nat) : Bool := s.lkState k == 2 || s.lkState k == 3

/-- Flits the sender may still send on a channel: ADV − ((SENT − RET) mod 2^16) (R571). -/
def Credit.room (c : Credit) : Nat := c.adv - (c.sent + 65536 - c.ret % 65536) % 65536

def Link.vc (l : Link) (v : Nat) : Credit := if v = 2 then l.vc2 else l.vc3
def Link.setVc (l : Link) (v : Nat) (c : Credit) : Link := if v = 2 then { l with vc2 := c } else { l with vc3 := c }

/-- The payloads of the flits that a message occupies: 243 bytes each, the last one what is left (R567). -/
def flitsOf (m : List Byte) : List (List Byte) := (List.range (cdiv m.length 243)).map fun i => (m.drop (243 * i)).take 243

/-- n flit buffers of channel v of port k are free again (R571); only a Flue-mode port, 0 to 7, has any. -/
def State.freeBuffers (s : State) (k v n : Nat) : State :=
  if k < 8 then
    let c := (s.link k).vc v
    s.setLink k ((s.link k).setVc v { c with freed := (c.freed + n) % 65536 })
  else s

/-- The beacon of port k (R73, R577): the stamp of its transmission, the TX_STAMP last received, and the cycles since. -/
def State.beaconMsg (s : State) (k : Nat) : List Byte :=
  let l := s.link k
  mgmtMsg 0 s.stamp (if l.heard then l.lastTx else 0) (if l.heard then (s.time.cycle - l.lastRx) % 2 ^ 32 else 0)

/-- A chunk with the time stamp of its first transmitted bit, and its CRC (R508, R509). -/
def State.stampChunk (s : State) (m : List Byte) : List Byte :=
  let h := m.take 16 ++ toLE 8 s.stamp ++ (m.drop 24).take 4
  h ++ toLE 4 (crc32c (h ++ m.drop 32)) ++ m.drop 32

/-- A message as its first bit goes out on port k: a beacon (the LOCAL message) and a chunk that this device created carry the
stamp of that bit (R73, R508); any other goes unchanged (R575). -/
def State.sentNow (s : State) (k : Nat) (m : TxMsg) : TxMsg :=
  if m.begun then m
  else if m.ty = 2 then { m with flits := [s.beaconMsg k] }
  else if m.origin = 8 ∧ m.vc = 2 then { m with flits := flitsOf (s.stampChunk m.flits.flatten) }
  else m

/-- A flit of R567: its SEQ is the count of flits sent on its channel, and it returns `freed` buffers of channel `rv`. -/
def flitBytes (m : TxMsg) (eom : Bool) (rv seq freed : Nat) (d : List Byte) : List Byte :=
  let h := m.vc + 4 * m.ty + 16 * b2n (!m.begun) + 32 * b2n eom + 64 * rv + 2 ^ 8 * seq + 2 ^ 24 * freed + 2 ^ 40 * m.dev +
    2 ^ 55 * m.part
  let b := toLE 8 h ++ (d ++ List.replicate 243 0).take 243 ++ toLE 1 d.length
  b ++ toLE 4 (crc32c b)

/-- The queue after one flit of message m has gone: the rest of m stays at its place. -/
def sentFrom (q : List TxMsg) (m : TxMsg) (rest : List (List Byte)) : List TxMsg :=
  if m.closed && rest.isEmpty then q.erase m else updFirst (fun x => x == m) (fun x => { x with flits := rest, begun := true }) q

/-- One flit of message m goes out on port k; the buffer that held it is free (R571). -/
def State.sendFlit (s : State) (k : Nat) (m : TxMsg) : State :=
  match (s.sentNow k m).flits with
  | [] => s
  | d :: r =>
    let l := s.link k
    let c := l.vc m.vc
    let rv := if l.ret3 then 3 else 2
    let s1 := s.setLink k { l.setVc m.vc { c with sent := (c.sent + 1) % 65536 } with
      txq := sentFrom l.txq m r, ret3 := !l.ret3, flitAt := some s.now }
    (s1.freeBuffers m.origin m.vc 1).emit (.flit k (flitBytes m (m.closed && r.isEmpty) rv c.sent (l.vc rv).freed d))

/-- An IDLE flit of port k: it names VC2 and VC3 in turn, and returns credit like any flit (R567, R571, R572). -/
def State.sendIdle (s : State) (k : Nat) : State :=
  let l := s.link k
  let v := if l.idle3 then 3 else 2
  let rv := if l.ret3 then 3 else 2
  (s.setLink k { l with idle3 := !l.idle3, ret3 := !l.ret3 }).emit
    (.flit k (flitBytes ⟨v, 0, 0, 0, 8, [], true, true⟩ false rv (l.vc v).sent (l.vc rv).freed []))

/-- IDLE flits fill the slots of the Flue-mode ports (R569). DESIGN CHOICE (assumption 139): a port has one slot in each core cycle in
which it has sent no flit of a message. -/
def State.idleFlits (s : State) : State :=
  (List.range 8).foldl (fun a k =>
    if a.linkUp k && !a.flag (F.lkMode k) && (a.link k).flitAt != some a.now then a.sendIdle k else a) s

/-! ## Ethernet mode (R588, R589) -/

/-- Entry of a list keyed by device and channel. -/
def ethFind {α : Type} (l : List (Nat × Nat × α)) (src v : Nat) : Option α :=
  (l.find? fun e => e.1 == src && e.2.1 == v).map (·.2.2)
def ethPut {α : Type} (l : List (Nat × Nat × α)) (src v : Nat) (a : Option α) : List (Nat × Nat × α) :=
  (l.filter fun e => !(e.1 == src && e.2.1 == v)) ++ (match a with
    | some x => [(src, v, x)]
    | none => [])

/-- The transport header of R589 for the segment at offset `o` of message number `seq`. -/
def datagramHeader (v dev dp src seq o len : Nat) (eom : Bool) : List Byte :=
  toLE 1 1 ++ toLE 1 v ++ toLE 1 (b2n (o == 0) + 2 * b2n eom) ++ toLE 1 0 ++ toLE 4 seq ++ toLE 4 o ++ toLE 4 len ++ toLE 2 dev ++
    toLE 1 dp ++ toLE 1 0 ++ toLE 2 src ++ toLE 2 0

/-- The interface of Ethernet port k by which a message goes to device `dev`: the half of its route where the port is split (R588). -/
def State.ethHalf (s : State) (k dev : Nat) : Nat := if s.flag (F.lkSplit k) then s.fld (F.routeHalf dev) else 0

/-- A whole message goes out on Ethernet port k as consecutive datagrams of at most 8,192 bytes (R589), from the MAC of its interface to
the next hop's, with VLAN_ID and the priority of its channel in the VLAN tag (R588, R709). -/
def State.sendDatagrams (s : State) (k : Nat) (m : TxMsg) : State :=
  let l := s.link k
  let b := (s.sentNow k m).flits.flatten
  let seq := (ethFind l.ethOut m.dev m.vc).getD 0
  let half := s.ethHalf k m.dev
  let addr := s.fld F.ethPrefix * 2 ^ 64 + 0x4D5A000000000000 + m.dev
  let n := Nat.max 1 (cdiv b.length 8192)
  let s1 := s.setLink k { l with
    txq := l.txq.erase m, ethOut := ethPut l.ethOut m.dev m.vc (some ((seq + 1) % 2 ^ 32)) }
  (List.range n).foldl (fun a i =>
    a.emit (.datagram k half (s.fld (F.ethMac k) + half) (s.fld (F.ethGwMac k)) (s.fld F.ethVlan)
      (s.fld (if m.vc = 2 then F.ethPcp2 else F.ethPcp3)) addr (s.fld F.ethUdpPort)
      (datagramHeader m.vc m.dev m.part (s.fld F.flueDevice) seq (8192 * i) b.length (i + 1 == n) ++ (b.drop (8192 * i)).take 8192))) (s1.freeBuffers m.origin m.vc m.flits.length)

/-! ## What goes next -/

/-- The message of channel v whose flit goes next on a Flue-mode port: messages of one channel do not interleave, so one that
has begun goes on before another begins (R567). -/
def nextMsg (q : List TxMsg) (v : Nat) : Option TxMsg :=
  match q.find? fun m => m.vc == v && m.begun with
  | some m => if m.flits.isEmpty then none else some m
  | none => q.find? fun m => m.vc == v && !m.flits.isEmpty

/-- The message that port k can send from now: the port is up; a flit needs a credit of its channel (R571), a message in
Ethernet mode needs all of its bytes and an interface on which its channel is not paused (R588). -/
def State.readyOn (s : State) (k v : Nat) : Option TxMsg :=
  let l := s.link k
  if !s.linkUp k then none
  else if s.flag (F.lkMode k) then
    l.txq.find? fun m => m.vc == v && m.closed && !bit (if v = 2 then l.pause2 else l.pause3) (s.ethHalf k m.dev)
  else if 1 ≤ (l.vc v).room then nextMsg l.txq v else none

def State.pumpN (s : State) (k : Nat) : Nat → State
  | 0 => s
  | n + 1 =>
    match (s.readyOn k 3).or (s.readyOn k 2) with
    | some m => (if s.flag (F.lkMode k) then s.sendDatagrams k m else s.sendFlit k m).pumpN k n
    | none => s

/-- Send what port k can send; VC3 goes before VC2, flit by flit (R569). -/
def State.pump (s : State) (k : Nat) : State := s.pumpN k (sumOf ((s.link k).txq.map fun m => m.flits.length + 1))

/-- Queue a message on port k and send what can be sent. -/
def State.queueMsg (s : State) (k : Nat) (m : TxMsg) : State :=
  (s.setLink k { s.link k with txq := (s.link k).txq ++ [m] }).pump k

/-- The interface of a split Ethernet port on half h has its lanes (R588). -/
def State.halfUp (s : State) (k h : Nat) : Bool := !s.flag (F.lkMode k) || !s.flag (F.lkSplit k) || bit (s.fld (F.lkLanes k)) (4 * h)

/-- The egress port of a route that is set and up (R575). -/
def State.egress (s : State) (dev : Nat) : Option Nat :=
  let k := s.fld (F.routePort dev)
  if s.flag (F.routeValid dev) && s.linkUp k && s.halfUp k (s.fld (F.routeHalf dev)) then some k else none

/-- This device is the destination (R575). -/
def State.isSelf (s : State) (dev : Nat) : Bool := s.flag F.flueNodeValid && dev == s.fld F.flueDevice

/-- A message without a route, or whose port is not up, is discarded with a FLUE_NOROUTE entry (R575). -/
def State.noRoute (s : State) (dev : Nat) : State :=
  let k := s.fld (F.routePort dev)
  s.soot1 0x3B (if linkDie k = 0 then 8 else 9) 0 0 k (toLE 2 dev)

/-- Send a whole message towards device `dev`, partition `dp` (R575). A message for this device goes over the mesh to the Flue
agent of the partition. -/
def State.routeMsg (s : State) (origin dev dp v : Nat) (m : List Byte) : State :=
  if s.isSelf dev then s.emit (.meshMsg dp v m)
  else
    match s.egress dev with
    | some k => s.queueMsg k ⟨v, 1, dev, dp, origin, flitsOf m, false, true⟩
    | none => s.noRoute dev

end Sys2Proof.Machine
end

