-- ==== Sys2Proof/Machine/Flue.lean ====
section
/-!
DEFINITION. Flue.lean: Flue groups and collectives (R485 to R522, R577, R579, R580).
-/
namespace Sys2Proof.Machine
open Sys2Proof.Config

/-! ## Groups (R487 to R490) -/


def memberAt (g : Group) (m : Nat) : Nat × Nat × Int := g.members.getD m (0, 0, 0)

def groupDevs (g : Group) : List Nat := g.members.map (·.1)

/-- Local members of a group: member index, partition and buffer offset. -/
def State.localsOf (s : State) (g : Group) : List (Nat × Nat × Int) :=
  ((List.range g.members.length).map fun m => (m, (memberAt g m).2)).filter fun e => (memberAt g e.1).1 == s.fld F.flueDevice

/-- A member record of R487: device, partition and offset, and whether its reserved bits are 0. -/
def memberRecord (v : Nat) : (Nat × Nat × Int) × Bool :=
  ((bits v 0 15, bits v 16 3, signed 40 (bits v 24 40)), !bit v 15 && bits v 19 5 == 0)

/-- The member records of a list of context n, read by partition p (R713). -/
def State.readRecords (s : State) (p : Nat) (flue : Bool) (n va k : Nat) : List ((Nat × Nat × Int) × Bool) :=
  (List.range k).map fun i => memberRecord (leAt (s.readVirt (some p) flue n (va + 8 * i) 8) 0 8)

/-- The member list of a definition can be read by P0, which performs the reads of a command that names no partition (R713). -/
def State.listRead (s : State) (c : Cmd) : Bool := s.reachRange (some 0) false c.ctx (c.fld 16 8) (8 * c.fld 12 4) true false

/-- A group id is named by an accepted incomplete collective. -/
def State.groupBusy (s : State) (g : Nat) : Bool := s.colls.any fun c => c.group == g

def pairsRepeat : List (Nat × Nat) → Bool
  | [] => false
  | a :: r => r.contains a || pairsRepeat r

def State.checkGroup (s : State) (c : Cmd) : Verdict :=
  let g := c.fld 8 2
  let k := c.fld 12 4
  let va := c.fld 16 8
  let readable := decide (k ≤ 262144) && s.mapped c.ctx va (8 * k) true false && s.listRead c
  let rs := if readable then s.readRecords 0 false c.ctx va k else []
  let bad := rs.any (fun r => !r.2) || pairsRepeat (rs.map fun r => (r.1.1, r.1.2.1))
  let own := match s.group g with
    | some x => x.ctx == c.ctx
    | none => true
  let inGddr := (rangePieces va (8 * k)).all fun e => match s.xlatTable c.ctx e.1 with
    | some x => (gddrPart (x.pa e.1)).isSome
    | none => false
  verdict ([(16, badAddr va || bad)] ++ reservedBad c [(8, 2), (12, 12)]) (isMgmt c.ctx && own)
    [(12, decide (262144 < k)), (12, !s.mapped c.ctx va (8 * k) true false)] (k == 0)
    (s.flag F.flueNodeValid && (!s.listRead c || rs.any (fun r => r.1.1 == s.fld F.flueDevice)) && inGddr && !s.groupBusy g) true
    ((s.group g).isSome || decide (s.groups.length < 1024))

/-- The definition takes effect (R489). -/
def State.defineGroup (s : State) (c : Cmd) : State :=
  let rs := s.readRecords 0 false c.ctx (c.fld 16 8) (c.fld 12 4)
  let l := tput s.groups (c.fld 8 2) { ctx := c.ctx, list := c.fld 16 8, members := rs.map (·.1) }
  { s with groups := l }.setFld F.flueGroups l.length

/-- The reads of the member list of an accepted definition; one that faults (R442) or fails (R537) ends the command FAULT_CONTEXT, and
nothing is defined. -/
def State.tryDefine (s : State) (c : Cmd) (m : Meet) : State :=
  let va := c.fld 16 8
  let len := 8 * c.fld 12 4
  let s1 := (s.readMeets (some 0) false c.ctx va len m).waitLate c.cid
    (lateAt m ((s.extents (some 0) false c.ctx va len true false).map (·.1)))
  if s.listRead c && m.err.isNone then (s1.defineGroup c).waitCmd c.cid stOk [] else s1.waitCmd c.cid stFaultContext []

/-- FLUE_GROUP_DEFINE (R488, R489); behind a FENCE the definition waits (R129). -/
def execFlueGroupDefine (n : Nat) (m : Meet) (s : State) : Host.Outcome State Fault Refusal :=
  s.act (match s.freshCmd n opFlueGroupDefine with
    | some c => s.settle c (s.checkGroup c) fun t =>
        if t.fenced c.cid then t.modCmd c.cid fun d => { d with phase := .held } else t.tryDefine c m
    | none => s)

/-- FLUE_GROUP_DROP (R485, R486). -/
def execFlueGroupDrop (port : Nat) (v : Word32) (s : State) : Host.Outcome State Fault Refusal :=
  s.actHost port 0 (
    let g := bits v.toNat 0 16
    if (s.group g).isNone || s.groupBusy g then s.setEvt F.flueCfgErr 10
    else { s with groups := tdel s.groups g }.setFld F.flueGroups (s.groups.length - 1))

/-! ## Plans of accepted collectives -/

def State.timing (s : State) : Timing := ⟨s.fld F.devLat, s.fld F.devRate, s.fld F.linkLat, s.fld F.linkRate⟩

/-- The plan of an operation on a group (R494). -/
def State.groupPlan (s : State) (g : Group) (op size root : Nat) : PlanOf :=
  let m := g.members.length
  let sh := regularShape (groupDevs g)
  let (k, d) := sh.getD (1, m)
  ⟨op, planCode op size m (s.fld F.threshold) sh.isSome, size, m, k, d, root⟩

/-- The group of a collective as one of its members sees it: by the member list that its Flue agent has read at the start, and before
it by that of the definition (R490). -/
def State.memGroup (s : State) (co : Coll) (x : Member) : Group :=
  let g := (s.group co.group).getD { ctx := 0, list := 0, members := [] }
  if x.begun then { g with members := x.view } else g

def State.collPlan (s : State) (co : Coll) (x : Member) : PlanOf := s.groupPlan (s.memGroup co x) co.op co.size co.root

def State.collSched (s : State) (co : Coll) (x : Member) : List StepPlan :=
  (s.collPlan co x).schedule (groupDevs (s.memGroup co x)) s.timing co.chunk

def State.outOf (s : State) (co : Coll) (x : Member) : List Chunk := (s.collPlan co x).outChunks (s.collSched co x) x.m
def State.inOf (s : State) (co : Coll) (x : Member) : List Chunk := (s.collPlan co x).inChunks (s.collSched co x) x.m

/-- Context that issued a collective. -/
def State.collCtx (s : State) (co : Coll) : Nat := match s.cmd co.cid with
  | some c => c.ctx
  | none => 0

/-! ## Buffers (R491, R492) -/

/-- Address of a member's buffer with offset `o`, and the bytes written at it. -/
def bufAt (va : Nat) (o : Int) : Int := (va : Int) + 64 * o
def dstLen (op size m : Nat) : Nat := if op = 1 then size / m else if op = 2 then m * size else size

/-- A range with a possibly negative address is mapped (R125). -/
def State.mappedAt (s : State) (n : Nat) (a : Int) (len : Nat) (wr : Bool) : Bool :=
  decide (0 ≤ a) && s.mapped n a.toNat len (!wr) wr

def State.offsetOf (s : State) (co : Coll) (x : Member) : Int := (memberAt (s.memGroup co x) x.m).2.2
def State.srcAt (s : State) (co : Coll) (x : Member) : Nat := (bufAt co.src (s.offsetOf co x)).toNat
def State.dstAt (s : State) (co : Coll) (x : Member) : Nat := (bufAt co.dst (s.offsetOf co x)).toNat

/-! ## FLUE_COLLECTIVE (R504, R505) -/

/-- Two ranges overlap without being identical (R504). -/
def partOverlap (a b : Int) (na nb : Nat) : Bool :=
  decide (a < b + nb) && decide (b < a + na) && !(a == b && na == nb)

/-- Two ranges are identical for an operation that forbids it (R504): a condition on OPERATION and on both addresses. -/
def sameBad (op : Nat) (a b : Int) (na nb : Nat) : Bool := a == b && na == nb && op != 0 && op != 3

/-- Completion mark C of a descriptor (R502). -/
def State.planDone (s : State) (g : Group) (c : Cmd) : Nat :=
  let pl := s.groupPlan g (c.fld 14 1) (c.fld 32 8) (c.fld 44 4)
  c.fld 48 8 + cdiv (duration (pl.schedule (groupDevs g) s.timing (c.fld 40 4)) + s.fld F.poisonLat) 1024

def State.checkCollective (s : State) (c : Cmd) : Verdict :=
  let id := c.fld 8 4
  let op := c.fld 14 1
  let src := c.fld 16 8
  let dst := c.fld 24 8
  let size := c.fld 32 8
  let chunk := c.fld 40 4
  let root := c.fld 44 4
  let a := c.fld 48 8
  let b := c.fld 56 8
  let gr := s.group (c.fld 12 2)
  let m := match gr with
    | some g => g.members.length
    | none => 1
  let loc := match gr with
    | some g => s.localsOf g
    | none => []
  let hasSrc (e : Nat × Nat × Int) : Bool := op != 3 || e.1 == root
  let hits (f : Int → Int → Nat → Nat → Bool) :=
    loc.any fun e => hasSrc e && f (bufAt src e.2.2) (bufAt dst e.2.2) size (dstLen op size m)
  let fmt := [(8, id == 0), (14, decide (4 < op)), (15, decide (15 ≤ c.fld 15 1)), (14, decide (op < 2 ∧ 2 ≤ c.fld 15 1)),
    (16, badAddr src || src % 64 != 0), (24, badAddr dst || dst % 64 != 0), (44, op == 3 && decide (262144 ≤ root)),
    (12, op == 3 && gr.isSome && decide (m ≤ root)), (14, op != 3 && root != 0), (16, hits partOverlap), (14, hits (sameBad op))] ++ reservedBad c [(8, 56)]
  let own := match gr with
    | some x => x.ctx == c.ctx
    | none => true
  let byM := (op == 1 || op == 4) && gr.isSome
  let len := [(if byM then 12 else 32, size % (if byM then 64 * m else 64) != 0), (40, chunk % 4096 != 0 || chunk == 0 || decide (4194304 < chunk)),
    (16, loc.any fun e => hasSrc e && !s.mappedAt c.ctx (bufAt src e.2.2) size false),
    (24, loc.any fun e => !s.mappedAt c.ctx (bufAt dst e.2.2) (dstLen op size m) true)]
  let free (p : Nat) : Bool := s.colls.all fun d => (d.locals.all fun x => x.p != p) || decide (d.deadline ≤ a) || decide (b ≤ d.start)
  let state := match gr with
    | some g => loc.all (fun e => s.role e.2.1 == rHearth && !s.flag (F.pending e.2.1) && free e.2.1) &&
        s.colls.all (fun d => d.id != id) && decide (s.planDone g c ≤ b)
    | none => false
  verdict fmt (isMgmt c.ctx && own) len (size == 0) (s.marksOk && leadOk c a && leadOk c b && state) (s.tstate != tUnfit) true

/-- A local member before its collective begins, with a buffer of n bytes reserved. -/
def Member.new (p m n : Nat) : Member :=
  { p := p, m := m, begun := false, view := [], buf := List.replicate n 0, valid := [], adds := [], sent := [], got := [], gotAt := [],
    nf := false, poison := false, nfMark := false, poisonMark := false, poisonFwd := false, tombFwd := false, stopped := false,
    doneAt := 0, outcome := none, outMark := none, recorded := false, named := none, lag := [], stalls := [], stalled := [],
    arrived := 0, arrSteps := [] }

/-- An accepted collective enters the queues of its local members (R505, R506). -/
def State.acceptColl (s : State) (c : Cmd) (g : Group) : State :=
  let co : Coll := {
    cid := c.cid, id := c.fld 8 4, group := c.fld 12 2, op := c.fld 14 1, dtype := c.fld 15 1, src := c.fld 16 8,
    dst := c.fld 24 8, size := c.fld 32 8, chunk := c.fld 40 4, root := c.fld 44 4, start := c.fld 48 8,
    deadline := c.fld 56 8, plan := (s.groupPlan g (c.fld 14 1) (c.fld 32 8) (c.fld 44 4)).code, done := s.planDone g c,
    begunAt := 0,
    locals := (s.localsOf g).map fun e =>
      { Member.new e.2.1 e.1 (if c.fld 14 1 = 2 then g.members.length * c.fld 32 8 else c.fld 32 8) with
        poison := (s.part e.2.1).poisonIds.contains (c.fld 8 4) } }
  let s1 := co.locals.foldl (fun (a : State) x => a.modPart x.p fun y => { y with flueTill := Nat.max y.flueTill co.deadline }) s
  { s1 with colls := s1.colls ++ [co] }.modCmd c.cid fun d => { d with phase := .running }

def execFlueCollective (n : Nat) (s : State) : Host.Outcome State Fault Refusal :=
  s.act (match s.freshCmd n opFlueCollective with
    | some c => s.settle c (s.checkCollective c) fun t =>
        (match t.group (c.fld 12 2) with
         | some g => t.acceptColl c g
         | none => t)
    | none => s)

/-! ## Access to running collectives -/

def State.coll (s : State) (cid : Nat) : Option Coll := s.colls.find? fun c => c.cid == cid
def State.modColl (s : State) (cid : Nat) (f : Coll → Coll) : State :=
  { s with colls := updFirst (fun c => c.cid == cid) f s.colls }
def State.modMember (s : State) (cid p : Nat) (f : Member → Member) : State :=
  s.modColl cid fun c => { c with locals := updFirst (fun x => x.p == p) f c.locals }
def Coll.member (c : Coll) (p : Nat) : Option Member := c.locals.find? fun x => x.p == p

/-- The collective of an id whose queue on partition p still holds it (R510, R517). -/
def State.collOn (s : State) (p id : Nat) : Option (Coll × Member) :=
  match s.colls.find? fun c => c.id == id with
  | some c => (match c.member p with
    | some x => if x.recorded then none else some (c, x)
    | none => none)
  | none => none

/-- A member ends with an outcome that counts at mark `m`, or with the end of the reset or teardown under way: it stops sending, and
what it had not written is open (R137, R521, R522). -/
def State.endMember (s : State) (co : Coll) (p st : Nat) (m : Option Nat) (named : Option Nat) : State :=
  match co.member p with
  | some x =>
    if x.outcome.isSome then s
    else
      let s1 := s.modMember co.cid p fun y => { y with stopped := true, outcome := some st, outMark := m, named := named }
      if x.begun then
        s1.undefVirt (some p) (s.collCtx co) (s.dstAt co x) (dstLen co.op co.size (s.collPlan co x).m)
      else s1
  | none => s

/-- A FAULT_CONTEXT outcome, which counts at cycle 0 of the next mark (R510, R521). -/
def State.faultMember (s : State) (co : Coll) (p : Nat) : State := s.endMember co p stFaultContext (some (s.time.mark + 1)) none

/-- A message of a member to member `k` of its group, on VC1 within the device and on channel v otherwise. -/
def State.toMember (s : State) (co : Coll) (x : Member) (k v : Nat) (msg : List Byte) : State :=
  let r := memberAt (s.memGroup co x) k
  s.routeMsg 8 r.1 r.2.1 (if r.1 = s.fld F.flueDevice ∧ v = 2 then 1 else v) msg

def State.toMembers (s : State) (co : Coll) (x : Member) (ts : List Nat) (v : Nat) (msg : List Byte) : State :=
  ts.foldl (fun a k => a.toMember co x k v msg) s

/-- Words 8 of a management message about a collective (R577). -/
def collWord (co : Coll) : Nat := co.id + co.group * 2 ^ 32

def poisonMsg (co : Coll) (origin : Nat) : List Byte := mgmtMsg 1 (collWord co) (origin + co.start % 2 ^ 24 * 2 ^ 32) 0
def stallMsg (co : Coll) (sender blamed idx : Nat) : List Byte := mgmtMsg 2 (collWord co) (sender + blamed * 2 ^ 32) idx
def tombMsg (co : Coll) (sender : Nat) : List Byte := mgmtMsg 3 (collWord co) (sender + co.start % 2 ^ 24 * 2 ^ 32) 0

/-! ## The start (R426, R434, R506, R515, R519) -/

/-- The lag table of partition p is cleared (R515). -/
def State.clearLag (s : State) (p : Nat) : State :=
  ((List.range 16).foldl (fun a j => a.setReg (F.lagReg p j) 0) s).setReg (F.laggardReg p) 0

/-- Address of the arrival word of p, while counting is enabled (R485, R519). -/
def State.arriveAt (s : State) (p : Nat) : Option Nat :=
  if s.flag (F.arriveEn p) then some (windowOf (s.fld (F.arriveTile p)) + s.fld (F.arriveOff p)) else none

/-- The Flue agent of a member reads the member list (R490, R713; assumption 61): none where an access faults. -/
def State.readView (s : State) (co : Coll) (x : Member) : Option (List (Nat × Nat × Int)) :=
  match s.group co.group with
  | some g =>
    if s.reachRange (some x.p) true g.ctx g.list (8 * g.members.length) true false then
      some ((s.readRecords x.p true g.ctx g.list g.members.length).map (·.1))
    else none
  | none => none

/-- The reads of the list, as they turn out. -/
def State.viewMeets (s : State) (co : Coll) (x : Member) (m : Meet) : State :=
  match s.group co.group with
  | some g => s.readMeets (some x.p) true g.ctx g.list (8 * g.members.length) m
  | none => s

/-- A local member begins: lag table, arrival word, member list, ready check and vote words, and its buffers. One on a partition in a
reset ends with that reset (R522). -/
def State.beginMember (s : State) (co : Coll) (x : Member) (meets : List (Nat × Meet)) : State :=
  if x.stopped then s
  else if s.flag (F.inReset x.p) then s.endMember co x.p stAbortedReset none none
  else
    let s1 := s.clearLag x.p
    let s2 := match s1.arriveAt x.p with
      | some a => s1.agentWrite a (toLE 8 0)
      | none => s1
    let s3 := (s2.readyCheck x.p co.id (meetOf meets (2 * x.p + 1))).voteStart x.p co
    let v := s3.readView co x
    let s4 := (s3.viewMeets co x (meetOf meets (2 * x.p))).modMember co.cid x.p fun y => { y with
      begun := true, view := v.getD [], lag := [],
      doneAt := if (v.getD []).length = 1 then s.now + cyclesPerMark else 0 }
    if v.isSome && (meetOf meets (2 * x.p)).err.isNone then s4 else s4.faultMember co x.p

/-- COLLECTIVE_START (R506): due at START_MARK; one that a FENCE holds does not start (R129). -/
def execCollectiveStart (cid : Nat) (meets : List (Nat × Meet)) (s : State) : Host.Outcome State Fault Refusal :=
  s.act (
    match s.coll cid, s.cmd cid with
    | some co, some c =>
      if !c.started && decide (co.start ≤ s.time.mark) && !s.fenced cid then
        let s1 := (s.modCmd cid fun d => { d with started := true }).modColl cid fun x => { x with begunAt := s.now - s.time.cyc }
        co.locals.foldl (fun a x => a.beginMember co x meets) s1
      else s
    | _, _ => s)

/-! ## Data -/

def covers (v : List (Nat × Nat)) (o : Nat) : Bool := v.any fun e => decide (e.1 ≤ o ∧ o < e.1 + e.2)

/-- The part of the result layout that member m's own source holds, as (offset, length, offset in the source). -/
def ownRange (c : PlanOf) (m : Nat) : Nat × Nat × Nat :=
  if c.op = 2 then (m * c.size, c.size, 0)
  else if c.op = 3 then (0, if m = c.root then c.size else 0, 0)
  else if c.op = 4 then (let r := c.part m; (r.1, r.2, r.1))
  else (0, c.size, 0)

/-- Source bytes [o, o + n) of a member, read by its Flue agent (R442, R492); none where an access faults. -/
def State.srcBytes (s : State) (co : Coll) (x : Member) (o n : Nat) : Option (List Byte) :=
  let a := s.srcAt co x + o
  let ctx := s.collCtx co
  if n = 0 then some []
  else if s.reachRange (some x.p) true ctx a n true false then some (s.readVirt (some x.p) true ctx a n) else none

/-- The part of bytes [o, o + n) of the result layout that member x's source holds, as (offset, length, offset in the source). -/
def State.ownPart (s : State) (co : Coll) (x : Member) (o n : Nat) : Nat × Nat × Nat :=
  let (d0, dn, so) := ownRange (s.collPlan co x) x.m
  let lo := Nat.max o d0
  (lo, Nat.min (o + n) (d0 + dn) - lo, so + (lo - d0))

/-- Bytes [o, o + n) of the result layout as the member holds them before any sum is made: received bytes and sums made, else its own
source. -/
def State.baseBytes (s : State) (co : Coll) (x : Member) (o n : Nat) : Option (List Byte) :=
  let (lo, k, so) := s.ownPart co x o n
  let need := (List.range k).any fun i => !covers x.valid (lo + i)
  match (if need then s.srcBytes co x so k else some []) with
  | none => none
  | some l => some ((List.range n).map fun i =>
      let j := o + i
      if covers x.valid j then x.buf.getD j 0 else if lo ≤ j ∧ j < lo + k then l.getD (j - lo) 0 else 0)

/-- Bytes put into a buffer at `o`. -/
def putBytes (buf : List Byte) (o : Nat) (d : List Byte) : List Byte := buf.take o ++ d ++ buf.drop (o + d.length)

def putSegs : List Byte → List (Nat × Nat) → List Byte → List Byte
  | buf, [], _ => buf
  | buf, (o, n) :: r, d => putSegs (putBytes buf o (d.take n)) r (d.drop n)

/-- One element of a partial sum: received operand first (R497), and whether the result is not finite (R498). -/
def sumElem (dtype a b : Nat) : Nat × Bool :=
  let v := if dtype = 1 then bf16.ieee (ofF32 (toF32 ((bf16.decode a).add (bf16.decode b)))) else toF32 ((ofF32 a).add (ofF32 b))
  let e := if dtype = 1 then bits v 7 8 else bits v 23 8
  (v, e == 255)

/-- Element-wise sum of two byte strings. -/
def sumBytes (dtype : Nat) (a b : List Byte) : List Byte × Bool :=
  let w := if dtype = 1 then 2 else 4
  let r := (List.range (a.length / w)).map fun i => sumElem dtype (leAt a (w * i) w) (leAt b (w * i) w)
  (r.flatMap fun e => toLE w e.1, r.any (·.2))

/-- The sums that are due on the bytes `b` at offset o: each partial sum received, in the order of the plan (R499), and the local one
(R497). -/
def sumAdds (dtype : Nat) (adds : List (Nat × Nat × List Byte)) (o : Nat) (b : List Byte) : List Byte × Bool :=
  adds.foldl (fun r e =>
    if o ≤ e.2.1 ∧ e.2.1 + 64 ≤ o + b.length then
      let v := sumBytes dtype e.2.2 ((r.1.drop (e.2.1 - o)).take 64)
      (putBytes r.1 (e.2.1 - o) v.1, r.2 || v.2)
    else r) (b, false)

/-- Bytes [o, o + n) of the result layout as they are sent or written in this cycle, and whether a sum made for them is not finite: the
local operand of a sum is read now (R493). -/
def State.heldBytes (s : State) (co : Coll) (x : Member) (o n : Nat) : Option (List Byte × Bool) :=
  (s.baseBytes co x o n).map (sumAdds co.dtype x.adds o)

/-- The same for a list of ranges, or for ranges of the source itself. -/
def State.heldSegs (s : State) (co : Coll) (x : Member) (src : Bool) : List (Nat × Nat) → Option (List Byte × Bool)
  | [] => some ([], false)
  | (o, n) :: r =>
    match (if src then (s.srcBytes co x o n).map fun b => (b, false) else s.heldBytes co x o n), s.heldSegs co x src r with
    | some a, some b => some (a.1 ++ b.1, a.2 || b.2)
    | _, _ => none

/-- A line of the result layout lies in one of the ranges. -/
def inSegs (l : List (Nat × Nat)) (o : Nat) : Bool := l.any fun e => decide (e.1 ≤ o ∧ o < e.1 + e.2)

/-- The member holds bytes `d` in ranges `l`, and nothing is left to add there. -/
def Member.hold (x : Member) (l : List (Nat × Nat)) (d : List Byte) : Member :=
  { x with buf := putSegs x.buf l d, valid := l ++ x.valid, adds := x.adds.filter fun e => !inSegs l e.2.1 }

/-- A sum that has been sent or written is not made again, so it keeps its value whatever becomes of the source. -/
def Member.keepSums (x : Member) (op : Nat) (src : Bool) (l : List (Nat × Nat)) (d : List Byte) (bad : Bool) : Member :=
  let y := { x with nf := x.nf || bad }
  if op < 2 ∧ src = false then y.hold l d else y

/-- Virtual ranges of the source that are read for ranges of the result layout, or of the source itself. -/
def State.srcReads (s : State) (co : Coll) (x : Member) (src : Bool) (l : List (Nat × Nat)) : List (Nat × Nat) :=
  l.filterMap fun e =>
    let (lo, k, so) := if src then (e.1, e.2, e.1) else s.ownPart co x e.1 e.2
    if k = 0 ∨ (src = false ∧ (covers x.valid lo && covers x.valid (lo + k - 1)) = true) then none
    else some (s.srcAt co x + so, k)

/-- Those reads: requests to hosts, uses of the L2, and what they meet (R55, R534, R537, R561). -/
def State.readSource (s : State) (co : Coll) (x : Member) (src : Bool) (l : List (Nat × Nat)) (m : Meet) : State :=
  match s.srcReads co x src l with
  | [] => s
  | e :: r =>
    let use (a : State) (e : Nat × Nat) (m : Meet) : State := a.readMeets (some x.p) true (a.collCtx co) e.1 e.2 m
    r.foldl (fun a e => use a e Meet.none) (use s e m)

/-- Ranges of the result layout or of the source, as the member on p sends or writes them now: none where a source read faults or comes
back with an error. -/
def State.takeHeld (s : State) (co : Coll) (x : Member) (src : Bool) (l : List (Nat × Nat)) (m : Meet) : Option (List Byte × Bool) :=
  if m.err.isSome && !(s.srcReads co x src l).isEmpty then none else s.heldSegs co x src l

/-! ## Sending (R501, R508, R509, R511) -/

/-- The inputs of a chunk have arrived: everything received in earlier steps into the bytes it sends, and for a header-only
chunk of the flag round everything received before. -/
def inputsOf (ins : List Chunk) (flag : Bool) (ch : Chunk) : List Chunk :=
  ins.filter fun i => decide (i.step < ch.step) && (flag || (!ch.src && segsMeet i.wr ch.rd))

def Member.has (x : Member) (i : Chunk) : Bool := x.got.contains (i.idx, i.peer)

/-- Chunks that a local member has still to send, in plan order, and the inputs that one of them still waits for. -/
def State.unsent (s : State) (co : Coll) (x : Member) : List Chunk :=
  (s.outOf co x).filter fun ch => !x.sent.contains (ch.idx, ch.peer)
def State.waitsFor (s : State) (co : Coll) (x : Member) (ch : Chunk) : List Chunk :=
  (inputsOf (s.inOf co x) ((s.collPlan co x).isFlag ch.step) ch).filter fun i => !x.has i

/-- The next chunk that a local member sends: the first in plan order whose planned cycle and whose inputs have come (R501). -/
def State.nextSend (s : State) (co : Coll) (x : Member) : Option Chunk :=
  if x.begun && !x.stopped then
    (s.unsent co x).find? fun ch => decide (co.begunAt + ch.at_ ≤ s.now) && (s.waitsFor co x ch).isEmpty
  else none

/-- The 32-byte header of a chunk (R508). -/
def chunkHeader (co : Coll) (m idx stamp : Nat) (nf poison : Bool) (payload : List Byte) : List Byte :=
  let h := toLE 4 co.id ++ toLE 2 co.group ++ toLE 1 (co.op + 8 * co.plan) ++ toLE 1 co.dtype ++ toLE 4 m ++ toLE 4 idx ++
    toLE 8 stamp ++ toLE 3 co.start ++ toLE 1 (b2n nf + 2 * b2n poison)
  h ++ toLE 4 (crc32c (h ++ payload))

/-- What the step of a member makes it mark its chunks with (R431), in this cycle or in an earlier one (R511). -/
def State.marksOf (s : State) (co : Coll) (x : Member) : Bool × Bool :=
  let fl := s.stepMarks x.p co.id
  (x.nfMark || fl.1, x.poisonMark || fl.2)

/-- The marks hold from the first cycle in which their reason does (R511). -/
def State.latchFlue (s : State) : State :=
  s.colls.foldl (fun a co => co.locals.foldl (fun (b : State) x =>
    if x.begun && !x.stopped then
      b.modMember co.cid x.p fun y => { y with nfMark := (s.marksOf co x).1, poisonMark := (s.marksOf co x).2 }
    else b) a) s

/-- CHUNK_SEND (R501): a chunk of the member on p, at its planned cycle or once its inputs have arrived. The source is read, and sums
are made, in this cycle (R493); `m` is what the reads meet. A source that cannot be read faults the member (R521). -/
def execChunkSend (cid p : Nat) (m : Meet) (s : State) : Host.Outcome State Fault Refusal :=
  s.act (
    match s.coll cid with
    | some co =>
      (match co.member p with
       | some x =>
         (match s.nextSend co x with
          | some ch =>
            let s1 := s.readSource co x ch.src ch.rd m
            (match s.takeHeld co x ch.src ch.rd m with
             | some (d, bad) =>
               let fl := s.marksOf co x
               let y := { x.keepSums co.op ch.src ch.rd d bad with
                 sent := (ch.idx, ch.peer) :: x.sent, nfMark := fl.1, poisonMark := fl.2,
                 nf := x.nf || fl.1 || bad, poison := x.poison || fl.2 }
               (s1.modMember cid p fun _ => y).toMember co y ch.peer 2 (chunkHeader co x.m ch.idx s.stamp y.nf y.poison d ++ d)
             | none => s1.faultMember co p)
          | none => s)
       | none => s)
    | none => s)

/-- Member named by a stall notice that the sender of input i has sent for it, else that sender (R516). -/
def Member.blamed (x : Member) (i : Chunk) : Nat :=
  match x.stalls.find? fun e => e.1 == i.peer && e.2.1 == i.idx with
  | some e => e.2.2
  | none => i.peer

/-- A planned send that has been held for 1,024 cycles and for which no stall notice has been sent, and an input that it awaits. -/
def State.heldSend (s : State) (co : Coll) (x : Member) : Option (Chunk × Chunk) :=
  if x.begun && !x.stopped then
    ((s.unsent co x).filterMap fun ch =>
      match s.waitsFor co x ch with
      | i :: _ =>
        if decide (co.begunAt + ch.at_ + cyclesPerMark ≤ s.now) && !x.stalled.contains (ch.idx, ch.peer) then some (ch, i) else none
      | [] => none).head?
  else none

/-- STALL_NOTICE_SEND (R516): a planned send held for 1,024 cycles by a missing input. -/
def execStallNoticeSend (cid p : Nat) (s : State) : Host.Outcome State Fault Refusal :=
  s.act (
    match s.coll cid with
    | some co =>
      (match co.member p with
       | some x =>
         (match s.heldSend co x with
          | some (ch, i) =>
            (s.modMember cid p fun y => { y with stalled := (ch.idx, ch.peer) :: y.stalled }).toMember co x ch.peer 3
              (stallMsg co x.m (x.blamed i) ch.idx)
          | none => s)
       | none => s)
    | none => s)

/-! ## Receiving (R510 to R516) -/

/-- FLUE_LAG and FLUE_LAGGARD from the lateness kept per sender (R515). -/
def State.showLag (s : State) (p : Nat) (lag : List (Nat × Nat)) : State :=
  let l := sortBy (fun a b => decide (b.2 < a.2 ∨ (a.2 = b.2 ∧ a.1 ≤ b.1))) lag
  let word (e : Nat × Nat) : Word := BitVec.ofNat 64 (e.1 % 2 ^ 18 + 2 ^ 18 + Nat.min e.2 (2 ^ 32 - 1) * 2 ^ 32)
  let s1 := (List.range 16).foldl (fun a j => a.setReg (F.lagReg p j) (match l[j]? with
    | some e => word e
    | none => 0)) s
  s1.setReg (F.laggardReg p) (match l.head? with
    | some e => word e
    | none => 0)

/-- The first poison of a member is forwarded in the flag-round pattern, and sets its POISON result (R512). -/
def State.poisonMember (s : State) (co : Coll) (x : Member) (msg : List Byte) : State :=
  let s1 := s.modMember co.cid x.p fun y => { y with poison := true, poisonFwd := true }
  if x.poisonFwd then s1 else s1.toMembers co x (flagTargets x.m (s.collPlan co x).m) 3 msg

def flueStray (s : State) (p id sender : Nat) : State := s.soot1 0x38 p 0 0 p (toLE 4 id ++ toLE 4 sender)

/-- The 64-byte lines of ranges `l`, with the bytes `d` received for them. -/
def linesFrom : List (Nat × Nat) → List Byte → List (Nat × List Byte)
  | [], _ => []
  | (o, n) :: r, d => ((List.range (n / 64)).map fun i => (o + 64 * i, (d.drop (64 * i)).take 64)) ++ linesFrom r (d.drop n)

/-- Lines of the chunk at place k of the plan join those that wait to be added, whatever has come before it (R499). -/
def Member.addLines (x : Member) (k : Nat) (l : List (Nat × List Byte)) : Member :=
  { x with adds := (x.adds.filter fun e => decide (e.1 ≤ k)) ++ l.map (fun e => (k, e)) ++ x.adds.filter fun e => decide (k < e.1) }

/-- A received chunk of the plan: flags, lateness and data. A partial sum waits for its local operand until it is sent or written
(R493). -/
def State.takeChunk (s : State) (co : Coll) (x : Member) (ch : Chunk) (h payload : List Byte) : State :=
  let late : Int := (leAt h 16 8 : Int) - (co.start * 1024 + ch.at_)
  let old := (tfind x.lag ch.peer).getD 0
  let lag := if 16 < late ∧ old < late.toNat then tput x.lag ch.peer late.toNat else x.lag
  let n := segLen ch.wr
  let d := (payload ++ List.replicate n 0).take n
  let got := (ch.idx, ch.peer) :: x.got
  let ins := s.inOf co x
  let stepDone := ins.all fun i => i.step != ch.step || got.contains (i.idx, i.peer)
  let all := ins.all fun i => got.contains (i.idx, i.peer)
  let z := if ch.add then x.addLines (ins.findIdx fun i => i.idx == ch.idx && i.peer == ch.peer) (linesFrom ch.wr d) else x.hold ch.wr d
  let y := { z with
    got := got, lag := lag, nf := x.nf || bit (leAt h 27 1) 0, poison := x.poison || bit (leAt h 27 1) 1,
    gotAt := if stepDone then x.gotAt ++ [(ch.step, s.now)] else x.gotAt,
    doneAt := if all then s.now + cyclesPerMark else x.doneAt }
  (s.modMember co.cid x.p fun _ => y).showLag x.p lag

/-- CHUNK_RECEIVE (R510 to R515). A member that finds a CRC mismatch sends a poison message of its own (R512). A chunk that has
come already, or that comes for a member that has stopped, changes nothing (DEDUCED, assumption 65). -/
def execChunkReceive (p from_ : Nat) (header payload : List Byte) (s : State) : Host.Outcome State Fault Refusal :=
  s.act (
    let id := leAt header 0 4
    let sender := leAt header 8 4
    match s.collOn p id with
    | none => flueStray s p id sender
    | some (co, x) =>
      let g := s.memGroup co x
      if g.members.length ≤ sender ∨ (memberAt g sender).1 ≠ from_ then flueStray s p id sender
      else
        let same := leAt header 4 2 == co.group && leAt header 6 1 == co.op + 8 * co.plan && leAt header 7 1 == co.dtype &&
          leAt header 24 3 == co.start % 2 ^ 24
        match (s.inOf co x).find? fun i => i.idx == leAt header 12 4 && i.peer == sender with
        | some ch =>
          if !same then s.faultMember co p
          else if x.has ch || x.stopped then s
          else if leAt header 28 4 = crc32c (header.take 28 ++ payload) then s.takeChunk co x ch header payload
          else
            (s.toMembers co x (flagTargets x.m (s.collPlan co x).m) 3 (poisonMsg co x.m)).takeChunk co { x with poison := true } ch header
              payload
        | none => s.faultMember co p)

/-- STALL (R516): the blamed member of a held chunk is remembered. -/
def execStall (p coll sender blamed chunk : Nat) (s : State) : Host.Outcome State Fault Refusal :=
  s.act (
    match s.collOn p coll with
    | some (co, _) => s.modMember co.cid p fun y => { y with stalls := y.stalls ++ [(sender, chunk, blamed)] }
    | none => s)

/-- A poison message or tombstone after the collective has completed on p (R513): POISON_LATE, a POISON_LATE entry, and the
POISON flag of a step in flight that lists it. -/
def State.latePoison (s : State) (p coll origin : Nat) : State :=
  let s1 := (s.setEvt (F.flPoisonLate p) 12).soot1 0x3C p 0 0 p (toLE 4 coll ++ toLE 4 origin)
  match s1.stepOn p with
  | some t => if (t.view p).listed coll then s1.setStepFlag t p (F.poison p) else s1
  | none => s1

/-- POISON (R512, R513). -/
def execPoison (p coll origin : Nat) (s : State) : Host.Outcome State Fault Refusal :=
  s.act (
    match s.collOn p coll with
    | some (co, x) => s.poisonMember co x (poisonMsg co origin)
    | none => s.latePoison p coll origin)

/-- TOMBSTONE (R580): POISON result, no more sending, the first copy forwarded, FAULT_POISON at the next mark. -/
def execTombstone (p coll sender : Nat) (s : State) : Host.Outcome State Fault Refusal :=
  s.act (
    match s.collOn p coll with
    | some (co, x) =>
      let s1 := s.modMember co.cid p fun y => { y with poison := true, tombFwd := true }
      (if x.tombFwd then s1 else s1.toMembers co x (flagTargets x.m (s.collPlan co x).m) 3 (tombMsg co sender)).endMember co p
        stFaultPoison (some (s.time.mark + 1)) (some sender)
    | none => s.latePoison p coll sender)

/-! ## Arrival counting (R519, R520) -/

/-- Virtual address of offset o of the result layout in the member's destination: reduce-scatter keeps only its own part (R491). -/
def State.resultAt (s : State) (co : Coll) (x : Member) (o : Nat) : Nat :=
  s.dstAt co x + (o - (if co.op = 1 then ((s.collPlan co x).part x.m).1 else 0))

/-- Result bytes written at the member's destination: offset and data in the result layout. -/
def State.putResult (s : State) (co : Coll) (x : Member) (o : Nat) (d : List Byte) : State :=
  let va := s.resultAt co x o
  s.writeVirt (some x.p) true (s.collCtx co) va d

/-- Physical extents to which the member writes ranges of the result layout. -/
def State.resultExtents (s : State) (co : Coll) (x : Member) (l : List (Nat × Nat)) : List (Nat × Nat) :=
  l.flatMap fun e => s.extents (some x.p) true (s.collCtx co) (s.resultAt co x e.1) e.2 false true

def State.putSegsAt (s : State) (co : Coll) (x : Member) : List (Nat × Nat) → List Byte → State
  | [], _ => s
  | (o, n) :: r, d => (s.putResult co x o (d.take n)).putSegsAt co x r (d.drop n)

/-- Every byte of ranges of the result layout can be written at the destination. -/
def State.resultOk (s : State) (co : Coll) (x : Member) (l : List (Nat × Nat)) : Bool :=
  l.all fun e => s.reachRange (some x.p) true (s.collCtx co) (s.resultAt co x e.1) e.2 false true

/-- The member writes ranges of its result: the source is read and sums are made now. It does not, where an access faults or a read comes
back with an error; nor has it, where an expander answers a write with an error response (R554). The cycles of a late answer are those of
the writes where a destination leaves the partitions, else those of the reads. -/
def State.writeResult (s : State) (co : Coll) (x : Member) (l : List (Nat × Nat)) (m : Meet) : State × Bool :=
  let ends := s.resultExtents co x l
  let pas := ends.map (·.1)
  let s1 := s.readSource co x false l { m with late := m.late - lateAt m pas }
  match s.takeHeld co x false l m with
  | some (d, bad) =>
    if s.resultOk co x l then
      ((((s1.putSegsAt co x l d).writeMeets (some x.p) ends m).modMember co.cid x.p fun y => y.keepSums co.op false l d bad), !badAt m pas)
    else (s1, false)
  | none => (s1, false)

/-- The member's own unit, which is final before the first addition (R520): its part of an all-reduce or all-to-all, and its own
contribution to an all-gather. -/
def ownUnit (c : PlanOf) (m : Nat) : Nat × Nat :=
  if c.op = 0 ∨ c.op = 4 then c.part m else if c.op = 2 then (m * c.size, c.size) else (0, 0)

/-- Ranges of the result that ARRIVAL_ADD of step i makes final in the destination: its chunks, and before the first addition the
member's own unit. -/
def State.arrivedSegs (s : State) (co : Coll) (x : Member) (i : Nat) : List (Nat × Nat) :=
  let r := ownUnit (s.collPlan co x) x.m
  (if x.arrSteps.isEmpty && r.2 != 0 then [r] else []) ++ ((s.inOf co x).filter fun ch => ch.step == i).flatMap (·.wr)

/-- The cycle from which the member's own unit is final: the last chunk of every step that brings a partial sum into it has come; none
while one is missing (R519, R520). -/
def State.ownFinal (s : State) (co : Coll) (x : Member) : Option Nat :=
  let own := (s.collPlan co x).part x.m
  let adds := (s.inOf co x).filter fun ch => ch.add && segsMeet ch.wr [own]
  if adds.all fun ch => (tfind x.gotAt ch.step).isSome then some (maxOf (adds.filterMap fun ch => tfind x.gotAt ch.step)) else none

/-- The step whose units come into the arrival word now: 256 cycles after the planned or actual arrival of its last chunk (R519), and of
the last chunk that the member's own unit needs, which is final before the first addition (R520). -/
def State.arrivedStep (s : State) (co : Coll) (x : Member) : Option Nat :=
  let ins := s.inOf co x
  let planned (i : Nat) : Nat := co.begunAt + maxOf ((ins.filter fun ch => ch.step == i).map (·.due))
  match s.ownFinal co x with
  | some own =>
    (x.gotAt.find? fun e => !x.arrSteps.contains e.1 && (s.collPlan co x).unitsIn x.m e.1 != 0 &&
      decide (Nat.max own (Nat.max e.2 (planned e.1)) + 256 ≤ s.now)).map (·.1)
  | none => none

/-- ARRIVAL_ADD (R519): the pieces that a step made final are in the destination and the arrival word is increased by their units. -/
def execArrivalAdd (cid p : Nat) (meets : List (Nat × Meet)) (s : State) : Host.Outcome State Fault Refusal :=
  s.act (
    match s.coll cid with
    | some co =>
      (match co.member p, s.arriveAt p with
       | some x, some w =>
         (match s.arrivedStep co x with
          | some i =>
            if x.outcome.isSome then s
            else
              let u := (s.collPlan co x).unitsIn x.m i
              let l := s.arrivedSegs co x i
              let r := s.writeResult co x l (meetOf meets p)
              if r.2 then
                (r.1.agentWrite w (toLE 8 ((r.1.readLE w 8 + u) % 2 ^ 64))).modMember cid p fun y =>
                  { y with arrSteps := y.arrSteps ++ [i], arrived := y.arrived + u }
              else r.1.faultMember co p
          | none => s)
       | _, _ => s)
    | none => s)

/-! ## Completion (R502, R517, R518, R521) -/

/-- Every chunk of the member has been sent and received, and its result is written by now. -/
def State.memberDone (s : State) (co : Coll) (x : Member) : Bool :=
  x.begun && !x.stopped && (s.inOf co x).all (fun i => x.has i) && (s.unsent co x).isEmpty && x.doneAt != 0 && decide (x.doneAt ≤ s.now)

/-- The ranges of the whole result of a member. -/
def State.resultSegs (s : State) (co : Coll) (x : Member) : List (Nat × Nat) :=
  let c := s.collPlan co x
  [if co.op = 1 then c.part x.m else (0, dstLen co.op co.size c.m)]

/-- The whole result of a finished member goes to its destination, and its outcome is fixed (R521). -/
def State.finishMember (s : State) (co : Coll) (x : Member) (m : Meet) : State :=
  let l := s.resultSegs co x
  let r := s.writeResult co x l m
  if r.2 then
    let nf := x.nf || (s.takeHeld co x false l m).any (·.2)
    let st := if nf then stFaultNonfinite else if x.poison then stFaultPoison else stOk
    r.1.modMember co.cid x.p fun y => { y with outcome := some st, outMark := some s.time.mark }
  else r.1.endMember co x.p stFaultContext (some s.time.mark) none

/-- A member's outcome enters FLUE_STATUS and the step that lists the collective (R430, R485). -/
def State.recordMember (s : State) (co : Coll) (x : Member) : State :=
  let st := x.outcome.getD stOk
  let s1 := ((s.setFld (F.flLast x.p) st).setFld (F.flNf x.p) (b2n x.nf)).setFld (F.flPoison x.p) (b2n x.poison)
  ((s1.stepOutcome x.p co st).modPart x.p fun y => { y with poisonIds := y.poisonIds.filter fun i => i != co.id }).modMember
    co.cid x.p fun y => { y with recorded := true }

/-- Order of outcomes (R521, R579). -/
def collOrder : List Nat :=
  [stAbortedTeardown, stAbortedReset, stFaultContext, stTimeoutPeer, stFaultNonfinite, stFaultPoison, stOk]

/-- FLUE_LATE of a collective that has finished after its mark C (R518). -/
def State.flueLate (s : State) (co : Coll) : State :=
  match co.locals.find? fun x => !x.stopped && x.outMark.any fun m => decide (co.done < m) with
  | some x =>
    let w := (s.reg (F.laggardReg x.p)).toNat
    s.soot1 0x39 x.p 0 0 x.p (toLE 4 co.id ++ toLE 4 (s.laggard x.p) ++ toLE 4 (if bit w 18 then bits w 32 32 else 0))
  | none => s

/-- The command completes once every local member has an outcome (R502, R518, R521), with LATE after C (R96). -/
def State.postColl (s : State) (co : Coll) : State :=
  if co.locals.all fun x => x.recorded then
    let st := (collOrder.find? fun z => co.locals.any fun x => x.outcome == some z).getD stOk
    let s1 := s.flueLate co
    { s1 with colls := s1.colls.filter fun d => d.cid != co.cid }.finish co.cid st (s.collResult co st) (decide (co.done < s.time.mark))
  else s

/-- What has come for collective `cid` at the present mark: results that are written, outcomes that count, the completion. -/
def State.settleColl (s : State) (cid : Nat) (meets : List (Nat × Meet)) : State :=
  match s.coll cid with
  | none => s
  | some co =>
    let s1 := if co.done ≤ s.time.mark then
        co.locals.foldl (fun a x => if x.outcome.isNone && a.memberDone co x then a.finishMember co x (meetOf meets x.p) else a) s
      else s
    match s1.coll cid with
    | none => s1
    | some c1 =>
      let s2 := c1.locals.foldl (fun a x =>
        if x.outcome.isSome && !x.recorded && x.outMark.any (fun m => decide (m ≤ s.time.mark)) then a.recordMember c1 x else a) s1
      match s2.coll cid with
      | some c2 => s2.postColl c2
      | none => s2

/-- COLLECTIVE_COMPLETE (R502): due at mark C, and at the mark at which an early outcome of every local member counts. -/
def execCollectiveComplete (cid : Nat) (meets : List (Nat × Meet)) (s : State) : Host.Outcome State Fault Refusal :=
  s.act (s.settleColl cid meets)

/-- COLLECTIVE_LATE_COMPLETE (R518): a collective that finishes after C. -/
def execCollectiveLateComplete (cid : Nat) (meets : List (Nat × Meet)) (s : State) : Host.Outcome State Fault Refusal :=
  s.act (match s.coll cid with
    | some co => if co.done < s.time.mark then s.settleColl cid meets else s
    | none => s)

/-- Missing member of a local member at the deadline: the blamed member of the earliest chunk it still awaits (R517). -/
def State.missing (s : State) (co : Coll) (x : Member) : Option Nat :=
  (sortBy (fun (a b : Chunk) => decide (a.idx ≤ b.idx)) ((s.inOf co x).filter fun i => !x.has i)).head?.map x.blamed

/-- A member at the deadline: one that has not finished ends with TIMEOUT_PEER, and the outcome of one that a teardown has stopped
counts (R507, R517). -/
def State.deadMember (s : State) (co : Coll) (x : Member) : State :=
  if x.outcome.isNone then s.endMember co x.p stTimeoutPeer (some s.time.mark) (some ((s.missing co x).getD 0xFFFFFFFF))
  else if x.outcome = some stAbortedTeardown ∧ x.outMark = none then
    s.modMember co.cid x.p fun y => { y with outMark := some s.time.mark }
  else s

/-- COLLECTIVE_DEADLINE (R517): due at DEADLINE_MARK. -/
def execCollectiveDeadline (cid : Nat) (meets : List (Nat × Meet)) (s : State) : Host.Outcome State Fault Refusal :=
  s.act (
    match s.coll cid with
    | some co =>
      if co.deadline ≤ s.time.mark then
        let s1 := s.settleColl cid meets
        match s1.coll cid with
        | some c1 => (c1.locals.foldl (fun a x => a.deadMember c1 x) s1).settleColl cid meets
        | none => s1
      else s
    | none => s)

/-! ## Resets and teardowns (R522, R579) -/

/-- Members of collectives that `sel` names stop; their outcome counts from the end of what stops them (R522). -/
def State.stopMembers (s : State) (sel : Coll → Member → Bool) (st : Nat) : State :=
  s.colls.foldl (fun a co => co.locals.foldl (fun (b : State) x => if sel co x then b.endMember co x.p st none none else b) a) s

/-- The outcomes of members that `sel` names count from now: the reset or teardown that made them has ended (R522, R579). -/
def State.releaseMembers (s : State) (sel : Coll → Member → Bool) : State :=
  (s.colls.map (·.cid)).foldl (fun a cid => a.settleColl cid []) (s.colls.foldl (fun a co => co.locals.foldl (fun (b : State) x =>
    if sel co x && x.outcome.isSome && x.outMark.isNone then
      b.modMember co.cid x.p fun y => { y with outMark := some s.time.mark }
    else b) a) s)

/-- At the teardown of context n, the partitions of its steps in flight stop the collectives that those steps list or vote by,
and send tombstones to every member that awaits their chunks (R579). -/
def State.sendTombstones (s : State) (n : Nat) : State :=
  s.colls.foldl (fun a co => co.locals.foldl (fun (b : State) x =>
    match b.stepOn x.p with
    | some t =>
      if t.ctx == n && ((t.view x.p).listed co.id || t.isVote x.p co) && x.outcome.isNone then
        let peers := dedup ((b.unsent co x).map (·.peer))
        (b.endMember co x.p stAbortedTeardown none none).toMembers co x peers 3 (tombMsg co x.m)
      else b
    | none => b) a) s

/-- The outcomes of a teardown's members count with its end (R579): those whose partition holds no step of another context. -/
def State.endTombstones (s : State) (n : Nat) : State :=
  s.releaseMembers fun _ x => x.outcome == some stAbortedTeardown && (match s.stepOn x.p with
    | some t => t.ctx == n
    | none => true)

/-- The members of an aborted collective end with it; outcomes not yet recorded are those of the abort (R522). -/
def State.dropColl (s : State) (cid st : Nat) : State :=
  match s.coll cid with
  | some co =>
    let s1 := co.locals.foldl (fun a x => a.endMember co x.p st (some s.time.mark) none) s
    match s1.coll cid with
    | some c1 => c1.locals.foldl (fun (a : State) (x : Member) => if x.recorded then a else a.recordMember c1 x) s1
    | none => s1
  | none => s

end Sys2Proof.Machine
end

