-- ==== Sys2Proof/Machine/CommandDma.lean ====
section
/-!
DEFINITION. CommandDma.lean: the command DMA channel of a partition (R316, R317): DMA_FILL, DMA_COPY and the copies of
adapters (R479).
-/
namespace Sys2Proof.Machine
open Sys2Proof.Config

/-! ## Choosing the partition (R316) -/

/-- First choice for a destination, through the translation store alone (R713). -/
def State.dmaHome (s : State) (n va : Nat) : Nat :=
  match s.xlatTable n va with
  | some x =>
    let a := x.pa va
    (match gddrPart a, tileOf a, cxlOf a, hostOf a with
     | some p, _, _, _ => p
     | _, some (t, _), _, _ => t / 128
     | _, _, some (q, _), _ => if q < 2 then 0 else 3
     | _, _, _, some (k, _) => if k = 0 then 0 else 3
     | _, _, _, _ => 0)
  | none => 0

/-- The partition that runs the command: the first choice, or the nearest one that is neither Off nor in a reset. -/
def State.dmaPart (s : State) (n va : Nat) : Option Nat :=
  let p0 := s.dmaHome n va
  let up := allParts.filter fun p => s.gddrUp p
  (sortBy (fun a b => decide (hops p0 a < hops p0 b ∨ (hops p0 a = hops p0 b ∧ a ≤ b))) up).head?

/-! ## Jobs -/

/-- Duration of a job on partition p: R312 without the cluster window exception; the block of an adapter copy lies in p's
own GDDR7. -/
def State.jobTime (s : State) (p : Nat) (j : DmaJob) : Nat :=
  if j.adapter then
    16 + s.rangeLat p none j.ctx j.src j.size true + targetCount p none none false false j.dst +
      4 * Nat.max (linesOf j.src j.size) (linesOf j.dst j.size)
  else s.descTime p none j.ctx j.desc

/-- A job joins the queue of partition p's channel. -/
def State.queueJob (s : State) (p : Nat) (j : DmaJob) : State := s.modPart p fun x => { x with dma := x.dma ++ [j] }

/-- A new job of command c. -/
def State.newJob (s : State) (c : Cmd) (fill adapter : Bool) (src dst size pattern : Nat) : DmaJob :=
  { cid := c.cid, ctx := c.ctx, isFill := fill, adapter := adapter, src := src, dst := dst, size := size, pattern := pattern,
    ready := s.now + cyclesPerMark, running := false, endAt := 0, hap := noHap, run := DmaRun.start 0 0 .free }

/-- The ranges that a job reads and writes, as virtual addresses. -/
def DmaJob.ranges (j : DmaJob) : List (Nat × Nat) :=
  if j.adapter then [(j.src, j.size)] else dSources j.desc (fun _ => 0) ++ dDests j.desc

/-- What a job leaves that is stopped, or whose command does not end OK: its destination undefined (R317, R622). -/
def State.undefJob (s : State) (p : Nat) (j : DmaJob) : State :=
  if !j.running then s
  else if j.adapter then s.undefMem j.dst j.size
  else s.undefDesc p j.ctx j.desc

/-- The jobs of every partition that `sel` names leave their channels; running ones stop. -/
def State.dropJobs (s : State) (sel : Nat → DmaJob → Bool) : State :=
  allParts.foldl (fun a p =>
    let gone := (a.part p).dma.filter (sel p)
    (gone.foldl (fun b j => b.undefJob p j) a).modPart p fun x => { x with dma := x.dma.filter fun j => !sel p j }) s

/-- At the start of a context reset or teardown the channels drop the context's jobs (R317). -/
def State.stopJobs (s : State) (n : Nat) : State := s.dropJobs fun _ j => j.ctx == n

/-- Adapter versions that command c is installing are dropped, and their blocks freed (R480). -/
def State.dropInstall (s : State) (c : Cmd) : State :=
  let s1 := s.dropJobs fun _ j => j.cid == c.cid
  allParts.foldl (fun a p => a.modPart p fun x => { x with
    adapters := x.adapters.filter fun d => !(d.state == 0 && d.ctx == c.ctx && d.id == c.fld 24 2 && d.ver == c.fld 26 2) }) s1

/-- The commands on the channel of p end with a status, in submission order (R316, R618). -/
def State.abortChannel (s : State) (p st : Nat) : State :=
  let cids := dedup (sortBy (fun (a b : Nat) => decide (a ≤ b)) ((s.part p).dma.map (·.cid)))
  cids.foldl (fun a cid =>
    match a.cmd cid with
    | some c =>
      let a1 := if c.op = opDmaFill ∨ c.op = opDmaCopy then a.dropJobs (fun _ j => j.cid == cid) else a.dropInstall c
      a1.finish cid st [] (a.pastCount c)
    | none => a.dropJobs fun _ j => j.cid == cid) s

/-! ## DMA_FILL and DMA_COPY -/

def State.checkFill (s : State) (c : Cmd) : Verdict :=
  let d := c.fld 16 8
  let n := c.fld 24 8
  verdict ((16, badAddr d) :: reservedBad c [(16, 24)]) (s.flag (F.cDma c.ctx)) [(16, !s.mapped c.ctx d n false true)] (n == 0)
    ((s.dmaPart c.ctx d).isSome) true true

def State.checkCopy (s : State) (c : Cmd) : Verdict :=
  let a := c.fld 8 8
  let d := c.fld 16 8
  let n := c.fld 24 8
  verdict ([(8, badAddr a), (16, badAddr d), (8, decide (a < d + n ∧ d < a + n))] ++ reservedBad c [(8, 24)])
    (s.flag (F.cDma c.ctx)) [(8, !s.mapped c.ctx a n true false), (16, !s.mapped c.ctx d n false true)] (n == 0)
    ((s.dmaPart c.ctx d).isSome) true true

/-- An accepted command joins its channel (R316). -/
def State.startDma (s : State) (c : Cmd) (fill : Bool) : State :=
  match s.dmaPart c.ctx (c.fld 16 8) with
  | some p =>
    (s.queueJob p (s.newJob c fill false (if fill then 0 else c.fld 8 8) (c.fld 16 8) (c.fld 24 8) (if fill then c.fld 32 8 else 0))).modCmd
      c.cid fun d => { d with phase := .running }
  | none => s

def execDmaFill (n : Nat) (s : State) : Host.Outcome State Fault Refusal :=
  s.act (match s.freshCmd n opDmaFill with
    | some c => s.settle c (s.checkFill c) fun t => t.startDma c true
    | none => s)

def execDmaCopy (n : Nat) (s : State) : Host.Outcome State Fault Refusal :=
  s.act (match s.freshCmd n opDmaCopy with
    | some c => s.settle c (s.checkCopy c) fun t => t.startDma c false
    | none => s)

/-- A job of command cid has started and ends at core cycle e: the count of the command is the end of the last of its jobs, and stands
once all of them have started (R130, R316). -/
def State.countJob (s : State) (cid e : Nat) : State :=
  let all := allParts.all fun p => (s.part p).dma.all fun j => j.cid != cid || j.running
  s.modCmd cid fun c => { c with started := all, endAt := Nat.max c.endAt e }

/-- DMA_COMMAND_START (R316): the first command of the channel starts 1,024 cycles after its admission at the earliest; one
that a FENCE holds waits (R129). -/
def execDmaCommandStart (p : Nat) (h : Hap) (s : State) : Host.Outcome State Fault Refusal :=
  s.act (
    match (s.part p).dma with
    | j :: r =>
      if !j.running && decide (j.ready ≤ s.now) && !s.fenced j.cid && s.gddrUp p then
        let e := s.now + s.jobTime p j
        (s.modPart p fun x => { x with
          dma := { j with running := true, endAt := e, hap := h, run := DmaRun.start (e + (hapWait h) - 4 * j.steps) (jobKey p) (.job p j.cid) } :: r }).countJob j.cid e
      else s
    | [] => s)

/-- A running command has come to its end: an adapter copy only reports to its command; the destination of one that has faulted is
undefined (R316, R622). -/
def State.endJob (s : State) (p : Nat) (j : DmaJob) : State :=
  let late := decide (j.endAt < s.now)
  let q := ((s.modPart p fun x => { x with dma := x.dma.filter fun i => i != j }).lateTransfer p j.ctx j.hap j.ranges).badWrite p j.ctx
    j.hap (if j.adapter then [] else dDests j.desc)
  let bad := j.run.bad || q.2
  let s1 := if bad then q.1.undefJob p j else q.1
  if j.adapter then s1.modCmd j.cid fun c => { c with faulted := c.faulted || bad, late := c.late || late }
  else s1.finish j.cid (if bad then stFaultContext else stOk) [] late

/-- DMA_COMMAND_END (R316): the end of the duration, or later where a host, an expander or a queue has made it late, with LATE (R96,
R530, R552, R561). -/
def execDmaCommandEnd (p : Nat) (s : State) : Host.Outcome State Fault Refusal :=
  s.act (
    match (s.part p).dma with
    | j :: _ =>
      if j.running && decide (j.endAt + transferLate j.hap j.run ≤ s.now) && s.gddrUp p then
        let s1 := s.settleWrites
        match (s1.part p).dma with
        | i :: _ => if i.cid = j.cid && decide (i.endAt + transferLate i.hap i.run ≤ s.now) then s1.endJob p i else s1
        | [] => s1
      else s
    | [] => s)

end Sys2Proof.Machine
end

