-- ==== Sys2Proof/Machine/Lamplighter.lean ====
section
/-!
DEFINITION. Lamplighter.lean: publication (R464, R467 to R472), variants (R465, R466), REFERENCE_SET (R475), the copy engine
(R468) and adapters (R477 to R481).
-/
namespace Sys2Proof.Machine
open Sys2Proof.Config

/-! ## Memory moves -/

/-- Bytes [src, src + n) copied to [dst, dst + n), undefined bytes staying undefined. -/
def Memory.copyRange (m : Memory) (src dst n : Nat) : Memory :=
  let m1 := m.zeroRange dst n
  let u := (m.undef.filterMap fun u =>
    let lo := Nat.max u.1 src
    let hi := Nat.min (u.1 + u.2.1) (src + n)
    if lo < hi then some (dst + (lo - src), hi - lo, u.2.2) else none)
  let m2 := { m1 with undef := u ++ m1.undef }
  (m.cells.filter fun c => decide (src ≤ c.1 ∧ c.1 < src + n)).foldl (fun a c => a.write (dst + (c.1 - src)) c.2) m2

/-- Extents copied one after the other to an address. -/
def State.copyExtents (s : State) : Nat → List (Nat × Nat) → State
  | _, [] => s
  | dst, (a, n) :: r =>
    ((({ s with mem := s.mem.copyRange (s.key a) (s.key dst) n }).l2Use a n).l2Use dst n).copyExtents (dst + n) r

/-! ## Sources (R464, R465) -/

/-- The hearth partitions that hold version v and publish regions (R464). -/
def State.sourceParts (s : State) (v : Nat) : List Nat :=
  allParts.filter fun q => s.role q == rHearth && s.fld (F.liveVersion q) == v && s.fld (F.srcMask q) != 0

def State.srcRegions (s : State) (q : Nat) : List Nat := regions.filter fun i => bit (s.fld (F.srcMask q)) i

/-- Image length of a hearth source in 2 MiB units. -/
def State.sourceUnits (s : State) (v : Nat) : Nat :=
  sumOf ((s.sourceParts v).map fun q => sumOf ((s.srcRegions q).map fun i => s.fld (F.crSize q i)))

/-- Extents of a hearth source: the live halves, in ascending partition and region. -/
def State.sourceExtents (s : State) (v : Nat) : List (Nat × Nat) :=
  (s.sourceParts v).flatMap fun q => (s.srcRegions q).map fun i => (s.liveBase q i, s.crBytes q i)

/-- The READY variant entry of version v. -/
def State.variantOf (s : State) (v st : Nat) : Option Nat :=
  (List.range 8).find? fun i => s.fld (F.varState i) == st && s.fld (F.varVersion i) == v

/-- Physical pieces of a variant's range through the translation store alone (R713); none where a page does not map, or maps to a shadow
half (R442). -/
def State.variantExtents (s : State) (i : Nat) : Option (List (Nat × Nat)) :=
  let n := s.fld (F.varCtx i)
  let len := unit2M * s.fld F.imageUnits
  let l := rangePieces (s.fld (F.varSrc i)) len
  if l.all fun c => (match s.xlatTable n c.1 with
      | some x => x.rd && (s.inShadow (x.pa c.1)).isNone
      | none => false) then
    some (l.filterMap fun c => (s.xlatTable n c.1).map fun x => (x.pa c.1, c.2))
  else none

/-! ## The copy engine (R468) -/

/-- Start and end of a copy admitted at mark a with rate m and n lines. -/
def State.copyPlan (s : State) (a m n : Nat) : Nat × Nat :=
  let prev := ((s.jobs.filter (·.live)).getLast?.map (·.endAt)).getD (a + 2)
  let start := Nat.max (a + 2) prev
  (start, start + 64 + cdiv n (300 * m))

/-- Least SHARE among partitions, limited to 8 for a variant. -/
def State.leastShare (s : State) (ps : List Nat) (variant : Bool) : Nat :=
  let m := minOf 32 (ps.map fun p => s.fld (F.share p))
  if variant then Nat.min 8 m else m

/-! ## PUBLISH -/

/-- Row bytes of a format for a head dimension (R379). -/
def rowBytes (dt d : Nat) : Nat := cdiv (d * elemBits dt) 8 + (if blockOf dt = 0 then 0 else d / blockOf dt)

/-- The model fits the arena of p (R376). -/
def State.modelFits (s : State) (p : Nat) : Bool :=
  let pitch := s.pageSize p / 128
  decide (s.fld F.layers * s.fld F.hkv ≤ s.fld (F.planes p)) && decide (rowBytes (s.fld F.kDtype) (s.fld F.headDim) ≤ pitch) &&
    decide (rowBytes (s.fld F.vDtype) (s.fld F.headDim) ≤ pitch) &&
    decide (cdiv (s.fld F.maxPos) 64 ≤ s.fld (F.listEntries p))

/-- Slot that a publication takes on p: the lowest EMPTY one that is not RESERVED (R469). -/
def State.emptySlotOf (s : State) (p : Nat) : Option Nat :=
  slotIds.find? fun i => s.fld (F.slState p i) == slEmpty && !s.flag (F.slReserved p i)

/-- Figures of an admissible publication: rate, start and end (R468). -/
def State.publishPlan (s : State) (c : Cmd) : Nat × Nat × Nat :=
  let ps := maskParts (c.fld 9 1)
  let variant := c.fld 8 1 == 1
  let m := s.leastShare (ps ++ if variant then [] else s.sourceParts (c.fld 10 2)) variant
  let t := s.copyPlan c.admitMark m (s.fld F.imageUnits * 32768)
  (m, t.1, t.2)

def State.checkPublish (s : State) (c : Cmd) : Verdict :=
  let ps := maskParts (c.fld 9 1)
  let v := c.fld 10 2
  let nv := c.fld 12 2
  let m := c.fld 16 8
  let variant := c.fld 8 1 == 1
  let srcs := s.sourceParts v
  let fmt := [(8, decide (2 ≤ c.fld 8 1)), (9, ps.isEmpty), (12, nv == 0)] ++ reservedBad c [(8, 6), (16, 8)]
  let target (p : Nat) : Bool := s.role p == rLantern && (s.part p).sched.isSome && !s.flag (F.pending p) && s.isBoundary p m &&
    !(slotIds.any fun i => s.flag (F.slIncoming p i)) && (s.slotWith p nv).isNone &&
    decide (s.fld F.imageUnits ≤ s.fld (F.slotUnits p)) && s.modelFits p
  let source := if variant then (s.variantOf v 1).isSome
    else !srcs.isEmpty && s.sourceUnits v == s.fld F.imageUnits &&
      srcs.all fun q => match s.stepOn q with
        | some t => decide (m < t.commit)
        | none => true
  let plan := s.publishPlan c
  verdict fmt (isMgmt c.ctx) [] false (s.marksOk && leadOk c m && ps.all target && source) true
    (ps.all (fun p => (s.emptySlotOf p).isSome) && plan.1 != 0 && decide (plan.2.2 + 16 ≤ m))

/-- An accepted PUBLISH takes its slots and its place on the copy engine (R468, R469). -/
def State.publish (s : State) (c : Cmd) : State :=
  let ps := maskParts (c.fld 9 1)
  let plan := s.publishPlan c
  let slots := ps.filterMap fun p => (s.emptySlotOf p).map fun i => (p, i)
  let s1 := slots.foldl (fun a t => ((a.setFld (F.slVersion t.1 t.2) (c.fld 12 2)).setFld (F.slState t.1 t.2) slFilling).setFld
    (F.slIncoming t.1 t.2) 1) s
  let var := if c.fld 8 1 = 1 then s.variantOf (c.fld 10 2) 1 else none
  let s2 := match var with
    | some i => s1.setFld (F.varState i) 2
    | none => s1
  let port := var.bind fun i => ((s.variantExtents i).bind (·.head?)).bind fun e => (cxlOf e.1).map (·.1)
  let job : CopyJob := { cid := c.cid, start := plan.2.1, endAt := plan.2.2, live := true, variant := port, rate := 300 * plan.1 }
  { s2 with jobs := s2.jobs ++ [job] }.modCmd c.cid fun d =>
    { d with phase := .running, targets := slots, startAt := plan.2.1, endAt := plan.2.2 }

def execPublish (n : Nat) (s : State) : Host.Outcome State Fault Refusal :=
  s.act (match s.freshCmd n opPublish with
    | some c => s.settle c (s.checkPublish c) fun t => t.publish c
    | none => s)

/-- COPY_BUSY: the engine runs a job that has started (R709). -/
def State.showCopy (s : State) : State :=
  s.setFld F.copyBusy (b2n (s.jobs.any fun j => (s.cmd j.cid).any fun c => c.started))

/-- A job leaves the copy engine; later jobs keep their start marks (R472, R714). -/
def State.dropJob (s : State) (cid : Nat) : State :=
  { s with jobs := s.jobs.filter fun j => j.cid != cid }.showCopy

/-- A publication is abandoned: its copy stops (R472). `fault` is the translation failure of a variant. -/
def State.abandon (s : State) (cid : Nat) (fault : Bool) : State :=
  (s.dropJob cid).modCmd cid fun d => { d with abandoned := true, faulted := d.faulted || fault }

/-- What the copy reads: the live halves of its hearth source, or the variant's range (R464, R465). -/
def State.publishExtents (s : State) (c : Cmd) : Option (List (Nat × Nat)) :=
  if c.fld 8 1 = 1 then
    match s.variantOf (c.fld 10 2) 2 with
    | some i => s.variantExtents i
    | none => none
  else some (s.sourceExtents (c.fld 10 2))

/-- PUBLISH_COPY_START (R468, R469, R472): at start s. A variant whose range does not translate, and a source that cannot be
read, abandon the publication. -/
def execPublishCopyStart (cid : Nat) (s : State) : Host.Outcome State Fault Refusal :=
  s.act (
    match s.cmd cid with
    | some c =>
      if c.op = opPublish ∧ c.phase = .running ∧ c.started = false ∧ c.abandoned = false ∧ c.startAt ≤ s.time.mark ∧
          s.fenced cid = false then
        match s.publishExtents c with
        | none => s.abandon cid true
        | some l =>
          if l.all fun e => s.backed e.1 && s.backed (e.1 + e.2 - 1) then (s.modCmd cid fun d => { d with started := true }).showCopy
          else s.abandon cid false
      else s
    | none => s)

/-- First byte of slot i of p. -/
def State.slotAt (s : State) (p i : Nat) : Nat := gddrBase p + unit2M * (s.fld (F.slotBase p) + i * s.fld (F.slotUnits p))

/-- What a copy meets at its source extents and its destinations (R537, R538, R552, R554): a read that is repeated, one that comes back
with an error, writes that GDDR7 has repeated, and an expander that is late. -/
def State.copyMeets (s : State) (n : Nat) (h : Hap) (src dst : List Nat) : State :=
  let cxl := (src ++ dst).filterMap fun a => (cxlOf a).map (·.1)
  let s1 := match h.cxlLate, cxl with
    | 0, _ => s
    | k, q :: _ => s.cxlSlowEvt q k
    | _, [] => s
  let s2 := match h.edc, src.filterMap gddrPart with
    | true, p :: _ => s1.edcEvt p
    | _, _ => s1
  let s3 := match dst.filterMap gddrPart with
    | p :: _ => s2.retryEvt p h.retries
    | [] => s2
  let s4 := match h.err, src with
    | some (_, st), a :: _ => s3.readError n noThread a st
    | _, _ => s3
  match h.badWrite, dst.find? fun a => (cxlOf a).isSome with
  | true, some a => s4.cxlMediaEvt (((cxlOf a).map (·.1)).getD 0) a
  | _, _ => s4

/-- PUBLISH_COPY_END (R469, R471, R472): at end e every target slot holds the image and becomes READY; a copy that cannot reach e for
an uncorrectable or poisoned read, or for an expander that answers late, abandons the publication (assumption 132). -/
def execPublishCopyEnd (cid : Nat) (h : Hap) (s : State) : Host.Outcome State Fault Refusal :=
  s.act (
    match s.cmd cid with
    | some c =>
      if c.op = opPublish ∧ c.phase = .running ∧ c.abandoned = false ∧ c.endAt ≤ s.time.mark ∧
          (s.jobs.any fun j => j.cid == cid) = true then
        match s.publishExtents c with
        | none => s.abandon cid true
        | some l =>
          let s0 := s.copyMeets c.ctx h (l.map (·.1)) (c.targets.map fun t => s.slotAt t.1 t.2)
          if h.err.isNone && h.cxlLate == 0 && c.started && l.all fun e => s.backed e.1 && s.backed (e.1 + e.2 - 1) then
            let s1 := c.targets.foldl (fun a t => (a.copyExtents (a.slotAt t.1 t.2) l).setFld (F.slState t.1 t.2) slReady) s0
            s1.dropJob cid
          else s0.abandon cid false
      else s
    | none => s)

/-! ## Variants (R465, R466) -/

/-- Checks of VARIANT_LOAD (R466). One that a FENCE holds has reserved an EMPTY entry and its version at admission (R129). -/
def State.checkVariant (s : State) (c : Cmd) : Verdict :=
  let a := c.fld 8 8
  let n := c.fld 16 8
  let v := c.fld 24 2
  let inCxl := (rangePieces a n).all fun e => match s.xlatTable c.ctx e.1 with
    | some x => (cxlOf (x.pa e.1)).isSome
    | none => false
  let held := s.cmds.filter fun d => d.op == opVariantLoad && d.phase == .held
  let known := held.any (fun d => d.fld 24 2 == v) || (s.variantOf v 1).isSome || (s.variantOf v 2).isSome ||
    allParts.any fun p => (s.slotWith p v).isSome
  verdict ([(8, badAddr a), (24, v == 0)] ++ reservedBad c [(8, 18)]) (isMgmt c.ctx) [(8, !s.mapped c.ctx a n true false)]
    (n == 0) (n == s.fld F.imageUnits * unit2M && inCxl && !known) true
    (decide (held.length < ((List.range 8).filter fun i => s.fld (F.varState i) == 0).length))

/-- The lowest EMPTY entry becomes READY (R466). -/
def State.loadVariant (s : State) (c : Cmd) : State :=
  match (List.range 8).find? fun i => s.fld (F.varState i) == 0 with
  | some i => (((s.setFld (F.varVersion i) (c.fld 24 2)).setFld (F.varState i) 1).setFld (F.varCtx i) c.ctx).setFld (F.varSrc i)
      (c.fld 8 8)
  | none => s

/-- An effect that a FENCE holds back waits in phase `held`; otherwise it happens now and the completion waits for its
count (R129, R130). -/
def State.effectNow (s : State) (c : Cmd) (act : State → State) : State :=
  if s.fenced c.cid then s.modCmd c.cid fun d => { d with phase := .held } else (act s).waitCmd c.cid stOk []

def execVariantLoad (n : Nat) (s : State) : Host.Outcome State Fault Refusal :=
  s.act (match s.freshCmd n opVariantLoad with
    | some c => s.settle c (s.checkVariant c) fun t => t.effectNow c fun u => u.loadVariant c
    | none => s)

/-- VARIANT_DROP (R465): a write of DROP by a management PF; ignored, with CFG_ERR, while IN_USE. -/
def execVariantDrop (port v : Nat) (s : State) : Host.Outcome State Fault Refusal :=
  s.actHost port 0 (
    if s.fld (F.varState v) = 2 then s.setEvt F.lampCfgErr 10
    else (s.setReg (F.varReg v) 0).setFld (F.varSrc v) 0)

/-! ## REFERENCE_SET (R475) -/

def State.checkReference (s : State) (c : Cmd) : Verdict :=
  let ps := maskParts (c.fld 8 1)
  let v := c.fld 10 2
  let m := c.fld 16 8
  let coming (p : Nat) : Bool := s.cmds.any fun d => d.op == opPublish && (d.phase == .running || d.phase == .held) &&
    bit (d.fld 9 1) p && d.fld 12 2 == v && decide (d.fld 16 8 ≤ m)
  let resident (p : Nat) : Bool := match s.slotWith p v with
    | some i => s.fld (F.slState p i) == slReady && (s.flag (F.slActive p i) || s.flag (F.slHeld p i))
    | none => false
  verdict (reservedBad c [(8, 1), (10, 2), (16, 8)]) (isMgmt c.ctx) [] false
    (s.marksOk && leadOk c m && ps.all fun p => s.role p == rLantern && !s.flag (F.pending p) && s.isBoundary p m &&
      (v == 0 || resident p || coming p)) true true

/-- RESERVED is set on the slot that holds, or will hold, the version (R475). -/
def State.reserveReference (s : State) (c : Cmd) : State :=
  let v := c.fld 10 2
  let slots := if v = 0 then [] else (maskParts (c.fld 8 1)).filterMap fun p => (s.slotWith p v).map fun i => (p, i)
  (slots.foldl (fun a t => a.setFld (F.slReserved t.1 t.2) 1) s).modCmd c.cid fun d => { d with phase := .running, targets := slots }

def execReferenceSet (n : Nat) (s : State) : Host.Outcome State Fault Refusal :=
  s.act (match s.freshCmd n opReferenceSet with
    | some c => s.settle c (s.checkReference c) fun t => t.reserveReference c
    | none => s)

/-! ## Adapters (R477 to R481) -/

/-- The id is not another context's (R132, R477). -/
def State.adapterOwned (s : State) (n id : Nat) : Bool :=
  allParts.all fun p => (s.part p).adapters.all fun a => a.id != id || a.ctx == n || a.state == 3

/-- An INSTALLING version of an adapter exists on some partition (R478, R481). -/
def State.installing (s : State) (id : Nat) : Bool := allParts.any fun p => (s.adapter p id 0).isSome

def State.checkAdapter (s : State) (c : Cmd) (replace : Bool) : Verdict :=
  let ps := maskParts (c.fld 30 1)
  let id := c.fld 24 2
  let ver := c.fld 26 2
  let n := c.fld 16 8
  let fmt := [(8, badAddr (c.fld 8 8)), (24, id == 0), (26, ver == 0), (28, decide (15 ≤ c.fld 28 1)), (30, ps.isEmpty)] ++
    reservedBad c [(8, 21), (30, 1)]
  let len := [(8, !s.mapped c.ctx (c.fld 8 8) n true false),
    (16, ps.any fun p => decide (s.fld (F.blockUnits p) * unit2M < n))]
  let target (p : Nat) : Bool := s.role p == rLantern && !s.flag (F.pending p) && (s.adapter p id 0).isNone &&
    (match s.adapter p id 1 with
     | some a => replace && a.ver != ver
     | none => !replace)
  verdict fmt (s.flag (F.cGen c.ctx) && s.adapterOwned c.ctx id) len (n == 0)
    (ps.all target && (!replace || !s.installing id)) true (ps.all fun p => (s.freeBlock p).isSome)

/-- Each target takes its lowest free block, whose bytes beyond SIZE are undefined, and queues one copy (R479). -/
def State.install (s : State) (c : Cmd) : State :=
  let s1 := (maskParts (c.fld 30 1)).foldl (fun a p =>
    match a.freeBlock p with
    | some b =>
      let ad : Adapter :=
        { ctx := c.ctx, id := c.fld 24 2, ver := c.fld 26 2, block := b, state := 0, refs := 0, dtype := c.fld 28 1, quar := 0 }
      let n := c.fld 16 8
      ((a.undefMem (a.blockAt p b + n) (a.fld (F.blockUnits p) * unit2M - n)).modPart p fun x =>
        { x with adapters := x.adapters ++ [ad] }).queueJob p (a.newJob c false true (c.fld 8 8) (a.blockAt p b) (c.fld 16 8) 0)
    | none => a) s
  s1.modCmd c.cid fun d => { d with phase := .running }

def execAdapterInstall (n : Nat) (s : State) : Host.Outcome State Fault Refusal :=
  s.act (match s.freshCmd n opAdapterInstall with
    | some c => s.settle c (s.checkAdapter c false) fun t => t.install c
    | none => s)

def execAdapterReplace (n : Nat) (s : State) : Host.Outcome State Fault Refusal :=
  s.act (match s.freshCmd n opAdapterReplace with
    | some c => s.settle c (s.checkAdapter c true) fun t => t.install c
    | none => s)

/-- On partition p the new version becomes CURRENT, and a previous one RETIRED (R479). -/
def State.activateAdapter (s : State) (p id ver : Nat) : State :=
  s.modPart p fun x =>
    let l := x.adapters.map fun a =>
      if a.id = id ∧ a.state = 1 then { a with state := 2 }
      else if a.id = id ∧ a.ver = ver ∧ a.state = 0 then { a with state := 1 } else a
    { x with adapters := l }.sweepAdapters

/-- ADAPTER_COPY_END (R479, R480): the last copy of an install or replacement has ended. Copies that a context reset or a teardown has
dropped do not end: the command does, with the reset or teardown (R142, R146, R317). -/
def execAdapterCopyEnd (cid : Nat) (s : State) : Host.Outcome State Fault Refusal :=
  s.act (
    match s.cmd cid with
    | some c =>
      if (c.op = opAdapterInstall ∨ c.op = opAdapterReplace) ∧ c.phase = .running ∧ s.ending c.ctx = false ∧
          (allParts.all fun p => (s.part p).dma.all fun j => j.cid != cid) = true then
        if c.faulted then (s.dropInstall c).finish cid stFaultContext [] false
        else
          let ps := maskParts (c.fld 30 1)
          let prev := match ps.filterMap fun p => s.adapter p (c.fld 24 2) 1 with
            | a :: _ => a.ver
            | [] => 0
          let s1 := ps.foldl (fun a p => a.activateAdapter p (c.fld 24 2) (c.fld 26 2)) s
          s1.finish cid stOk (if c.op = opAdapterReplace then toLE 2 prev else []) false
      else s
    | none => s)

def State.checkRemove (s : State) (c : Cmd) : Verdict :=
  let id := c.fld 24 2
  verdict (reservedBad c [(24, 2), (30, 1)]) (s.flag (F.cGen c.ctx) && s.adapterOwned c.ctx id) [] false
    (((maskParts (c.fld 30 1)).all fun p => s.role p == rLantern && (s.adapter p id 1).isSome) &&
      !s.installing id) true true

/-- The CURRENT version becomes RETIRED on every target (R481). -/
def State.removeAdapter (s : State) (c : Cmd) : State :=
  (maskParts (c.fld 30 1)).foldl (fun a p => a.activateAdapter p (c.fld 24 2) 0) s

def execAdapterRemove (n : Nat) (s : State) : Host.Outcome State Fault Refusal :=
  s.act (match s.freshCmd n opAdapterRemove with
    | some c => s.settle c (s.checkRemove c) fun t => t.effectNow c fun u => u.removeAdapter c
    | none => s)

end Sys2Proof.Machine
end

