-- ==== Sys2Proof/Machine/Contexts.lean ====
section
/-!
DEFINITION. Contexts.lean: context ownership and states (R105, R106, R140 to R143), doorbells (R111 to R114), presentation and
admission (R120 to R122), completions that wait for their count (R99, R126, R130), FENCE (R129), reset, teardown, quarantine
and handover (R142, R145 to R152), Damper slot ownership (R248).
-/
namespace Sys2Proof.Machine
open Sys2Proof.Config

/-- 256 marks in core cycles: a context reset, a teardown, a handover (R142, R146, R152). -/
def resetCycles : Nat := 262144

/-! ## Ownership (R104 to R106, R705) -/

def State.configErr (s : State) (n : Nat) : State := s.setEvt (F.cConfigErr n) 10

/-- The registers of context n may be written by the PF of a port: it owns n, and n is FREE or QUIESCED (R106). -/
def State.tableOpen (s : State) (port n : Nat) : Bool := s.pfOwns port n && (s.cstate n == cFree || s.cstate n == cQuiesced)

/-- An OWNER write that names a VF beyond NUM_VFS, or gives the PF a context with a VECTOR below 16 (R705). -/
def State.ownerBad (s : State) (port n fn : Nat) (valid : Bool) : Bool :=
  decide (s.fld (F.hNumVfs port) < fn) || (valid && fn == 0 && decide (s.fld (F.cVector n) < 16))

def State.claim (s : State) (port n fn : Nat) : State :=
  ((s.setFld (F.cFunc n) fn).setFld (F.cPort n) port).setFld (F.cOwned n) 1

/-- CTX_OWNER_WRITE (R105, R106, R704 to R706): claim, move between functions, or release; a release leaves PORT as the claim set
it, and FUNC takes the value written. -/
def execCtxOwnerWrite (port n : Nat) (v : Word32) (s : State) : Host.Outcome State Fault Refusal :=
  s.actHost port 0 (
    let fn := bits v.toNat 0 8
    let valid := bit v.toNat 15
    let owned := s.flag (F.cOwned n)
    let may := if owned then s.tableOpen port n && (valid || s.cstate n == cFree)
      else valid && s.cstate n == cFree && s.fld F.stage == bgReady
    if isMgmt n || !may then s
    else if s.ownerBad port n fn valid then s.configErr n
    else if valid then s.claim port n fn
    else (s.setFld (F.cFunc n) fn).setFld (F.cOwned n) 0)

/-! ## START and STOP (R108, R110, R140) -/

/-- Ring i of n lies within R108: its size, and the whole ring in GDDR7 or in the host window of the owning port. -/
def State.ringOk (s : State) (n i : Nat) : Bool :=
  let k := s.fld (F.ringLog2 n i)
  let a := s.ringAt n i
  let len := (if i = 0 then 64 else 32) * 2 ^ k
  let hp := s.fld (F.cPort n)
  decide (4 ≤ k) && decide (k ≤ if i = 2 then 20 else 16) &&
    (decide (a + len ≤ gddrEnd) ||
      (decide (hostBase + hp * hostPortSize ≤ a) && decide (a + len ≤ hostBase + (hp + 1) * hostPortSize)))

/-- START (R108, R140, R546): from FREE every index returns to 0 and every phase to 1 (R110). A restored step resumes at cycle 64
of the next mark (R631). -/
def execStart (port n : Nat) (s : State) : Host.Outcome State Fault Refusal :=
  s.actHost port 0 (
    if s.tableOpen port n && s.fld F.stage == bgReady then
      let loads := !s.flag (F.mmuLoading n) && (!s.flag (F.ptValid n) || s.flag (F.mmuLoaded n))
      if loads && s.ringOk n 0 && s.ringOk n 1 && s.ringOk n 2 then
        let s1 := if s.cstate n = cFree then s.modCtx n fun c => { c with
            sqTail := 0, sqHead := 0, sqNext := 0, cqHead := 0, cqTail := 0, cqPhase := true, emHead := 0, emTail := 0,
            emPhase := true, emReserved := 0 } else s
        let s2 := (s1.ctx n).restored.foldl (fun a cid =>
          a.modCmd cid fun d => { d with startAt := s.now - s.time.cyc + cyclesPerMark + 64 }) s1
        s2.setCstate n cLive
      else s.configErr n
    else s)

/-- STOP (R140): LIVE to QUIESCED. -/
def execStop (port n : Nat) (s : State) : Host.Outcome State Fault Refusal :=
  s.actHost port 0 (if s.pfOwns port n && s.live n then (s.releaseQueue n).setCstate n cQuiesced else s)

/-! ## Doorbells (R111 to R114, R151) -/

/-- A doorbell write that takes effect: aligned, 4 bytes, by the owning function, and not during a handover (R112, R151). -/
def State.bellOk (s : State) (port fn n size : Nat) : Bool :=
  size == 4 && s.fnOwns port fn n && s.cstate n != cHandover

def State.bellErr (s : State) (n : Nat) : State := s.modCtx n fun c => { c with doorbellErr := true, errAt := some s.now }

/-- A head value that stays between head and tail of a ring of `size` entries (R113). -/
def headOk (size head tail v : Nat) : Bool :=
  decide (v < size) && decide ((v + size - head) % size ≤ (tail + size - head) % size)

/-- SQ_TAIL (R111 to R113, R120). -/
def execSqTail (port fn n size : Nat) (v : Word32) (s : State) : Host.Outcome State Fault Refusal :=
  s.actHost port fn (
    let x := bits v.toNat 0 16
    if !s.bellOk port fn n size then s
    else if s.ringSize n 0 ≤ x then s.bellErr n
    else s.modCtx n fun c => { c with sqTail := x })

/-- CQ_HEAD (R109, R113). -/
def execCqHead (port fn n size : Nat) (v : Word32) (s : State) : Host.Outcome State Fault Refusal :=
  s.actHost port fn (
    let x := bits v.toNat 0 16
    let c := s.ctx n
    if !s.bellOk port fn n size then s
    else if headOk (s.ringSize n 1) c.cqHead c.cqTail x then s.modCtx n fun c => { c with cqHead := x } else s.bellErr n)

/-- EMBER_HEAD (R109, R113). -/
def execEmberHead (port fn n size : Nat) (v : Word32) (s : State) : Host.Outcome State Fault Refusal :=
  s.actHost port fn (
    let x := bits v.toNat 0 20
    let c := s.ctx n
    if !s.bellOk port fn n size then s
    else if headOk (s.ringSize n 2) c.emHead c.emTail x then s.modCtx n fun c => { c with emHead := x } else s.bellErr n)

/-! ## Presentation and admission (R120 to R122) -/

/-- Completion slots in use: posted and unconsumed, or reserved. -/
def State.cqUsed (s : State) (n : Nat) : Nat :=
  let c := s.ctx n
  (c.cqTail + s.ringSize n 1 - c.cqHead) % s.ringSize n 1 + (s.cmdsOf n).length

/-- The conditions of R120 hold for the next entry of context n. -/
def State.presentable (s : State) (n : Nat) : Bool :=
  let c := s.ctx n
  s.live n && !s.resetting n && c.sqNext != c.sqTail && decide (s.cqUsed n + 1 < s.ringSize n 1) &&
    decide (((s.cmdsOf n).filter fun d => d.phase == Phase.presented).length ≤ 7)

def Cmd.new (cid n : Nat) (entry : List Byte) (now mark : Nat) : Cmd :=
  { cid := cid, ctx := n, entry := entry, presented := now, presMark := mark, admitMark := 0, admitCyc := 0,
    phase := Phase.presented, status := stOk, result := [], late := false, replayed := false, started := false, abandoned := false,
    faulted := false, targets := [], sources := [], startAt := 0, endAt := 0, wasLive := false, bytes := 0, handle := 0 }

/-- ENTRY_PRESENT (R120): the device reads the entry from the submission ring, as the owning function where the ring is a host's
(R55); a read that cannot be made, or that comes back with an error, faults the context (R47, R54, R56, R442, R537, R561). -/
def execEntryPresent (n : Nat) (m : Meet) (s : State) : Host.Outcome State Fault Refusal :=
  s.act (
    if s.presentable n then
      let c := s.ctx n
      let a := s.ringAt n 0 + 64 * c.sqNext
      if !s.ringReach a then s.faultCtx n stFaultContext
      else if m.err.isSome then (s.physMeets n a 64 m).faultCtx n stFaultContext
      else
        ({ s with cmds := s.cmds ++ [Cmd.new s.nextCid n (s.readMem a 64) s.now s.time.mark], nextCid := s.nextCid + 1 }.modCtx n fun x =>
          { x with sqNext := (c.sqNext + 1) % s.ringSize n 0 }).physMeets n a 64 m
    else s)

/-- One presented entry is admitted: SQ_HEAD advances, and its checks follow; an opcode that no row names fails the format
check at byte 0 (R117, R121, R124). -/
def State.admitOne (s : State) (c : Cmd) : State :=
  let s1 := (s.modCmd c.cid fun d => { d with phase := Phase.fresh, admitMark := s.time.mark, admitCyc := s.now }).modCtx c.ctx fun x =>
    { x with sqHead := (x.sqHead + 1) % s.ringSize c.ctx 0 }
  if knownOps.contains c.op then s1 else s1.rejectCmd c.cid stRejectFormat 0

/-! ### Checkpoints come before admission (R87, R632, R634) -/

/-- The header of partition p, without its trailing zeros (R632). -/
def State.ckptHeader (s : State) (p m : Nat) : List Byte :=
  let rs := s.validRegions p
  let h := toLE 2 p ++ toLE 2 (s.fld (F.liveVersion p)) ++ toLE 4 0 ++ toLE 8 (s.fld (F.stepCount p)) ++
    toLE 8 (m % 2 ^ 54 * 1024) ++ toLE 4 rs.length ++ toLE 4 0 ++ rs.flatMap fun i => toLE 8 (i + 256 * s.fld (F.crSize p i))
  (h ++ toLE 288 0).take 288

/-- Bytes that partition p contributes: its header and the live half of each valid region (R632). -/
def State.ckptBytes (s : State) (p : Nat) : Nat := 4096 + sumOf ((s.validRegions p).map fun i => s.crBytes p i)

/-- Total bytes of a checkpoint of partitions ps. -/
def State.ckptTotal (s : State) (ps : List Nat) : Nat := sumOf (ps.map fun p => s.ckptBytes p)

/-- The mark of checkpoint c has been captured. -/
def State.captured (s : State) (c : Cmd) : Bool := allParts.any fun p => (s.part p).ckpt.any fun e => e.1 == c.cid

/-- At CHECKPOINT_MARK the halves that are live, and the headers, are noted; a partition in reset misses the checkpoint (R634,
R635). -/
def State.capture (s : State) (c : Cmd) : State :=
  let ps := maskParts (c.fld 8 1)
  let src := ps.flatMap fun p => (s.validRegions p).map fun i => (p, s.liveBase p i, s.crBytes p i)
  let s1 := s.modCmd c.cid fun d => { d with
    sources := src, bytes := s.ckptTotal ps, result := ps.flatMap fun p => s.ckptHeader p (c.fld 32 8),
    abandoned := d.abandoned || ps.any fun p => s.flag (F.inReset p) }
  ps.foldl (fun a p => a.modPart p fun x => { x with ckpt := x.ckpt ++ [(c.cid, false)] }) s1

/-- Checkpoints whose mark has come are captured, in step 7 of R87: after every other event of its cycle. -/
def State.dueCaptures (s : State) : State :=
  ((s.openCmds opCheckpoint).filter fun c => decide (c.fld 32 8 ≤ s.time.mark) && !s.captured c && !s.fenced c.cid).foldl
    (fun a c => a.capture c) s

/-! ## What each command leaves behind when it ends early -/

/-- Where the copy of checkpoint c writes, as the translations of its context and the ports stand (R634). -/
def State.ckptDest (s : State) (c : Cmd) : List (Nat × Nat) := s.extents none false c.ctx (c.fld 16 8) c.bytes false true

/-- The image of checkpoint c is undefined: where its range leads now, and where its copy began to write (R634, R635). -/
def State.undefImage (s : State) (c : Cmd) : State :=
  c.targets.foldl (fun a e => a.undefMem e.1 e.2) (s.undefVirt none c.ctx (c.fld 16 8) c.bytes)

/-- The running checkpoints of context n whose destination leads elsewhere than where the copy began to write: their next write faults
(R54, R634). -/
def State.watchCheckpoints (s : State) (n : Nat) : State :=
  ((s.openCmds opCheckpoint).filter fun c => c.ctx == n && c.started && s.ckptDest c != c.targets).foldl
    (fun a c => a.modCmd c.cid fun d => { d with faulted := true }) s

/-- The scheduled change and the reservations of a command that ends before its work is done (R129, R137, R142, R714). -/
def State.cleanup (s : State) (c : Cmd) (st : Nat) : State :=
  let op := c.op
  if op = opStepLaunch then s.abortStep c.cid st
  else if op = opPublish then
    (c.targets.foldl (fun a t => a.dropSlot t.1 t.2) (s.abandon c.cid false)).variantReady c
  else if op = opReferenceSet then
    (maskParts (c.fld 8 1)).foldl (fun a p => a.sweepSlots p) (s.clearReserved c)
  else if op = opCheckpoint then
    (let s1 := allParts.foldl (fun (a : State) p => a.modPart p fun x => { x with ckpt := tdel x.ckpt c.cid }) (s.dropJob c.cid)
     if c.started then s1.undefImage c else s1)
  else if op = opCtxSave then (if c.started then s.undefVirt none c.ctx (c.fld 16 8) (c.fld 24 8) else s)
  else if op = opFlueCollective then s.dropColl c.cid st
  else if op = opAdapterInstall ∨ op = opAdapterReplace then s.dropInstall c
  else if op = opDmaFill ∨ op = opDmaCopy then s.dropJobs fun _ j => j.cid == c.cid
  else if op = opPartitionRole then
    s.modPart (c.fld 8 1) fun x => { x with pendRole := match x.pendRole with
      | some e => if e.1 = c.cid then none else some e
      | none => none }
  else if op = opFrameSet then
    s.dropFrameSet (c.fld 8 1) c.cid
  else if op = opMarkSet then
    s.modTime fun t => { t with setM := match t.setM with
      | some e => if e.1 = c.cid then none else some e
      | none => none }
  else if op = opFlashWrite then
    (if c.started then
      (s.modBoard fun b => { b.undefFlash (c.fld 16 4) (c.fld 20 4) s.free with flashWork := none }).drawn else s)
  else s

/-- PENDING of partition p follows its accepted role change (R699). -/
def State.showPending (s : State) (p : Nat) : State :=
  match (s.part p).pendRole with
  | some (_, r, m) => ((s.setFld (F.pending p) 1).setFld (F.pendingRole p) r).setFld (F.effectiveLo p) (m % 2 ^ 32)
  | none => ((s.setFld (F.pending p) 0).setFld (F.pendingRole p) 0).setFld (F.effectiveLo p) 0

/-- Commands end with a status: what each had scheduled or reserved is taken back, and all are posted in submission order (R142,
R146, R618). Their collectives leave the queues with that. -/
def State.abortCmds (s : State) (st : Nat) (l : List Nat) : State :=
  let s1 := ((s.cmds.filter fun c => l.contains c.cid).foldl (fun a c =>
    allParts.foldl (fun (b : State) p => b.showPending p) (a.cleanup c st)) s).finishAll st l
  { s1 with colls := s1.colls.filter fun co => !l.contains co.cid }

/-- Admitted commands of context n that have not completed. -/
def State.unfinished (s : State) (n : Nat) : List Nat := ((s.cmdsOf n).filter (·.incomplete)).map (·.cid)

/-! ## Completions at a fixed count (R99, R126, R129, R130) -/

def rejected (st : Nat) : Bool := (decide (0x10 ≤ st ∧ st ≤ 0x14)) || st == stTimeHoldover

/-- The count of a command that waits has come, or the later cycle at which a late answer completes it (R552). -/
def State.countCome (s : State) (c : Cmd) : Bool := decide (Nat.max (c.presented + 2 * cyclesPerMark) c.endAt ≤ s.now)

/-- REJECT_COMPLETION (R99): 2 marks after presentation. -/
def execRejectCompletion (n : Nat) (s : State) : Host.Outcome State Fault Refusal :=
  s.act (
    let due := (s.cmdsOf n).filter fun c => c.phase == Phase.waiting && rejected c.status && s.countCome c
    ((due.foldl (fun a c => a.modCmd c.cid fun d => { d with phase := Phase.done }) s).fencesDone n).postReady n)

/-- Effects that come at the completion's count, or that a FENCE held back (R129, R130); m: what their accesses meet. -/
def State.lateEffect (s : State) (c : Cmd) (m : Meet) : State :=
  if c.op = opSeqQuery then s.queryEffect c m
  else if c.op = opAdapterRemove then (s.removeAdapter c).waitCmd c.cid stOk []
  else if c.op = opVariantLoad then (s.loadVariant c).waitCmd c.cid stOk []
  else if c.op = opFlueGroupDefine then s.tryDefine c m
  else s

/-- An accepted command whose count is 2 marks reaches it. A SEQ_REWARD needs its ember written. -/
def State.acceptDue (s : State) (cid : Nat) (m : Meet) : State :=
  match s.cmd cid with
  | none => s
  | some c0 =>
    let s1 := if c0.phase = Phase.held ∧ s.countCome c0 = true ∧ s.fenced cid = false then s.lateEffect c0 m else s
    match s1.cmd cid with
    | some c =>
      if c.phase == Phase.waiting && !rejected c.status && s1.countCome c && c.op != opFence &&
          (c.op != opSeqReward || c.status != stOk || c.started) then
        s1.modCmd cid fun d => { d with phase := Phase.done }
      else s1
    | none => s1

/-- ACCEPTED_COMPLETION (R126, R130); meets: what the accesses of the commands meet, by command. -/
def execAcceptedCompletion (n : Nat) (meets : List (Nat × Meet)) (s : State) : Host.Outcome State Fault Refusal :=
  s.act ((((((s.cmdsOf n).map (·.cid)).foldl (fun a c => a.acceptDue c (meetOf meets c)) s)).fencesDone n).postReady n)

/-- FENCE (R129): it has no operands. -/
def execFence (n : Nat) (s : State) : Host.Outcome State Fault Refusal :=
  s.act (match s.freshCmd n opFence with
    | some c => s.settle c (verdict (reservedBad c []) true [] false true true true) fun t => t.waitCmd c.cid stOk []
    | none => s)

/-- The first mark that a command names, at which a FENCE that still holds it makes it miss (R129). -/
def Cmd.namedMark (c : Cmd) : Option Nat :=
  if c.op = opStepLaunch then some (c.fld 40 8)
  else if c.op = opPublish ∨ c.op = opReferenceSet ∨ c.op = opPartitionRole ∨ c.op = opFrameSet then some (c.fld 16 8)
  else if c.op = opFlueCollective then some (c.fld 48 8)
  else if c.op = opCtxSave ∨ c.op = opCtxRestore ∨ c.op = opCheckpoint then some (c.fld 32 8)
  else none

/-- FENCE_DEADLINE_MISS (R129): a command still held back at cycle 0 of a mark it names completes DEADLINE_MISSED; its
reservations are released and its change does not take effect. -/
def execFenceDeadlineMiss (cid : Nat) (s : State) : Host.Outcome State Fault Refusal :=
  s.act (
    match s.cmd cid with
    | some c =>
      (match c.namedMark with
       | some m =>
         if (c.phase = .running ∨ c.phase = .held) ∧ s.fenced cid = true ∧ m ≤ s.time.mark then
           s.abortCmds stDeadlineMissed [cid]
         else s
       | none => s)
    | none => s)

/-! ## Context reset (R142) -/

/-- Work of context n stops: its threads, descriptors, DMA jobs and samples (R142, R145, R317, R367). -/
def State.stopWork (s : State) (n : Nat) : State :=
  let s1 := (((s.releaseQueue n).stopContext n).stopDescs n).stopJobs n
  (s1.samplesOf n).foldl (fun a e => a.drainSample e) s1

/-- RESET (R142): begins in LIVE, QUIESCED or FAULTED. Collectives of a management context stop sending (R522). -/
def execReset (port n : Nat) (s : State) : Host.Outcome State Fault Refusal :=
  s.actHost port 0 (
    let st := s.cstate n
    if s.pfOwns port n && !s.resetting n && (st == cLive || st == cQuiesced || st == cFaulted) then
      let s1 := (s.setFld (F.cResetting n) 1).modCtx n fun c => { c with resetAt := some s.now }
      let s2 := s1.stopWork n
      s2.stopMembers (fun co _ => s2.collCtx co == n) stAbortedReset
    else s)

/-- Every sample of context n ends (R367). -/
def State.endAllSamples (s : State) (n st : Nat) : State := (s.samplesOf n).foldl (fun a e => a.sampleDone e st a.stamp false) s

/-- CONTEXT_RESET_END (R142, R414, R714): 262,144 core cycles after the reset began. -/
def execContextResetEnd (n : Nat) (s : State) : Host.Outcome State Fault Refusal :=
  s.act (
    match (s.ctx n).resetAt with
    | some t =>
      if t + resetCycles ≤ s.now then
        let s1 := s.abortCmds stAbortedReset (s.unfinished n)
        let s2 := s1.endAllSamples n stAbortedReset
        let s3 := allParts.foldl (fun a p => a.unhashCtx p n) s2
        let s4 := (s3.modCtx n fun c => { c with resetAt := none, emReserved := 0, restored := [] }).setFld (F.cResetting n) 0
        (if s4.cstate n = cFaulted then s4.setCstate n cLive else s4).freeEnded n
      else s
    | none => s)

/-! ## Teardown (R143, R145 to R147) -/

/-- A teardown of context n takes effect (R145, R579). -/
def State.beginTeardown (s : State) (n : Nat) : State :=
  let s1 := ((s.sendTombstones n).setCstate n cDraining).modCtx n fun c => { c with flrMark := none }
  s1.stopWork n

def State.checkTeardown (s : State) (c : Cmd) : Verdict :=
  let n := c.fld 8 2
  let st := s.cstate n
  verdict ((8, decide (4096 ≤ n)) :: reservedBad c [(8, 2)]) (isMgmt c.ctx && !isMgmt n && s.pfOwns c.ctx n) [] false
    ((st == cLive || st == cFaulted || st == cQuiesced) && !s.targetBusy n c.cid) true true

/-- CTX_TEARDOWN (R145). -/
def execCtxTeardown (n : Nat) (s : State) : Host.Outcome State Fault Refusal :=
  s.act (match s.freshCmd n opCtxTeardown with
    | some c => s.settle c (s.checkTeardown c) fun t =>
        let s1 := (t.modCmd c.cid fun d => { d with phase := .running, handle := c.fld 8 2 }).modCtx (c.fld 8 2) fun x =>
          { x with teardownAt := some t.now, teardownCid := some c.cid }
        if t.fenced c.cid then s1 else s1.beginTeardown (c.fld 8 2)
    | none => s)

/-- A teardown of context n that has been accepted or called for can take effect now: one of a function level reset from the mark
after it (R143), and one of a command that no FENCE holds (R129). -/
def State.teardownDue (s : State) (n : Nat) (c : CtxRun) : Bool :=
  (s.cstate n == cLive || s.cstate n == cFaulted || s.cstate n == cQuiesced) &&
    (match c.flrMark, c.teardownAt, c.teardownCid with
     | some m, _, _ => m != s.time.mark
     | none, some _, some cid => !s.fenced cid
     | none, _, _ => false)

/-- Teardowns that can take effect; that of a function level reset counts from cycle 0 of the present mark (R143). -/
def State.dueTeardowns (s : State) : State :=
  (s.ctxs.filter fun e => s.teardownDue e.1 e.2).foldl (fun a e =>
    (if e.2.flrMark.isSome then a.modCtx e.1 fun c => { c with teardownAt := some (s.now - s.time.cyc) } else a).beginTeardown e.1) s

/-- ADMISSION (R87, R121): entries presented in another mark than the present one, in ring order, after the checkpoints of the
mark have been captured and the teardowns of function level resets have begun (R143). -/
def execAdmission (n : Nat) (s : State) : Host.Outcome State Fault Refusal :=
  s.act (
    let s1 := s.dueCaptures.dueTeardowns
    if s1.live n && !s1.resetting n then
      ((s1.cmdsOf n).filter fun c => c.phase == Phase.presented && c.presMark != s.time.mark).foldl (fun a c => a.admitOne c) s1
    else s1)

/-- Pages of context n on p that enter quarantine: IN_USE, or with an index entry (R414). -/
def State.pagesOf (s : State) (p n : Nat) : List Nat :=
  ((s.part p).pages.filter fun e => e.2.owner == n && (e.2.state == pgUse || e.2.hashed)).map (·.1)

/-- What a torn-down context leaves: samples end, pages and ember slots are in quarantine, Damper slots unowned (R147, R248, R414). -/
def State.quarantine (s : State) (n : Nat) : State :=
  let pages := allParts.map fun p => (p, s.pagesOf p n)
  let posts := (s.samplesOf n).length
  let s1 := s.endAllSamples n stAbortedTeardown
  let s2 := pages.foldl (fun a e => if e.2.isEmpty then a else a.quarantinePages e.1 e.2) s1
  let s3 := s2.modCtx n fun c => { c with
    quars := c.quars ++ [(s.now, (s.ctx n).emReserved - posts)], emReserved := 0 }
  allParts.foldl (fun a p => a.clearSlots p fun c => c == n) s3

/-- The adapter versions of context n, resident, installing or retired, enter quarantine with their blocks (R147). -/
def State.quarAdapters (s : State) (n : Nat) : State :=
  allParts.foldl (fun a p => a.modPart p fun x => { x with adapters := x.adapters.map fun d =>
    if d.ctx = n ∧ d.state ≠ 3 then { d with state := 3, quar := s.now } else d }) s

/-- Handovers of a context that a FENCE held when its teardown completed: it passes to no port (DESIGN CHOICE, assumption 146). -/
def State.refuseHandovers (s : State) (n : Nat) : State :=
  s.finishAll stRejectState (((s.openCmds opCtxHandover).filter fun c => c.fld 8 2 == n).map (·.cid))

/-- Context n has no translations (R544, R548). -/
def State.dropXlat (s : State) (n : Nat) : State :=
  { s with xlat := s.xlat.filter fun x => x.ctx != n }.setFld (F.mmuEntries n) 0

/-- TEARDOWN_COMPLETE (R146, R318): 262,144 core cycles after admission. The commands of the target end first, then its samples,
and then the teardown's own completion is posted. -/
def execTeardownComplete (target : Nat) (s : State) : Host.Outcome State Fault Refusal :=
  s.act (
    match (s.ctx target).teardownAt with
    | some t =>
      if t + resetCycles ≤ s.now ∧ s.cstate target = cDraining then
        let l := s.unfinished target
        let s1 := (((s.endTombstones target).quarAdapters target).abortCmds stAbortedTeardown l).quarantine target
        let s2 := (List.range 128).foldl (fun a cl => a.dropDescs cl fun d => d.ctx == target) s1
        let s3 := match (s.ctx target).teardownCid with
          | some cid => s2.finish cid stOk (toLE 4 l.length) false
          | none => s2
        let s4 := (((s3.dropXlat target).setCstate target cFree).setFld (F.cOwned target) 0).setFld (F.seed target) 0
        ((s4.modCtx target fun c => { c with teardownAt := none, teardownCid := none, restored := [] }).freeEnded target).refuseHandovers target
      else s
    | none => s)

/-- The quarantine of context n that began at core cycle t ends (R147). -/
def State.endQuar (s : State) (n t : Nat) : State :=
  (allParts.foldl (fun a p => (a.endQuarantine p n t).modPart p fun x => { x with
    adapters := x.adapters.filter fun d => !(d.state == 3 && d.ctx == n && d.quar == t) }) s).modCtx n fun c => { c with
      quars := c.quars.filter fun q => q.1 != t }

/-- QUARANTINE_END (R147): 65,536 marks after the teardown completion. -/
def execQuarantineEnd (target : Nat) (s : State) : Host.Outcome State Fault Refusal :=
  s.act (
    ((s.ctx target).quars.filter fun q => decide (q.1 + marksPerCandle * cyclesPerMark ≤ s.now)).foldl
      (fun a q => a.endQuar target q.1) s)

/-- Contexts whose CTX_OWNER is listed. -/
def State.listedCtxs (s : State) : List Nat :=
  s.regs.filterMap fun e => match ctxOff e.1 with
    | some (n, 0) => some n
    | _ => none

/-- FUNCTION_LEVEL_RESET (R143): of a VF, or of a PF with all its VFs (fn 0). -/
def execFunctionLevelReset (port fn : Nat) (s : State) : Host.Outcome State Fault Refusal :=
  s.act (
    let mineOf (n : Nat) : Bool := !isMgmt n && s.pfOwns port n && (fn == 0 || s.fld (F.cFunc n) == fn)
    let gone (g : Nat) : Bool := fn == 0 || g == fn
    let h := s.host port
    let s1 := s.setHost port { h with
      unmasked := h.unmasked.filter fun u => !gone (u / 4096), pend := h.pend.filter (fun e => !gone e.1),
      table := h.table.filter fun e => !gone (e.1 / 2 ^ 20) }
    (s1.listedCtxs.filter mineOf).foldl (fun (a : State) n =>
      let st := a.cstate n
      if st = cFree then
        allParts.foldl (fun b p => b.clearSlots p fun c => c == n) (a.setFld (F.cOwned n) 0)
      else if (st = cLive ∨ st = cQuiesced ∨ st = cFaulted) ∧ (a.ctx n).flrMark = none then
        a.modCtx n fun c => { c with flrMark := some s.time.mark }
      else a) s1)

/-! ## Handover (R149 to R152) -/

/-- Checks of CTX_HANDOVER (R149, R150): a context that a function level reset tears down from the next mark on passes to no port (R143;
DEDUCED, assumption 143). -/
def State.checkHandover (s : State) (c : Cmd) : Verdict :=
  let n := c.fld 8 2
  let owner := s.fld (F.cPort n)
  let consent := owner == c.ctx
  let forced := owner == 1 - c.ctx && decide (s.fld F.handoverCandles ≤ s.fld (F.hDownCandles owner))
  let inHost := [0, 1, 2].any fun i => (hostOf (s.ringAt n i)).isSome
  verdict ([(8, decide (4096 ≤ n)), (10, decide (1 < c.fld 10 1))] ++ reservedBad c [(8, 3)])
    (isMgmt c.ctx && !isMgmt n && s.flag (F.cOwned n) && (if c.fld 10 1 = 0 then consent else forced)) [] false
    (!inHost && (s.live n || s.cstate n == cQuiesced) && !s.targetBusy n c.cid && (s.ctx n).flrMark.isNone) true true

/-- The target enters HANDOVER (R140, R151). -/
def State.beginHandover (s : State) (n : Nat) : State :=
  (s.releaseQueue n).setCstate n cHandover

/-- CTX_HANDOVER (R150, R151). -/
def execCtxHandover (n : Nat) (s : State) : Host.Outcome State Fault Refusal :=
  s.act (match s.freshCmd n opCtxHandover with
    | some c => s.settle c (s.checkHandover c) fun t =>
        let s1 := t.modCmd c.cid fun d => { d with phase := .running, handle := c.fld 8 2 }
        if t.fenced c.cid then s1 else s1.beginHandover (c.fld 8 2)
    | none => s)

/-- Handovers that a FENCE no longer holds (R129), of contexts that no function level reset tears down (R143). -/
def State.dueHandovers (s : State) : State :=
  ((s.openCmds opCtxHandover).filter fun c => !s.fenced c.cid && (s.live c.handle || s.cstate c.handle == cQuiesced) &&
    (s.ctx c.handle).flrMark.isNone).foldl
    (fun a c => a.beginHandover c.handle) s

/-- HANDOVER_COMPLETE (R152): 262,144 core cycles after admission. -/
def execHandoverComplete (cid : Nat) (s : State) : Host.Outcome State Fault Refusal :=
  s.act (
    match s.cmd cid with
    | some c =>
      let n := c.handle
      if c.op = opCtxHandover ∧ c.phase = .running ∧ s.cstate n = cHandover ∧ c.admitCyc + resetCycles ≤ s.now then
        let s1 := ((s.setFld (F.cPort n) (1 - s.fld (F.cPort n))).setFld (F.cFunc n) 0).setCstate n cQuiesced
        s1.finish cid stOk [] false
      else s
    | none => s)

/-! ## Damper slots (R248) -/

/-- DAMPER_OWNER_WRITE (R248). -/
def execDamperOwnerWrite (port p slot : Nat) (v : Word32) (s : State) : Host.Outcome State Fault Refusal :=
  s.actHost port 0 (
    let n := bits v.toNat 0 12
    if !s.flag (F.dValid p slot) then
      (if bit v.toNat 15 && s.tableOpen port n then (s.setFld (F.dCtx p slot) n).setFld (F.dValid p slot) 1 else s)
    else if !bit v.toNat 15 && s.tableOpen port (s.fld (F.dCtx p slot)) then s.clearSlot p slot else s)

end Sys2Proof.Machine
end

