-- ==== Sys2Proof/Machine/Roles.lean ====
section
/-!
DEFINITION. Roles.lean: power domains (R664 to R666), tiles and spares (R20 to R24), PARTITION_ROLE (R40 to R49, R373, R455),
FRAME_SET (R89 to R91), MARK_SET (R66 to R68) and partition resets (R617, R618).
-/
namespace Sys2Proof.Machine
open Sys2Proof.Config

/-! ## Power domains (R39, R664 to R666) -/

def clusterDomain (cl : Nat) : Nat := 17 * (cl / 16) + cl % 16
/-- Number under which the GDDR7 rail of p waits to be switched on. -/
def railId (p : Nat) : Nat := 200 + p

/-- Domain d is shown on or off in POWER_DOMAINS (R666). -/
def State.setDomain (s : State) (d v : Nat) : State := s.setFld ⟨0x700 + 4 * (d / 32), d % 32, 1⟩ v
def State.domainOn (s : State) (d : Nat) : Bool := s.flag ⟨0x700 + 4 * (d / 32), d % 32, 1⟩

/-- Domains and rails fall due in the present mark: what fell due earlier comes first, and what falls due together waits in
ascending order, a rail just before its partition's clusters (R665). What is on, or already waits, is not queued again. -/
def State.queueOn (s : State) (l : List Nat) : State :=
  let key (i : Nat) : Nat := if 200 ≤ i then 34 * (i - 200) else 2 * i + 1
  let new := (dedup l).filter fun i => !(s.board.dueOn.any fun e => e.2 == i) &&
    !(if 200 ≤ i then bit s.board.rails.toNat (i - 200) else s.domainOn i)
  let le (a c : Nat × Nat) : Bool := decide (a.1 < c.1 ∨ a.1 = c.1 ∧ key a.2 ≤ key c.2)
  s.modBoard fun b => { b with dueOn := sortBy le (b.dueOn ++ new.map fun i => (s.now - s.time.cyc, i)) }

/-- Domains and rails switch off at once (R665). -/
def State.switchOff (s : State) (l : List Nat) : State :=
  let s1 := s.modBoard fun b => { b with dueOn := b.dueOn.filter fun e => !l.contains e.2 }
  l.foldl (fun a i => if 200 ≤ i then
      a.modBoard fun b => { b with rails := b.rails &&& ~~~(BitVec.ofNat 8 (2 ^ (i - 200))) }
    else a.setDomain i 0) s1

/-- Clusters of partition p, and those that are not out of service (R24). -/
def partClusters (p : Nat) : List Nat := (List.range 16).map (· + 16 * p)
def State.okClusters (s : State) (p : Nat) : List Nat := (partClusters p).filter fun cl => !(s.cluster cl).outOfService

/-- DOMAIN_SWITCH_ON (R665): the first that is due, at least 8 marks after the last. -/
def execDomainSwitchOn (s : State) : Host.Outcome State Fault Refusal :=
  s.act (
    match s.board.dueOn with
    | (_, i) :: r =>
      let at_ := s.now - s.time.cyc
      let free := match s.board.lastOn with
        | some m => decide (m + 8 * cyclesPerMark ≤ at_)
        | none => true
      if free then
        let s1 := s.modBoard fun b => { b with dueOn := r, lastOn := some at_ }
        if 200 ≤ i then s1.modBoard fun b => { b with rails := b.rails ||| BitVec.ofNat 8 (2 ^ (i - 200)) }
        else s1.setDomain i 1
      else s
    | [] => s)

/-! ## Tiles and clusters (R20 to R24) -/

/-- Logical slots of a cluster without a tile. -/
def State.emptyTileSlots (s : State) (cl : Nat) : List Nat := (List.range 8).filter fun j => s.fld (F.slotMap cl j) == 15

/-- One empty slot j is filled from the spare, or, without a spare, from slot 7 (R21, R23). -/
def State.fillSlot (s : State) (cl j : Nat) : State :=
  let sp := s.fld (F.spare cl)
  if sp ≠ 15 then (s.setFld (F.slotMap cl j) sp).setFld (F.spare cl) 15
  else if j = 7 then s
  else (s.setFld (F.slotMap cl j) (s.fld (F.slotMap cl 7))).setFld (F.slotMap cl 7) 15

/-- Tiles in service of a cluster. -/
def State.tilesIn (s : State) (cl : Nat) : List Nat := (List.range 8).filter fun j => s.fld (F.slotMap cl j) != 15

/-- The event of R21 on a cluster: the spare enters service, or slot 7 is vacated; with fewer than seven tiles the cluster is
taken out of service and its domain switched off until chip reset (R23, R24). -/
def State.takeSpares (s : State) (cl : Nat) : State :=
  let s1 := (s.emptyTileSlots cl).foldl (fun a j => a.fillSlot cl j) s
  let s2 := s1.setCluster cl { s1.cluster cl with outSlots := [] }
  if (s2.tilesIn cl).length < 7 then
    (s2.setCluster cl { s2.cluster cl with outOfService := true }).switchOff [clusterDomain cl]
  else s2

/-- CLUSTERS of PART_STATUS: the clusters in service while p serves as Lantern or Hearth (R699). -/
def State.showClusters (s : State) (p : Nat) : State :=
  let on := (s.role p == rLantern || s.role p == rHearth) && s.flag (F.inService p)
  s.setFld (F.clustersIn p) (if on then sumOf ((s.okClusters p).map fun cl => 2 ^ (cl % 16)) else 0)

/-! ## Contents lost (R209, R223, R539) -/

/-- Tiles of the logical numbers [t, t + n) after a reset: banks, NF bits and scratchpads as R209, R223 and R539 say. -/
def State.wipeTiles (s : State) (t n : Nat) : State :=
  let s1 := s.undefMem (windowOf t) (n * windowSize)
  { s1 with tiles := tclear s1.tiles t n }

/-- Threads and issued instructions of partition p are gone. -/
def State.wipeThreads (s : State) (p : Nat) : State :=
  { s with
    threads := tclear s.threads (2048 * p) 2048
    inflight := s.inflight.filter fun i => i.thread / 2048 != p }

/-- The cluster engines of partition p start afresh; a cluster out of service stays so. -/
def State.wipeClusters (s : State) (p : Nat) : State :=
  (partClusters p).foldl (fun a cl =>
    a.setCluster cl { Cluster.dflt with outOfService := (a.cluster cl).outOfService, outSlots := (a.cluster cl).outSlots }) s

/-- The L2 of p is invalid, and its queues are empty (R539). -/
def State.dropL2 (s : State) (p : Nat) : State := s.modPart p fun x => { x with l2 := [], tenant := [], cxlQ := [], agentQ := false }

/-- Everything that runs or is held on the clusters and in the L2 of p is lost. -/
def State.wipeEngines (s : State) (p : Nat) : State :=
  (((s.wipeThreads p).wipeClusters p).wipeTiles (128 * p) 128).dropL2 p

/-- The work of the old role leaves the clusters of p: its descriptors, suspects and relaunches; an engine reset that runs goes on
to its end, and the freezes of the candle stay counted (R49, R604). -/
def State.clearEngines (s : State) (p : Nat) : State :=
  (partClusters p).foldl (fun a cl => a.setCluster cl { a.cluster cl with
    channels := [], suspects := [], current := none, replay := [], repair := (a.cluster cl).repair && (a.cluster
    cl).frozenAt.isSome }) s

/-- What a role change makes of the clusters of p (R45, R49, R539): scratchpads and accumulators are undefined; weight banks and
NF bits keep their values between Lantern and Hearth, and are as after a reset where the clusters lose their power. -/
def State.leaveEngines (s : State) (p : Nat) (off : Bool) : State :=
  let s1 := (s.wipeThreads p).clearEngines p
  (if off then s1.wipeTiles (128 * p) 128 else s1.undefMem (windowOf (128 * p)) (128 * windowSize)).dropL2 p

/-! ## PARTITION_ROLE (R42 to R49) -/

/-- A PARTITION_ROLE for p is pending: accepted, and awaiting its effective mark (R43, R699). -/
def State.roleOpen (s : State) (p : Nat) : Bool := (s.part p).pendRole.isSome

/-- p is a target or source of an incomplete PUBLISH, or a target of an incomplete REFERENCE_SET (R43). -/
def State.lampBusy (s : State) (p : Nat) : Bool :=
  ((s.openCmds opPublish).any fun d => bit (d.fld 9 1) p || (d.fld 8 1 == 0 && (s.sourceParts (d.fld 10 2)).contains p)) ||
    (s.openCmds opReferenceSet).any fun d => bit (d.fld 8 1) p

/-- A layer register keeps R453: MODE is not 3, and WINDOW is at least 1 in mode WINDOW. -/
def State.layerOk (s : State) (l : Nat) : Bool :=
  s.fld (F.layerMode l) != 3 && (s.fld (F.layerMode l) != 2 || decide (1 ≤ s.fld (F.layerWindow l)))

/-- The model descriptor is set and within its ranges (R453, R455). -/
def State.modelOk (s : State) : Bool :=
  let dt (c : Nat) : Bool := decide (c ≤ 14) && c != 0
  s.flag F.modelValid && decide (1 ≤ s.fld F.layers) && decide (1 ≤ s.fld F.hkv) && s.fld F.headDim != 0 &&
    s.fld F.headDim % 32 == 0 && dt (s.fld F.kDtype) && dt (s.fld F.vDtype) && decide (1 ≤ s.fld F.maxPos) &&
    decide (1 ≤ s.fld F.imageUnits ∧ s.fld F.imageUnits ≤ 12287) && (List.range (s.fld F.layers)).all fun l => s.layerOk l

/-- Two unit ranges (start, length) do not overlap. -/
def apart (a n b m : Nat) : Bool := n == 0 || m == 0 || decide (a + n ≤ b) || decide (b + m ≤ a)

/-- Slot area and adapter area of p keep R456 and R457. -/
def State.lampAreasOk (s : State) (p : Nat) : Bool :=
  let su := s.fld (F.slotUnits p)
  let sb := s.fld (F.slotBase p)
  let ab := s.fld (F.adpBase p)
  let an := s.fld (F.adpBlocks p) * s.fld (F.blockUnits p)
  let kb := s.fld (F.arenaBase p)
  let kn := cdiv (s.arenaEnd p - s.arenaAt p) unit2M
  decide (1 ≤ su ∧ su ≤ 3072) && decide (1 ≤ s.fld (F.blockUnits p)) && decide (s.fld (F.adpBlocks p) ≤ 12287) &&
    decide (sb + 4 * su ≤ 12288) && decide (ab + an ≤ 12288) && apart sb (4 * su) ab an && apart sb (4 * su) kb kn && apart ab an kb kn

/-- Marks from the effective mark to service (R45). -/
def serviceMarks (old new : Nat) : Nat := if new = rOff then 0 else if old = rOff then 16384 else 2048

/-- Checks of PARTITION_ROLE (R43, R135, R373, R455). -/
def State.checkRole (s : State) (c : Cmd) : Verdict :=
  let p := c.fld 8 1
  let r := c.fld 9 1
  let busy := !(s.samplesOn p).isEmpty || (s.stepOn p).isSome || decide (s.time.mark < (s.part p).flueTill) || s.lampBusy p ||
    s.roleOpen p || s.role p == r
  verdict ([(8, decide (8 ≤ p)), (9, decide (4 ≤ r))] ++ reservedBad c [(8, 2), (16, 8)]) (isMgmt c.ctx) [] false
    (s.marksOk && leadOk c (c.fld 16 8) && !busy &&
      (r != rLantern || (s.arenaOk p && s.modelOk && s.lampAreasOk p))) true true

def execPartitionRole (n : Nat) (s : State) : Host.Outcome State Fault Refusal :=
  s.act (match s.freshCmd n opPartitionRole with
    | some c => s.settle c (s.checkRole c) fun t =>
        ((t.modPart (c.fld 8 1) fun x => { x with pendRole := some (c.cid, c.fld 9 1, c.fld 16 8) }).modCmd c.cid fun d =>
          { d with phase := .running, endAt := c.fld 16 8 + serviceMarks (t.role (c.fld 8 1)) (c.fld 9 1) }).showPending (c.fld 8 1)
    | none => s)

/-- What belongs to the role that p leaves (R49). -/
def State.leaveRole (s : State) (p new : Nat) : State :=
  let old := s.role p
  if old = rLantern then
    let s1 := s.finishAll stDeadlineMissed (((s.openCmds opFrameSet).filter fun c => c.fld 8 1 == p).map (·.cid))
    let s2 := (s1.emptySlots p).leaveArena p
    s2.modPart p fun x => { x with
      sched := none, nextSched := none, laterScheds := [], curFrame := none, curWork := [], sealed := none, staged := [],
      missed := false, kernelUp := false, finalised := none,
      overrun := false, adapters := [], replaySus := [], replayCtx := none, noWorkTill := 0 }
  else if new = rOff ∧ (old = rHearth ∨ old = rSpare) then
    regions.foldl (fun a i => a.setFld (F.crLiveHalf p i) 0) (s.setReg (F.pb p 0x310) 0)
  else s

/-- GDDR7 of p is powered down: contents lost, and the channel's commands end (R45, R316, R539). -/
def State.losePart (s : State) (p : Nat) : State :=
  (s.abortChannel p stAbortedReset).undefMem (gddrBase p) gddrPerPart

/-- Domains that a role change switches (R45, R664). -/
def State.roleSwitch (s : State) (p old new : Nat) : State :=
  let s1 := if new = rSpare ∨ new = rOff then s.switchOff ((partClusters p).map clusterDomain) else s
  let s2 := if new = rOff then s1.switchOff [railId p] else s1
  let rail := if old = rOff ∧ new ≠ rOff then [railId p] else []
  let cls := if (new = rLantern ∨ new = rHearth) ∧ (old = rOff ∨ old = rSpare) then (s2.okClusters p).map clusterDomain else []
  s2.queueOn (rail ++ cls)

/-- A PARTITION_RESET entry (R593): phase 0 start, 1 end. -/
def State.resetSoot (s : State) (p phase cause : Nat) : State := s.soot1 0x23 p 0 0 p (toLE 1 phase ++ toLE 1 cause)

/-- Registers of p's block in a partition reset: RO and W1C fields return to their reset values, RW fields keep theirs; Damper
slots return wholly, and HEARTH_VERSION and LIVE_HALF stay (R254, R694). -/
def State.resetBlock (s : State) (p : Nat) : State :=
  let keep (off : Nat) : Bool := match partOff off with
    | some (_, o) => (decide (0x310 ≤ o) && decide (o < 0x318)) || (decide (0x600 ≤ o) && decide (o < 0x700))
    | none => true
  let mineOff (off : Nat) : Bool := match partOff off with
    | some (q, _) => q == p
    | none => false
  let offs := (s.regs.filter fun e => mineOff e.1 && !keep e.1).map (·.1)
  let s1 := offs.foldl (fun a off =>
    let rw : Word := match regDesc off with
      | some d => BitVec.ofNat 64 d.rw
      | none => 0
    a.setReg off ((a.reg off &&& rw) ||| (regReset off &&& ~~~rw))) s
  allSlots.foldl (fun a i => a.clearSlot p i) s1
where
  /-- Numbers of the Damper slots of a partition (R247). -/
  allSlots : List Nat := List.range 512

/-- p begins to serve in its role (R46, R48, R699). -/
def State.enterService (s : State) (p : Nat) : State := (s.setFld (F.inService p) 1).showClusters p

/-- A checkpoint that reads p and has not ended misses its deadline (R635). -/
def State.missCheckpoints (s : State) (p : Nat) : State :=
  ((s.openCmds opCheckpoint).filter fun c => bit (c.fld 8 1) p && decide (c.fld 32 8 ≤ s.time.mark)).foldl
    (fun a c => a.modCmd c.cid fun d => { d with abandoned := true }) s

/-- The partition reset by which p leaves Off begins (R45); a checkpoint that reads p misses its deadline (R635). -/
def State.enterFromOff (s : State) (p : Nat) : State :=
  ((((s.missCheckpoints p).resetBlock p).setFld (F.inReset p) 1).raise 2).resetSoot p 0 7

/-- The partition takes its spares (R21, R618). -/
def State.partSpares (s : State) (p : Nat) : State := (partClusters p).foldl (fun a cl => a.takeSpares cl) s

/-- A reset of p has ended: RESET_EVT, the entry, the spares, and every Damper slot at its reset values, also one claimed during
the reset (R254, R618, R699). -/
def State.resetOver (s : State) (p cause : Nat) : State :=
  (((((s.clearSlots p fun _ => true).partSpares p).setFld (F.inReset p) 0).setEvt (F.resetEvt p) 2).resetSoot p 1 cause)

/-- A role change of p that has not entered service yet ends with status st (assumption 147). -/
def State.endService (s : State) (p st : Nat) : State :=
  match (s.part p).serveAt with
  | some (cid, _, _) => (s.modPart p fun x => { x with serveAt := none }).finishAll st [cid]
  | none => s

/-- The role change of p takes place at its effective mark (R45, R49, R375, R459). A change to Off is complete there (R45, R46,
R699). One before it that has not entered service never will, and misses it (DESIGN CHOICE, assumption 147). -/
def State.changeRole (s : State) (p cid new m : Nat) : State :=
  let s := s.endService p stDeadlineMissed
  let old := s.role p
  let s1 := (s.leaveRole p new).leaveEngines p (new == rSpare || new == rOff)
  let s2 := if new = rOff then s1.losePart p else s1
  let s3 := if old = rOff then s2.enterFromOff p else s2
  let s4 := (((s3.roleSwitch p old new).setFld (F.role p) new).setFld (F.inService p) 0).showClusters p
  let s5 := if new = rLantern then (s4.emptySlots p).enterArena p else s4.syncKv p
  if new = rOff then (s5.enterService p).finish cid stOk [] false
  else s5.modPart p fun x => { x with serveAt := some (cid, new, m + serviceMarks old new) }

/-- ROLE_EFFECTIVE (R45, R48, R49): due at the effective mark; within a partition reset it changes nothing, and a command that a
FENCE still holds has missed it (R129). -/
def execRoleEffective (p : Nat) (s : State) : Host.Outcome State Fault Refusal :=
  s.act (
    match (s.part p).pendRole with
    | some (cid, r, m) =>
      if m ≤ s.time.mark then
        if s.fenced cid then s.abortCmds stDeadlineMissed [cid]
        else
          let s1 := (s.modPart p fun x => { x with pendRole := none }).showPending p
          if s.flag (F.inReset p) then s1 else s1.changeRole p cid r m
      else s
    | none => s)

/-- Role changes of p whose effective mark fell within the partition reset by which p leaves Off: they change nothing (R48). -/
def State.fallenRoles (s : State) (p cid : Nat) : List Nat :=
  ((s.openCmds opPartitionRole).filter fun c =>
    c.fld 8 1 == p && c.cid != cid && decide (c.fld 16 8 ≤ s.time.mark)).map (·.cid)

/-- ROLE_SERVICE (R46): the partition serves, and PARTITION_ROLE completes; with a reset that p left Off by end the role changes that
fell within it (R48, assumption 67). -/
def execRoleService (p : Nat) (s : State) : Host.Outcome State Fault Refusal :=
  s.act (
    match (s.part p).serveAt with
    | some (cid, _, m) =>
      if m ≤ s.time.mark then
        let s1 := s.modPart p fun x => { x with serveAt := none }
        if s.flag (F.inReset p) then
          (((s1.resetOver p 7).enterService p).finish cid stOk [] false).finishAll stAbortedReset (s.fallenRoles p cid)
        else (s1.enterService p).finish cid stOk [] false
      else s
    | none => s)

/-! ## FRAME_SET (R89 to R91) -/

def State.checkFrameSet (s : State) (c : Cmd) : Verdict :=
  let p := c.fld 8 1
  let len := c.fld 12 4
  let o := c.fld 16 8
  let guar := (s.samplesOn p).any fun e => (s.entry e).guar
  let publish := (s.openCmds opPublish).any fun d => bit (d.fld 9 1) p
  let ref := (s.openCmds opReferenceSet).any fun d => bit (d.fld 8 1) p
  let onGrid := match (s.part p).sched with
    | some sc => sc.hits o
    | none => true
  verdict ([(8, decide (8 ≤ p)), (9, decide (2 ≤ c.fld 9 1))] ++ reservedBad c [(8, 2), (12, 12)]) (isMgmt c.ctx)
    [(12, decide (len < 256 ∨ 65535 < len))] false
    (s.marksOk && leadOk c o && s.role p == rLantern && onGrid && !guar && !publish && !ref) true true

/-- FRAME_SET (R90, R91): the schedule waits for its origin. -/
def execFrameSet (n : Nat) (s : State) : Host.Outcome State Fault Refusal :=
  s.act (match s.freshCmd n opFrameSet with
    | some c => s.settle c (s.checkFrameSet c) fun t =>
        (t.modPart (c.fld 8 1) fun x => x.addSched c.cid { len := c.fld 12 4, origin := c.fld 16 8, builder := c.fld 9 1 }).modCmd
          c.cid fun d => { d with phase := .running }
    | none => s)

/-! ## MARK_SET (R66 to R68) -/

def State.checkMarkSet (s : State) (c : Cmd) : Verdict :=
  let m := c.fld 16 8
  verdict ([(16, m % 65536 != 0 || decide (2 ^ 54 ≤ m))] ++ reservedBad c [(16, 8)]) (isMgmt c.ctx) [] false
    (s.tstate == tUnset && s.flag F.markrefLock && s.time.setM.isNone) true true

/-- MARK_SET (R66 to R68): M waits for the first candle boundary at least 2 marks after admission. -/
def execMarkSet (n : Nat) (s : State) : Host.Outcome State Fault Refusal :=
  s.act (match s.freshCmd n opMarkSet with
    | some c => s.settle c (s.checkMarkSet c) fun t =>
        ({ t with time := { t.time with setM := some (c.cid, c.fld 16 8, c.admitMark) } }).modCmd c.cid fun d =>
          { d with phase := .running }
    | none => s)

/-! ## Partition reset (R617, R618) -/

/-- Cause of a partition reset, as its entry names it (R593). -/
def faultCause : PartFault → Nat
  | .hang => 4
  | .core => 6
  | .l2 => 3

/-- Work of the control core, the command DMA channel, the Lamplighter agent or the Flue agent of p has passed its published count by
MARGIN marks (R602): the running command of the channel, a copy that reads or writes p, a collective with a member on p, a step, a
service mark, or a frame boundary of p. The part that waits for a host or an expander does not count (R601). -/
def State.overdue (s : State) (p : Nat) : Bool :=
  let x := s.part p
  let g := s.fld (F.snufferMargin p)
  let past (m : Nat) : Bool := decide (m + g ≤ s.time.mark)
  (x.dma.any fun j => j.running && decide (j.endAt + hapWait j.hap + cyclesPerMark * g ≤ s.now)) ||
    (s.jobs.any fun j => past j.endAt && (s.cmd j.cid).any fun c =>
      bit (c.fld (if c.op = opPublish then 9 else 8) 1) p || (c.op == opPublish && c.fld 8 1 == 0 && (s.sourceParts (c.fld 10 2)).contains p)) ||
    (s.colls.any fun co => past co.done && co.locals.any fun y => y.p == p && !y.recorded) ||
    (s.stepOn p).any (fun t => past t.commit) ||
    (match x.serveAt with
     | some (_, _, m) => past m
     | none => false) ||
    (match x.sched, x.curFrame with
     | some sc, some k => past (sc.origin + (k + 1) * sc.len)
     | _, _ => false)

/-- CONTROL_HANG (R36, R602): the control core, command DMA channel, Lamplighter agent or Flue agent of p hangs, which shows once work
of theirs is overdue; its control core fails otherwise; or its L2 meets an uncorrectable error. -/
def execControlHang (p : Nat) (what : PartFault) (s : State) : Host.Outcome State Fault Refusal :=
  s.act (
    if s.role p = rOff then s
    else
      match what with
      | .hang => if s.overdue p then s.triggerReset p (faultCause what) else s
      | _ => s.triggerReset p (faultCause what))

/-- A publication with p as a source or target is abandoned (R472). -/
def State.abandonOn (s : State) (p : Nat) : State :=
  ((s.openCmds opPublish).filter fun c => bit (c.fld 9 1) p || (c.fld 8 1 == 0 && (s.sourceParts (c.fld 10 2)).contains p)).foldl
    (fun a c => a.abandon c.cid false) s

/-- The slots of p are EMPTY after its reset: a publication that had taken one is abandoned and holds none there (R459, R472). -/
def State.loseSlots (s : State) (p : Nat) : State :=
  let cs := (s.openCmds opPublish).filter fun c => c.targets.any fun t => t.1 == p
  cs.foldl (fun a c => (a.abandon c.cid false).modCmd c.cid fun d => { d with targets := d.targets.filter fun t => t.1 != p })
    (s.emptySlots p)

/-- The start of a partition reset: threads, descriptors and frames of p are gone, samples drain (R368, R618). -/
def State.beginReset (s : State) (p cause : Nat) : State :=
  let s1 := (((s.setFld (F.inReset p) 1).setFld (F.inService p) 0).showClusters p).raise 2
  let s2 := (s1.resetSoot p 0 cause).modPart p fun x => { x with
    resetAt := none, resetFrom := some (s.time.mark, cause, s.role p), pendRole := none, serveAt := none }
  let s3 := (s2.showPending p).abandonOn p
  let s4 := (s3.missCheckpoints p).stopMembers (fun _ x => x.p == p) stAbortedReset
  let s5 := (s4.samplesOn p).foldl (fun a e => a.drainSample e) s4
  let s6 := (s5.part p).dma.foldl (fun (a : State) j => a.undefJob p j) s5
  (s6.wipeEngines p).modPart p fun x => { x with
    curWork := [], sealed := none, staged := [], finalised := none, overrun := false, missed := false, kernelUp := false,
    replaySus := [], replayCtx := none,
    noWorkTill := 0, tempOver := 0, dma := x.dma.map fun (j : DmaJob) => { j with running := false } }

/-- PARTITION_RESET_START (R617, R618): due at cycle 0 of the mark after the trigger. -/
def execPartitionResetStart (p : Nat) (s : State) : Host.Outcome State Fault Refusal :=
  s.act (
    match (s.part p).resetAt with
    | some (m, cause) => if s.markCome m then s.beginReset p cause else s
    | none => s)

/-- Commands whose work runs on p, in submission order (R618): the step with p in its mask, what its command DMA channel holds,
an accepted REFERENCE_SET with p as a target (R476), and the accepted role changes that were incomplete when the reset began or whose
effective mark fell within it (R48). One that was rejected ends at its own count (R99). -/
def State.abortedBy (s : State) (p from_ : Nat) : List Nat :=
  (s.cmds.filter fun c => c.incomplete && (
    (c.op == opStepLaunch && ((s.step? c.cid).any fun t => t.parts.contains p)) ||
    ((s.part p).dma.any fun j => j.cid == c.cid) || (c.accepted && c.op == opReferenceSet && bit (c.fld 8 1) p) ||
    (c.accepted && c.op == opPartitionRole && c.fld 8 1 == p &&
      (decide (c.admitMark < from_) || decide (c.fld 16 8 ≤ s.time.mark))))).map (·.cid)

/-- The end of a partition reset (R48, R368, R415, R459, R618): its GDDR7, which kept its contents (R539), answers again when the commands
it aborts record their ends (R437). -/
def State.endReset (s : State) (p from_ cause : Nat) : State :=
  let s1 := (s.setFld (F.inReset p) 0).abortCmds stAbortedReset ((s.abortedBy p from_))
  let s2 := (s1.dropJobs fun q _ => q == p).resetBlock p
  let s3 := s2.resetOver p cause
  let s4 := (s3.modPart p fun x => { x with resetFrom := none }).enterService p
  let s5 := (s4.samplesOn p).foldl (fun a e => a.sampleDone e stAbortedReset a.stamp false) s4
  let s6 := if s.role p = rLantern then (s5.loseSlots p).enterArena p else s5
  let s7 := s6.modPart p fun x => { x with adapters := [] }
  let s8 := match (s.stepOn p) with
    | some _ => s7.setFld (F.lastStatus p) stAbortedReset
    | none => s7
  s8.releaseMembers fun _ x => x.p == p && x.outcome == some stAbortedReset

/-- PARTITION_RESET_END (R37, R617, R618, R675): 16,384 marks after the trigger. A reset that has not completed by then (not `ok`)
goes on, and a chip reset follows; so does one after the reset of a die above 105.0 °C that still reads above 100.0 °C. -/
def execPartitionResetEnd (p : Nat) (ok : Bool) (s : State) : Host.Outcome State Fault Refusal :=
  s.act (
    match (s.part p).resetFrom with
    | some (m, cause, _) =>
      if (s.part p).resetTrig + 16384 * cyclesPerMark ≤ s.now then
        if !ok then s.chipFault false
        else if (s.part p).hotDie && decide (100 * 16 < s.fld (F.thermJ p)) then (s.endReset p m cause).chipFault false
        else s.endReset p m cause
      else s
    | none => s)

end Sys2Proof.Machine
end

