-- ==== Sys2Proof/Machine/Images.lean ====
section
/-!
DEFINITION. Images.lean: context images (R623 to R631): CTX_SAVE, CTX_RESTORE, and the resume of a restored step.
-/
namespace Sys2Proof.Machine
open Sys2Proof.Config

/-! ## Geometry of an image (R623, R624) -/

def partBytes : Nat := 253755392     -- 242 MiB
def recordBytes : Nat := 1966080     -- 1,920 KiB
def imageMarks : Nat := 240

/-- Damper slots owned by context n, as (partition, slot). -/
def State.slotsOwned (s : State) (n : Nat) : List (Nat × Nat) :=
  allParts.flatMap fun p => ((List.range 512).filter fun i => s.flag (F.dValid p i) && s.fld (F.dCtx p i) == n).map fun i => (p, i)

/-- Table entries that context n holds. -/
def State.samplesHeld (s : State) (n : Nat) : List Nat :=
  (s.table.filter fun e => e.2.state != sFree && e.2.ctx == n).map (·.1)

/-- Hearth partitions whose HEARTH_CTRL names context n, ascending. -/
def State.hearthOf (s : State) (n : Nat) : List Nat :=
  allParts.filter fun p => s.role p == rHearth && s.flag (F.hearthValid p) && s.fld (F.hearthCtx p) == n

def State.stepsOf (s : State) (n : Nat) : List Step := s.steps.filter fun t => t.ctx == n

/-- Partitions of the steps of context n in flight, ascending. -/
def State.imageParts (s : State) (n : Nat) : List Nat :=
  allParts.filter fun p => (s.stepsOf n).any fun t => t.parts.contains p

/-- B0 (R623). -/
def State.imageBase (s : State) (n : Nat) : Nat :=
  cdiv (65536 + 256 * (s.slotsOwned n).length + 128 * (s.samplesHeld n).length) unit2M * unit2M

/-- Tiles of partition p that hold a LIVE or FAULTED thread of context n (R623). -/
def State.imageTiles (s : State) (p n : Nat) : List Nat :=
  dedup ((s.threads.filter fun e => e.1 / 2048 == p && e.2.state != .free && e.2.ctx == n).map fun e => e.1 / 16)

/-- GEOMETRY of partition p (R624). -/
def State.geometry (s : State) (p : Nat) : List Byte :=
  toLE 2 (s.fld (F.clustersIn p)) ++ ((partRange p).flatMap fun cl => toLE 1 (sumOf ((slotsIn s cl).map fun j => 2 ^ j))) ++ toLE 14 0
where
  /-- Clusters of partition p. -/
  partRange (p : Nat) : List Nat := (List.range 16).map (· + 16 * p)
  /-- Logical slots of a cluster with a tile in service. -/
  slotsIn (s : State) (cl : Nat) : List Nat :=
    if (s.cluster cl).outOfService then [] else (List.range 8).filter fun j => s.fld (F.slotMap cl j) != 15

/-- LANES (R624). -/
def State.lanesImage (s : State) : List Byte := (List.range 8).flatMap fun k => toLE 1 (s.fld (F.lkLanes k))

/-! ## CTX_SAVE and CTX_RESTORE (R131, R133, R625) -/

/-- The range lies wholly in GDDR7 (R625). -/
def State.inGddr (s : State) (n a len : Nat) : Bool :=
  (rangePieces a len).all fun e => match s.xlatTable n e.1 with
    | some x => (gddrPart (x.pa e.1)).isSome && (gddrPart (x.pa (e.1 + e.2 - 1))).isSome
    | none => false

/-- A hearth partition of the target is busy with a PUBLISH, a CHECKPOINT or a collective in the image's marks (R625). -/
def State.imageBusy (s : State) (n m : Nat) : Bool :=
  let ps := s.hearthOf n
  ((s.openCmds opPublish).any fun d => ps.any fun p =>
      bit (d.fld 9 1) p || (d.fld 8 1 == 0 && (s.sourceParts (d.fld 10 2)).contains p)) ||
    ((s.openCmds opCheckpoint).any fun d => ps.any fun p => bit (d.fld 8 1) p) ||
    s.colls.any fun co => decide (co.start ≤ m + 239) && decide (m ≤ co.deadline) && co.locals.any fun x => ps.contains x.p

/-- Field of n bytes of the first bytes of the image, which P0 reads: the base section names no partition (R713). -/
def State.baseFld (s : State) (c : Cmd) (off n : Nat) : Nat := ofLE (s.readVirt (some 0) false c.ctx (c.fld 16 8 + off) n)

/-- Partitions of the parts of the image. -/
def State.imageMap (s : State) (c : Cmd) : List Nat :=
  (List.range (Nat.min 8 (s.baseFld c 3 1))).map fun j => s.baseFld c (32 + j) 1

/-- The restore of a mid-step image would place its step on a partition with a PARTITION_ROLE pending (R44, R630). DESIGN CHOICE
(assumption 106): what the image says of its parts is read at admission for this. -/
def State.imagePending (s : State) (c : Cmd) : Bool :=
  s.baseFld c 2 1 == 1 && (s.imageMap c).any fun p => decide (p < 8) && s.flag (F.pending p)

/-- The checks that both commands share (R124, R131, R133, R625); `ok` is the state that the target must be in. -/
def State.checkImage (s : State) (c : Cmd) (flags : Nat) (wr ok : Bool) : Verdict :=
  let n := c.fld 8 2
  let a := c.fld 16 8
  let len := c.fld 24 8
  let m := c.fld 32 8
  verdict ([(8, decide (4096 ≤ n)), (10, decide (flags < c.fld 10 1)), (16, badAddr a)] ++ reservedBad c [(8, 3), (16, 24)])
    (isMgmt c.ctx && !isMgmt n && s.pfOwns c.ctx n)
    [(16, !s.mapped c.ctx a len (!wr) wr), (24, decide (len < unit2M))] (len == 0)
    (s.marksOk && leadOk c m && ok && !s.targetBusy n c.cid && s.inGddr c.ctx a len && !s.imageBusy n m) true true

/-- CTX_SAVE (R625). -/
def execCtxSave (n : Nat) (s : State) : Host.Outcome State Fault Refusal :=
  s.act (match s.freshCmd n opCtxSave with
    | some c =>
      let t := c.fld 8 2
      s.settle c (s.checkImage c 1 true (s.live t || s.cstate t == cQuiesced)) fun a =>
        a.modCmd c.cid fun d => { d with phase := .running, handle := t }
    | none => s)

/-- CTX_RESTORE (R44, R625): its target is QUIESCED with no incomplete command. -/
def execCtxRestore (n : Nat) (s : State) : Host.Outcome State Fault Refusal :=
  s.act (match s.freshCmd n opCtxRestore with
    | some c =>
      let t := c.fld 8 2
      let ok := s.cstate t == cQuiesced && !s.imagePending c && (s.cmdsOf t).all fun d => !d.incomplete
      s.settle c (s.checkImage c 0 false ok) fun a => a.modCmd c.cid fun d => { d with phase := .running, handle := t }
    | none => s)

/-! ## The save (R626 to R628) -/

/-- Work of a frame, current or sealed, for samples that are being suspended leaves the frame (R341). -/
def State.dropWork (s : State) (w : Work) (lo : Nat) : State :=
  let es := if w.prefill then s.unitOf (s.entry w.entry).reqRec else [w.entry]
  let s1 := match w.copyFrom with
    | some (i, k, n) => s.undoCopy w.entry i k n
    | none => s
  if w.prefill then
    let s2 := s1.dropShared es (s.entry w.entry).length
    if (s.entry w.entry).guar then s2.replaceChunks (s.entry w.entry).reqRec w.first lo else s2
  else s1.rollback w.entry ((s.entry w.entry).length - 1) w.version []

/-- The samples of context n enter SUSPENDED: their drafts go, and their work of a frame that has not been finalised (R341, R342,
R359); the work of a finalised frame stays until its tokens are posted (R361). -/
def State.suspend (s : State) (n : Nat) : State :=
  let ofN (w : Work) : Bool := (s.entry w.entry).ctx == n
  let s1 := allParts.foldl (fun (a : State) p =>
    let x := s.part p
    let next := (s.nextBoundary p).getD 0
    let sealed := match x.sealed with
      | some (_, ws) => ws
      | none => []
    let a1 := if x.finalised.isSome then a else (x.curWork.filter ofN).foldl (fun b w => b.dropWork w next) a
    let a2 := (sealed.filter ofN).foldl (fun b w => b.dropWork w ((s.boundAfter p next).getD (next + 1))) a1
    (a2.modPart p fun y => { y with
      curWork := if y.finalised.isSome then y.curWork else y.curWork.filter fun w => !ofN w
      sealed := match y.sealed with
        | some (j, ws) => some (j, ws.filter fun w => !ofN w)
        | none => none }).syncKv p) s
  let es := (s.table.filter fun e => e.2.ctx == n && activeState e.2.state).map (·.1)
  es.foldl (fun (a : State) e => a.setEntry e { (a.entry e).noDrafts with
    susp := (a.entry e).state, state := sSuspended, waitFrames := 0, starve := false }) s1

/-- The threads of context n freeze, or run again from core cycle c on. -/
def State.freezeCtx (s : State) (n : Nat) : State :=
  (s.threadsOf n).foldl (fun (a : State) t => a.modThread t fun x => { x with frozen := true }) s
def State.thawCtx (s : State) (n c : Nat) : State :=
  (s.threadsOf n).foldl (fun (a : State) t => a.modThread t fun x =>
    if x.frozen then { x with frozen := false, nextAt := Nat.max x.nextAt c } else x) s

/-- The first 512 bytes of an image (R624). -/
def State.imageHeader (s : State) (n m : Nat) : List Byte :=
  let ps := s.imageParts n
  toLE 2 1 ++ toLE 1 (b2n (!ps.isEmpty)) ++ toLE 1 ps.length ++ toLE 2 n ++ toLE 1 (bits (s.reg 0x004).toNat 0 8) ++ toLE 1 0 ++
    toLE 8 (m % 2 ^ 54 * 1024) ++ toLE 8 (s.fld F.deviceUid) ++ toLE 8 (s.imageBase n) ++
    ((List.range 8).flatMap fun j => toLE 1 (ps.getD j 0xFF)) ++ s.lanesImage ++ (allParts.flatMap fun p => s.geometry p) ++
    toLE 208 0

/-- What follows the header in the base section, in the layout of this model (assumption 14): registers, hearth partitions and
steps up to 64 KiB, then the Damper slots and the sample handles. -/
def State.imageBody (s : State) (n : Nat) : List Byte :=
  let hs := s.hearthOf n
  let ds := s.slotsOwned n
  let es := s.samplesHeld n
  let ts := s.stepsOf n
  let step (t : Step) : List Byte :=
    match s.cmd t.cid with
    | some c => c.entry ++ toLE 64 0 ++ toLE 8 c.admitMark ++ toLE 1 (b2n t.started + 2 * b2n t.mainUp) ++
        toLE 1 (sumOf (t.parts.map fun p => 2 ^ p)) ++ toLE 118 0
    | none => toLE 256 0
  let head := toLE 8 (s.fld (F.seed n)) ++ toLE 8 (s.reg (F.servePolicy n)).toNat ++ toLE 4 hs.length ++ toLE 4 ds.length ++
    toLE 4 es.length ++ toLE 4 ts.length ++ (hs.flatMap fun p => toLE 8 (s.fld (F.stepCount p))) ++ toLE (8 * (8 - hs.length)) 0 ++
    ts.flatMap step
  head ++ toLE (65024 - head.length) 0 ++
    (ds.flatMap fun e => toLE 1 e.1 ++ toLE 1 0 ++ toLE 2 e.2 ++ ([4, 8, 12].flatMap fun o => toLE 4 (s.reg (F.damper e.1 e.2 + o)).toNat) ++
      histImage (s.history e.1 e.2) ++ toLE 2 (s.history e.1 e.2).length ++ toLE 110 0) ++
    es.flatMap fun e => toLE 2 e ++ toLE 2 (s.entry e).gen ++ toLE 124 0

/-- Part j maps wholly into the GDDR7 of partition p (R626). -/
def State.partMapped (s : State) (c : Cmd) (b0 j p : Nat) : Bool :=
  (rangePieces (c.fld 16 8 + b0 + partBytes * j) partBytes).all fun e => match s.xlatTable c.ctx e.1 with
    | some x => gddrPart (x.pa e.1) == some p && gddrPart (x.pa (e.1 + e.2 - 1)) == some p
    | none => false

/-- The image range is large enough, each part lies at home, and the device may write it: no page lies in a shadow half (R442,
R626). P0 performs the accesses to the base section, and the partition of a part those to the part (R713; assumption 14). -/
def State.imageFits (s : State) (c : Cmd) (n : Nat) : Bool :=
  let ps := s.imageParts n
  let b0 := s.imageBase n
  decide (b0 + partBytes * ps.length ≤ c.fld 24 8) &&
    s.reachRange (some 0) false c.ctx (c.fld 16 8) b0 false true &&
    ((List.range ps.length).zip ps).all fun e => s.partMapped c b0 e.1 e.2 &&
      s.reachRange (some e.2) false c.ctx (c.fld 16 8 + b0 + partBytes * e.1) partBytes false true

/-- Place of a step in the image. -/
def State.placeOf (s : State) (n cid : Nat) : Nat :=
  ((s.stepsOf n).map (·.cid)).findIdx fun k => k == cid

/-- SAVE_START (R626): due at START_MARK. Base section, with the Damper slots as they stand there (assumption 91), and part headers are
written; the tile records follow. -/
def execSaveStart (cid : Nat) (s : State) : Host.Outcome State Fault Refusal :=
  s.act (
    match s.cmd cid with
    | some c =>
      let n := c.handle
      let m := c.fld 32 8
      if c.op = opCtxSave ∧ c.phase = .running ∧ c.started = false ∧ m ≤ s.time.mark ∧ s.fenced cid = false then
        let was := s.live n
        let s0 := s.dueCaptures
        let s1 := ((if was then (s0.releaseQueue n).setCstate n cQuiesced else s0).suspend n).freezeCtx n
        let a := c.fld 16 8
        let b0 := s1.imageBase n
        let ps := s1.imageParts n
        if s1.imageFits c n then
          let s2 := s1.writeVirt (some 0) false c.ctx a (s1.imageHeader n m ++ s1.imageBody n)
          let s3 := ((List.range ps.length).zip ps).foldl (fun (q : State) e =>
            match s1.stepOn e.2 with
            | some t =>
              let share := s1.putShare t e.2 (s1.placeOf n t.cid)
              let held := sumOf ((s1.imageTiles e.2 n).map fun i => 2 ^ (i % 128))
              q.writeVirt (some e.2) false c.ctx (a + b0 + partBytes * e.1) ((share ++ toLE 8192 0).take 8192 ++ toLE 16 held ++
                ((t.view e.2).header ++ toLE 64 0).take 64)
            | none => q) s2
          let tiles := ((List.range ps.length).zip ps).flatMap fun e =>
            (s1.imageTiles e.2 n).map fun t => (t, a + b0 + partBytes * e.1 + 65536 + recordBytes * (t % 128), 0)
          s3.modCmd cid fun d => { d with
            started := true, wasLive := was, sources := tiles, targets := ps.map fun p => (p, 0),
            bytes := b0 + 65536 * ps.length + recordBytes * tiles.length }
        else
          (s1.writeVirt (some 0) false c.ctx (a + 2) (toLE 1 0xFF)).modCmd cid fun d =>
            { d with started := true, wasLive := was, bytes := 1, status := stFaultContext }
      else s
    | none => s)

/-- Bytes of physical memory copied to, or from, a virtual range of context n by partition p, page by page. -/
def State.moveOut (s : State) (p n pa va len : Nat) : State :=
  ((rangePieces va len).foldl (fun (q : State × Nat) e =>
    ((match q.1.reach (some p) false n e.1 false true with
      | some a => ({ q.1 with mem := q.1.mem.copyRange (q.1.key q.2) (q.1.key a) e.2 }.l2Use a e.2).noteAgent a
      | none => q.1), q.2 + e.2)) (s, pa)).1
def State.moveIn (s : State) (p n pa va len : Nat) : State :=
  ((rangePieces va len).foldl (fun (q : State × Nat) e =>
    ((match q.1.reach (some p) false n e.1 true false with
      | some a => { q.1 with mem := q.1.mem.copyRange (q.1.key a) (q.1.key q.2) e.2 }.l2Use a e.2
      | none => q.1), q.2 + e.2)) (s, pa)).1

/-- Owner of a thread as the image names it. -/
def State.ownerPlace (s : State) (n t : Nat) : Nat :=
  match (s.thread t).owner with
  | .step cid => if (s.step? cid).isSome then s.placeOf n cid else 0xFF
  | _ => 0xFF

/-- The record of tile t is written at virtual address va (R623). -/
def State.saveTile (s : State) (c : Cmd) (t va : Nat) : State :=
  let n := c.handle
  let mine (h : Nat) : Bool := (s.thread h).state != .free && (s.thread h).ctx == n
  (s.moveOut (t / 128) c.ctx (windowOf t) va accEnd).writeVirt (some (t / 128)) false c.ctx (va + accEnd) (s.putTile t mine (s.ownerPlace n))

/-- SAVE_COMPLETE (R628): due 240 marks after START_MARK; a tile record that cannot be written ends the save FAULT_CONTEXT
(R442). -/
def execSaveComplete (cid : Nat) (s : State) : Host.Outcome State Fault Refusal :=
  s.act (
    match s.cmd cid with
    | some c =>
      let n := c.handle
      if c.op = opCtxSave ∧ c.phase = .running ∧ c.started = true ∧ c.fld 32 8 + imageMarks ≤ s.time.mark then
        let st := if c.sources.all fun e => s.reachRange (some (e.1 / 128)) false c.ctx e.2.1 recordBytes false true then c.status else stFaultContext
        let s1 := c.sources.foldl (fun a e => a.saveTile c e.1 e.2.1) s
        let s2 := if bit (c.fld 10 1) 0 && c.wasLive && s1.cstate n == cQuiesced then
            (s1.setCstate n cLive).thawCtx n (s.now - s.time.cyc + 64) else s1
        s2.finish cid st (toLE 8 c.bytes) false
      else s
    | none => s)

/-! ## The restore (R629, R630) -/

/-- Partition that reads the image at byte `off`: that of the part, and P0 in the base section (R713). -/
def State.imagePerf (s : State) (c : Cmd) (off : Nat) : Nat :=
  let b0 := s.baseFld c 24 8
  if off < 512 ∨ off < b0 then 0 else (s.imageMap c).getD ((off - b0) / partBytes) 0

/-- Bytes of the image at byte `off`. -/
def State.imageRead (s : State) (c : Cmd) (off n : Nat) : List Byte :=
  s.readVirt (some (s.imagePerf c off)) false c.ctx (c.fld 16 8 + off) n
def State.imageFld (s : State) (c : Cmd) (off n : Nat) : Nat := ofLE (s.imageRead c off n)

/-- A mid-step image does not fit the geometry (R629). -/
def State.geometryBad (s : State) (c : Cmd) : Bool :=
  s.imageFld c 2 1 == 1 &&
    (s.imageRead c 40 8 != s.lanesImage || (s.imageMap c).any fun p =>
      decide (8 ≤ p) || !(s.hearthOf c.handle).contains p || (s.stepOn p).isSome ||
        s.imageRead c (48 + 32 * p) 18 != (s.geometry p).take 18)

/-- Damper slots of the image: place, partition and slot. -/
def State.imageSlots (s : State) (c : Cmd) : List (Nat × Nat × Nat) :=
  (List.range (s.imageFld c 532 4)).map fun i => (i, s.imageFld c (65536 + 256 * i) 1, s.imageFld c (65538 + 256 * i) 2)

/-- Tiles of part j that have a record. -/
def State.heldTiles (s : State) (c : Cmd) (j : Nat) : List Nat :=
  (List.range 128).filter fun i => bit (s.imageFld c (s.baseFld c 24 8 + partBytes * j + 8192 + i / 8) 1) (i % 8)

/-- Every access of the restore can be made: to the base section, and for a mid-step image to the header of each part and the records in
it (R442, R713). -/
def State.imageReach (s : State) (c : Cmd) : Bool :=
  let a := c.fld 16 8
  let b0 := s.baseFld c 24 8
  let ok (off len : Nat) : Bool := s.reachRange (some (s.imagePerf c off)) false c.ctx (a + off) len true false
  ok 0 unit2M && ok 0 b0 && (s.baseFld c 2 1 != 1 || (List.range (s.imageMap c).length).all fun j =>
    ok (b0 + partBytes * j) 65536 && (s.heldTiles c j).all fun i => ok (b0 + partBytes * j + 65536 + recordBytes * i) recordBytes)

/-- A restore fails with FAULT_CONTEXT (R629, R630): the image is invalid or of another revision, a Damper slot or a hearth
partition is missing, or a completion slot for each restored step; or an access to the image faults (R442). -/
def State.restoreBad (s : State) (c : Cmd) : Bool :=
  let n := c.handle
  let k := s.imageFld c 2 1
  !s.imageReach c || decide (1 < k) ||
    s.imageFld c 6 1 != bits (s.reg 0x004).toNat 0 8 ||
    (s.imageSlots c).any (fun e => !((s.slotsOwned n).contains (e.2.1, e.2.2))) ||
    s.imageFld c 528 4 != (s.hearthOf n).length ||
    (k == 1 && decide (s.ringSize n 1 ≤ s.cqUsed n + s.imageFld c 540 4))

/-- A restore onto the clusters of a part brings their spares into service (R21); a cluster in a repair-mode engine reset takes
its spare at the end of that reset (R24). R21 names no instant of the restore: the model takes START_MARK of a mid-step image,
before the checks of R629, also where the restore then restores nothing (DESIGN CHOICE, assumption 105). -/
def State.restoreSpares (s : State) (c : Cmd) : State :=
  if s.imageFld c 2 1 = 1 then
    ((s.imageMap c).filter fun p => decide (p < 8) && (s.hearthOf c.handle).contains p).foldl (fun (a : State) p =>
      (((partClusters p).filter fun cl => !(a.cluster cl).outOfService &&
        !((a.cluster cl).repair && (a.cluster cl).frozenAt.isSome)).foldl (fun (b : State) cl => b.takeSpares cl) a).showClusters p) s
  else s

/-- RESTORE_START (R629): due at START_MARK; the outcome is fixed. -/
def execRestoreStart (cid : Nat) (s : State) : Host.Outcome State Fault Refusal :=
  s.act (
    match s.cmd cid with
    | some c =>
      if c.op = opCtxRestore ∧ c.phase = .running ∧ c.started = false ∧ c.fld 32 8 ≤ s.time.mark ∧ s.fenced cid = false then
        let s1 := s.dueCaptures.restoreSpares c
        let st := if s1.geometryBad c then stGeometryMismatch else if s1.restoreBad c then stFaultContext else stOk
        s1.modCmd cid fun d => { d with started := true, status := st }
      else s
    | none => s)

/-- SPARK_SEED, SERVE_POLICY, STEP_COUNTs and Damper slots of the image (R247, R318, R630). -/
def State.restoreRegs (s : State) (c : Cmd) : State :=
  let n := c.handle
  let s1 := (s.setFld (F.seed n) (s.imageFld c 512 8)).setReg (F.servePolicy n) (BitVec.ofNat 64 (s.imageFld c 520 8))
  let hs := s.hearthOf n
  let s2 := ((List.range hs.length).zip hs).foldl (fun (a : State) e => a.setFld (F.stepCount e.2) (s.imageFld c (544 + 8 * e.1) 8)) s1
  ((s.imageSlots c).filter fun e => (s.slotsOwned n).contains (e.2.1, e.2.2)).foldl (fun (a : State) e =>
    let at_ := 65536 + 256 * e.1
    let w (i : Nat) : Word := BitVec.ofNat 64 (s.imageFld c (at_ + 4 + 4 * i) 4)
    let a1 := [0, 1, 2].foldl (fun (b : State) i => b.setReg (F.damper e.2.1 e.2.2 + 4 + 4 * i) (w i)) a
    a1.setHistory e.2.1 e.2.2 (histEntries (s.imageRead c (at_ + 16) 128) (Nat.min 64 (s.imageFld c (at_ + 144) 2)))) s2

/-- Pages of context `old` in the list of sample e name the target as OWNER (R380, R630). -/
def State.passPages (s : State) (e old new : Nat) : State :=
  let p := (s.entry e).part
  (s.listOf e).foldl (fun (a : State) k => if (a.pg p k).owner = old then a.setPg p k { a.pg p k with owner := new } else a) s

/-- A recorded sample that its table entry still holds in SUSPENDED passes to the target, with the ember slots it holds reserved
(R630). A target whose ring has no room for them does not get it: an ember is written only into a reserved slot (R156; assumption
107). -/
def State.passSample (s : State) (n e gen : Nat) : State :=
  let x := s.entry e
  if x.gen = gen ∧ x.state = sSuspended then
    let k := 1 + x.emRes
    let s0 := s.releaseEm x.ctx k
    if k ≤ s0.emFree n then
      let s1 := (s0.passPages e x.ctx n).reserveEm n k
      (s1.setEntry e { s1.entry e with ctx := n }).modReq x.reqRec fun r => { r with ctx := n }
    else s
  else s

/-- The samples of an image of this device (R630, R653). -/
def State.restoreSamples (s : State) (c : Cmd) : State :=
  if s.flag F.idOk && s.imageFld c 16 8 == s.fld F.deviceUid then
    let base := 65536 + 256 * s.imageFld c 532 4
    (List.range (s.imageFld c 536 4)).foldl (fun (a : State) i =>
      a.passSample c.handle (s.imageFld c (base + 128 * i) 2) (s.imageFld c (base + 128 * i + 2) 2)) s
  else s

/-- A recorded step as the image gives it, without its outcomes (R630). -/
def State.imageStep (s : State) (c : Cmd) (i cid : Nat) : Cmd × Step :=
  let at_ := 608 + 256 * i
  let entry := s.imageRead c at_ 64
  let fl := s.imageFld c (at_ + 136) 1
  let d : Cmd := { Cmd.new cid c.handle entry s.now s.time.mark with
    phase := .running, admitMark := s.imageFld c (at_ + 128) 8, admitCyc := s.now, startAt := 2 ^ 64 }
  (d, {
    cid := cid, ctx := c.handle, parts := maskParts (s.imageFld c (at_ + 137) 1), commit := d.fld 40 8, number := d.fld 32 8,
    version := d.fld 48 2, views := [], started := bit fl 0, hdrFault := [], threadFault := [], mainUp := bit fl 1, gate := [],
    gated := [], updUp := [], colls := [], ended := [], startAt := 0, frozen := true, late := [], allow := [] })

/-- The share of partition p, part j, of a restored step: flags and outcomes (R630). The tables of a step that has started are read again
from memory, where the header of the image names them; a read that faults or fails is a fault of the header, as at its start (R55, R56,
R423; assumption 136). -/
def State.takeShare (s : State) (c : Cmd) (first j p : Nat) (m : Meet) : State :=
  let b := s.imageRead c (s.imageFld c 24 8 + partBytes * j) 8192
  let cid := first + leAt b 0 1
  let f := leAt b 2 1
  let g := leAt b 3 1
  let add (i : Nat) (l : List Nat) : List Nat := if bit g i then l ++ [p] else l
  let h := s.imageRead c (s.imageFld c 24 8 + partBytes * j + 8208) 64
  let tabs := s.readTabs c.handle p h
  let on := (s.step? cid).any fun t => t.started
  let s0 := if on then s.tabReads c.handle p tabs m else s
  let s1 := s0.modStep cid fun t =>
    let v := if t.started then tabs else t.view p
    let one (id i : Nat) : List (Nat × Nat × Nat × Nat) := if leAt b i 1 = 0xFF then [] else [(p, id, leAt b i 1, 0)]
    { t with
      hdrFault := add 0 t.hdrFault, threadFault := add 1 t.threadFault, gate := add 2 t.gate, late := add 3 t.late
      gated := add 4 t.gated, updUp := add 5 t.updUp, views := t.views ++ [(p, v)]
      ended := if leAt b 4 1 = 0xFF then t.ended else t.ended ++ [(p, leAt b 4 1)]
      allow := t.allow ++ [(p, leAt b 5 1)]
      colls := t.colls ++ one v.voteId 6 ++ ((List.range v.list.length).zip v.list).flatMap fun e => one e.2.1 (8 + e.1) }
  let s2 := (((((s1.setFld (F.inFlight p) 1).setFld (F.phase p) (leAt b 1 1)).setFld (F.nf p) (f % 2)).setFld (F.poison p)
    (f / 2 % 2)).setFld (F.skew p) (f / 4 % 2)).setFld (F.fault p) (f / 8 % 2)
  let s3 := s2.modPart p fun x => { x with step := some cid, poisonIds := [] }
  match s3.step? cid with
  | some t => if on && s.tabsBad c.handle p tabs m then (s3.modStep cid (Step.noteHeader p)).setStepFlag t p (F.fault p) else s3
  | none => s3

/-- Part j: the share of its partition, and its tile records. -/
def State.restorePart (s : State) (c : Cmd) (first j p : Nat) (m : Meet) : State :=
  let s1 := s.takeShare c first j p m
  let owner (i : Nat) : Owner := if i = 0xFF then .none else .step (first + i)
  (s.heldTiles c j).foldl (fun (a : State) i =>
    let off := s.imageFld c 24 8 + partBytes * j + 65536 + recordBytes * i
    let t := 128 * p + i
    if a.tileUp t then
      (a.moveIn p c.ctx (windowOf t) (c.fld 16 8 + off) accEnd).takeTile c.handle t owner (s.imageRead c (off + accEnd) 131072)
    else a) s1

/-- The steps, tiles and frozen threads of a mid-step image (R630). -/
def State.restoreSteps (s : State) (c : Cmd) (meets : List (Nat × Meet)) : State :=
  if s.imageFld c 2 1 = 1 then
    let first := s.nextCid
    let k := s.imageFld c 540 4
    let ds := (List.range k).map fun i => s.imageStep c i (first + i)
    let s1 := { s with cmds := s.cmds ++ ds.map (fun (e : Cmd × Step) => e.1),
                             steps := s.steps ++ ds.map (fun (e : Cmd × Step) => e.2), nextCid := first + k }
    let s2 := s1.modCtx c.handle fun x => { x with restored := x.restored ++ (List.range k).map (· + first) }
    ((List.range 8).zip (s.imageMap c)).foldl (fun (a : State) e => a.restorePart c first e.1 e.2 (meetOf meets (16 + e.2))) s2
  else s

/-- Byte ranges of the image that a restore reads beside its tile records: the base section, and for a mid-step image the header of each
part. -/
def State.imageRanges (s : State) (c : Cmd) : List (Nat × Nat) :=
  (0, s.baseFld c 24 8) :: (if s.baseFld c 2 1 = 1 then
    (List.range (s.imageMap c).length).map fun j => (s.baseFld c 24 8 + partBytes * j, 65536) else [])

/-- The reads of the image, and what the i-th of its ranges meets (R534, R537). -/
def State.imageReads (s : State) (c : Cmd) (meets : List (Nat × Meet)) : State :=
  ((List.range (s.imageRanges c).length).zip (s.imageRanges c)).foldl (fun a e =>
    a.readMeets (some (s.imagePerf c e.2.1)) false c.ctx (c.fld 16 8 + e.2.1) e.2.2 (meetOf meets e.1)) s

/-- A read of the image comes back with an error (R537). -/
def State.imageError (s : State) (c : Cmd) (meets : List (Nat × Meet)) : Bool :=
  (List.range (s.imageRanges c).length).any fun i => (meetOf meets i).err.isSome

/-- RESTORE_COMPLETE (R629, R630): due 240 marks after START_MARK; an image that can no longer be read, or whose read fails, ends it
FAULT_CONTEXT (R442, R537). meets: what the reads of the i-th range of the image meet, and 16 + p: those of the tables that partition p
reads. -/
def execRestoreComplete (cid : Nat) (meets : List (Nat × Meet)) (s : State) : Host.Outcome State Fault Refusal :=
  s.act (
    match s.cmd cid with
    | some c =>
      if c.op = opCtxRestore ∧ c.phase = .running ∧ c.started = true ∧ c.fld 32 8 + imageMarks ≤ s.time.mark then
        if c.status = stOk then
          (let s1 := s.imageReads c meets
           if s.imageReach c && !s.imageError c meets then
             (((s1.restoreRegs c).restoreSamples c).restoreSteps c meets).finish cid stOk [] false
           else s1.finish cid stFaultContext [] false)
        else s.finish cid c.status [] false
      else s
    | none => s)

/-! ## The resume of a restored step (R631) -/

/-- Descriptors of a restored step may start, and its threads run. -/
def State.resumeStep (s : State) (t : Step) : State :=
  let hs := s.stepThreads t.cid
  let s1 := hs.foldl (fun (a : State) h => a.modThread h fun x => { x with frozen := false, nextAt := s.now, nextMark := s.time.mark }) s
  let wake (d : Desc) : Desc := if hs.contains d.thread then { d with queued := s.now } else d
  let s2 := (dedup (hs.map (· / 128))).foldl (fun (a : State) cl =>
    a.setCluster cl { a.cluster cl with channels := (a.cluster cl).channels.map fun e => (e.1, e.2.map wake) }) s1
  s2.modStep t.cid fun q => { q with frozen := false }

/-- The partitions of a restored step that has not started read its header in memory for TIED; a read that faults or fails is a fault of
the header (R55, R56, R423; assumption 136). -/
def State.tiedReads (s : State) (t : Step) (meets : List (Nat × Meet)) : State :=
  match s.cmd t.cid with
  | some c =>
    if t.started then s
    else t.parts.foldl (fun a p =>
      let b := a.readMeets (some p) false t.ctx (c.fld 8 8) 64 (meetOf meets p)
      if (meetOf meets p).err.isSome ∨ s.reachRange (some p) false t.ctx (c.fld 8 8) 64 true false = false then
        (b.modStep t.cid (Step.noteHeader p)).setStepFlag t p (F.fault p)
      else b) s
  | none => s

/-- TIED of a restored step: in the headers that the image holds, or for one that has not started in the header in memory. -/
def State.restoredTied (s : State) (t : Step) : Bool :=
  if t.started then t.tied
  else match s.cmd t.cid with
    | some c => t.parts.any fun p => bit (ofLE (s.readVirt (some p) false t.ctx (c.fld 8 8 + 2) 1)) 0
    | none => false

/-- One restored step at its resume: RESTART_NEEDED when tied, DEADLINE_MISSED when its commit mark is less than 2 marks away,
else it goes on. -/
def State.resumeOne (s : State) (cid : Nat) (meets : List (Nat × Meet)) : State :=
  match s.step? cid with
  | some t =>
    let tied := s.restoredTied t
    let s := s.tiedReads t meets
    if tied then s.restartNeeded cid
    else if t.commit < s.time.mark + 2 then s.abortWith cid stDeadlineMissed
    else s.resumeStep t
  | none => s

/-- RESTORED_STEP_RESUME (R631): due at cycle 64 of the first mark after the START write; meets: what the header reads of each partition
meet. -/
def execRestoredStepResume (n : Nat) (meets : List (Nat × Meet)) (s : State) : Host.Outcome State Fault Refusal :=
  s.act (
    let due := (s.ctx n).restored.filter fun cid => match s.cmd cid with
      | some c => decide (c.startAt ≤ s.now)
      | none => true
    if s.live n then
      (due.foldl (fun a cid => a.resumeOne cid meets) s).modCtx n fun x => { x with restored := x.restored.filter fun k => !due.contains k }
    else s)

end Sys2Proof.Machine
end

