-- ==== Sys2Proof/Machine/Ports.lean ====
section
/-!
DEFINITION. Ports.lean: host ports (R556 to R565): link state, configuration requests, BAR4; device links (R567 to R589): flits,
datagrams, retraining, priority flow control.
-/
namespace Sys2Proof.Machine
open Sys2Proof.Config

/-! ## Host ports -/

/-- The link of host port n is down: UP, RATE, WIDTH and FLIT read 0. -/
def State.hostLinkDown (s : State) (n : Nat) : State :=
  let was := s.flag (F.hUp n)
  let s1 := ((((s.setFld (F.hUp n) 0).setFld (F.hRate n) 0).setFld (F.hWidth n) 0).setFld (F.hFlit n) 0).setFld (F.hDegraded n) 0
  if was then s1.raise 8 else s1

/-- What a link-down, PERST# or a conventional reset leaves of a port: its configuration space, BAR assignments, MSI-X tables and
VF enable are reset (R564). -/
def State.portReset (s : State) (port : Nat) : State :=
  let s1 := (s.hostLinkDown port).setFld (F.hNumVfs port) 0
  s1.setHost port { s1.host port with
    unmasked := [], pend := [], table := [], config := [], aer := 0, due := [], doeBuf := [], doeOut := [], doeReq := none, doeState := 0,
    barLog2 := s1.board.bar4Log2 port }

/-- HOST_PORT_RESET (R564): PERST#, a conventional reset or a link-down resets only the port's own PCIe state; `perst` is the level
of PERST# then. -/
def execHostPortReset (port : Nat) (perst : Bool) (s : State) : Host.Outcome State Fault Refusal :=
  s.act ((s.portReset port).setFld (F.hPerst port) (b2n perst))

/-- VFs that a host enables on a port: at most TotalVFs, and none in RECOVERY (R556, R647). -/
def State.vfsOn (s : State) (port n : Nat) : Nat :=
  if s.fld F.stage = bgRecovery then 0 else Nat.min n (s.host port).vfs

/-- Rates and widths of a host link (R556): 2.5 to 64 GT/s, the last in Flit Mode, and ×1 to ×16. -/
def hostLinkOk (rate width : Nat) (flit : Bool) : Bool :=
  decide (1 ≤ rate) && decide (rate ≤ 6) && [1, 2, 4, 8, 16].contains width && (decide (rate < 6) || flit)

/-- HOST_LINK_UP (R556, R563, R644): from mark 2,048 of start-up on, and with PERST# deasserted, the data link layer comes up at a rate
and a width that the port supports; the host enables `vfs` VFs. -/
def execHostLinkUp (port rate width vfs : Nat) (flit : Bool) (s : State) : Host.Outcome State Fault Refusal :=
  s.act (
    if s.now < markRomStart * cyclesPerMark ∨ s.flag (F.hPerst port) = true ∨ hostLinkOk rate width flit = false then s
    else
      let was := s.flag (F.hUp port)
      let s1 := (((s.setFld (F.hUp port) 1).setFld (F.hRate port) rate).setFld (F.hWidth port) width).setFld (F.hFlit port) (b2n flit)
      let s2 := (s1.setFld (F.hDegraded port) (b2n (decide (rate < 6) || decide (width < 16)))).setFld (F.hNumVfs port)
        (s.vfsOn port vfs)
      if was then s2 else s2.raise 8)

/-! ## Configuration space (R1, R556, R644)

The layouts of the capabilities are those of PCI Express, at offsets that are open (PRESUMED, assumption 104). -/

/-- Registers of the PF's capabilities that read back what was written: the masks of AER, NumVFs and VF Enable of SR-IOV, and the
power state. -/
def capMirror (off : Nat) : Option Nat :=
  if off = capAt 0x10001 + 0x08 ∨ off = capAt 0x10001 + 0x14 then some (2 ^ 32 - 1)
  else if off = capAt 0x10010 + 0x08 then some 1
  else if off = capAt 0x10010 + 0x10 then some 65535
  else if off = capAt 0x01 + 0x04 then some 3
  else none

/-- A BAR of PCI, 64 bits wide, of 2^`log2` bytes: the address bits keep what was written, and the low bits of its first dword tell its
kind, 4 for 64 bits and 8 for prefetchable. -/
def barDword (log2 kind : Nat) (high : Bool) (v : Nat) : Nat :=
  if high then v - v % 2 ^ (log2 - 32) else v - v % 2 ^ Nat.min 32 log2 + kind

/-- The BARs of R557 at a dword of the PF's configuration space: BAR0, BAR2 and BAR4 in its header, and those of its VFs in the SR-IOV
capability, as (log2 of the size, kind, second dword); a VF's own BAR registers read 0. -/
def State.barAt (s : State) (port o : Nat) : Option (Nat × Nat × Bool) :=
  let vf := capAt 0x10010 + 0x24
  if o = 0x10 then some (26, 4, false) else if o = 0x14 then some (26, 4, true)
  else if o = 0x18 then some (24, 4, false) else if o = 0x1C then some (24, 4, true)
  else if o = 0x20 then some ((s.host port).barLog2, 12, false) else if o = 0x24 then some ((s.host port).barLog2, 12, true)
  else if o = vf then some (16, 4, false) else if o = vf + 4 then some (16, 4, true)
  else if o = vf + 8 then some (24, 4, false) else if o = vf + 12 then some (24, 4, true)
  else none

/-- Sizes that BAR4 can take, 2^28 to 2^38 bytes, as the resizable BAR capability lists them (R556). -/
def barSizes : Nat := sumOf ((List.range 11).map fun i => 2 ^ (12 + i))

/-- What a read of a configuration dword gives: the vendor and device ID of R1 at 0x000, its revision ID at 0x008 and the
subsystem IDs of the applied configuration, 0 without one, at 0x02C (R642, R647), at the places PCI gives them; the BARs of R557; the
mirrored bits of the capabilities, the AER status, the VFs of the port, the sizes of BAR4 and the state of the DOE mailbox; a VF reads
its IDs as PCI says, so they are open; every other bit is a free value of the function, the offset and the dword last written
(assumption 104). -/
def State.configDword (s : State) (port fn off : Nat) : Nat :=
  let o := off / 4 * 4
  let v := s.configWritten port fn o
  let w := pciConfig fn off v
  if fn ≠ 0 then (if 0x10 ≤ o ∧ o < 0x28 then 0 else w)
  else if o = 0 then (s.reg 0x000).toNat % 2 ^ 32
  else if o = 8 then w / 256 * 256 + bits (s.reg 0x004).toNat 0 8
  else if o = 0x2C then leAt s.board.config 276 4
  else if let some b := s.barAt port o then barDword b.1 b.2.1 b.2.2 v
  else if o = capAt 0x10001 + 0x04 then (s.host port).aer
  else if o = capAt 0x10001 + 0x10 then 0
  else if o = capAt 0x10010 + 0x0C then (s.host port).vfs * 65537
  else if o = capAt 0x10015 + 0x04 then barSizes
  else if o = capAt 0x10015 + 0x08 then 4 + 32 + ((s.host port).barLog2 - 20) * 256
  else if o = capAt 0x1002E + 0x0C then s.doeStatus port
  else if o = capAt 0x1002E + 0x14 then ((s.host port).doeOut.headD 0).toNat
  else
    match capMirror o with
    | some m => (w &&& (2 ^ 32 - 1 - m)) ||| (v &&& m)
    | none => w

/-- What a write of the DOE registers of a PF does: a dword to the mailbox, the next dword of its response, an abort, or GO. -/
def State.configDoe (s : State) (port o : Nat) (v : Word32) : State :=
  if o = capAt 0x1002E + 0x10 then s.doePush port v
  else if o = capAt 0x1002E + 0x14 then s.setHost port { s.host port with doeOut := (s.host port).doeOut.drop 1 }
  else if o = capAt 0x1002E + 0x08 then
    (if bit v.toNat 0 then settled s (execDoeAbort port s) else if bit v.toNat 31 then s.doeGo port else s)
  else s

/-- A write of a configuration dword at `o`: it is kept, and VF Enable and NumVFs of SR-IOV, the size of BAR4, the power state (D0
and D3hot only) and the DOE mailbox follow it; a 1 clears a bit of the AER status (R556). -/
def State.configWrite (s : State) (port fn o : Nat) (v : Word32) : State :=
  let d3 := bits v.toNat 0 2 = 1 ∨ bits v.toNat 0 2 = 2
  if o = capAt 0x01 + 0x04 ∧ d3 then s
  else
    let t := s.setHost port { s.host port with config := tput (s.host port).config (4096 * fn + o) v }
    if fn ≠ 0 then t
    else
      let t1 := if o = capAt 0x10010 + 0x08 ∨ o = capAt 0x10010 + 0x10 then
          t.setFld (F.hNumVfs port) (if bit (t.configWritten port 0 (capAt 0x10010 + 0x08)) 0 then
            t.vfsOn port (bits (t.configWritten port 0 (capAt 0x10010 + 0x10)) 0 16) else 0)
        else t
      let t2 := if o = capAt 0x10015 + 0x08 ∧ 8 ≤ bits v.toNat 8 6 ∧ bits v.toNat 8 6 ≤ 18 then
          t1.setHost port { t1.host port with barLog2 := bits v.toNat 8 6 + 20 }
        else t1
      let t3 := if o = capAt 0x10001 + 0x04 then
          t2.setHost port { t2.host port with aer := (t2.host port).aer &&& (2 ^ 32 - 1 - v.toNat) }
        else t2
      t3.configDoe port o v

/-- PCIE_CONFIG_REQUEST (R1, R556, R644): a function above NUM_VFS does not exist. -/
def execPcieConfigRequest (port fn off : Nat) (wr : Bool) (v : Word32) (s : State) : Host.Outcome State Fault Refusal :=
  s.act (
    if !s.configReady then s.emit (.crs port fn off)
    else if s.fld (F.hNumVfs port) < fn then (s.aerErr port 20).emit (.cfgUr port fn off)
    else if wr then s.configWrite port fn (off / 4 * 4) v
    else s.emit (.cfgData port fn off (BitVec.ofNat 32 (s.configDword port fn off))))

/-! ## BAR4 (R558) -/

def State.bar4Addr (s : State) (port off : Nat) : Nat := s.fld (F.hostBar4Base port) * 2 ^ 28 + off

/-- A range meets a shadow half of a valid commit region (R442). -/
def State.meetsShadow (s : State) (a n : Nat) : Bool :=
  allParts.any fun q => s.role q == rHearth && (s.validRegions q).any fun i =>
    decide (a < s.shadowBase q i + s.crBytes q i) && decide (s.shadowBase q i < a + n)

/-- A BAR4 access of n bytes is served. -/
def State.bar4Ok (s : State) (port off n : Nat) : Bool :=
  let a := s.bar4Addr port off
  decide (off + n ≤ 2 ^ (s.host port).barLog2) && !s.meetsShadow a n &&
    (match gddrPart a with
     | some p => gddrPart (a + n - 1) == some p && s.gddrUp p
     | none =>
       match cxlOf a with
       | some (q, o) => s.flag (F.cxlUp q) && decide (o + n ≤ s.fld (F.cxlCap q) * unit2M)
       | none => false)

/-- What a served BAR4 read meets: it is a use of L2 lines, and reports repeated, late and failed reads (R534, R537, R552, R554). No
context is behind it. -/
def State.bar4Meets (s : State) (a len : Nat) (m : Meet) : State :=
  s.physMeets 0 a len m

/-- A BAR4 request that is not served completes with Unsupported Request, or is discarded, and sets BAR4_ERR (R558); a PF in D3hot
takes none (R556). -/
def State.bar4Bad (s : State) (port : Nat) : State :=
  if s.reaches port 0 then (s.hwSet (F.hBar4Err port)).aerErr port 20 else s.aerErr port 20

/-- BAR4_READ (R558). DESIGN CHOICE (assumption 137): a served read that comes back with an error (R537, R554) completes with Unsupported
Request and sets BAR4_ERR, like one that is not served. -/
def execBar4Read (port off len : Nat) (m : Meet) (s : State) : Host.Outcome State Fault Refusal :=
  s.act (
    if s.reaches port 0 && s.bar4Ok port off len then
      let s1 := s.bar4Meets (s.bar4Addr port off) len m
      if m.err.isSome then (s1.bar4Bad port).emit (.bar4Ur port off)
      else s1.emit (.bar4Data port off (s.readMem (s.bar4Addr port off) len))
    else (s.bar4Bad port).emit (.bar4Ur port off))

/-- BAR4_WRITE (R558, R559); m: the repeated writes of GDDR7, or how an expander answers (R538, R552, R554). -/
def execBar4Write (port off : Nat) (data : List Byte) (m : Meet) (s : State) : Host.Outcome State Fault Refusal :=
  s.act (
    if s.reaches port 0 && s.bar4Ok port off data.length then
      let a := s.bar4Addr port off
      ((s.writeMem a data).l2Use a data.length).writeMeets none [(a, data.length)] m
    else s.bar4Bad port)

/-! ## Received flits (R567 to R575) -/

/-- The message of channel v that port k is passing on goes no further: its flits still held are discarded (R572, R575). -/
def State.cutForward (s : State) (k v : Nat) : State :=
  match (if v = 2 then (s.link k).fwd2 else (s.link k).fwd3) with
  | some e =>
    let mine (m : TxMsg) : Bool := m.origin == k && m.vc == v && !m.closed
    let q := (s.link e).txq
    (s.setLink e { s.link e with txq := q.filter fun m => !mine m }).freeBuffers k v (sumOf ((q.filter mine).map fun m => m.flits.length))
  | none => s

/-- A message in progress on channel v of port k is lost: the rest of it is discarded, with a FLUE_LOST entry (R572). -/
def State.loseMsg (s : State) (k v gap : Nat) : State :=
  let s1 := s.cutForward k v
  let l := s1.link k
  let l1 := if v = 2 then { l with msg2 := [], drop2 := true, fwd2 := none } else { l with msg3 := [], drop3 := true, fwd3 := none }
  (s1.setLink k l1).soot1 0x3A (8 + linkDie k) 0 0 k (toLE 1 v ++ toLE 2 gap)

/-- A whole ROUTED message for this device has come (R575). A management message whose CRC fails is discarded (R577). -/
def State.deliver (s : State) (v dev dp : Nat) (msg : List Byte) : State :=
  if v = 3 && !mgmtOk msg then s else s.routeMsg 9 dev dp v msg

/-- What port k holds of the message being received on channel v: its bytes, whether the rest is discarded, the port it goes on
to, and the partition it is for. -/
structure RxMsg where
  data : List Byte
  drop : Bool
  fwd  : Option Nat
  part : Nat
deriving DecidableEq, Repr

def Link.rx (l : Link) (v : Nat) : RxMsg :=
  if v = 2 then ⟨l.msg2, l.drop2, l.fwd2, l.part2⟩ else ⟨l.msg3, l.drop3, l.fwd3, l.part3⟩
def Link.setRx (l : Link) (v : Nat) (r : RxMsg) : Link :=
  if v = 2 then { l with msg2 := r.data, drop2 := r.drop, fwd2 := r.fwd, part2 := r.part }
  else { l with msg3 := r.data, drop3 := r.drop, fwd3 := r.fwd, part3 := r.part }

/-- A flit's payload joins the message that port k passes on to port e, cut through flit by flit (R575). -/
def State.forward (s : State) (k v e dev dp : Nat) (som eom : Bool) (d : List Byte) : State :=
  if som then s.queueMsg e ⟨v, 1, dev, dp, k, [d], false, eom⟩
  else
    let mine (m : TxMsg) : Bool := m.origin == k && m.vc == v && !m.closed
    if (s.link e).txq.any mine then
      (s.setLink e { s.link e with
        txq := updFirst mine (fun m => { m with flits := m.flits ++ [d], closed := eom }) (s.link e).txq }).pump e
    else s.freeBuffers k v 1

/-- A flit on channel v of port k joins its message. Its first flit says where it goes: a LOCAL message is this device's, a
ROUTED one for another device goes on at once, and the last flit delivers one for this device (R567, R575). A management message is
one flit: others on VC3, and one whose CRC fails, are discarded (R577). -/
def State.takePayload (s : State) (k v dev dp : Nat) (routed som eom : Bool) (d : List Byte) : State :=
  let r := (s.link k).rx v
  if !som && (r.drop || r.data.isEmpty) then s.freeBuffers k v 1
  else if v == 3 && (!(som && eom) || (routed && !mgmtOk d)) then s.freeBuffers k v 1
  else
    let s0 := if som then s.cutForward k v else s
    let toSelf := !routed || s0.isSelf dev
    let fwd := if som then (if toSelf then none else s0.egress dev) else r.fwd
    let lost := som && !toSelf && fwd.isNone
    let m := if som then d else r.data ++ d
    let s1 := s0.setLink k ((s0.link k).setRx v ⟨if eom || lost then [] else m, lost && !eom, if eom then none else fwd,
      if som then dp else r.part⟩)
    if lost then (s1.freeBuffers k v 1).noRoute dev
    else
      match fwd with
      | some e => s1.forward k v e dev dp som eom d
      | none =>
        let s2 := s1.freeBuffers k v 1
        if eom && routed && (v != 3 || mgmtOk m) then s2.emit (.meshMsg (if som then dp else r.part) v m) else s2

/-- Credits returned by a flit (R571). -/
def State.takeCredit (s : State) (k rv count : Nat) : State :=
  if rv = 2 ∨ rv = 3 then
    (s.setLink k ((s.link k).setVc rv { (s.link k).vc rv with ret := count })).pump k
  else s

/-- Codewords with corrected symbols, or uncorrectable ones (R586), as (lane of the port, uncorrectable). -/
def State.takeWords (s : State) (k : Nat) (ws : List (Nat × Bool)) : State :=
  let sat (a : State) (f : Fld) : State := a.setFld f (satInc 65535 (a.fld f))
  let n := (ws.filter (·.2)).length
  let b := (s.link k).badWords
  (ws.foldl (fun a w => sat a (if w.2 then F.laneUncorrected (8 * k + w.1) else F.laneCorrected (8 * k + w.1))) s).setLink k
    { s.link k with badWords := (s.time.mark, if b.1 = s.time.mark then b.2 + n else n) }

/-- FLIT_RECEIVE (R567 to R575): `words` are the codewords of R586 that came with it; credits, sequence, and the payload of a flit
received on a Flue-mode port that is up. -/
def execFlitReceive (k : Nat) (flit : List Byte) (words : List (Nat × Bool)) (s : State) : Host.Outcome State Fault Refusal :=
  s.act (
    let s := s.takeWords k words
    let h := leAt flit 0 8
    let v := bits h 0 2
    let ty := bits h 2 2
    let seq := bits h 8 16
    if !s.linkUp k || s.flag (F.lkMode k) || leAt flit 252 4 != crc32c (flit.take 252) then s
    else if v < 2 then s.hwSet (F.lkProtoErr k)
    else
      let s1 := s.takeCredit k (bits h 6 2) (bits h 24 16)
      let c := (s1.link k).vc v
      let gap := (seq + 65536 - c.seqIn % 65536) % 65536
      let s2 := if gap = 0 then s1 else
        ((s1.setLink k ((s1.link k).setVc v { c with seqIn := seq })).freeBuffers k v gap).loseMsg k v gap
      if ty = 1 ∨ ty = 2 then
        (s2.setLink k ((s2.link k).setVc v { (s2.link k).vc v with seqIn := (seq + 1) % 65536 })).takePayload k v (bits h 40 15)
          (bits h 55 3) (ty == 1) (bit h 4) (bit h 5) ((flit.drop 8).take (leAt flit 251 1))
      else s2)

/-! ## Ethernet mode (R588, R589) -/

/-- Messages from `src` on channel v up to number `seq` are lost: the one after it is expected next (R572, R589). -/
def State.loseDatagram (s : State) (k src v seq gap : Nat) : State :=
  (s.setLink k { s.link k with
    ethSeq := ethPut (s.link k).ethSeq src v (some ((seq + 1) % 2 ^ 32)),
    ethMsg := ethPut (s.link k).ethMsg src v none }).soot1 0x3A (8 + linkDie k) 0 0 k
    (toLE 1 v ++ toLE 2 gap)

/-- One segment of a message, in order. -/
def State.takeSegment (s : State) (k src v seq len dev dp : Nat) (eom : Bool) (m : List Byte) : State :=
  let s1 := s.setLink k { s.link k with
    ethSeq := ethPut (s.link k).ethSeq src v (some (if eom then (seq + 1) % 2 ^ 32 else seq)),
    ethMsg := ethPut (s.link k).ethMsg src v (if eom then none else some m) }
  if eom then (if m.length = len then s1.deliver v dev dp m else s1.loseDatagram k src v seq 0) else s1

/-- DATAGRAM_RECEIVE (R589): a segment of a message; a gap or a segment out of order loses the message. -/
def execDatagramReceive (k : Nat) (header payload : List Byte) (words : List (Nat × Bool)) (s : State) : Host.Outcome State Fault Refusal :=
  s.act (
    let s := s.takeWords k words
    let v := bits (leAt header 1 1) 0 2
    let fl := leAt header 2 1
    let seq := leAt header 4 4
    let src := bits (leAt header 20 2) 0 15
    let ofs := leAt header 8 4
    let dev := bits (leAt header 16 2) 0 15
    let dp := bits (leAt header 18 1) 0 3
    if !s.linkUp k || !s.flag (F.lkMode k) || leAt header 0 1 != 1 || v < 2 || decide (8192 < payload.length) then s
    else
      let l := s.link k
      let want := (ethFind l.ethSeq src v).getD seq
      let cur := ethFind l.ethMsg src v
      if bit fl 0 then
        let gap := (seq + 2 ^ 32 - want) % 2 ^ 32
        let s1 := if gap = 0 ∧ cur.isNone = true then s else s.loseDatagram k src v seq (gap % 65536)
        if ofs = 0 then s1.takeSegment k src v seq (leAt header 12 4) dev dp (bit fl 1) payload
        else s1.loseDatagram k src v seq 0
      else
        match cur with
        | some m =>
          if seq = want ∧ ofs = m.length then s.takeSegment k src v seq (leAt header 12 4) dev dp (bit fl 1) (m ++ payload)
          else s.loseDatagram k src v seq ((seq + 2 ^ 32 - want) % 65536)
        | none => s)

/-- An interface of a mask pauses or resumes. -/
def pauseMask (m half : Nat) (pause : Bool) : Nat := m - (m &&& 2 ^ half) + b2n pause * 2 ^ half

/-- PRIORITY_FLOW_CONTROL (R588): the priority of VC2 or VC3 pauses or resumes on one interface of a port: 0, or with SPLIT 0 or 1. -/
def execPriorityFlowControl (k half prio : Nat) (pause : Bool) (s : State) : Host.Outcome State Fault Refusal :=
  s.act (
    if s.flag (F.lkMode k) ∧ (half = 0 ∨ half = 1 ∧ s.flag (F.lkSplit k) = true) then
      let l := s.link k
      let l1 := if prio = s.fld F.ethPcp2 then { l with pause2 := pauseMask l.pause2 half pause } else l
      let l2 := if prio = s.fld F.ethPcp3 then { l1 with pause3 := pauseMask l.pause3 half pause } else l1
      (s.setLink k l2).pump k
    else s)

/-! ## Training (R581 to R586) -/

/-- STATE of port k; a time upstream that leaves UP and DEGRADED is lost (R712). -/
def State.setLinkState (s : State) (k st mask_ : Nat) : State :=
  let was := s.linkUp k
  let s1 := (s.setFld (F.lkState k) st).setFld (F.lkLanes k) mask_
  let s2 := (List.range 8).foldl (fun a j => a.setFld (F.laneInUse (8 * k + j)) (b2n (bit mask_ j))) s1
  if was && !s2.linkUp k && s.flag F.upValid && s.fld F.upPort == k then s2.setFld F.noUpstream 1 else s2

/-- The traffic of port k stops: partly received messages and those partly sent are lost, and what was not begun is kept;
buffers of this link no longer count (R573). -/
def State.dropTraffic (s : State) (k : Nat) : State :=
  let l := s.link k
  let s1 := if l.msg2.isEmpty then s else s.loseMsg k 2 0
  let s2 := if l.msg3.isEmpty then s1 else s1.loseMsg k 3 0
  let s3 := (s2.link k).txq.foldl (fun a m => if m.begun then a.freeBuffers m.origin m.vc m.flits.length else a) s2
  let s4 := s3.setLink k { s3.link k with
    ethMsg := [], ethSeq := [], ethOut := [], heard := false, txq := (s3.link k).txq.filter fun m => !m.begun }
  (List.range 8).foldl (fun a e => a.setLink e { a.link e with
    txq := (a.link e).txq.map fun m => if m.origin = k then { m with origin := 9 } else m }) s4

/-- A retraining of port k is due at mark m. -/
def State.planRetrain (s : State) (k m : Nat) (byWrite : Bool) : State :=
  if (s.link k).retrainMark.isSome || (s.link k).retrainFrom.isSome then s
  else s.setLink k { s.link k with retrainMark := some m, byWrite := byWrite }

/-- LANE_LOCK_LOSS (R581): a lane in use loses symbol lock (`lost`), or it brings the port's uncorrectable codewords within the mark
above 16, with the codewords of R586; the port retrains from the next mark. -/
def execLaneLockLoss (lane : Nat) (lost : Bool) (words : List (Nat × Bool)) (s : State) : Host.Outcome State Fault Refusal :=
  s.act (
    let k := lane / 8
    let s1 := s.takeWords k words
    let many := decide (16 < (s1.link k).badWords.2)
    if s1.flag (F.laneInUse lane) && s1.linkUp k && (lost || many) then
      let s2 := if lost then s1.setFld (F.laneLock lane) 0 else s1
      (s2.setLink k { s2.link k with failed := (s2.link k).failed ||| 2 ^ (lane % 8) }).planRetrain k (s.time.mark + 1) false
    else s1)

/-- DOWN_EVT with its entry, on the lanes that stay in use (R583). -/
def State.downEvt (s : State) (k lanes : Nat) : State :=
  (s.setEvt (F.lkDownEvt k) 3).soot1 0x49 (8 + linkDie k) 0 0 k (toLE 1 lanes)

/-- Lanes of port k that go on through a retraining that is not asked for by a write: those of the interface of a split Ethernet port
that has not failed (R588). -/
def State.keptLanes (s : State) (k : Nat) : Nat :=
  let l := s.link k
  let half (h : Nat) : Nat := if l.failed &&& (15 * 16 ^ h) = 0 then s.fld (F.lkLanes k) &&& (15 * 16 ^ h) else 0
  if s.flag (F.lkMode k) && s.flag (F.lkSplit k) && !l.byWrite && s.linkUp k then half 0 + half 1 else 0

/-- LINK_RETRAIN_START (R581, R582): the port sends nothing from here. An Ethernet interface with a failed lane is DOWN (R588). -/
def execLinkRetrainStart (k : Nat) (s : State) : Host.Outcome State Fault Refusal :=
  s.act (
    let l := s.link k
    match l.retrainMark with
    | some m =>
      if s.markCome m = true ∧ s.flag (F.lkEnable k) = true then
        let kept := s.keptLanes k
        let down := s.flag (F.lkMode k) && !l.byWrite && l.failed != 0
        let s1 := s.setLink k { l with retrainMark := none, retrainFrom := some (s.now - s.time.cyc), failed := 0 }
        let s2 := if kept ≠ 0 then s1.setLinkState k 2 kept else (s1.dropTraffic k).setLinkState k (if down then 0 else 1) 0
        if down then s2.downEvt k kept else s2
      else s
    | none => s)

/-- RETRAIN (R581, R586): a write of RETRAIN to LINK_CTRL. -/
def execRetrain (port k : Nat) (s : State) : Host.Outcome State Fault Refusal :=
  s.actHost port 0 (if s.flag (F.lkEnable k) then s.planRetrain k (s.time.mark + 1) true else s)

/-- LINK_ENABLE (R586): a write to LINK_CTRL; MODE changes only while ENABLE is 0. -/
def execLinkEnable (port k : Nat) (v : Word32) (s : State) : Host.Outcome State Fault Refusal :=
  s.actHost port 0 (
    let was := s.flag (F.lkEnable k)
    let on := bit v.toNat 0
    let s1 := if was then s else s.setFld (F.lkMode k) (bits v.toNat 1 1)
    let s2 := (s1.setFld (F.lkSplit k) (bits v.toNat 2 1)).setFld (F.lkEnable k) (b2n on)
    if on && !was then s2.planRetrain k (s.time.mark + 1) true
    else if was && !on then
      ((s2.setLink k { s2.link k with retrainMark := none, retrainFrom := none, needWrite := false, failed := 0 }).dropTraffic k).setLinkState k 4 0
    else s2)

/-- The lane sets of R582 in order, as masks. -/
def laneSets : List Nat := [0xFF, 0x3F, 0xFC, 0x0F, 0xF0]

/-- The lanes a port comes up on. In Flue mode the first set that locks, where all 8 lanes serve a DEGRADED port only after a
RETRAIN write (R585); in Ethernet mode 8 lanes, or with SPLIT every half that locks (R588). -/
def State.trainedLanes (s : State) (k : Nat) (locked : Nat) : Nat :=
  let ok (m : Nat) : Bool := decide (locked &&& m = m)
  if s.flag (F.lkMode k) then
    (if s.flag (F.lkSplit k) then (if ok 0x0F then 0x0F else 0) + (if ok 0xF0 then 0xF0 else 0) else if ok 0xFF then 0xFF else 0)
  else
    let sets := if (s.link k).needWrite && !(s.link k).byWrite then laneSets.drop 1 else laneSets
    (sets.find? ok).getD 0

/-- Credits at link-up (R570, R573). -/
def Link.linkUp (l : Link) : Link :=
  { l with
    vc2 := { Credit.dflt with adv := 4096 }, vc3 := { Credit.dflt with adv := 64 }, msg2 := [], msg3 := [], drop2 := false,
    drop3 := false, heard := false, pause2 := 0, pause3 := 0 }

/-- LINK_RETRAIN_END (R582, R583): 512 marks after the start, in core cycles (R92). -/
def execLinkRetrainEnd (k : Nat) (locked : BitVec 8) (s : State) : Host.Outcome State Fault Refusal :=
  s.act (
    let l := s.link k
    match l.retrainFrom with
    | some m =>
      if m + 512 * cyclesPerMark ≤ s.now then
        let s1 := (List.range 8).foldl (fun a j => a.setFld (F.laneLock (8 * k + j)) (b2n (locked.getLsbD j))) s
        let lanes := s1.trainedLanes k locked.toNat
        let full := lanes == 0xFF || (s.flag (F.lkMode k) && lanes != 0)
        let die := 8 + linkDie k
        if lanes = 0 then
          let s2 := (s1.setLink k { l with retrainFrom := none, needWrite := false }).setLinkState k 0 0
          if s.lkState k = 0 then s2 else s2.downEvt k 0
        else
          let s2 := (s1.setLink k { l with retrainFrom := none, needWrite := !full }.linkUp).setLinkState k (if full then 2 else 3) lanes
          let s3 := if full then s2 else (s2.setEvt (F.lkDegradeEvt k) 3).soot1 0x48 die 0 0 k (toLE 1 lanes)
          s3.pump k
      else s
    | none => s)

end Sys2Proof.Machine
end

