-- ==== Sys2Proof/Machine/Recovery.lean ====
section
/-!
DEFINITION. Recovery.lean: the Snuffer's hangs (R600, R601), the soot ring (R595), engine resets and suspect replay (R604 to
R616), and chip resets (R617, R619, R620).
-/
namespace Sys2Proof.Machine
open Sys2Proof.Config

/-! ## Hangs (R600) -/

/-- Supervised work: the core cycle of its deadline, and cause, thread and detail of its HANG entry. -/
structure Watch where
  deadline : Nat
  cause    : Nat
  thread   : Nat
  detail   : Nat
deriving DecidableEq, Repr

/-- Issued instructions of a cluster, with their published counts; what waits for a host, an expander or its descriptor is not
supervised, nor is a write that waits for its host's credits (R562, R600, R601). -/
def State.watchIssued (s : State) (cl : Nat) : List Watch :=
  (s.inflight.filter fun i => i.thread / 128 == cl && !i.answer && !(i.effects.any fun e => match e with
    | .store pa _ => (hostOf pa).isSome
    | _ => false)).map fun i =>
    { deadline := i.due - i.late + cyclesPerMark * i.margin, cause := 1, thread := i.thread, detail := i.pc }

/-- Running descriptors of a cluster, without the time for which they wait for a host or an expander (R600, R601). -/
def State.watchDescs (s : State) (cl : Nat) : List Watch :=
  (s.cluster cl).channels.flatMap fun c => (c.2.filter (·.running)).map fun d =>
    { deadline := d.endAt + hapWait d.hap + cyclesPerMark * d.margin, cause := 2, thread := d.thread, detail := c.1 }

/-- LIVE kernel threads of a lantern partition once cutoff plus MARGIN has come (R600). -/
def State.watchKernels (s : State) (cl : Nat) : List Watch :=
  let p := cl / 16
  let m := (s.part p).hangMark
  if s.role p = rLantern ∧ m ≤ s.time.mark then
    ((clusterThreads cl).filter fun t => (s.thread t).state == .live && (match (s.thread t).owner with
      | .frame _ _ => true
      | _ => false)).map fun t =>
        { deadline := s.now - ((s.time.mark - m) * cyclesPerMark + s.time.cyc), cause := 3, thread := t,
          detail := (s.thread t).pc }
  else []

/-- The work of a cluster whose deadline has come, the first deadline reached first (R600). -/
def State.expired (s : State) (cl : Nat) : Option Watch :=
  let l := (s.watchIssued cl ++ s.watchDescs cl ++ s.watchKernels cl).filter fun w => decide (w.deadline ≤ s.now)
  (sortBy (fun (a b : Watch) => decide (a.deadline ≤ b.deadline)) l).head?

/-- SNUFFER_HANG (R600, R604): the engine of cluster cl freezes for work that has passed its deadline. -/
def execSnufferHang (cl : Nat) (s : State) : Host.Outcome State Fault Refusal :=
  s.act (
    match s.expired cl with
    | some w => s.hang cl w.cause w.thread w.detail ((s.stamp - (s.now - w.deadline)) % 2 ^ 32)
    | none => s)

/-! ## The soot ring (R594, R595) -/

/-- Address of ring slot i. -/
def State.sootSlot (s : State) (i : Nat) : Nat := s.fld F.sootBase * 4096 + 32 * i
def State.sootSize (s : State) : Nat := 2 ^ s.fld F.sootSizeLog2

/-- The ring is configured, lies in the GDDR7 of one partition that answers, and has a free slot (R595). -/
def State.sootReady (s : State) : Bool :=
  let k := s.fld F.sootSizeLog2
  let a := s.sootSlot 0
  let z := s.sootSlot s.sootSize - 1
  decide (8 ≤ k ∧ k ≤ 20) && decide (z < gddrEnd) && a / gddrPerPart == z / gddrPerPart && s.gddrUp (a / gddrPerPart) &&
    (s.fld F.sootTail + 1) % s.sootSize != s.fld F.sootHead

/-- SOOT_RING_MOVE (R595, R596, R702): the oldest buffered entry enters the ring, with writes that GDDR7 has repeated (R538). -/
def execSootRingMove (retries : Nat) (s : State) : Host.Outcome State Fault Refusal :=
  s.act (
    match s.soot with
    | e :: r =>
      if s.sootReady then
        let a := s.sootSlot (s.fld F.sootTail % s.sootSize)
        let s0 := ((s.writeMem a e).l2Use a 32).retryEvt (a / gddrPerPart) retries
        let s1 := s0.setFld F.sootTail ((s.fld F.sootTail + 1) % s.sootSize)
        ({ s1 with soot := r }.setFld F.sootBuffered r.length).raise 6
      else s
    | [] => s)

/-! ## Engine resets (R604, R613, R615, R616) -/

/-- 512 marks. -/
def engineCycles : Nat := 524288

/-- What an engine reset that ends at its 512 marks leaves (R20, R21, R209, R223, R258, R604): threads FREE, tiles as after a
reset, spares in service, and the replay that follows announced. -/
def State.endEngineReset (s : State) (cl frozen : Nat) : State :=
  let p := cl / 16
  let c := s.cluster cl
  let lantern := s.role p == rLantern
  let n := if c.repair then 0 else if lantern then (s.part p).replaySus.length else c.suspects.length
  let s1 := { s with threads := tclear s.threads (128 * cl) 128 }
  let s2 := (((s1.wipeTiles (8 * cl) 8).takeSpares cl).showClusters p).soot1 0x21 p 0 0 cl
    (toLE 1 (b2n c.repair) ++ toLE 2 n ++ toLE 4 c.sample)
  let s3 := s2.setCluster cl { s2.cluster cl with
    frozenAt := none, resetEnd := frozen + engineCycles, relaunchMark := s.time.mark + 1,
    current := none, repair := c.repair && !lantern }
  let s4 := if n = 0 then s3 else s3.setFld (F.replaying p) (s3.fld (F.replaying p) ||| 2 ^ (cl % 16))
  match lantern, c.current with
  | true, some k => (s4.endSamples p k stFaultContext).settleReplay p
  | true, none => s4.settleReplay p
  | false, _ => if n = 0 ∧ !c.repair then s4.setFld (F.replaying p) (s4.fld (F.replaying p) &&& (65535 - 2 ^ (cl % 16))) else s4

/-- ENGINE_RESET_END (R604, R615): due 512 marks after the freeze; a reset that has not completed by then triggers a partition
reset. -/
def execEngineResetEnd (cl : Nat) (ok : Bool) (s : State) : Host.Outcome State Fault Refusal :=
  s.act (
    match (s.cluster cl).frozenAt with
    | some f =>
      if f + engineCycles ≤ s.now then
        if ok then s.endEngineReset cl f else s.triggerReset (cl / 16) 2
      else s
    | none => s)

/-! ## Suspect replay on hearth partitions (R607 to R611, R616) -/

/-- A thread that counts as faulted for the step on whose behalf it was launched (R430, R607). -/
def State.faultOwner (s : State) (p : Nat) (o : Owner) : State :=
  match o with
  | .step cid =>
    (match s.step? cid with
     | some t => (s.modStep cid (Step.noteFault p)).setStepFlag t p (F.fault p)
     | none => s)
  | _ => s

/-- One thread is relaunched from its record, with the signals of its original run to suppress; a refusal is logged (R607,
R608). -/
def State.relaunchOne (s : State) (cl : Nat) (r : Relaunch) : State :=
  let p := cl / 16
  if s.launchOk p r.record then
    (s.startThread r.record r.owner r.index s.now []).modThread (recordThread r.record) fun x => { x with suppress := r.sigs }
  else (s.launchRefused p r.index r.record).faultOwner p r.owner

/-- The work of a thread goes on: the step on whose behalf it ran is in flight. -/
def State.ownerOpen (s : State) (o : Owner) : Bool :=
  match o with
  | .step cid => (s.step? cid).isSome
  | _ => true

/-- Context n of cluster cl is replayed: RESTART_NEEDED for a tied step, else its threads are relaunched and its commands carry
REPLAYED (R138, R607, R610, R611). The Bool says that the step was tied. -/
def State.relaunchCtx (s : State) (cl n : Nat) : State × Bool :=
  let c := s.cluster cl
  let p := cl / 16
  match (s.stepOn p).filter fun t => t.ctx == n && t.tied with
  | some t => (s.restartNeeded t.cid, true)
  | none =>
    let todo := c.replay.filter fun r => r.ctx == n && s.ownerOpen r.owner
    ((todo.foldl (fun a r => a.relaunchOne cl r) s).markReplayed n (c.resetEnd - engineCycles), false)

/-- The next suspect of cluster cl, or in a repair every context at once. -/
def State.relaunchNext (s : State) (cl : Nat) : State :=
  let c := s.cluster cl
  match c.suspects with
  | [] => s
  | n :: rest =>
    if c.repair then
      let s1 := c.suspects.foldl (fun a k => (a.relaunchCtx cl k).1) s
      (s1.setCluster cl { s1.cluster cl with current := some n, suspects := [] }).replayCheck cl
    else
      let s0 := s.setCluster cl { c with suspects := rest }
      let (s1, tied) := s0.relaunchCtx cl n
      if tied then s1.endSuspect cl n 2 c.relaunchMark
      else if s1.suspectLive cl n then s1.setCluster cl { s1.cluster cl with current := some n }
      else s1.endSuspect cl n 0 c.relaunchMark

/-- SUSPECT_RELAUNCH (R607): due at cycle 64 of the first mark after the engine reset, and for a later suspect at cycle 64 of
the mark after the earlier one's last thread has exited. -/
def execSuspectRelaunch (cl : Nat) (s : State) : Host.Outcome State Fault Refusal :=
  s.act (
    let c := s.cluster cl
    if c.frozenAt.isNone && c.current.isNone && s.role (cl / 16) == rHearth &&
        decide (c.relaunchMark * cyclesPerMark + 64 ≤ s.time.mark * cyclesPerMark + s.time.cyc) then s.relaunchNext cl
    else s)

/-! ## Chip resets (R617, R619, R620, R696) -/

/-- CHIP_RESET (R696): bit 0 of GLOBAL_CTRL with KEY 0xC3 in the same write. -/
def execChipReset (port : Nat) (v : Word32) (s : State) : Host.Outcome State Fault Refusal :=
  s.actHost port 0 (if bit v.toNat 0 && bits v.toNat 8 8 == 0xC3 then s.triggerChip else s)

/-- The state after everything that a chip reset or a loss of power loses (R38, R619, R694): memory and the board stay as given,
PERST# pins keep their levels, and POWER_DOMAINS follows the domains. -/
def State.lose (s : State) (b : Board) : State :=
  let s0 := { State.reset with pending := s.pending, mem := s.mem, board := b, outbox := s.outbox, free := s.free }
  let s1 := [0, 1].foldl (fun a n => a.setFld (F.hPerst n) (s.fld (F.hPerst n))) s0
  [0, 1, 2, 3, 4].foldl (fun a i => a.setFld (F.domainWord i) (s.fld (F.domainWord i))) s1

/-- The board as a chip reset leaves it: all state of the device is lost (R38), the JTAG port's with it; what is outside the
device or drives it stays, which is the power, the flash, FATAL# and the rails until mark 1,024 (R644). -/
def Board.afterReset (b : Board) : Board :=
  { Board.reset with
    powered := b.powered, pwrgood := b.pwrgood, fatal := b.fatal, byReset := true, flash := b.flash, rails := b.rails,
    vinOut := b.vinOut, curOver := b.curOver }

/-- A FLASH_WRITE that has begun and does not end leaves its range undefined (R622, R658). -/
def State.breakFlash (s : State) : State :=
  (s.cmds.filter fun c => c.op == opFlashWrite && c.phase == .running && c.started).foldl (fun (a : State) c =>
    (a.modBoard fun b => b.undefFlash (c.fld 16 4) (c.fld 20 4) a.free).drawn) s

/-- The destinations of commands that a chip reset or a loss of power breaks off are undefined, also where their memory keeps its
contents (R550, R622). -/
def State.breakWork (s : State) : State :=
  let s1 := allParts.foldl (fun (a : State) p => (a.part p).dma.foldl (fun (b : State) j => b.undefJob p j) a) s.breakFlash
  (s1.cmds.filter fun c => (c.op == opCheckpoint || c.op == opCtxSave) && c.phase == .running && c.started).foldl
    (fun (a : State) c => if c.op = opCheckpoint then a.undefImage c else a.undefVirt none c.ctx (c.fld 16 8) (c.fld 24 8)) s1

/-- Admitted and incomplete commands of the contexts that are not FREE, in submission order (R619). -/
def State.openWork (s : State) : List Nat :=
  (s.cmds.filter fun c => c.incomplete && s.cstate c.ctx != cFree).map (·.cid)

/-- A fault takes the management core, or the paths to the rings, away (R619). -/
def faultDeaf : ChipFault → Bool
  | .mesh rings => !rings
  | .ioDie rings => !rings
  | .seqTable => false
  | .mgmtCore => true

/-- Core cycles that have passed since the trigger of a chip reset, which is mark 0 of start-up (R617, R644): a fault triggers one
in its own cycle, a request at cycle 0 of the mark after it. -/
def State.sinceTrigger (s : State) (m : Nat) : Nat :=
  match s.board.chipFrom with
  | some t => s.now - t
  | none => (s.time.mark - m) * cyclesPerMark + s.time.cyc

/-- A chip reset begins (R619, R644): unless its fault bars the way to the rings, ABORTED_RESET is posted with its interrupts; then
both PCIe links drop, and start-up runs from the trigger on. -/
def State.beginChip (s : State) (m : Nat) : State :=
  let n := s.sinceTrigger m
  let s0 := s.breakWork
  let s1 := if s.board.chipDeaf then s0 else (s0.finishAll stAbortedReset s0.openWork).signalDue
  let s2 := s1.lose s1.board.afterReset
  { s2 with time := { s2.time with cycle := n, mark := n / cyclesPerMark % 2 ^ 54, cyc := n % cyclesPerMark } }

/-- CHIP_RESET_START (R36, R617, R619, R644): a fault of the mesh, an I/O die, the sequence-table SRAM or the management core
triggers a chip reset, which begins at once; one triggered before begins when it is due. -/
def execChipResetStart (fault : Option ChipFault) (s : State) : Host.Outcome State Fault Refusal :=
  s.act (
    match fault with
    | some f => (s.chipFault (faultDeaf f)).beginChip s.time.mark
    | none =>
      match s.board.chipTrig with
      | some m => if s.markCome m then s.beginChip m else s
      | none => s)

/-- CHIP_RESET_TIMEOUT (R620): a chip reset that has not reached ready within 2,097,152 marks, and a fault that disables the
management core or I/O die W, assert FATAL#. RECOVERY and a RAM boot are outcomes of start-up of their own (R645, R649). -/
def execChipResetTimeout (disabled : Bool) (s : State) : Host.Outcome State Fault Refusal :=
  s.act (
    let st := s.fld F.stage
    if disabled || (s.board.byReset && decide (markReady * cyclesPerMark ≤ s.now) && s.board.goAt.isNone &&
        !(st == bgReady || st == bgRecovery || st == bgRamVerify)) then
      s.modBoard fun b => { b with fatal := true }
    else s)

end Sys2Proof.Machine
end

