-- ==== Sys2Proof/Machine/Boot.lean ====
section
/-!
DEFINITION. Boot.lean: PWRGOOD and the converter (R660 to R663), start-up (R643 to R646), signed objects (R638 to R642), recovery
(R647 to R649), identity (R650 to R653) and the writing of the flash (R657, R658).
-/
namespace Sys2Proof.Machine
open Sys2Proof.Config

/-! ## Loss of power (R660 to R663) -/

/-- GDDR7 and the tiles lose their contents; expander and host memory keep theirs (R550, R619). -/
def State.loseMemory (s : State) : State :=
  (s.undefMem 0 gddrEnd).undefMem windowBase (windowEnd - windowBase)

/-- The device in reset: all state lost, every domain off, the flash pins tri-stated, FATAL# and THERM_ALERT# released (R662). -/
def State.powerLoss (s : State) (powered : Bool) : State :=
  let s1 := s.breakWork
  let s2 := s1.lose { Board.reset with
    powered := powered, pwrgood := false, inReset := true, flashTri := true, flash := s1.board.flash }
  ([0, 1, 2, 3, 4].foldl (fun (a : State) i => a.setFld (F.domainWord i) 0) s2).loseMemory

/-- PWRGOOD_RISE (R662): mark 0 of start-up. -/
def execPwrgoodRise (s : State) : Host.Outcome State Fault Refusal :=
  .next (
    if s.board.inReset then
      { s with
        board := { s.board with powered := true, pwrgood := true, inReset := false, byReset := false }, time := TimeBase.reset }
    else s)

/-- PWRGOOD_FALL (R662). -/
def execPwrgoodFall (s : State) : Host.Outcome State Fault Refusal :=
  .next (s.powerLoss s.board.powered)

/-- The first conversion stage turns off: the input has lain outside 30 to 42 V for more than 16 consecutive marks, or its current
has been above 120 A for more than 4 marks (R660). -/
def Board.tripDue (b : Board) : Bool := decide (16 < b.vinOut) || decide (4 < b.curOver)

/-- CONVERTER_TRIP (R660): the module loses power. -/
def execConverterTrip (s : State) : Host.Outcome State Fault Refusal :=
  .next (if s.board.tripDue then s.powerLoss false else s)

/-! ## Stages (R648) -/

/-- An in-band interrupt, while ENEC has enabled it (R686). -/
def State.ibi (s : State) : State := if s.board.ibiOn then s.emit .ibi else s

/-- STAGE changes: event vector 11, and an in-band interrupt (R686, R702). -/
def State.setStage (s : State) (g : Nat) : State :=
  if s.fld F.stage = g then s else ((s.setFld F.stage g).raise 11).ibi

/-- No VF of either port is enabled (R647). -/
def State.noVfs (s : State) : State :=
  [0, 1].foldl (fun (a : State) n => (a.setHost n { a.host n with
    config := tdel (a.host n).config (capAt 0x10010 + 0x08) }).setFld (F.hNumVfs n) 0) s

/-- The device enters RECOVERY: FAIL_CODE, the flash released, no VFs (R645, R647). -/
def State.recover (s : State) (code : Nat) : State :=
  let s1 := ((s.setFld F.failCode code).setFld F.flashReleased 1).modBoard fun b => { b with flashTri := true }
  let s2 := [0, 1].foldl (fun (a : State) n => a.setHost n { a.host n with
    vfs := a.board.totalVfs n, barLog2 := a.board.bar4Log2 n }) s1
  s2.noVfs.setStage bgRecovery

/-- DOMAINS_OFF (R644): mark 1,024. -/
def execDomainsOff (s : State) : Host.Outcome State Fault Refusal :=
  s.act (
    if s.fld F.stage = bgRom ∧ markDomainsOff * cyclesPerMark ≤ s.now then
      let s1 := [0, 1, 2, 3, 4].foldl (fun (a : State) i => a.setFld (F.domainWord i) 0) s
      (s1.modBoard fun b => { b with rails := 0, dueOn := [] }).loseMemory
    else s)

/-- BOOT_ROM_START (R644, R645, R684): mark 2,048. FL_RESET# is pulsed and the straps are sampled: a high FORCE_RECOVERY enters
RECOVERY, and with TEST_MODE high the device stays in reset. -/
def execBootRomStart (ownerKeyEn forceRecovery addr1 addr0 testMode sfdp : Bool) (s : State) :
    Host.Outcome State Fault Refusal :=
  s.act (
    if s.fld F.stage = bgRom ∧ markRomStart * cyclesPerMark ≤ s.now then
      if testMode then s.modBoard fun b => { b with testMode := true }
      else
        let s1 := ((s.setFld F.ownerKeyEn (b2n ownerKeyEn)).setFld F.forceRecovery (b2n forceRecovery)).emit .flReset
        let s2 := (s1.modBoard fun b => { b with
          strapI3c := 2 * b2n addr1 + b2n addr0, flashTri := false, sfdp := sfdp }).queueOn [136, 137, 140, 141]
        if forceRecovery then s2.recover 9 else s2.setStage bgConfig
    else s)

/-! ## Signed objects (R637 to R640) -/

/-- n bytes from offset `a` of a sorted list of bytes, `d` where none is listed. -/
def fillFrom (d : Byte) : Nat → Nat → List (Nat × Byte) → List Byte
  | 0, _, _ => []
  | n + 1, a, (k, v) :: r => if k = a then v :: fillFrom d n (a + 1) r else d :: fillFrom d n (a + 1) ((k, v) :: r)
  | n + 1, a, [] => d :: fillFrom d n (a + 1) []

def Board.flashRead (b : Board) (a n : Nat) : List Byte := fillFrom 0xFF n a (tslice b.flash a n)
def Board.stagingRead (b : Board) (a n : Nat) : List Byte := fillFrom 0 n a (tslice b.staging a n)

def ascii (l : List Nat) : List Byte := l.map fun c => BitVec.ofNat 8 c

def allZero (l : List Byte) : Bool := l.all fun b => b == 0

/-- Header and payload of the object that starts at offset `a`, by a reading function. -/
def readObject (rd : Nat → Nat → List Byte) (a limit : Nat) : List Byte :=
  let h := rd a 256
  h ++ rd (a + 256) (Nat.min limit (leAt h 12 4))

/-- Largest payload of an object type. -/
def payloadLimit (type : Nat) : Nat := if type = 1 then 65280 else 4128512

/-- Check 1 of R640: form. -/
def formOk (type : Nat) (h : List Byte) : Bool :=
  let n := leAt h 12 4
  h.take 4 == (if type = 1 then ascii [77, 90, 67, 70] else ascii [77, 90, 70, 87]) && leAt h 4 1 == 1 && leAt h 5 1 == type &&
    leAt h 7 1 == 0 && allZero ((h.drop 112).take 80) && decide (n ≤ payloadLimit type) && decide ((if type = 1 then 160 else 1) ≤ n)

/-- Check 2 of R640: the key. -/
def keyOk (ownerEn : Bool) (owner h : List Byte) : Bool :=
  let k := (h.drop 48).take 64
  let id := leAt h 6 1
  if id = 0 then sha256 k == vendorKeyHash
  else if id = 1 then ownerEn && owner.take 4 == ascii [77, 90, 79, 75] && k == (owner.drop 16).take 64
  else false

/-- First failed check of R640, 0 for none. -/
def objectCheck (type : Nat) (ownerEn : Bool) (owner obj : List Byte) : Nat :=
  let h := obj.take 256
  if !formOk type h then 1
  else if !keyOk ownerEn owner h then 2
  else if !ecdsaOk ((h.drop 48).take 64) (sha256 (h.take 192)) ((h.drop 192).take 64) then 3
  else if sha256 ((obj.drop 256).take (leAt h 12 4)) != (h.drop 16).take 32 then 4
  else 0

/-! ## The configuration block (R642, R643) -/

/-- Entries of OOS_LIST as (cluster, physical tile). -/
def oosList (p : List Byte) : List (Nat × Nat) :=
  (List.range (leAt p 25 1)).map fun i => (leAt p (32 + 2 * i) 1 % 128, leAt p (33 + 2 * i) 1 % 16)

/-- Every field lies in its range (R642). -/
def configOk (p : List Byte) : Bool :=
  let fb := leAt p 4 4
  let within (lo hi v : Nat) : Bool := decide (lo ≤ v ∧ v ≤ hi)
  leAt p 0 4 == 1 && ((List.range 6).any fun i => fb == 2 ^ (23 + i)) && within 4 30 (leAt p 8 1) && leAt p 9 1 == 0 &&
    within 100 200 (leAt p 10 2) && within 1 1048575 (leAt p 12 4) && within 28 38 (leAt p 18 1) && within 28 38 (leAt p 19 1) &&
    decide (1 ≤ leAt p 24 1) && decide (leAt p 25 1 ≤ 64) && allZero ((p.drop 26).take 6) &&
    ((List.range (leAt p 25 1)).all fun i => decide (leAt p (32 + 2 * i) 1 < 128) && decide (leAt p (33 + 2 * i) 1 < 9)) &&
    allZero (p.drop 160)

/-- FAIL_CODE of a configuration object, 0 for none. -/
def configFail (ownerEn : Bool) (owner obj : List Byte) : Nat :=
  let k := objectCheck 1 ownerEn owner obj
  if k ≠ 0 then k + 1 else if configOk (obj.drop 256) then 0 else 5

/-- FAIL_CODE of an image, 0 for none. -/
def imageFail (ownerEn : Bool) (owner obj : List Byte) : Nat :=
  let k := objectCheck 2 ownerEn owner obj
  if k = 0 then 0 else if k = 1 then 6 else if k = 2 then 7 else 8

/-- Tiles of a cluster at start: the remaining physical tiles in ascending order, then the spare (R20, R24). -/
def State.assignTiles (s : State) (cl : Nat) (oos : List Nat) : State :=
  let ok := (List.range 9).filter fun k => !oos.contains k
  let s1 := (s.setFld (F.healthy cl) (sumOf (ok.map fun k => 2 ^ k))).setFld (F.spare cl) (ok.getD 8 15)
  let s2 := (List.range 8).foldl (fun (a : State) j => a.setFld (F.slotMap cl j) (ok.getD j 15)) s1
  s2.setCluster cl { s2.cluster cl with outOfService := decide (ok.length < 7) }

/-- Clusters and ports take an accepted configuration object (R20, R24, R642 to R644, R664): every cluster that this block lists,
or that a block applied before it listed (R649), is assigned its tiles again. -/
def State.applyConfig (s : State) (obj : List Byte) : State :=
  let p := obj.drop 256
  let oos := oosList p
  let s1 := s.modBoard fun b => { b with config := obj, flashBytes := leAt p 4 4, sectorMarks := leAt p 12 4 }
  let s2 := [0, 1].foldl (fun (a : State) n => a.setHost n { a.host n with vfs := a.board.totalVfs n, barLog2 := a.board.bar4Log2 n }) s1
  let s3 := (s2.setFld F.handoverCandles (leAt p 24 1)).setFld F.cfgKey (leAt obj 6 1)
  let was := oosList (s.board.config.drop 256)
  let s4 := (dedup ((was ++ oos).map (·.1))).foldl (fun (a : State) cl =>
    a.assignTiles cl ((oos.filter fun e => e.1 == cl).map (·.2))) s3
  s4.queueOn ([138, 139, 142, 143] ++ allParts.map fun q => 17 * q + 16)

/-- CONFIG_CHECK (R643 to R646): mark 18,944. -/
def execConfigCheck (readOk : Bool) (s : State) : Host.Outcome State Fault Refusal :=
  s.act (
    if s.fld F.stage = bgConfig ∧ markConfig * cyclesPerMark ≤ s.now then
      if !readOk || !s.board.sfdp then s.recover 1
      else
        let owner := s.board.flashRead 0x10000 256
        let obj := readObject s.board.flashRead 0 (payloadLimit 1)
        let s1 := s.modBoard fun b => { b with ownerBlk := owner }
        let f := configFail (s.flag F.ownerKeyEn) owner obj
        if f = 0 then (s1.applyConfig obj).setStage bgImage else s1.recover f
    else s)

/-! ## The image and the identity (R644, R650 to R653) -/

/-- The identity engine: d from the seed, Q, ID_OK and DEVICE_UID (R650 to R653). Helper data that start-up never read, because
it failed before mark 35,840, give no seed. -/
def State.identify (s : State) : State :=
  match (if s.board.helper.isEmpty then none else pufSeed s.board.helper) with
  | some seed =>
    let d := ofBE (sha256 (seed ++ [1])) % (pN - 1) + 1
    let q := pubKey d
    if leAt s.board.chain 0 2 ≤ 24576 ∧ leafIs s.board.chain q = true then
      ((s.modBoard fun b => { b with idKey := some d }).setFld F.idOk 1).setFld F.deviceUid (leAt (sha256 q) 0 8)
    else s
  | none => s

/-- A running image (R648). -/
def State.applyImage (s : State) (obj : List Byte) (path : Nat) : State :=
  (((s.modBoard fun b => { b with image := obj }).setFld F.imgKey (leAt obj 6 1)).setFld F.imgSvn (leAt obj 8 4)).setFld F.path path

/-- IMAGE_CHECK (R644 to R646): mark 35,840. -/
def execImageCheck (readOk : Bool) (s : State) : Host.Outcome State Fault Refusal :=
  s.act (
    if s.fld F.stage = bgImage ∧ markImage * cyclesPerMark ≤ s.now then
      if !readOk then s.recover 1
      else
        let s1 := s.modBoard fun b => { b with helper := b.flashRead 0x11000 4096, chain := b.flashRead 0x12000 24576 }
        let obj := readObject s.board.flashRead 0x100000 (payloadLimit 2)
        let f := imageFail (s.flag F.ownerKeyEn) s.board.ownerBlk obj
        if f = 0 then ((s1.applyImage obj 0).identify).setStage bgWait else s1.recover f
    else s)

/-- DEVICE_READY (R643, R644, R649): mark 2,097,152, or that many marks after GO. -/
def execDeviceReady (s : State) : Host.Outcome State Fault Refusal :=
  s.act (
    let due := match s.board.goAt with
      | some g => decide (g + markReady * cyclesPerMark ≤ s.now)
      | none => decide (markReady * cyclesPerMark ≤ s.now)
    if s.fld F.stage = bgWait ∧ due = true then (s.setFld F.locked 1).setStage bgReady else s)

/-! ## Recovery (R647 to R649) -/

/-- RECOVERY_GO (R648, R649): a write of RECOVERY_CTRL. -/
def execRecoveryGo (port : Nat) (v : Word32) (s : State) : Host.Outcome State Fault Refusal :=
  s.actHost port 0 (
    if bit v.toNat 0 ∧ s.fld F.stage = bgRecovery then
      (s.modBoard fun b => { b with goAt := some s.now, ramOk := false }).setStage bgRamVerify
    else s)

/-- RAM_VERIFY_END (R649): GO + 1,024 marks; a failure is back in RECOVERY, without VFs (R647). -/
def execRamVerifyEnd (s : State) : Host.Outcome State Fault Refusal :=
  s.act (
    match s.board.goAt with
    | some g =>
      if s.fld F.stage = bgRamVerify ∧ g + 1024 * cyclesPerMark ≤ s.now ∧ s.board.ramOk = false then
        let cfg := readObject s.board.stagingRead 0 (payloadLimit 1)
        let img := readObject s.board.stagingRead 0x10000 (payloadLimit 2)
        let en := s.flag F.ownerKeyEn
        let s0 := s.modBoard fun b => { b with goAt := none }
        if configFail en s.board.ownerBlk cfg ≠ 0 then (s0.setFld F.failCode 10).noVfs.setStage bgRecovery
        else if imageFail en s.board.ownerBlk img ≠ 0 then (s0.setFld F.failCode 11).noVfs.setStage bgRecovery
        else ((s.applyConfig cfg).applyImage img 1).modBoard fun b => { b with ramOk := true }
      else s
    | none => s)

/-- RAM_BOOT_LINK_DROP (R649): GO + 2,048 marks. -/
def execRamBootLinkDrop (s : State) : Host.Outcome State Fault Refusal :=
  s.act (
    match s.board.goAt with
    | some g =>
      if s.fld F.stage = bgRamVerify ∧ g + 2048 * cyclesPerMark ≤ s.now ∧ s.board.ramOk = true then
        let s1 := (s.portReset 0).portReset 1
        ((s1.modBoard fun b => { b with staging := [] }).identify).setStage bgWait
      else s
    | none => s)

/-! ## Writing the flash (R657, R658) -/

/-- Checks of FLASH_WRITE (R657). -/
def State.checkFlash (s : State) (c : Cmd) : Verdict :=
  let off := c.fld 16 4
  let size := c.fld 20 4
  let other := s.cmds.any fun d => d.op == opFlashWrite && d.cid != c.cid && (d.phase == .running || d.phase == .held)
  verdict ([(8, badAddr (c.fld 8 8)), (16, off % 4096 != 0), (20, size % 4096 != 0)] ++ reservedBad c [(8, 16)])
    (isMgmt c.ctx && !(decide (off < 0x12000) && decide (0x11000 < off + size)))
    [(8, !s.mapped c.ctx (c.fld 8 8) size true false), (16, decide (s.board.flashBytes < off + size))] (size == 0)
    (!s.flag F.flashReleased && !s.flag F.flashBusy && !other) true true

def execFlashWrite (n : Nat) (s : State) : Host.Outcome State Fault Refusal :=
  s.act (match s.freshCmd n opFlashWrite with
    | some c => s.settle c (s.checkFlash c) fun t => t.modCmd c.cid fun d => { d with
        phase := .running, startAt := if t.fenced c.cid then 0 else c.admitCyc + 2 * cyclesPerMark }
    | none => s)

/-- A FLASH_WRITE's source is read by P0, since the command names no partition (R713). -/
def flashReader : Option Nat := some 0

/-- FLASH_SOURCE_READ (R561, R658): 2 marks after admission, or once no FENCE holds the command; m: what the read
meets. -/
def execFlashSourceRead (cid : Nat) (m : Meet) (s : State) : Host.Outcome State Fault Refusal :=
  s.act (
    match s.cmd cid with
    | some c =>
      if c.op = opFlashWrite ∧ c.phase = .running ∧ c.started = false ∧
          c.admitCyc + 2 * cyclesPerMark ≤ s.now ∧ s.fenced cid = false then
        let va := c.fld 8 8
        let n := c.fld 20 4
        let ok := s.reachRange flashReader false c.ctx va n true false
        let from_ := if c.startAt = 0 then s.now else c.startAt
        let s1 := s.modBoard fun b => { b with flashWork := some (cid, s.readVirt flashReader false c.ctx va n) }
        let s2 := (s1.setFld F.flashBusy 1).readMeets flashReader false c.ctx va n m
        s2.modCmd cid fun d => { d with
          started := true, startAt := from_, faulted := !ok || m.err.isSome,
          endAt := from_ + cdiv n 4096 * s.board.sectorMarks * cyclesPerMark }
      else s
    | none => s)

/-- FLASH_WRITE_COMPLETE (R658): at its count; a failure, or a flash that is still busy, leaves the range undefined. -/
def execFlashWriteComplete (cid : Nat) (failed busy : Bool) (s : State) : Host.Outcome State Fault Refusal :=
  s.act (
    match s.cmd cid with
    | some c =>
      if c.op = opFlashWrite ∧ c.phase = .running ∧ c.started = true ∧ c.endAt ≤ s.now then
        let off := c.fld 16 4
        let data := match s.board.flashWork with
          | some w => w.2
          | none => []
        let s1 := (s.modBoard fun b => { b with flashWork := none }).setFld F.flashBusy (b2n busy)
        if failed || busy || c.faulted then
          ((s1.modBoard fun b => b.undefFlash off (c.fld 20 4) s.free).drawn).finish cid stFaultContext [] false
        else
          let put (b : Board) : Board :=
            { b with flash := ((List.range data.length).zip data).foldl (fun f e => tset 0xFF f (off + e.1) e.2) b.flash }
          (s1.modBoard put).finish cid stOk [] false
      else s
    | none => s)

/-- FLASH_OPERATION_END (R658): FLASH_BUSY returns to 0 when no FLASH_WRITE is at work. -/
def execFlashOperationEnd (s : State) : Host.Outcome State Fault Refusal :=
  s.act (if s.board.flashWork.isNone then s.setFld F.flashBusy 0 else s)

end Sys2Proof.Machine
end

