-- ==== Sys2Proof/Machine/Checkpoint.lean ====
section
/-!
DEFINITION. Checkpoint.lean: CHECKPOINT, its capture at CHECKPOINT_MARK and its copy (R632 to R635).
-/
namespace Sys2Proof.Machine
open Sys2Proof.Config

/-- Checks of CHECKPOINT (R633, R634). A SIZE below the bytes of the partitions named names byte 8, the lower of the two fields (R117). -/
def State.checkCheckpoint (s : State) (c : Cmd) : Verdict :=
  let ps := maskParts (c.fld 8 1)
  let a := c.fld 16 8
  let n := c.fld 24 8
  let inCxl := (rangePieces a n).all fun e => match s.xlatTable c.ctx e.1 with
    | some x => (cxlOf (x.pa e.1)).isSome && (cxlOf (x.pa (e.1 + e.2 - 1))).isSome
    | none => false
  verdict ([(8, ps.isEmpty), (16, badAddr a)] ++ reservedBad c [(8, 1), (16, 24)]) (isMgmt c.ctx)
    [(16, !s.mapped c.ctx a n false true), (8, decide (n < s.ckptTotal ps))] (n == 0)
    (s.marksOk && leadOk c (c.fld 32 8) && inCxl && ps.all fun p => s.role p == rHearth && !s.flag (F.pending p)) true
    (s.leastShare ps true != 0)

/-- An accepted CHECKPOINT takes its place on the copy engine (R634). -/
def State.launchCheckpoint (s : State) (c : Cmd) : State :=
  let ps := maskParts (c.fld 8 1)
  let m := s.leastShare ps true
  let total := s.ckptTotal ps
  let start := Nat.max (c.fld 32 8) (((s.jobs.filter (·.live)).getLast?.map (·.endAt)).getD 0)
  let fin := start + 64 + cdiv (total / 64) (300 * m)
  let job : CopyJob := { cid := c.cid, start := start, endAt := fin, live := true, variant := none, rate := 300 * m }
  { s with jobs := s.jobs ++ [job] }.modCmd c.cid fun d =>
    { d with phase := .running, startAt := start, endAt := fin, bytes := total }

def execCheckpoint (n : Nat) (s : State) : Host.Outcome State Fault Refusal :=
  s.act (match s.freshCmd n opCheckpoint with
    | some c => s.settle c (s.checkCheckpoint c) fun t => t.launchCheckpoint c
    | none => s)

/-- CHECKPOINT_COPY_START (R634): due at start s. A destination behind a port that is down stops the copy with its first write. -/
def execCheckpointCopyStart (cid : Nat) (s : State) : Host.Outcome State Fault Refusal :=
  s.act (
    match s.cmd cid with
    | some c =>
      if c.op = opCheckpoint ∧ c.phase = .running ∧ c.started = false ∧ c.startAt ≤ s.time.mark ∧ s.fenced cid = false then
        let s1 := if s.captured c then s else s.capture c
        (s1.modCmd cid fun d => { d with
          started := true, targets := s.ckptDest d, faulted := d.faulted || !s.reachRange none false c.ctx (c.fld 16 8) d.bytes false true }).showCopy
      else s
    | none => s)

/-- What the copy writes for the partitions ps: header, then halves, one after the other from virtual address va. -/
def State.ckptWrite (s : State) (c : Cmd) : Nat → Nat → List Nat → State
  | _, _, [] => s
  | k, va, p :: r =>
    let s1 := s.writeVirt none false c.ctx va (((c.result.drop (288 * k)).take 288) ++ toLE 3808 0)
    let halves := (c.sources.filter fun e => e.1 == p).map fun e => (e.2.1, e.2.2)
    let (s2, next) := halves.foldl (fun (q : State × Nat) h =>
      (((rangePieces q.2 h.2).foldl (fun (z : State × Nat) piece =>
        ((match z.1.reach none false c.ctx piece.1 false true with
          | some a => { z.1 with mem := z.1.mem.copyRange (z.1.key z.2) (z.1.key a) piece.2 }.l2Use z.2 piece.2
          | none => z.1), z.2 + piece.2)) (q.1, h.1)).1, q.2 + h.2)) (s1, va + 4096)
    s2.ckptWrite c (k + 1) next r

/-- The checkpoint leaves the copy engine and the partitions it read. -/
def State.endCheckpoint (s : State) (cid : Nat) : State :=
  allParts.foldl (fun (a : State) p => a.modPart p fun x => { x with ckpt := tdel x.ckpt cid }) (s.dropJob cid)

/-- CHECKPOINT_COPY_END (R634, R635): at end e, or later where the expander is late, with LATE (R96, R552). A write that faulted, or an
error response of the expander, gives FAULT_CONTEXT, and the cases of R635 DEADLINE_MISSED; the image is undefined in both. -/
def execCheckpointCopyEnd (cid : Nat) (h : Hap) (s : State) : Host.Outcome State Fault Refusal :=
  s.act (
    match s.cmd cid with
    | some c =>
      if c.op = opCheckpoint ∧ c.phase = .running ∧ c.started = true ∧ c.endAt * cyclesPerMark + h.cxlLate ≤ s.markCycle then
        let a := c.fld 16 8
        let dst := (s.ckptDest c).map (·.1)
        let s1 := (s.copyMeets c.ctx h (c.sources.map fun e => e.2.1) dst).endCheckpoint cid
        let bad := h.badWrite || h.err.isSome || c.faulted || !s.reachRange none false c.ctx a c.bytes false true ||
          c.sources.any fun e => !(s.backed e.2.1)
        let late := decide (0 < h.cxlLate)
        if c.abandoned then (s1.undefImage c).finish cid stDeadlineMissed (toLE 8 c.bytes) late
        else if bad then (s1.undefImage c).finish cid stFaultContext (toLE 8 c.bytes) late
        else (s1.ckptWrite c 0 a (maskParts (c.fld 8 1))).finish cid stOk (toLE 8 c.bytes) late
      else s
    | none => s)

end Sys2Proof.Machine
end

