-- ==== Sys2Proof/Machine/Power.lean ====
section
/-!
DEFINITION. Power.lean: power capping (R667 to R671), temperatures (R673 to R676), I3C (R686, R687) and JTAG (R685).
-/
namespace Sys2Proof.Machine
open Sys2Proof.Config

/-! ## Power capping (R667 to R669) -/

/-- The converter watches its input while it has power, whatever the device does (R660). -/
def Board.watchInput (b : Board) (mv ma : Nat) : Board :=
  { b with
    vinOut := if mv < 30000 ∨ 42000 < mv then b.vinOut + 1 else 0,
    curOver := if 120000 < ma then b.curOver + 1 else 0 }

/-- INPUT_POWER_SAMPLE (R660, R667, R668): the measurement of one mark, in mV and mA. -/
def execInputPowerSample (mv ma : Nat) (s : State) : Host.Outcome State Fault Refusal :=
  .next (
    let s1 := if s.board.powered then s.modBoard fun b => b.watchInput mv ma else s
    if s.board.off then s1
    else
      let s2 := s1.modBoard fun b => { b with powerWin := ((mv, ma) :: b.powerWin).take marksPerCandle }
      if mv < 32000 ∨ 40000 < mv then s2.setEvt F.vinRange 5 else s2)

/-- Sums over the window of R668: the input power in µW and the input voltage in mV. -/
def Board.pSum (b : Board) : Nat := sumOf (b.powerWin.map fun e => e.1 * e.2)
def Board.vSum (b : Board) : Nat := sumOf (b.powerWin.map (·.1))

/-- The factor F′ of a partition (R668) for the average power `sum` / `n`, in µW, and the cap in watts. -/
def newFactor (sum n cap f fmin : Nat) : Nat :=
  let p := 100 * sum
  let w := cap * 1000000 * n
  if 110 * w < p then Nat.max fmin (f - 4)
  else if 100 * w < p then Nat.max fmin (f - 2)
  else if 95 * w < p then f
  else Nat.min 16 (f + 1)

/-- The factor that partition q takes at the next candle boundary (R668). -/
def State.nextFactor (s : State) (q : Nat) : Nat :=
  if bit (s.fld F.capMask) q then
    newFactor s.board.pSum s.board.powerWin.length (s.fld F.capW) (s.fld (F.factor q)) (s.fld (F.fmin q))
  else 16

/-- The power factors of the coming candle boundary are due: mark 32 before it has come, or a jump has passed it (R62, R668). -/
def State.factorDue (s : State) : Bool :=
  !s.board.capBudget && (s.time.boundary || decide (marksPerCandle - 32 ≤ s.time.mark % marksPerCandle))

/-- POWER_FACTOR_UPDATE (R668): due at mark 32 before each candle boundary. -/
def execPowerFactorUpdate (s : State) : Host.Outcome State Fault Refusal :=
  s.act (
    if s.factorDue then
      let b := s.board
      let n := Nat.max 1 b.powerWin.length
      let s1 := (s.setFld F.pAvg (Nat.min 65535 (b.pSum / (250000 * n)))).setFld F.vinAvg (Nat.min 4095 (b.vSum / (10 * n)))
      let s2 := allParts.foldl (fun (a : State) q => a.modPart q fun x => { x with pendF := s.nextFactor q }) s1
      let s3 := s2.modBoard fun y => { y with capBudget := true }
      if allParts.any fun q => decide (s.nextFactor q < s.fld (F.factor q)) then s3.setEvt F.overCap 5 else s3
    else s)

/-! ## Temperature (R673 to R676) -/

/-- ALERT of THERM_CFG (R674): some reading at or above its threshold, or ALERT still set and some reading not yet 2 °C below. -/
def State.alertNow (s : State) : Bool :=
  let j := (List.range 10).map fun u => s.fld (F.thermJ u)
  let m := allParts.flatMap fun p => (List.range 6).map fun d => s.fld (F.thermMem p d)
  let wj := 16 * s.fld F.warnJ
  let wm := 16 * s.fld F.warnM
  (j.any fun t => decide (wj ≤ t)) || (m.any fun t => decide (wm ≤ t)) ||
    (s.flag F.alert && ((j.any fun t => decide (wj - 32 ≤ t)) || m.any fun t => decide (wm - 32 ≤ t)))

/-- THERM_ALERT# follows the readings; its assertion is an event of vector 4 and an in-band interrupt (R674, R686, R702). -/
def State.showAlert (s : State) : State :=
  let now := s.alertNow
  let s1 := s.setFld F.alert (b2n now)
  if now && !s.flag F.alert then (s1.raise 4).ibi else s1

/-- Consecutive marks above a limit. -/
def runOf (n t limit : Nat) : Nat := if limit < t then n + 1 else 0

/-- One junction reading of a mark: THERM_J and the runs of R675 and R676. -/
def State.readJunction (s : State) (u t : Nat) : State :=
  let s1 := s.setFld (F.thermJ u) (Nat.min 4095 t)
  let s2 := s1.modBoard fun b => { b with critical := tput b.critical u (runOf ((tfind b.critical u).getD 0) t (115 * 16)) }
  if u < 8 then s2.modPart u fun x => { x with tempOver := runOf x.tempOver t (105 * 16) }
  else s2.modBoard fun b => { b with ioOver := tput b.ioOver u (runOf ((tfind b.ioOver u).getD 0) t (105 * 16)) }

/-- THERMAL_SAMPLE (R673, R674): the ten junction readings of a mark, u from 0 to 9. -/
def execThermalSample (temps : List Nat) (s : State) : Host.Outcome State Fault Refusal :=
  s.act (((List.range 10).zip temps).foldl (fun (a : State) e => a.readJunction e.1 e.2) s).showAlert

/-- JUNCTION_OVERTEMP (R675): 8 consecutive marks above 105.0 °C trigger a partition reset. -/
def execJunctionOvertemp (p : Nat) (s : State) : Host.Outcome State Fault Refusal :=
  s.act (
    if 8 ≤ (s.part p).tempOver then
      let s1 := ((s.modPart p fun x => { x with tempOver := 0 }).soot1 0x50 p 0 0 p (toLE 1 0 ++
        toLE 2 (s.fld (F.thermJ p)))).triggerReset p 5
      s1.modPart p fun x => { x with hotDie := x.hotDie || (x.resetAt.isSome && (s.part p).resetAt.isNone) }
    else s)

/-- IO_DIE_OVERTEMP (R676): 8 consecutive marks above 105.0 °C trigger a chip reset. -/
def execIoDieOvertemp (d : Nat) (s : State) : Host.Outcome State Fault Refusal :=
  s.act (if 8 ≤ (tfind s.board.ioOver (8 + d)).getD 0 then s.chipFault false else s)

/-- JUNCTION_CRITICAL (R620, R676): 2 consecutive marks above 115.0 °C assert FATAL#, and the device takes no further action. -/
def execJunctionCritical (u : Nat) (s : State) : Host.Outcome State Fault Refusal :=
  s.act (
    if 2 ≤ (tfind s.board.critical u).getD 0 then s.modBoard fun b => { b with fatal := true, dead := true } else s)

/-! ## I3C (R686, R687) -/

/-- The device is an I3C target from mark 2,048 of start-up (R686). -/
def State.i3cUp (s : State) : Bool := s.fld F.stage != bgRom

/-- `count` dwords from dword `off` lie in the tray block (R687, R696). -/
def inTray (off count : Nat) : Bool := decide (1 ≤ count ∧ count ≤ 16 ∧ off + count ≤ 256)

/-- The dword at a BAR0 offset of the tray block. -/
def State.trayWord (s : State) (off : Nat) : Nat :=
  match regDesc off with
  | some d => bits (s.reg d.base).toNat (8 * (off - d.base)) 32
  | none => 0

/-- TREAD (R687). -/
def execTread (off count : Nat) (s : State) : Host.Outcome State Fault Refusal :=
  s.act (
    if s.i3cUp && inTray off count then
      let data := (List.range count).flatMap fun i => toLE 4 (s.trayWord (4 * (off + i)))
      s.modBoard fun b => { b with treadAt := s.now, treadData := some data }
    else s)

/-- I3C_PRIVATE_READ (R687): the TREAD result, or a NACK less than 2 marks after its TREAD or without one. -/
def execI3cPrivateRead (s : State) : Host.Outcome State Fault Refusal :=
  s.act (
    match s.board.treadData with
    | some d =>
      if s.board.treadAt + 2 * cyclesPerMark ≤ s.now then (s.modBoard fun b => { b with treadData := none }).emit (.i3cData d)
      else s.emit .i3cNack
    | none => s.emit .i3cNack)

/-- A write of PWR_CAP: a CAP_W outside 400 to 2,800 is ignored and sets CFG_ERR (R669). -/
def State.writeCap (s : State) (v : Nat) : State :=
  let w := bits v 0 12
  if 400 ≤ w ∧ w ≤ 2800 then (s.setFld F.capW w).setFld F.capMask (bits v 20 8) else s.setEvt F.pwrCfgErr 10

/-- TWRITE (R687): writes of the tray block, of which only PWR_CAP is taken. It discards a PF's write of the same core cycle
(R669). -/
def execTwrite (off count : Nat) (data : List Byte) (s : State) : Host.Outcome State Fault Refusal :=
  s.act (
    if s.i3cUp && inTray off count && data.length == 4 * count && decide (off ≤ 8) && decide (8 < off + count) then
      (s.modBoard fun b => { b with capAt := some s.now, capPend := [] }).writeCap (leAt data (4 * (8 - off)) 4)
    else s)

/-- A PF's write to PWR_CAP waits for the end of its core cycle; one that follows an I3C write of the cycle is discarded (R669). -/
def State.hostCap (s : State) (port v : Nat) : State :=
  if s.board.capAt = some s.now then s else s.modBoard fun b => { b with capPend := b.capPend ++ [(port, v)] }

/-- The PFs' writes to PWR_CAP of the core cycle that ends take effect, port 0's before port 1's (R669, R692). -/
def State.capDue (s : State) : State :=
  ([0, 1].flatMap fun n => s.board.capPend.filter fun e => e.1 == n).foldl (fun a e => a.writeCap e.2)
    (s.modBoard fun b => { b with capPend := [] })

/-- I3C_CHIP_RESET (R687): with its two bytes, a chip reset at cycle 0 of the next mark. -/
def execI3cChipReset (key : List Byte) (s : State) : Host.Outcome State Fault Refusal :=
  s.act (if s.i3cUp && key == [0xC3, 0x5A] then s.triggerChip else s)

/-- The I3C static address that the straps form (R684). -/
def Board.staticAddr (b : Board) : Nat := 0x2C + b.strapI3c

/-- A dynamic address is assigned to a target that has none. -/
def State.assignAddr (s : State) (addr : Nat) : State :=
  if s.i3cUp && s.board.dynAddr.isNone then s.modBoard fun b => { b with dynAddr := some addr } else s

/-- ENTDAA, SETDASA and RSTDAA (R686). SETDASA names the target by its static address (R684). -/
def execEntdaa (addr : Nat) (s : State) : Host.Outcome State Fault Refusal := s.act (s.assignAddr addr)
def execSetdasa (static addr : Nat) (s : State) : Host.Outcome State Fault Refusal :=
  s.act (if static = s.board.staticAddr then s.assignAddr addr else s)
def execRstdaa (s : State) : Host.Outcome State Fault Refusal :=
  s.act (if s.i3cUp then s.modBoard fun b => { b with dynAddr := none } else s)

/-- An answer of n bytes to a CCC, most significant byte first. -/
def State.cccData (s : State) (n v : Nat) : State := if s.i3cUp then s.emit (.i3cData (toBE n v)) else s

/-- GETPID, GETBCR, GETDCR and GETSTATUS (R686): their values are open. -/
def execGetpid (s : State) : Host.Outcome State Fault Refusal := s.act (s.cccData 6 i3cPid)
def execGetbcr (s : State) : Host.Outcome State Fault Refusal := s.act (s.cccData 1 i3cBcr)
def execGetdcr (s : State) : Host.Outcome State Fault Refusal := s.act (s.cccData 1 i3cDcr)
def execGetstatus (s : State) : Host.Outcome State Fault Refusal := s.act ((s.cccData 2 (i3cStatus s.free)).drawn)

/-- ENEC and DISEC (R686). -/
def execEnec (s : State) : Host.Outcome State Fault Refusal :=
  s.act (if s.i3cUp then s.modBoard fun b => { b with ibiOn := true } else s)
def execDisec (s : State) : Host.Outcome State Fault Refusal :=
  s.act (if s.i3cUp then s.modBoard fun b => { b with ibiOn := false } else s)

/-! ## JTAG (R685) -/

/-- A JTAG instruction selects a data register; the pins are driven, held or tri-stated as it says. -/
def State.jtag (s : State) (ir : Nat) (dr : List Bool) (pins : Option (List Bool)) (tri : Bool) : State :=
  s.modBoard fun b => { b with jtagIr := ir, jtagDr := dr, pinsDriven := pins, tristate := tri }

/-- Bits of a word, least significant first, as they leave TDO. -/
def bitsOf (n v : Nat) : List Bool := (List.range n).map fun i => bit v i

/-- BYPASS: a register of one bit, captured as 0. -/
def execBypass (s : State) : Host.Outcome State Fault Refusal := s.act (s.jtag 0 [false] none false)

/-- IDCODE: version 1, part 0x8840, manufacturer 0x1E9. -/
def execIdcode (s : State) : Host.Outcome State Fault Refusal :=
  s.act ((s.jtag 1 (bitsOf 32 0x188403D3) none false).emit (.tdo (bitsOf 32 0x188403D3)))

/-- Levels of the scanned pins: one cell per ball of the sideband and flash pins that is no pin of the JTAG port, in the order of
the table of R681 (DESIGN CHOICE, assumption 129). The device's own outputs and the pins whose level State holds show it; the
others show what the board drives, a free value. -/
def State.pinLevels (s : State) : List Bool :=
  let b := bitsOf 28 (freeNat s.free)
  b.take 4 ++ [s.board.pwrgood, !s.board.fatal, !s.flag F.alert, !s.flag (F.hPerst 0), !s.flag (F.hPerst 1)] ++ b.drop 9

/-- A data register with `cells`, through which `data` is shifted: what leaves TDO, and what the register holds then. -/
def shiftThrough (cells data : List Bool) : List Bool × List Bool :=
  ((cells ++ data).take data.length, (cells ++ data).drop data.length)

/-- SAMPLE/PRELOAD: the levels of the pins leave TDO while the preload data come in. -/
def execSamplePreload (data : List Bool) (s : State) : Host.Outcome State Fault Refusal :=
  s.act (
    let r := shiftThrough s.pinLevels data
    ((s.drawn.jtag 2 r.2 none false).modBoard fun b => { b with scan := r.2 }).emit (.tdo r.1))

def execExtest (s : State) : Host.Outcome State Fault Refusal := s.act (s.jtag 3 s.board.scan (some s.board.scan) false)
def execHighz (s : State) : Host.Outcome State Fault Refusal := s.act (s.jtag 4 [false] none true)
def execClamp (s : State) : Host.Outcome State Fault Refusal := s.act (s.jtag 5 [false] (some s.board.scan) false)

end Sys2Proof.Machine
end

