-- ==== Sys2Proof/Machine/Reads.lean ====
section
/-!
DEFINITION. Reads.lean: the rows of the instructions that read memory in the cycle in which they issue: the writes that reach their
counts in that cycle come first (R292, R293; assumption 15).
-/
namespace Sys2Proof.Machine
open Sys2Proof.Config

/-- The issue stage looks at thread t for an instruction that reads memory in its issue cycle. -/
def State.runReader (s : State) (t cls op : Nat) : State := s.settleWrites.runIns t cls op asIs

def execLd (t : Nat) (s : State) : Host.Outcome State Fault Refusal := s.act (s.runReader t 1 0x00)
def execVld (t : Nat) (s : State) : Host.Outcome State Fault Refusal := s.act (s.runReader t 1 0x02)

/-- GST (R276, R278): `retries` link writes repeated under R538. -/
def execGst (t retries : Nat) (s : State) : Host.Outcome State Fault Refusal :=
  s.act (
    let s0 := s.settleWrites
    let s1 := s.runReader t 1 0x09
    if s1.nextIf ≠ s0.nextIf then
      (match s0.tenantHome t with
       | some q => s1.retryEvt q retries
       | none => s1)
    else s1)

def execDmaSubmit (t : Nat) (s : State) : Host.Outcome State Fault Refusal := s.act (s.runReader t 4 0x00)
def execSigWait (t : Nat) (s : State) : Host.Outcome State Fault Refusal := s.act (s.runReader t 5 0x01)
def execMatLoad (t : Nat) (s : State) : Host.Outcome State Fault Refusal := s.act (s.runReader t 3 0x00)
def execMatDrain (t : Nat) (s : State) : Host.Outcome State Fault Refusal := s.act (s.runReader t 3 0x02)
def execDamperHload (t : Nat) (s : State) : Host.Outcome State Fault Refusal := s.act (s.runReader t 3 0x0C)

end Sys2Proof.Machine
end

