-- ==== Sys2Proof/Machine/Clock.lean ====
section
/-!
DEFINITION. Clock.lean: the mark counter and the cycle counter (R60 to R65, R76) as one core cycle passes, and their
forward moves.
-/
namespace Sys2Proof.Machine
open Sys2Proof.Config

/-- MARKSYNC is sampled: MARKREF is locked and the first pulse after the lock has come (R65, R83). -/
def State.sampling (s : State) : Bool := s.flag F.markrefLock && s.time.synced

/-- The last cycle of a candle, where the counter waits for MARKSYNC (R62). -/
def TimeBase.atEdge (t : TimeBase) : Bool := t.mark % marksPerCandle == marksPerCandle - 1 && t.cyc == 1023

/-- The counter advanced by one cycle of counting. A step to mark 0 of a candle reaches a candle boundary (R59). DESIGN CHOICE
(assumption 128): so does one that no pulse defines, before the first pulse and in HOLDOVER, and a pending MARK_SET takes effect
there (R65, R68). -/
def TimeBase.count (t : TimeBase) : TimeBase :=
  if t.cyc < 1023 then { t with cyc := t.cyc + 1 }
  else { t with mark := (t.mark + 1) % 2 ^ 54, cyc := 0, hold := 0,
                boundary := t.boundary || (t.mark + 1) % marksPerCandle == 0 }

/-- One core cycle passes. The published counts always advance (R63). The counter holds while it absorbs a trim step or
realignment, and at the end of a candle while it waits for MARKSYNC (R62); otherwise it counts. -/
def State.tick (s : State) : State :=
  let t := { s.time with cycle := s.time.cycle + 1 }
  if s.board.off then s
  else if 0 < t.stall then { s with time := { t with stall := t.stall - 1 } }
  else if t.atEdge && s.sampling then { s with time := { t with hold := t.hold + 1 } }
  else { s with time := t.count }

/-- The counter moved forward to `c` cycles after cycle 0 of mark m, past a candle boundary (R62, R65); it never moves
backwards. The boundary lies where its pulse, or the lack of one, puts it, with the trim step `d` in it (R59, R76). -/
def TimeBase.jump (t : TimeBase) (m c : Nat) (d : Int) : TimeBase :=
  { t with mark := (m + c / cyclesPerMark) % 2 ^ 54, cyc := c % cyclesPerMark, hold := 0, stall := 0, boundary := true,
           stepIn := some d }

end Sys2Proof.Machine
end

