-- ==== Sys2Proof/Machine/Time.lean ====
section
/-!
DEFINITION. Time.lean: device time (R57 to R91, R590, R711, R712): MARKSYNC alignment, the time states, pod alignment
by beacons and by PTP.
-/
namespace Sys2Proof.Machine
open Sys2Proof.Config

/-! ## Shared operations -/

/-- A soot entry of the time-keeping kinds, which carry SOURCE 8 (R592). -/
def State.timeSoot (s : State) (kind : Nat) (detail : List Byte) : State := s.soot1 kind 8 0 0 noUnit detail

/-- Entry into a time state; a change sets STATE_EVT, an event of vector 0 (R698, R702). -/
def State.enterTime (s : State) (st : Nat) : State :=
  if s.tstate = st then s else (s.setFld F.tState st).setEvt F.stateEvt 0

/-- The device enters UNFIT from SET or HOLDOVER, with its soot entry (R70; assumption 11). -/
def State.enterUnfit (s : State) (cause : Nat) : State :=
  if s.tstate = tSet ∨ s.tstate = tHoldover then (s.enterTime tUnfit).timeSoot 0x05 (toLE 1 cause) else s

/-- The pod offset e in signed cycles, as POD_OFFSET holds it (R75). -/
def State.podOfs (s : State) : Int := signed 16 (s.fld F.podOffset)

/-- The alignment trim in signed cycles (R59). -/
def State.trimVal (s : State) : Int := signed 16 (s.fld F.trim)

/-- A signed number of cycles saturated at ±32,767. -/
def sat15 (e : Int) : Int := max (-32767) (min 32767 e)

/-- Cycles of the counter past the candle boundary that it expected, or to it (R64). At the end of the candle the held
cycles count. -/
def TimeBase.displacement (t : TimeBase) : Int :=
  let pos := t.mark % marksPerCandle * cyclesPerMark + t.cyc
  if t.atEdge then (t.hold : Int) - 1 - t.stall
  else if 2 * pos < cyclesPerCandle then (pos : Int) - t.stall
  else (pos : Int) - cyclesPerCandle - t.stall

/-- The first mark of the next candle. -/
def TimeBase.nextCandle (t : TimeBase) : Nat := (t.mark / marksPerCandle + 1) * marksPerCandle

/-- Move the candle boundary by `e` cycles: a later boundary holds the counter, an earlier one moves it forward (R62,
R76). -/
def TimeBase.shift (t : TimeBase) (e : Int) : TimeBase :=
  if 0 ≤ e then { t with stall := t.stall + e.toNat }
  else
    let n := t.mark * cyclesPerMark + t.cyc + (-e).toNat
    { t with mark := n / cyclesPerMark % 2 ^ 54, cyc := n % cyclesPerMark }

/-- Realign the counter to a boundary that its pulse put `k` cycles ago (R62): before the new candle it moves forward to
cycle `k` of it; in the new candle it moves forward to that cycle, or holds for the cycles that it runs ahead. -/
def TimeBase.realign (t : TimeBase) (k : Nat) (d : Int) : TimeBase :=
  let pos := t.mark % marksPerCandle * cyclesPerMark + t.cyc
  if t.atEdge || decide (cyclesPerCandle ≤ 2 * pos) then t.jump t.nextCandle k d
  else if k ≤ pos then { t with stall := pos - k }
  else { t with stall := 0 }.shift ((pos : Int) - k)

/-- The pod offset e that the trim of R76 and the limits of R70 and R72 use: a device without an upstream has none (R77). DESIGN CHOICE
(assumption 140): from a TIME_UPSTREAM write that names a port to its 16th measurement, it is still the POD_OFFSET measured before. -/
def State.podErr (s : State) : Int := if s.flag F.upValid then s.podOfs else 0

/-- The pod offset that the trim removes: none on a time root, whose trim stays 0, and none while the trim is frozen (R59,
R76, R712). -/
def State.trimErr (s : State) : Int := if s.flag F.noUpstream then 0 else s.podErr

/-- The accepted MARK_SET that takes effect at a candle boundary of mark `b`: cid and M (R68). -/
def State.setDue (s : State) (b : Nat) : Option (Nat × Nat) :=
  match s.time.setM with
  | some (cid, m, adm) => if adm + 2 ≤ b ∧ s.fenced cid = false then some (cid, m) else none
  | none => none

/-- Change of TIME_TRIM at the candle boundary of mark `b`, in cycles (R76): −e where a MARK_SET takes effect, in SET one
cycle toward TIME_TRIM − e, else none. DEDUCED (assumption 128): the state is that in which the device reaches the boundary, so a
boundary whose pulse relocks it (R72, R85) makes no step. -/
def State.trimStep (s : State) (b : Nat) : Int :=
  if (s.setDue b).isSome then -s.trimErr
  else if s.tstate = tSet then (if 0 < s.trimErr then -1 else if s.trimErr < 0 then 1 else 0)
  else 0

/-- A pulse within the window that relocks the device into SET under R85 or R72, which writes TIME_SET, not TIME_STEP. -/
def State.relocks (s : State) : Bool :=
  (s.time.relock && (s.tstate == tHoldover || s.tstate == tUnfit)) ||
    (s.tstate == tUnfit && decide (s.podErr.natAbs ≤ 256))

/-! ## MARKSYNC -/

/-- What the first pulse after MARKREF returned ends: TIME_HOLDOVER is cleared, and HOLDOVER and UNFIT become SET with a
TIME_SET entry that carries d (R85). -/
def State.endHoldover (s : State) (d : Int) : State :=
  if s.time.relock then
    let s1 := { s.setFld F.timeHoldover 0 with time := { s.time with relock := false } }
    if s.tstate = tHoldover ∨ s.tstate = tUnfit then
      (s1.enterTime tSet).timeSoot 0x06 (toLE 4 (unsigned 32 d))
    else s1
  else s

/-- The first pulse after MARKREF lock following chip reset, whose boundary lies `k` cycles back: the counter moves to the
next candle (R65); where MARKREF was lost before it, it is also the first one after the return (R85). -/
def State.firstPulse (s : State) (d : Int) (k : Nat) : State :=
  { s with time := { s.time.jump s.time.nextCandle k (s.trimStep s.time.nextCandle) with
      synced := true, lastD := 0, pulseGood := true } }.endHoldover d

/-- A pulse within 512 cycles of the expected boundary, whose boundary lies `k` cycles back (R64, R85). -/
def State.goodPulse (s : State) (d : Int) (k : Nat) : State :=
  let s1 := if d = 0 then s else s.setFld F.timeStep (satInc 255 (s.fld F.timeStep))
  let s2 := if d = 0 ∨ s.relocks = true then s1 else s1.timeSoot 0x01 (toLE 4 (unsigned 32 d))
  { s2 with time := { s2.time.realign k (s.trimStep s.time.nextCandle) with lastD := d, pulseGood := true } }.endHoldover d

/-- A pulse more than 512 cycles off is ignored, counted and logged. Past the boundary it belongs to that boundary, before
it to the one to come: a second bad one in a row puts the device in UNFIT (R70). The first pulse after MARKREF returned
leaves the device in UNFIT (R64, R85). -/
def State.slippedPulse (s : State) (d : Int) : State :=
  let s1 := (s.setFld F.syncSlip (satInc 255 (s.fld F.syncSlip))).timeSoot 0x02 (toLE 4 (unsigned 32 d))
  let past := decide (0 < d)
  let s2 := { s1 with time := { s1.time with
    candleBad := s1.time.candleBad || !past, badLast := s1.time.badLast || past, lastD := d, relock := false } }
  if s.time.relock || (past && s.time.badPrev) then s2.enterUnfit 2 else s2

/-- The boundary that the pulse sampled at core cycle `at` defines has come, `k` cycles ago (R59, R64, R65, R85). -/
def State.pulse (s : State) (k : Nat) : State :=
  let d := s.time.displacement - k - s.trimStep s.time.nextCandle
  if !s.time.synced then s.firstPulse d k
  else if d.natAbs ≤ 512 then s.goodPulse d k
  else s.slippedPulse d

/-- Take the sampled pulses whose delay by the trim in force, the step of their own boundary included, is over (R59, R76).
A negative trim puts the boundary before the pulse that defines it: the counter then holds until the pulse and moves to
the cycle that it missed (assumption 102). -/
def State.duePulses (s : State) : State :=
  let due (p : Nat) : Int := p + s.trimVal + s.trimStep s.time.nextCandle
  match s.time.pulses with
  | [] => s
  | p :: r =>
    if due p ≤ s.now then
      { s with time := { s.time with pulses := r } }.pulse ((s.now : Int) - due p).toNat
    else s

/-- MARKSYNC_PULSE (R59, R64, R65, R83, R85): the device samples MARKSYNC high. Ignored while MARKREF is not locked. -/
def execMarksyncPulse (s : State) : Host.Outcome State Fault Refusal :=
  s.act (
    if !s.flag F.markrefLock then s
    else { s with time := { s.time with pulses := s.time.pulses ++ [s.now] } }.duePulses)

/-- MARKSYNC_MISS (R62, R64): due when no pulse has defined a boundary within the 512 cycles after the expected one, trim
step included. The counter jumps to cycle 512 of mark 0 of the new candle. -/
def execMarksyncMiss (s : State) : Host.Outcome State Fault Refusal :=
  s.act (
    if s.sampling && s.time.atEdge && decide (513 + s.trimStep s.time.nextCandle ≤ (s.time.hold : Int)) then
      let s1 := (s.setFld F.syncMiss (satInc 255 (s.fld F.syncMiss))).timeSoot 0x03 []
      { s1 with time := { s1.time.jump s1.time.nextCandle 512 (s.trimStep s.time.nextCandle) with candleBad := true, pulseGood := false } }
    else s)

/-! ## CANDLE_BOUNDARY -/

/-- The trim step of the boundary just reached: the one it has in it, or, where no pulse or lack of one put it there, the one
that the counter still has to absorb (R76). -/
def State.boundaryStep (s : State) : Int := s.time.stepIn.getD (s.trimStep s.time.mark)

/-- The counter absorbs the trim step of a boundary that does not have it yet. -/
def TimeBase.absorb (t : TimeBase) (d : Int) : TimeBase := if t.stepIn.isSome then t else t.shift d

/-- A MARK_SET takes effect at this boundary (R68, R76): the counter becomes M at the boundary, the command completes at
cycle 0 of mark M, the time state becomes SET, and the pod offset leaves the trim. -/
def State.markSetLoad (s : State) (cid m : Nat) : State :=
  let d := s.boundaryStep
  let b := s.time
  let s1 := s.setFld F.trim (unsigned 16 (s.trimVal + d))
  let s2 := { s1 with time := { b with mark := m, cyc := 0, setM := none } }
  let s3 := (s2.enterTime tSet).finish cid stOk [] false
  let t := { s3.time with mark := (m + b.mark % marksPerCandle) % 2 ^ 54, cyc := b.cyc }
  { s3 with time := t.absorb d }

/-- In SET the trim moves one cycle toward TIME_TRIM − e (R76). -/
def State.trimAdjust (s : State) : State :=
  let d := s.boundaryStep
  if d = 0 then s
  else
    let s1 := s.setFld F.trim (unsigned 16 (s.trimVal + d))
    { s1 with time := s1.time.absorb d }

/-- Alignment at a candle boundary: a MARK_SET that is due, or else the trim step (R68, R76). -/
def State.alignBoundary (s : State) : State :=
  match s.setDue s.time.mark with
  | some (cid, m) => s.markSetLoad cid m
  | none => s.trimAdjust

/-- Relock of R72: from UNFIT at a boundary defined by a pulse within the window, with MARKREF locked and the pod offset
within 256 cycles. -/
def State.candleRelock (s : State) : State :=
  if s.flag F.markrefLock = true ∧ s.time.pulseGood = true ∧ s.podErr.natAbs ≤ 256 then
    ((s.setFld F.timeHoldover 0).enterTime tSet).timeSoot 0x06 (toLE 4 (unsigned 32 s.time.lastD))
  else s

/-- What a candle boundary makes of its pulse: an UNFIT device may relock (R72); two consecutive boundaries with a miss or a
slip put another one in UNFIT (R70). -/
def State.pulseJudge (s : State) : State :=
  let s1 := if s.tstate = tUnfit then s.candleRelock
    else if s.time.candleBad && s.time.badLast then s.enterUnfit 2 else s
  s1.modTime fun t => { t with
    badPrev := s.time.badLast, badLast := s.time.candleBad, candleBad := false, pulseGood := false, stepIn := none }

/-- DOWN_CANDLES of a port counts the consecutive boundaries at which it is down (R565). -/
def State.countDown (s : State) (n : Nat) : State :=
  s.setFld (F.hDownCandles n) (if s.portDown n then satInc 255 (s.fld (F.hDownCandles n)) else 0)

/-- The once-per-candle case readings of partition p; one above 95 °C is a partition fault (R540, R593). -/
def State.memTemps (s : State) (p : Nat) : Nat → List Nat → State
  | _, [] => s
  | d, t :: r =>
    let s1 := s.setFld (F.thermMem p d) t
    let s2 := if 95 * 16 < t then
        (s1.soot1 0x50 p 0 0 p (toLE 1 (d + 1) ++ toLE 2 t)).triggerReset p 5 else s1
    s2.memTemps p (d + 1) r

/-- The new power factors take effect (R668): the factors chosen 32 marks before the boundary. -/
def State.factorApply (s : State) (p : Nat) : State :=
  if s.board.capBudget then s.setFld (F.factor p) (s.part p).pendF else s

/-- One interface of a split Ethernet port is DOWN while the other is UP (R588). -/
def State.halfDown (s : State) (k : Nat) : Bool :=
  s.flag (F.lkMode k) && s.flag (F.lkSplit k) && s.linkUp k && !(s.halfUp k 0 && s.halfUp k 1)

/-- A DOWN port with ENABLE set retrains at each candle boundary (R582). -/
def State.retryDown (s : State) (k : Nat) : State :=
  if s.flag (F.lkEnable k) && (s.lkState k == 0 || s.halfDown k) && (s.link k).retrainMark == none && (s.link k).retrainFrom == none then
    s.setLink k { s.link k with retrainMark := some s.time.mark, byWrite := false }
  else s

/-- CANDLE_BOUNDARY (R59, R68, R70, R72, R76, R540, R565, R582, R603, R668), due once for each boundary reached. -/
def execCandleBoundary (memTemps : List Nat) (s : State) : Host.Outcome State Fault Refusal :=
  s.act (
    if s.time.boundary then
      let s0 := { s with time := { s.time with boundary := false } }
      let s2 := s0.alignBoundary.pulseJudge
      let s3 := allParts.foldl (fun t p => t.factorApply p) s2
      let s4 := s3.modBoard fun b => { b with capBudget := false }
      let s5 := (s4.countDown 0).countDown 1
      let s6 := allParts.foldl (fun t p => t.memTemps p 0 ((memTemps.drop (6 * p)).take 6)) s5
      let s7 := allParts.foldl (fun t p => t.setFld (F.hangs p) 0) s6
      let s8 := { s7 with clusters := (List.range 128).foldl (fun c i =>
        tset Cluster.dflt c i { tget Cluster.dflt c i with freezes := 0 }) s7.clusters }
      allParts.foldl (fun t k => t.retryDown k) s8
    else s)

/-! ## MARKREF -/

/-- MARKREF_LOSS (R81, R82): 32 cycles after the last edge received. DESIGN CHOICE (assumption 140): pulses that the trim still delays then
are dropped, as MARKSYNC is ignored while MARKREF is not locked (R83). -/
def execMarkrefLoss (s : State) : Host.Outcome State Fault Refusal :=
  s.act (
    if s.flag F.markrefLock then
      let s0 := { s with time := { s.time with pulses := [] } }
      let s1 := (s0.setFld F.markrefLock 0).setFld F.timeHoldover 1
      let s2 := (s1.timeSoot 0x04 (toLE 8 (s.stamp - 32))).raise 0
      if s.tstate = tSet then
        { s2.enterTime tHoldover with time := { s2.time with holdSince := s2.time.cycle } }
      else s2
    else s)

/-- MARKREF_LOCK (R65, R84): the core clock runs on MARKREF and MARKSYNC is sampled; after a loss, the next pulse is the
first one after MARKREF returned (R85). -/
def execMarkrefLock (s : State) : Host.Outcome State Fault Refusal :=
  s.act (
    if s.flag F.markrefLock then s
    else { s.setFld F.markrefLock 1 with
      time := { s.time with relock := s.flag F.timeHoldover } })

/-- HOLDOVER_EXPIRY (R70): HOLDOVER has lasted 65,536 marks. -/
def execHoldoverExpiry (s : State) : Host.Outcome State Fault Refusal :=
  s.act (
    if s.tstate = tHoldover ∧ s.time.holdSince + marksPerCandle * cyclesPerMark ≤ s.time.cycle then s.enterUnfit 1
    else s)

/-! ## Pod alignment -/

/-- BEACON_SEND (R73, R577): each Flue-mode port that is up sends a beacon at mark 0 of every 256-mark interval. Where
it has to wait for the channel, its stamps are those of its first transmitted bit. DESIGN CHOICE (assumption 140): of the 256-mark
boundaries that a jump forward passes over none is sent, only that of the mark it lands on. -/
def execBeaconSend (k : Nat) (s : State) : Host.Outcome State Fault Refusal :=
  s.act (
    let l := s.link k
    if s.time.mark % 256 = 0 ∧ s.flag (F.lkMode k) = false ∧ s.linkUp k = true ∧ l.sentBeacon ≠ s.time.mark + 1 then
      (s.setLink k { l with sentBeacon := s.time.mark + 1 }).queueMsg k ⟨3, 2, 0, 0, 8, [s.beaconMsg k], false, true⟩
    else s)

/-- A measured pod offset: averaged over the last 16 beacons once 16 have come (R75, R712), with its warning at 8 cycles
and UNFIT beyond 256 (R70). The average is rounded toward 0 (DESIGN CHOICE, assumption 103). -/
def State.measure (s : State) (e : Int) : State :=
  let l := (e :: s.time.beacons).take 16
  let s1 := { s with time := { s.time with beacons := l } }
  if l.length < 16 then s1
  else
    let a := sat15 (Int.tdiv (l.foldl (· + ·) 0) 16)
    let s2 := (s1.setFld F.podOffset (unsigned 16 a)).setFld F.alignWarn (b2n (decide (8 < a.natAbs)))
    if 256 < a.natAbs then s2.enterUnfit 3 else s2

/-- BEACON (R74, R75, R577, R578): a beacon received on port k, whose CRC holds, updates its one-way delay, and the pod offset when the
port is the time upstream. A beacon that echoes none of this port's gives no round trip. Half of an odd round trip is rounded down
(DESIGN CHOICE, assumption 103). -/
def execBeacon (k : Nat) (msg : List Byte) (s : State) : Host.Outcome State Fault Refusal :=
  s.act (
    let tx := leAt msg 8 8
    let echo := leAt msg 16 8
    if s.flag (F.lkMode k) || !s.linkUp k || !mgmtOk msg || leAt msg 0 1 != 0 then s
    else
      let rt : Int := (s.stamp : Int) - echo - leAt msg 24 4
      let s1 := s.setLink k { s.link k with lastTx := tx, lastRx := s.time.cycle, heard := true }
      let s2 := if echo = 0 ∨ rt < 0 then s1 else s1.setFld (F.lkDelay k) ((rt / 2).toNat % 2 ^ 32)
      if s2.flag F.upValid && s2.fld F.upPort == k && !s2.flag F.noUpstream then
        s2.measure ((tx : Int) + s2.fld (F.lkDelay k) - s.stamp)
      else s2)

/-- TIME_UPSTREAM_WRITE (R75, R698, R712): either PF names the upstream; the write clears TIME_NO_UPSTREAM, and naming a
port restarts the measurement. -/
def execTimeUpstreamWrite (port : Nat) (v : Word32) (s : State) : Host.Outcome State Fault Refusal :=
  s.actHost port 0 (
    let s1 := ((s.setFld F.upPort (bits v.toNat 0 3)).setFld F.upHalf (bits v.toNat 3 1)).setFld F.upValid
      (bits v.toNat 4 1)
    let s2 := s1.setFld F.noUpstream 0
    if bit v.toNat 4 then { s2 with time := { s2.time with beacons := [], ptpSync := none } } else s2)

/-! ## PTP (R79, R590) -/

/-- The Ethernet port k is the time receiver of the upstream, and the message is of the configured domain and time
transmitter. -/
def State.ptpFor (s : State) (k domain master : Nat) : Bool :=
  s.flag (F.lkMode k) && s.linkUp k && s.flag F.upValid && s.fld F.upPort == k && !s.flag F.noUpstream &&
    domain == s.fld F.ethPtpDomain && master == s.fld F.ptpMasterLo + 2 ^ 64 * s.fld F.ptpMasterHi

/-- Local time in PTP nanoseconds: a core cycle is 1.25 ns and a mark 1,280 ns from PTP_EPOCH (R79). Both
this and the way back in DELAY_RESP round down (DESIGN CHOICE, assumption 103). -/
def State.ptpNow (s : State) : Nat := s.fld F.ptpEpoch + s.stamp * 5 / 4

/-- SYNC: the arrival t2 of a two-step Sync is stamped at the port. -/
def execSync (k domain seq master : Nat) (s : State) : Host.Outcome State Fault Refusal :=
  s.act (
    if s.ptpFor k domain master then
      { s with time := { s.time with ptpSync := some (seq, 0, s.ptpNow, 0) } }
    else s)

/-- FOLLOW_UP: t1 of the Sync with the same sequence id; the receiver sends a Delay_Req, stamped t3. -/
def execFollowUp (k domain seq master t1 : Nat) (s : State) : Host.Outcome State Fault Refusal :=
  s.act (
    match s.time.ptpSync with
    | some (q, _, t2, _) =>
      if s.ptpFor k domain master && q == seq then
        { s with time := { s.time with ptpSync := some (q, t1, t2, s.ptpNow) } }.emit (.delayReq k seq)
      else s
    | none => s)

/-- DELAY_RESP: with t4 the mean path delay is ((t2 − t1) + (t4 − t3)) / 2, and the offset of the transmitter's time from
the local time, in core cycles, is measured (end-to-end delay mechanism). -/
def execDelayResp (k domain seq master t4 : Nat) (s : State) : Host.Outcome State Fault Refusal :=
  s.act (
    match s.time.ptpSync with
    | some (q, t1, t2, t3) =>
      if s.ptpFor k domain master && q == seq && t3 != 0 then
        let delay : Int := ((t2 : Int) - t1 + (t4 - t3)) / 2
        let ofs : Int := (t1 : Int) + delay - t2
        { s with time := { s.time with ptpSync := none } }.measure (ofs * 4 / 5)
      else s
    | none => s)

/-- ANNOUNCE: accepted; no best-master-clock algorithm runs, so nothing changes (R590). -/
def execAnnounce (_k _domain _master : Nat) (s : State) : Host.Outcome State Fault Refusal := .next s

end Sys2Proof.Machine
end

