-- ==== Sys2Proof/Machine/Translation.lean ====
section
/-!
DEFINITION. Translation.lean: page-table loads (R541 to R546) and the CXL ports (R550, R551, R472, R634).
-/
namespace Sys2Proof.Machine
open Sys2Proof.Config

/-! ## Page tables (R541, R545) -/

/-- Entries of the translation store (R543). -/
def storeEntries : Nat := 262144

/-- A range lies wholly in one mapped range of R52. -/
def inMap (a n : Nat) : Bool :=
  decide (a + n ≤ gddrEnd) || (decide (windowBase ≤ a) && decide (a + n ≤ windowEnd)) ||
    (decide (cxlBase ≤ a) && decide (a + n ≤ cxlEnd)) || (decide (hostBase ≤ a) && decide (a + n ≤ hostEnd))

/-- A mapping of the pages [a, a + n): it reaches R52's ranges only, and, in GDDR7, groups of class k's mask (R525, R545). -/
def State.mapOk (s : State) (k a n : Nat) : Bool :=
  inMap a n && (match gddrPart a with
    | some p =>
      let m := s.fld (F.tcGroups p k)
      if n = unit2M then bit m (a % gddrPerPart / unit2M % 4) else m == 15
    | none => true)

/-- What one table entry gives: mappings, level-2 tables read, and whether it breaks R545. -/
structure PtPart where
  maps : List Xlat
  bad  : Bool
deriving DecidableEq, Repr

/-- A level-2 entry w for virtual page vpn (R541). -/
def State.level2 (s : State) (n k vpn w : Nat) : PtPart :=
  if !bit w 0 then ⟨[], false⟩
  else
    let pa := bits w 21 27 * unit2M
    if bits w 3 18 ≠ 0 ∨ bits w 48 16 ≠ 0 ∨ s.mapOk k pa unit2M = false then ⟨[], true⟩
    else ⟨[{ ctx := n, vpn := vpn, pages := 1, ppn := bits w 21 27, rd := bit w 1, wr := bit w 2 }], false⟩

/-- A valid level-1 entry w that names a level-2 table. -/
def isTable (w : Nat) : Bool := bit w 0 && !bit w 3

/-- A level-1 entry w, entry i of its table (R541). -/
def State.level1 (s : State) (n k i w : Nat) : PtPart :=
  if !bit w 0 then ⟨[], false⟩
  else if bits w 4 8 ≠ 0 ∨ bits w 48 16 ≠ 0 then ⟨[], true⟩
  else if bit w 3 then
    let pa := bits w 30 18 * 2 ^ 30
    if bits w 12 18 ≠ 0 ∨ s.mapOk k pa (2 ^ 30) = false then ⟨[], true⟩
    else ⟨[{ ctx := n, vpn := 512 * i, pages := 512, ppn := bits w 30 18 * 512, rd := bit w 1, wr := bit w 2 }], false⟩
  else if bit w 1 ∨ bit w 2 ∨ gddrEnd ≤ bits w 12 36 * 4096 then ⟨[], true⟩
  else
    let base := bits w 12 36 * 4096
    let l := (List.range 512).map fun j => s.level2 n k (512 * i + j) (s.readLE (base + 8 * j) 8)
    ⟨l.flatMap (·.maps), l.any (·.bad)⟩

/-- The valid entries of a level-1 table at `root`. -/
def State.rootEntries (s : State) (root : Nat) : List (Nat × Nat) :=
  (((List.range 262144).map fun i => (i, s.readLE (root + 8 * i) 8))).filter fun e => bit e.2 0

/-- The tables of a context as the words stand now: their mappings, the number of level-2 tables, and whether R545 fails. -/
def State.readTables (s : State) (l : PtLoad) : List Xlat × Nat × Bool :=
  let root := bits l.root 21 27 * unit2M
  if gddrEnd ≤ root then ([], 0, true)
  else
    let es := s.rootEntries root
    let parts := es.map fun e => s.level1 l.ctx (bits l.root 1 2) e.1 e.2
    (parts.flatMap (·.maps), (es.filter fun e => isTable e.2).length, parts.any (·.bad))

/-- CTX_PT_ROOT_WRITE (R106, R544). -/
def execCtxPtRootWrite (port n : Nat) (v : Word) (s : State) : Host.Outcome State Fault Refusal :=
  s.actHost port 0 (
    if !s.tableOpen port n then s
    else if s.flag (F.mmuLoading n) then s.configErr n
    else
      let off := F.ctxRec n + 0x28
      let s1 := s.setReg off (v &&& BitVec.ofNat 64 (mask 0 3 + mask 21 27))
      if s1.flag (F.ptValid n) then
        { s1.setFld (F.mmuLoading n) 1 with
          loads := s1.loads ++ [{ ctx := n, root := (s1.reg off).toNat, start := s.time.mark + 1 }] }
      else (s1.dropXlat n).watchCheckpoints n)

/-- The load of a context ends (R544, R545): new translations replace the old ones everywhere, or none are left. -/
def State.endLoad (s : State) (l : PtLoad) (maps : List Xlat) (bad : Bool) : State :=
  let n := l.ctx
  let s1 := (s.dropXlat n).setFld (F.mmuLoading n) 0
  if bad then (s1.hwSet (F.mmuPtErr n)).setFld (F.mmuLoaded n) 0
  else if storeEntries < s1.xlat.length + maps.length then (s1.hwSet (F.mmuPtFull n)).setFld (F.mmuLoaded n) 0
  else ({ s1 with xlat := s1.xlat ++ maps }.setFld (F.mmuEntries n) maps.length).setFld (F.mmuLoaded n) 1

/-- Reads of the tables of a load: uses of the lines of the L2 that hold them (R534). -/
def State.useTables (s : State) (l : PtLoad) : State :=
  let root := bits l.root 21 27 * unit2M
  (s.rootEntries root).foldl (fun a e => if isTable e.2 then a.l2Use (bits e.2 12 36 * 4096) 4096 else a) (s.l2Use root unit2M)

/-- PT_LOAD_COMPLETE (R544): the oldest load ends 32 + ceil((32,768 + 64 × T2) / 600) marks after its start. The next one starts
at that mark at the earliest. A read that GDDR7 does not give faults the context (R537). DESIGN CHOICE (assumption 137): the load fails
then with PT_ERR. -/
def execPtLoadComplete (a : Nat) (m : Meet) (s : State) : Host.Outcome State Fault Refusal :=
  s.act (
    match s.loads with
    | l :: r =>
      let q := s.readTables l
      let fin := l.start + 32 + cdiv (32768 + 64 * q.2.1) 600
      if fin ≤ s.time.mark then
        let rest := match r with
          | a :: o => { a with start := Nat.max a.start fin } :: o
          | [] => []
        let bad := m.err.isSome && (gddrPart a).isSome
        let s1 := ({ s with loads := rest }.useTables l).physMeets l.ctx a 8 { m with err := if bad then m.err else none }
        let s2 := (s1.endLoad l q.1 (q.2.2 || bad)).watchCheckpoints l.ctx
        if bad then s2.faultCtx l.ctx stFaultContext else s2
      else s
    | [] => s)

/-! ## CXL ports (R550, R551) -/

/-- Rates and widths of a CXL link (R549): 8 to 64 GT/s, ×16, ×8 and ×4. -/
def cxlLinkOk (rate width : Nat) : Bool := decide (3 ≤ rate) && decide (rate ≤ 6) && [4, 8, 16].contains width

/-- CXL_LINK_UP (R549 to R551): at a rate and a width that the port supports the decoder is programmed; a rate below 64 GT/s or a width
below ×16 is DEGRADED. -/
def execCxlLinkUp (q rate width cap : Nat) (s : State) : Host.Outcome State Fault Refusal :=
  s.act (
    let was := s.flag (F.cxlUp q)
    let s1 := ((((s.setFld (F.cxlUp q) 1).setFld (F.cxlRate q) rate).setFld (F.cxlWidth q) width).setFld (F.cxlDegraded q)
      (b2n (decide (rate < 6) || decide (width < 16)))).setFld (F.cxlCap q) (Nat.min cap 1048576)
    if cxlLinkOk rate width = false then s else if was then s1 else s1.raise 7)

/-- Copies that a port q going down ends: a running variant copy abandons its publication (R472), and a running checkpoint into
the port's range faults (R634). -/
def State.cxlLost (s : State) (q : Nat) : State :=
  let pubs := (s.openCmds opPublish).filter fun c => c.started && s.jobs.any fun j => j.cid == c.cid && j.variant == some q
  let s1 := pubs.foldl (fun a c => a.abandon c.cid false) s
  let cks := (s1.openCmds opCheckpoint).filter fun c => c.started &&
    (rangePieces (c.fld 16 8) c.bytes).any fun e => match s.xlatTable c.ctx e.1 with
      | some x => (cxlOf (x.pa e.1)).map (·.1) == some q
      | none => false
  cks.foldl (fun a c => a.modCmd c.cid fun d => { d with faulted := true }) s1

/-- CXL_LINK_DOWN (R551, R54): UP returns to 0, an event of vector 7. -/
def execCxlLinkDown (q : Nat) (s : State) : Host.Outcome State Fault Refusal :=
  s.act (
    if s.flag (F.cxlUp q) then
      let s1 := ((((s.setFld (F.cxlUp q) 0).setFld (F.cxlRate q) 0).setFld (F.cxlWidth q) 0).setFld (F.cxlDegraded q) 0).setFld
        (F.cxlCap q) 0
      (s1.raise 7).cxlLost q
    else s)

end Sys2Proof.Machine
end

