-- ==== Sys2Proof/Machine/Registers.lean ====
section
/-!
DEFINITION. Registers.lean: host writes to registers (R10 to R13, R688 to R710) with every rule that ignores one (R106,
R247, R353, R355, R372, R439, R440, R454, R456, R486, R528, R595, R597, R669, R696, R705, R706, R710), the event enables
(R703), the latched reads of time (R690), the MSI-X tables (R560) and the staging window (R648). A write that reaches a
register which a row of its own describes is given to that row's meaning.
-/
namespace Sys2Proof.Machine
open Sys2Proof.Config

/-! ## EVT_EN and latched reads (R690, R703) -/

/-- The enables of port n become `x`; a bit newly set whose CAUSE bit is set signals its vector once (R703). -/
def State.setEnables (s : State) (n x : Nat) : State :=
  let fresh := (List.range 16).filter fun v => bit x v && !bit (s.fld (F.evtEn n)) v && bit (s.fld (F.evtCause n)) v
  fresh.foldl (fun (a : State) v => a.msix n 0 v) (s.setFld (F.evtEn n) x)

/-- EVT_EN_WRITE (R701, R703): the high half holds reserved bits only. -/
def execEvtEnWrite (port n size : Nat) (hi : Bool) (v : Word) (s : State) : Host.Outcome State Fault Refusal :=
  s.actHost port 0 (if (size = 8 ∨ size = 4) ∧ !(hi && size == 4) then s.setEnables n (bits v.toNat 0 16) else s)

def latched (l : List (Nat × Word32)) (port : Nat) : Option Word32 := tfind l port

/-- 4 bytes at `off` as the access codes give them: the stored word's half; write-only fields are not stored and read 0 (R10). -/
def State.regHalf (s : State) (off : Nat) : Nat :=
  match regDesc off with
  | some d => bits (s.reg d.base).toNat (8 * (off - d.base)) 32
  | none => 0

/-- 4 bytes at `o` of the MSI-X table of a function: a vector's mask bit is 1 after a reset of the port (R560). -/
def State.msixHalf (s : State) (port fn o : Nat) : Nat :=
  ((tfind (s.host port).table (2 ^ 20 * fn + o)).getD (if o % 16 = 12 then 1 else 0)).toNat

/-- 4 bytes at `o` of the pending-bit array of a function (R695). -/
def State.pbaHalf (s : State) (port fn o : Nat) : Nat :=
  sumOf ((List.range 32).map fun i => if (s.host port).pend.contains (fn, 8 * o + i) then 2 ^ i else 0)

/-- 4 bytes of TIME_NOW and MARK_NOW (R60, R61, R690): the high half is the one latched for the port, if there is one. -/
def State.timeHalf (s : State) (port off : Nat) : Nat :=
  if off = 0x500 then s.stamp % 2 ^ 32
  else if off = 0x504 then ((latched s.time.latchTime port).getD (BitVec.ofNat 32 (s.stamp / 2 ^ 32))).toNat
  else if off = 0x508 then s.time.mark % 2 ^ 54 % 2 ^ 32
  else ((latched s.time.latchMark port).getD (BitVec.ofNat 32 (s.time.mark % 2 ^ 54 / 2 ^ 32))).toNat

/-- A 4-byte read of BAR0 of a PF (R690, R691, R693, R695): CTX_OWNER answers both PFs, and every other register of a context
record reads 0 to a PF that does not own the context. -/
def State.readBar0 (s : State) (port off : Nat) : Nat :=
  if 0x500 ≤ off ∧ off < 0x510 then s.timeHalf port off
  else if 0x2000000 ≤ off ∧ off < 0x2400000 then
    (if s.fld F.stage = bgRecovery then ofLE (s.board.stagingRead (off - 0x2000000) 4) else 0)
  else if 0x3000000 ≤ off ∧ off < 0x3008000 then s.msixHalf port 0 (off - 0x3000000)
  else if 0x3008000 ≤ off ∧ off < 0x3008100 then s.pbaHalf port 0 (off - 0x3008000)
  else
    match ctxOff off with
    | some (n, o) => if o < 4 ∨ s.pfOwns port n = true then s.regHalf off else 0
    | none => s.regHalf off

/-- A 4-byte read of BAR0 of a VF (R557, R695). -/
def State.readVf (s : State) (port fn off : Nat) : Nat :=
  if off < 0x400 then s.msixHalf port fn off
  else if 0x800 ≤ off ∧ off < 0x808 then s.pbaHalf port fn (off - 0x800) else 0

/-- A 4-byte read of a doorbell page (R111, R112): 0 to a function that does not own the context. -/
def State.readPage (s : State) (port fn off : Nat) : Nat :=
  let n := off / 0x1000
  let o := off % 0x1000
  let c := s.ctx n
  if off < 0x1000000 ∧ s.fnOwns port fn n = true then
    (if o = 0x00C then c.sqHead
     else if o = 0x010 then c.emTail
     else if o = 0x014 then
       s.cstate n + 8 * b2n (s.resetting n) + 16 * b2n c.doorbellErr + 32 * b2n c.lostPost
     else 0)
  else 0

/-- 4 bytes that a read by function fn of a port returns. -/
def State.readHalf (s : State) (port fn bar off : Nat) : Nat :=
  if bar = 2 then s.readPage port fn off
  else if fn = 0 then s.readBar0 port off else s.readVf port fn off

/-- What a read leaves latched for the port (R690): a 4-byte read of a low half latches the high half, and the next 4-byte read
of the high half uses the latch up. -/
def State.latch (s : State) (port off : Nat) : State :=
  s.modTime fun t =>
    if off = 0x500 then { t with latchTime := tput t.latchTime port (BitVec.ofNat 32 (s.stamp / 2 ^ 32)) }
    else if off = 0x504 then { t with latchTime := tdel t.latchTime port }
    else if off = 0x508 then { t with latchMark := tput t.latchMark port (BitVec.ofNat 32 (s.time.mark % 2 ^ 54 / 2 ^ 32)) }
    else if off = 0x50C then { t with latchMark := tdel t.latchMark port }
    else t

/-- LOW_HALF_READ (R688 to R693, R111, R112): a read of BAR0 or BAR2 by a function. A read of 8 bytes gives both halves as they
stand in one core cycle; one that is not naturally aligned, or of another size, completes with Completer Abort, and one to a function
that takes no memory request with Unsupported Request (R556). -/
def execLowHalfRead (port fn bar off size : Nat) (s : State) : Host.Outcome State Fault Refusal :=
  s.act (
    if s.reaches port fn = false then (s.aerErr port 20).emit (.readUr port fn bar off)
    else if (size ≠ 4 ∧ size ≠ 8) ∨ off % size ≠ 0 then
      (if fn = 0 then s.aerErr port 15 else s).emit (.readAbort port fn bar off)
    else if size = 4 then
      (if bar = 0 ∧ fn = 0 then s.latch port off else s).emit (.readData port fn bar off (s.readHalf port fn bar off))
    else
      let u := if bar = 0 ∧ fn = 0 ∧ 0x500 ≤ off ∧ off < 0x510 then
          { s with time := { s.time with latchTime := [], latchMark := [] } } else s
      s.emit (.readData port fn bar off (u.readHalf port fn bar off + 2 ^ 32 * u.readHalf port fn bar (off + 4))))

/-! ## Context table (R704 to R706) -/

/-- Write to the register at record offset `o` of context n: `new` is the word its access codes give, `raw` the bits
written. -/
def State.writeCtx (s : State) (port n o : Nat) (raw new : Word) : State :=
  let off := F.ctxRec n + o
  if o = 0x00 then settled s (execCtxOwnerWrite port n (raw.setWidth 32) s)
  else if o = 0x04 then (if isMgmt n || !s.tableOpen port n then s else s.setReg off new)
  else if o = 0x08 then
    (if !s.pfOwns port n then s
     else
      match bits raw.toNat 0 3 with
      | 0 => s
      | 1 => settled s (execStart port n s)
      | 2 => settled s (execStop port n s)
      | 4 => settled s (execReset port n s)
      | _ => s.configErr n)
  else if o = 0x0C ∨ o = 0x34 then (if s.pfOwns port n then s.setReg off new else s)
  else if o = 0x28 then settled s (execCtxPtRootWrite port n new s)
  else if !s.tableOpen port n then s
  else if o = 0x30 then
    (if s.fld (F.cFunc n) = 0 ∧ bits new.toNat 0 11 < 16 then s.configErr n else s.setReg off new)
  else s.setReg off new

/-! ## Partition blocks (R707) -/

/-- Partition p is Lantern, or a PARTITION_ROLE that makes it Lantern is pending (R372, R454). -/
def State.lanternSoon (s : State) (p : Nat) : Bool :=
  s.role p == rLantern || (s.flag (F.pending p) && s.fld (F.pendingRole p) == rLantern)

def State.anyLantern (s : State) : Bool := allParts.any s.lanternSoon

/-- An accepted, incomplete collective has a member on p. -/
def State.collsOn (s : State) (p : Nat) : Bool := s.colls.any fun c => c.locals.any fun x => x.p == p

/-- Boundary marks of the frames of p for which the ledger holds a placed chunk: of the frames to come (R349). -/
def State.ledgerMarks (s : State) (p : Nat) : List Nat :=
  ((s.reqs.filter fun r => r.2.part == p).flatMap fun r => r.2.placed.map fun c => c.1).filter fun b =>
    (s.lastBoundary p).all fun l => decide (l < b)

/-- Largest ledger entry of p over the frames (R349). -/
def State.ledgerMax (s : State) (p : Nat) : Nat := maxOf ((s.ledgerMarks p).map fun k => s.ledger p k)

/-- LANTERN_BUDGET (R353, R355): in force from the next boundary of p. -/
def State.writeBudget (s : State) (p : Nat) (new : Word) : State :=
  let g := guarFig new.toNat (s.fld (F.factor p))
  let h := s.guarHeld p
  if g.pos < h.pos + s.ledgerMax p ∨ g.seqs < h.seqs ∨ g.pages < h.pages then s.setEvt (F.budgetErr p) 10
  else
    (s.setReg (F.pb p 0x100) new).modPart p fun x =>
      { x with nextBudget := some (new.toNat, (s.reg (F.pb p 0x108)).toNat) }

/-- LANTERN_CTRL (R353, R355): likewise. -/
def State.writeLanternCtrl (s : State) (p : Nat) (old new : Word) : State :=
  let c := chunkOf new.toNat
  let placed := !(s.ledgerMarks p).isEmpty
  if c = 0 ∨ c % 64 ≠ 0 ∨ (c ≠ chunkOf old.toNat ∧ placed) then s.setEvt (F.budgetErr p) 10
  else
    (s.setReg (F.pb p 0x108) new).modPart p fun x =>
      { x with nextBudget := some ((s.reg (F.pb p 0x100)).toNat, new.toNat) }

def disjoint (a b : Nat × Nat) : Bool := decide (a.1 + a.2 ≤ b.1) || decide (b.1 + b.2 ≤ a.1) || a.2 == 0 || b.2 == 0

def allDisjoint : List (Nat × Nat) → Bool
  | [] => true
  | a :: r => r.all (disjoint a) && allDisjoint r

/-- The conditions of R440 hold for the valid regions of p. -/
def State.regionsOk (s : State) (p : Nat) : Bool :=
  let vs := s.validRegions p
  let halves := vs.flatMap fun i => [(s.fld (F.crPaA p i), s.fld (F.crSize p i)), (s.fld (F.crPaB p i), s.fld (F.crSize p i))]
  let vas := vs.flatMap fun i => [(s.fld (F.crLiveVa p i), s.fld (F.crSize p i)), (s.fld (F.crShadowVa p i), s.fld (F.crSize p i))]
  halves.all (fun h => decide (h.1 + h.2 ≤ 12288)) && allDisjoint halves && allDisjoint vas

/-- A write to a learning register (R439, R440); REVERT is the REVERT row's, and a write whose REVERT is ignored is ignored whole
(R447). -/
def State.writeHearth (s : State) (port p off : Nat) (raw new : Word) : State :=
  let rev := decide (off = F.pb p 0x300) && bit raw.toNat 16
  if (s.stepOn p).isSome || (rev && s.revertBad p) then s.setEvt (F.hearthCfgErr p) 10
  else
    let t := s.setReg off new
    if !t.regionsOk p then s.setEvt (F.hearthCfgErr p) 10
    else if rev then settled t (execRevert port p t)
    else t

/-- MEM_CFG (R528, R536). -/
def State.writeMemCfg (s : State) (p : Nat) (new : Word) : State :=
  let f := bits new.toNat 0 4
  if 12 < f ∨ 23 < s.lampPos p + f + 4 ∨ (f ≠ s.fld (F.fluePos p) ∧ s.collsOn p) then s.setEvt (F.memCfgErr p) 10
  else (s.keepWheel p).setReg (F.pb p 0) new

/-- An accepted, incomplete PUBLISH names p as a target or as a source (R528). -/
def State.publishNames (s : State) (p : Nat) : Bool :=
  (s.openCmds opPublish).any fun c => bit (c.fld 9 1) p || (c.fld 8 1 == 0 && (s.sourceParts (c.fld 10 2)).contains p)

/-- LAMP_SHARE (R456, R528). -/
def State.writeShare (s : State) (p : Nat) (new : Word) : State :=
  let x := bits new.toNat 0 6
  if 32 < x ∨ 23 < cdiv (x * 25) 64 + s.fld (F.fluePos p) + 4 ∨ s.publishNames p then s.setEvt F.lampCfgErr 10
  else (s.keepWheel p).setReg (F.pb p 0x710) new

/-- FLUE_ARRIVE (R485, R486). -/
def State.writeArrive (s : State) (p : Nat) (new : Word) : State :=
  let w := new.toNat
  let off := bits w 11 21
  let busy := s.colls.any fun c => decide (c.start ≤ s.time.mark) && c.locals.any fun x => x.p == p
  if bits w 1 10 / 128 ≠ p ∨ off % 8 ≠ 0 ∨ scratchSize ≤ off ∨ busy then s.setEvt F.flueCfgErr 10
  else s.setReg (F.pb p 0x800) new

/-- DAMPER_CFG (R247): FMT 0xF leaves that field as it is. -/
def State.writeDamperCfg (s : State) (port p slot : Nat) (new : Word) : State :=
  if s.flag (F.dValid p slot) && s.tableOpen port (s.fld (F.dCtx p slot)) then
    let w := if bits new.toNat 24 4 = 15 then putBits new 24 4 (s.fld (F.dFmt p slot)) else new
    s.setReg (F.damper p slot + 4) w
  else s

/-- Write to the register at block offset `o` of partition p. -/
def State.writePart (s : State) (port p o : Nat) (raw old new : Word) : State :=
  let off := F.pb p o
  if o = 0x000 then s.writeMemCfg p new
  else if o = 0x100 then s.writeBudget p new
  else if o = 0x108 then s.writeLanternCtrl p old new
  else if o = 0x200 ∨ o = 0x208 ∨ o = 0x210 then
    (if s.lanternSoon p then s.setEvt (F.kvCfgErr p) 10 else s.setReg off new)
  else if (0x300 ≤ o ∧ o < 0x320) ∨ (0x400 ≤ o ∧ o < 0x700) then s.writeHearth port p off raw new
  else if o = 0x700 ∨ o = 0x708 then (if s.lanternSoon p then s.setEvt F.lampCfgErr 10 else s.setReg off new)
  else if o = 0x710 then s.writeShare p new
  else if o = 0x800 then s.writeArrive p new
  else if o < 0x10000 then s.setReg off new
  else
    let slot := (o - 0x10000) / 16
    if o % 16 = 0 then settled s (execDamperOwnerWrite port p slot (raw.setWidth 32) s)
    else if o % 16 = 4 then s.writeDamperCfg port p slot new
    else s

/-! ## Device and global blocks (R696 to R701, R708 to R710) -/

/-- Some port with MODE 1 has ENABLE 1 (R710). -/
def State.ethOn (s : State) : Bool := (List.range 8).any fun k => s.flag (F.lkMode k) && s.flag (F.lkEnable k)

/-- SOOT_LOG (R594, R595). -/
def State.writeSootLog (s : State) (new : Word) : State :=
  let k := bits new.toNat 0 5
  let base := bits new.toNat 12 36 * 4096
  if !s.soot.isEmpty || (k != 0 && (decide (k < 8 ∨ 20 < k) || decide (gddrEnd < base + 32 * 2 ^ k))) then s.setEvt F.sootCfgErr 10
  else s.setReg 0x740 new

/-- Flue device registers: ranges and open collectives (R485, R486). -/
def State.writeFlue (s : State) (off : Nat) (new : Word) : State :=
  let w := new.toNat
  let bad := if off = 0x810008 then
      decide (bits w 0 16 < 256 ∨ bits w 16 10 < 1 ∨ 512 < bits w 16 10 ∨ bits w 32 16 < 256 ∨ bits w 48 10 < 1 ∨ 1000 < bits w 48 10)
    else if off = 0x810010 then decide (bits w 24 24 < 64) else false
  if bad || !s.colls.isEmpty then s.setEvt F.flueCfgErr 10 else s.setReg off new

/-- LINK_CTRL (R586): ENABLE, MODE and SPLIT, and a RETRAIN. -/
def State.writeLinkCtrl (s : State) (port k : Nat) (raw new : Word) : State :=
  let t := settled s (execLinkEnable port k (new.setWidth 32) s)
  if bit raw.toNat 3 then settled t (execRetrain port k t) else t

/-- ETH_CFG (R709, R710): a PCP_VC3 equal to PCP_VC2 is ignored. -/
def State.writeEthCfg (s : State) (old new : Word) : State :=
  let w := if bits new.toNat 47 3 = bits new.toNat 44 3 then putBits new 47 3 (bits old.toNat 47 3) else new
  s.setReg 0x841008 w

/-- EVT_CAUSE of port n (R13, R703): a bit that a write of 1 does not clear because an event came in the same cycle signals its
vector again; one whose event set the bit in that cycle has signalled it already. -/
def State.clearCause (s : State) (n : Nat) (raw new : Word) : State :=
  let again := (List.range 16).filter fun v => bit raw.toNat v && bit (s.setNow (F.evtCause n).off).toNat v &&
    bit (s.fld (F.evtEn n)) v && !(s.host n).due.contains (0, v)
  again.foldl (fun (a : State) v => a.msix n 0 v) (s.setReg (F.evtCause n).off new)

/-- Write to a register of the global and device blocks. -/
def State.writeDev (s : State) (port off : Nat) (raw old new : Word) : State :=
  let w := new.toNat
  if off = 0x018 then settled s (execRecoveryGo port (raw.setWidth 32) s)
  else if off = 0x020 then s.hostCap port w
  else if 0x040 ≤ off ∧ off < 0x060 then
    (if bits w 8 5 < 2 ∨ 16 < bits w 8 5 then s.setEvt F.pwrCfgErr 10 else s.setReg off new)
  else if off = 0x088 then
    (if bits w 0 8 < 60 ∨ 104 < bits w 0 8 ∨ bits w 8 8 < 60 ∨ 94 < bits w 8 8 then s else s.setReg off new)
  else if off = 0x400 then settled s (execChipReset port (raw.setWidth 32) s)
  else if off = 0x404 then (if s.flag F.locked || bits w 0 8 == 0 then s else s.setReg off new)
  else if 0x410 ≤ off ∧ off < 0x420 then (if off = 0x410 + 8 * port then s.setReg off new else s)
  else if 0x420 ≤ off ∧ off < 0x430 then
    (if off = 0x420 + 8 * port ∧ w % 2 ^ (s.host port).barLog2 = 0 then s.setReg off new else s)
  else if off = 0x51C then settled s (execTimeUpstreamWrite port (new.setWidth 32) s)
  else if off = 0x740 then s.writeSootLog new
  else if 0x780 ≤ off ∧ off < 0x7C0 then (if 12288 < bits w 1 14 + 8 then s else s.setReg off new)
  else if 0x800 ≤ off ∧ off < 0x810 then s.clearCause ((off - 0x800) / 8) raw new
  else if 0x810 ≤ off ∧ off < 0x820 then s.setEnables ((off - 0x810) / 8) (bits w 0 16)
  else if off = 0x800000 ∨ off = 0x800008 ∨ (0x801000 ≤ off ∧ off < 0x802000) then
    (if s.anyLantern then s.setEvt F.lampCfgErr 10 else s.setReg off new)
  else if 0x800040 ≤ off ∧ off < 0x8000C0 then
    (if off % 16 = 0 ∧ bit raw.toNat 18 then settled s (execVariantDrop port ((off - 0x800040) / 16) s) else s)
  else if off = 0x810000 ∨ off = 0x810008 ∨ off = 0x810010 then s.writeFlue off new
  else if off = 0x810018 then settled s (execFlueGroupDrop port (raw.setWidth 32) s)
  else if 0x840000 ≤ off ∧ off < 0x840800 ∧ off % 0x100 = 0 then s.writeLinkCtrl port ((off - 0x840000) / 0x100) raw new
  else if (0x840000 ≤ off ∧ off < 0x840800 ∧ 0x10 ≤ off % 0x100) ∨ off = 0x841000 then
    (if s.ethOn then s else s.setReg off new)
  else if off = 0x841008 then (if s.ethOn then s else s.writeEthCfg old new)
  else s.setReg off new

/-! ## REGISTER_WRITE -/

/-- A write of `size` bytes at `off` of one register: its access codes first (R10, R12, R689), then its own rules. -/
def State.writeReg (s : State) (port off size v : Nat) (d : RegDesc) : State :=
  let sh := 8 * (off - d.base)
  let en := (2 ^ (8 * size) - 1) * 2 ^ sh
  let val := v % 2 ^ (8 * size) * 2 ^ sh
  let old := s.reg d.base
  let new := applyWrite d old en val (s.setNow d.base)
  let raw : Word := BitVec.ofNat 64 val
  match ctxOff d.base with
  | some (n, o) => s.writeCtx port n o raw new
  | none =>
    match partOff d.base with
    | some (p, o) => s.writePart port p o raw old new
    | none => s.writeDev port d.base raw old new

/-- A 4-byte write of BAR0; a window that holds no register ignores it (R691). -/
def State.write4 (s : State) (port off v : Nat) : State :=
  match regDesc off with
  | some d => s.writeReg port off 4 v d
  | none => s

/-- Bytes written into the staging window, only in stage RECOVERY (R647, R648). -/
def State.stage (s : State) (o size v : Nat) : State :=
  if s.fld F.stage = bgRecovery then
    s.modBoard fun b => { b with
      staging := (List.range size).foldl (fun t i => tset 0 t (o + i) (BitVec.ofNat 8 (v / 256 ^ i))) b.staging }
  else s

/-- A dword of a function's MSI-X table is written; clearing a vector's mask bit sends it if it is pending (R560). -/
def State.msixDword (s : State) (port fn o v : Nat) : State :=
  let h := s.host port
  let h1 := { h with table := tput h.table (2 ^ 20 * fn + o) (BitVec.ofNat 32 v) }
  let vec := o / 16
  let key := 4096 * fn + vec
  if o % 16 ≠ 12 then s.setHost port h1
  else if bit v 0 then s.setHost port { h1 with unmasked := h1.unmasked.filter fun u => u != key }
  else
    let h2 := { h1 with unmasked := if h1.unmasked.contains key then h1.unmasked else h1.unmasked ++ [key] }
    if h.pend.contains (fn, vec) then
      (s.setHost port { h2 with pend := h2.pend.filter fun e => e != (fn, vec) }).emit (.msix port fn vec)
    else s.setHost port h2

def State.msixWrite (s : State) (port fn o size v : Nat) : State :=
  let s1 := s.msixDword port fn o (v % 2 ^ 32)
  if size = 8 then s1.msixDword port fn (o + 4) (v / 2 ^ 32) else s1

/-- Write to a BAR0 of a PF (R688 to R692, R695). -/
def State.writeBar0 (s : State) (port off size v : Nat) : State :=
  if 0x2000000 ≤ off ∧ off < 0x2400000 then s.stage (off - 0x2000000) size v
  else if 0x3000000 ≤ off ∧ off < 0x3008000 then s.msixWrite port 0 (off - 0x3000000) size v
  else
    match regDesc off with
    | some d =>
      if size ≤ d.base + d.bytes - off then s.writeReg port off size v d
      else (s.write4 port off (v % 2 ^ 32)).write4 port (off + 4) (v / 2 ^ 32)
    | none => if size = 8 then s.write4 port (off + 4) (v / 2 ^ 32) else s

/-- Write to the doorbell page of a context that function fn owns (R111, R112): the two error flags are write-1-to-clear. -/
def State.writePage (s : State) (port fn off size v : Nat) : State :=
  let n := off / 0x1000
  let o := off % 0x1000
  let w : Word32 := BitVec.ofNat 32 v
  if o = 0x000 then settled s (execSqTail port fn n size w s)
  else if o = 0x004 then settled s (execCqHead port fn n size w s)
  else if o = 0x008 then settled s (execEmberHead port fn n size w s)
  else if o = 0x014 ∧ s.bellOk port fn n size then
    s.modCtx n fun c => { c with
      doorbellErr := c.doorbellErr && !(bit v 4 && c.errAt != some s.now),
      lostPost := c.lostPost && !(bit v 5 && c.lostAt != some s.now) }
  else s

/-- REGISTER_WRITE (R10, R688): a naturally aligned write of 4 or 8 bytes to BAR0 or BAR2 of a function; any other is
discarded. -/
def execRegisterWrite (port fn bar off size : Nat) (v : Word) (s : State) : Host.Outcome State Fault Refusal :=
  s.actHost port fn (
    if (size ≠ 4 ∧ size ≠ 8) ∨ off % size ≠ 0 then s
    else if bar = 2 then (if off < 0x1000000 then s.writePage port fn off size v.toNat else s)
    else if fn = 0 then s.writeBar0 port off size v.toNat
    else if off < 0x400 then s.msixWrite port fn off size v.toNat
    else s)

end Sys2Proof.Machine
end

