-- ==== Sys2Proof/Machine/Dispatch.lean ====
section
/-!
DEFINITION. Dispatch.lean: one arm per command of the opcode table, a direct call of its meaning.
-/
namespace Sys2Proof.Machine

def exec (i : Instr) (s : State) : Host.Outcome State Fault Refusal :=
  match i with
  | .marksyncPulse => Sys2Proof.Machine.execMarksyncPulse s
  | .marksyncMiss => Sys2Proof.Machine.execMarksyncMiss s
  | .candleBoundary memTemps => Sys2Proof.Machine.execCandleBoundary memTemps s
  | .markrefLoss => Sys2Proof.Machine.execMarkrefLoss s
  | .markrefLock => Sys2Proof.Machine.execMarkrefLock s
  | .holdoverExpiry => Sys2Proof.Machine.execHoldoverExpiry s
  | .beaconSend k => Sys2Proof.Machine.execBeaconSend k s
  | .beacon k msg => Sys2Proof.Machine.execBeacon k msg s
  | .timeUpstreamWrite port v => Sys2Proof.Machine.execTimeUpstreamWrite port v s
  | .sync k domain seq master => Sys2Proof.Machine.execSync k domain seq master s
  | .followUp k domain seq master t1 => Sys2Proof.Machine.execFollowUp k domain seq master t1 s
  | .delayResp k domain seq master t4 => Sys2Proof.Machine.execDelayResp k domain seq master t4 s
  | .announce k domain master => Sys2Proof.Machine.execAnnounce k domain master s
  | .ctxOwnerWrite port n v => Sys2Proof.Machine.execCtxOwnerWrite port n v s
  | .start port n => Sys2Proof.Machine.execStart port n s
  | .stop port n => Sys2Proof.Machine.execStop port n s
  | .reset port n => Sys2Proof.Machine.execReset port n s
  | .contextResetEnd n => Sys2Proof.Machine.execContextResetEnd n s
  | .sqTail port fn n size v => Sys2Proof.Machine.execSqTail port fn n size v s
  | .cqHead port fn n size v => Sys2Proof.Machine.execCqHead port fn n size v s
  | .emberHead port fn n size v => Sys2Proof.Machine.execEmberHead port fn n size v s
  | .entryPresent n m => Sys2Proof.Machine.execEntryPresent n m s
  | .admission n => Sys2Proof.Machine.execAdmission n s
  | .rejectCompletion n => Sys2Proof.Machine.execRejectCompletion n s
  | .seqSubmit n m => Sys2Proof.Machine.execSeqSubmit n m s
  | .seqCancel n => Sys2Proof.Machine.execSeqCancel n s
  | .seqReward n => Sys2Proof.Machine.execSeqReward n s
  | .rewardEmberWrite cid => Sys2Proof.Machine.execRewardEmberWrite cid s
  | .seqQuery n => Sys2Proof.Machine.execSeqQuery n s
  | .adapterInstall n => Sys2Proof.Machine.execAdapterInstall n s
  | .adapterReplace n => Sys2Proof.Machine.execAdapterReplace n s
  | .adapterRemove n => Sys2Proof.Machine.execAdapterRemove n s
  | .adapterCopyEnd cid => Sys2Proof.Machine.execAdapterCopyEnd cid s
  | .stepLaunch n => Sys2Proof.Machine.execStepLaunch n s
  | .publish n => Sys2Proof.Machine.execPublish n s
  | .variantLoad n => Sys2Proof.Machine.execVariantLoad n s
  | .referenceSet n => Sys2Proof.Machine.execReferenceSet n s
  | .flueCollective n => Sys2Proof.Machine.execFlueCollective n s
  | .flueGroupDefine n m => Sys2Proof.Machine.execFlueGroupDefine n m s
  | .ctxSave n => Sys2Proof.Machine.execCtxSave n s
  | .ctxRestore n => Sys2Proof.Machine.execCtxRestore n s
  | .checkpoint n => Sys2Proof.Machine.execCheckpoint n s
  | .ctxTeardown n => Sys2Proof.Machine.execCtxTeardown n s
  | .teardownComplete target => Sys2Proof.Machine.execTeardownComplete target s
  | .quarantineEnd target => Sys2Proof.Machine.execQuarantineEnd target s
  | .ctxHandover n => Sys2Proof.Machine.execCtxHandover n s
  | .handoverComplete cid => Sys2Proof.Machine.execHandoverComplete cid s
  | .dmaFill n => Sys2Proof.Machine.execDmaFill n s
  | .dmaCopy n => Sys2Proof.Machine.execDmaCopy n s
  | .dmaCommandStart p h => Sys2Proof.Machine.execDmaCommandStart p h s
  | .dmaCommandEnd p => Sys2Proof.Machine.execDmaCommandEnd p s
  | .fence n => Sys2Proof.Machine.execFence n s
  | .fenceDeadlineMiss cid => Sys2Proof.Machine.execFenceDeadlineMiss cid s
  | .partitionRole n => Sys2Proof.Machine.execPartitionRole n s
  | .roleEffective p => Sys2Proof.Machine.execRoleEffective p s
  | .roleService p => Sys2Proof.Machine.execRoleService p s
  | .frameSet n => Sys2Proof.Machine.execFrameSet n s
  | .markSet n => Sys2Proof.Machine.execMarkSet n s
  | .flashWrite n => Sys2Proof.Machine.execFlashWrite n s
  | .flashSourceRead cid m => Sys2Proof.Machine.execFlashSourceRead cid m s
  | .flashWriteComplete cid failed busy => Sys2Proof.Machine.execFlashWriteComplete cid failed busy s
  | .functionLevelReset port fn => Sys2Proof.Machine.execFunctionLevelReset port fn s
  | .hostPortReset port perst => Sys2Proof.Machine.execHostPortReset port perst s
  | .pcieConfigRequest port fn off wr v => Sys2Proof.Machine.execPcieConfigRequest port fn off wr v s
  | .threadLaunch p index record startCycle => Sys2Proof.Machine.execThreadLaunch p index record startCycle s
  | .instructionComplete t id => Sys2Proof.Machine.execInstructionComplete t id s
  | .add t => Sys2Proof.Machine.execAdd t s
  | .sub t => Sys2Proof.Machine.execSub t s
  | .and t => Sys2Proof.Machine.execAnd t s
  | .or t => Sys2Proof.Machine.execOr t s
  | .xor t => Sys2Proof.Machine.execXor t s
  | .shl t => Sys2Proof.Machine.execShl t s
  | .shr t => Sys2Proof.Machine.execShr t s
  | .sra t => Sys2Proof.Machine.execSra t s
  | .slt t => Sys2Proof.Machine.execSlt t s
  | .sltu t => Sys2Proof.Machine.execSltu t s
  | .mul t => Sys2Proof.Machine.execMul t s
  | .mulhu t => Sys2Proof.Machine.execMulhu t s
  | .divu t => Sys2Proof.Machine.execDivu t s
  | .remu t => Sys2Proof.Machine.execRemu t s
  | .addi t => Sys2Proof.Machine.execAddi t s
  | .andi t => Sys2Proof.Machine.execAndi t s
  | .shli t => Sys2Proof.Machine.execShli t s
  | .shri t => Sys2Proof.Machine.execShri t s
  | .movhi t => Sys2Proof.Machine.execMovhi t s
  | .movs t => Sys2Proof.Machine.execMovs t s
  | .beq t => Sys2Proof.Machine.execBeq t s
  | .bne t => Sys2Proof.Machine.execBne t s
  | .blt t => Sys2Proof.Machine.execBlt t s
  | .bge t => Sys2Proof.Machine.execBge t s
  | .bltu t => Sys2Proof.Machine.execBltu t s
  | .bgeu t => Sys2Proof.Machine.execBgeu t s
  | .jal t => Sys2Proof.Machine.execJal t s
  | .jalr t => Sys2Proof.Machine.execJalr t s
  | .ld t => Sys2Proof.Machine.execLd t s
  | .st t => Sys2Proof.Machine.execSt t s
  | .vld t => Sys2Proof.Machine.execVld t s
  | .vst t => Sys2Proof.Machine.execVst t s
  | .gld t edc => Sys2Proof.Machine.execGld t edc s
  | .gst t retries => Sys2Proof.Machine.execGst t retries s
  | .hostCompletionArrive t id status data => Sys2Proof.Machine.execHostCompletionArrive t id status data s
  | .cxlResponseArrive t id late err => Sys2Proof.Machine.execCxlResponseArrive t id late err s
  | .readTimeout t id => Sys2Proof.Machine.execReadTimeout t id s
  | .dmaSubmit t => Sys2Proof.Machine.execDmaSubmit t s
  | .copy cl ch h => Sys2Proof.Machine.execCopy cl ch h s
  | .strided cl ch h => Sys2Proof.Machine.execStrided cl ch h s
  | .transpose cl ch h => Sys2Proof.Machine.execTranspose cl ch h s
  | .pageWalk cl ch h => Sys2Proof.Machine.execPageWalk cl ch h s
  | .multicast cl ch h => Sys2Proof.Machine.execMulticast cl ch h s
  | .fill cl ch h => Sys2Proof.Machine.execFill cl ch h s
  | .dmaDescriptorEnd cl ch => Sys2Proof.Machine.execDmaDescriptorEnd cl ch s
  | .sigAdd t edc retries => Sys2Proof.Machine.execSigAdd t edc retries s
  | .sigWait t => Sys2Proof.Machine.execSigWait t s
  | .sigWaitTimeout t => Sys2Proof.Machine.execSigWaitTimeout t s
  | .markWait t => Sys2Proof.Machine.execMarkWait t s
  | .tfence t => Sys2Proof.Machine.execTfence t s
  | .exit t => Sys2Proof.Machine.execExit t s
  | .vadd t => Sys2Proof.Machine.execVadd t s
  | .vsub t => Sys2Proof.Machine.execVsub t s
  | .vmul t => Sys2Proof.Machine.execVmul t s
  | .vfma t => Sys2Proof.Machine.execVfma t s
  | .vmax t => Sys2Proof.Machine.execVmax t s
  | .vmin t => Sys2Proof.Machine.execVmin t s
  | .vcmp t => Sys2Proof.Machine.execVcmp t s
  | .vsel t => Sys2Proof.Machine.execVsel t s
  | .vbcast t => Sys2Proof.Machine.execVbcast t s
  | .vextr t => Sys2Proof.Machine.execVextr t s
  | .vexp2 t => Sys2Proof.Machine.execVexp2 t s
  | .vlog2 t => Sys2Proof.Machine.execVlog2 t s
  | .vrcp t => Sys2Proof.Machine.execVrcp t s
  | .vrsqrt t => Sys2Proof.Machine.execVrsqrt t s
  | .vsin t => Sys2Proof.Machine.execVsin t s
  | .vcos t => Sys2Proof.Machine.execVcos t s
  | .vrsum t => Sys2Proof.Machine.execVrsum t s
  | .vrmax t => Sys2Proof.Machine.execVrmax t s
  | .vrargmax t => Sys2Proof.Machine.execVrargmax t s
  | .viadd t => Sys2Proof.Machine.execViadd t s
  | .visub t => Sys2Proof.Machine.execVisub t s
  | .vimul t => Sys2Proof.Machine.execVimul t s
  | .vand t => Sys2Proof.Machine.execVand t s
  | .vor t => Sys2Proof.Machine.execVor t s
  | .vxor t => Sys2Proof.Machine.execVxor t s
  | .vshl t => Sys2Proof.Machine.execVshl t s
  | .vshr t => Sys2Proof.Machine.execVshr t s
  | .vcvt t => Sys2Proof.Machine.execVcvt t s
  | .vunpk t => Sys2Proof.Machine.execVunpk t s
  | .spkBits t => Sys2Proof.Machine.execSpkBits t s
  | .spkGumbel t => Sys2Proof.Machine.execSpkGumbel t s
  | .matLoad t => Sys2Proof.Machine.execMatLoad t s
  | .matStream t upsets => Sys2Proof.Machine.execMatStream t upsets s
  | .matDrain t => Sys2Proof.Machine.execMatDrain t s
  | .damperUpdate t => Sys2Proof.Machine.execDamperUpdate t s
  | .damperRead t => Sys2Proof.Machine.execDamperRead t s
  | .damperWrite t => Sys2Proof.Machine.execDamperWrite t s
  | .damperHsave t => Sys2Proof.Machine.execDamperHsave t s
  | .damperHload t => Sys2Proof.Machine.execDamperHload t s
  | .damperOwnerWrite port p slot v => Sys2Proof.Machine.execDamperOwnerWrite port p slot v s
  | .frameBoundary p => Sys2Proof.Machine.execFrameBoundary p s
  | .frameKernelStart p records => Sys2Proof.Machine.execFrameKernelStart p records s
  | .frameFinalise p outs => Sys2Proof.Machine.execFrameFinalise p outs s
  | .lateFinalisation p outs => Sys2Proof.Machine.execLateFinalisation p outs s
  | .frameSeal p meets => Sys2Proof.Machine.execFrameSeal p meets s
  | .seqEntryFree e => Sys2Proof.Machine.execSeqEntryFree e s
  | .stepStart cid meets => Sys2Proof.Machine.execStepStart cid meets s
  | .mainLaunch cid => Sys2Proof.Machine.execMainLaunch cid s
  | .updateGate cid => Sys2Proof.Machine.execUpdateGate cid s
  | .updateLaunch cid => Sys2Proof.Machine.execUpdateLaunch cid s
  | .stepCommit cid => Sys2Proof.Machine.execStepCommit cid s
  | .revert port p => Sys2Proof.Machine.execRevert port p s
  | .publishCopyStart cid => Sys2Proof.Machine.execPublishCopyStart cid s
  | .publishCopyEnd cid h => Sys2Proof.Machine.execPublishCopyEnd cid h s
  | .variantDrop port v => Sys2Proof.Machine.execVariantDrop port v s
  | .collectiveStart cid meets => Sys2Proof.Machine.execCollectiveStart cid meets s
  | .chunkSend cid p m => Sys2Proof.Machine.execChunkSend cid p m s
  | .chunkReceive p from_ header payload => Sys2Proof.Machine.execChunkReceive p from_ header payload s
  | .arrivalAdd cid p meets => Sys2Proof.Machine.execArrivalAdd cid p meets s
  | .stallNoticeSend cid p => Sys2Proof.Machine.execStallNoticeSend cid p s
  | .stall p coll sender blamed chunk => Sys2Proof.Machine.execStall p coll sender blamed chunk s
  | .poison p coll origin => Sys2Proof.Machine.execPoison p coll origin s
  | .tombstone p coll sender => Sys2Proof.Machine.execTombstone p coll sender s
  | .collectiveComplete cid meets => Sys2Proof.Machine.execCollectiveComplete cid meets s
  | .collectiveLateComplete cid meets => Sys2Proof.Machine.execCollectiveLateComplete cid meets s
  | .collectiveDeadline cid meets => Sys2Proof.Machine.execCollectiveDeadline cid meets s
  | .flueGroupDrop port v => Sys2Proof.Machine.execFlueGroupDrop port v s
  | .ctxPtRootWrite port n v => Sys2Proof.Machine.execCtxPtRootWrite port n v s
  | .ptLoadComplete a m => Sys2Proof.Machine.execPtLoadComplete a m s
  | .cxlLinkUp q rate width cap => Sys2Proof.Machine.execCxlLinkUp q rate width cap s
  | .bar4Read port off len m => Sys2Proof.Machine.execBar4Read port off len m s
  | .bar4Write port off data m => Sys2Proof.Machine.execBar4Write port off data m s
  | .doeDiscovery port index => Sys2Proof.Machine.execDoeDiscovery port index s
  | .getVersion port => Sys2Proof.Machine.execGetVersion port s
  | .getCapabilities port => Sys2Proof.Machine.execGetCapabilities port s
  | .negotiateAlgorithms port => Sys2Proof.Machine.execNegotiateAlgorithms port s
  | .getDigests port => Sys2Proof.Machine.execGetDigests port s
  | .getCertificate port slot off len => Sys2Proof.Machine.execGetCertificate port slot off len s
  | .challenge port slot nonce => Sys2Proof.Machine.execChallenge port slot nonce s
  | .getMeasurements port index slot signed nonce => Sys2Proof.Machine.execGetMeasurements port index slot signed nonce s
  | .doeResponse port => Sys2Proof.Machine.execDoeResponse port s
  | .doeAbort port => Sys2Proof.Machine.execDoeAbort port s
  | .flitReceive k flit words => Sys2Proof.Machine.execFlitReceive k flit words s
  | .datagramReceive k header payload words => Sys2Proof.Machine.execDatagramReceive k header payload words s
  | .laneLockLoss lane lost words => Sys2Proof.Machine.execLaneLockLoss lane lost words s
  | .linkRetrainStart k => Sys2Proof.Machine.execLinkRetrainStart k s
  | .retrain port k => Sys2Proof.Machine.execRetrain port k s
  | .linkEnable port k v => Sys2Proof.Machine.execLinkEnable port k v s
  | .linkRetrainEnd k locked => Sys2Proof.Machine.execLinkRetrainEnd k locked s
  | .snufferHang cl => Sys2Proof.Machine.execSnufferHang cl s
  | .sootRingMove retries => Sys2Proof.Machine.execSootRingMove retries s
  | .engineResetEnd cl ok => Sys2Proof.Machine.execEngineResetEnd cl ok s
  | .suspectRelaunch cl => Sys2Proof.Machine.execSuspectRelaunch cl s
  | .controlHang p what => Sys2Proof.Machine.execControlHang p what s
  | .partitionResetStart p => Sys2Proof.Machine.execPartitionResetStart p s
  | .partitionResetEnd p ok => Sys2Proof.Machine.execPartitionResetEnd p ok s
  | .chipReset port v => Sys2Proof.Machine.execChipReset port v s
  | .chipResetStart fault => Sys2Proof.Machine.execChipResetStart fault s
  | .chipResetTimeout disabled => Sys2Proof.Machine.execChipResetTimeout disabled s
  | .saveStart cid => Sys2Proof.Machine.execSaveStart cid s
  | .saveComplete cid => Sys2Proof.Machine.execSaveComplete cid s
  | .restoreStart cid => Sys2Proof.Machine.execRestoreStart cid s
  | .restoreComplete cid meets => Sys2Proof.Machine.execRestoreComplete cid meets s
  | .restoredStepResume n meets => Sys2Proof.Machine.execRestoredStepResume n meets s
  | .checkpointCopyStart cid => Sys2Proof.Machine.execCheckpointCopyStart cid s
  | .checkpointCopyEnd cid h => Sys2Proof.Machine.execCheckpointCopyEnd cid h s
  | .pwrgoodRise => Sys2Proof.Machine.execPwrgoodRise s
  | .pwrgoodFall => Sys2Proof.Machine.execPwrgoodFall s
  | .converterTrip => Sys2Proof.Machine.execConverterTrip s
  | .domainsOff => Sys2Proof.Machine.execDomainsOff s
  | .bootRomStart ownerKeyEn forceRecovery addr1 addr0 testMode sfdp => Sys2Proof.Machine.execBootRomStart ownerKeyEn forceRecovery addr1 addr0 testMode sfdp s
  | .configCheck readOk => Sys2Proof.Machine.execConfigCheck readOk s
  | .imageCheck readOk => Sys2Proof.Machine.execImageCheck readOk s
  | .deviceReady => Sys2Proof.Machine.execDeviceReady s
  | .recoveryGo port v => Sys2Proof.Machine.execRecoveryGo port v s
  | .ramVerifyEnd => Sys2Proof.Machine.execRamVerifyEnd s
  | .ramBootLinkDrop => Sys2Proof.Machine.execRamBootLinkDrop s
  | .domainSwitchOn => Sys2Proof.Machine.execDomainSwitchOn s
  | .powerFactorUpdate => Sys2Proof.Machine.execPowerFactorUpdate s
  | .thermalSample temps => Sys2Proof.Machine.execThermalSample temps s
  | .junctionOvertemp p => Sys2Proof.Machine.execJunctionOvertemp p s
  | .ioDieOvertemp d => Sys2Proof.Machine.execIoDieOvertemp d s
  | .junctionCritical u => Sys2Proof.Machine.execJunctionCritical u s
  | .tread off count => Sys2Proof.Machine.execTread off count s
  | .i3cPrivateRead => Sys2Proof.Machine.execI3cPrivateRead s
  | .twrite off count data => Sys2Proof.Machine.execTwrite off count data s
  | .i3cChipReset key => Sys2Proof.Machine.execI3cChipReset key s
  | .entdaa addr => Sys2Proof.Machine.execEntdaa addr s
  | .setdasa static addr => Sys2Proof.Machine.execSetdasa static addr s
  | .rstdaa => Sys2Proof.Machine.execRstdaa s
  | .getpid => Sys2Proof.Machine.execGetpid s
  | .getbcr => Sys2Proof.Machine.execGetbcr s
  | .getdcr => Sys2Proof.Machine.execGetdcr s
  | .getstatus => Sys2Proof.Machine.execGetstatus s
  | .enec => Sys2Proof.Machine.execEnec s
  | .disec => Sys2Proof.Machine.execDisec s
  | .bypass => Sys2Proof.Machine.execBypass s
  | .idcode => Sys2Proof.Machine.execIdcode s
  | .samplePreload data => Sys2Proof.Machine.execSamplePreload data s
  | .extest => Sys2Proof.Machine.execExtest s
  | .highz => Sys2Proof.Machine.execHighz s
  | .clamp => Sys2Proof.Machine.execClamp s
  | .evtEnWrite port n size hi v => Sys2Proof.Machine.execEvtEnWrite port n size hi v s
  | .lowHalfRead port fn bar off size => Sys2Proof.Machine.execLowHalfRead port fn bar off size s
  | .registerWrite port fn bar off size v => Sys2Proof.Machine.execRegisterWrite port fn bar off size v s
  | .acceptedCompletion n meets => Sys2Proof.Machine.execAcceptedCompletion n meets s
  | .hostLinkUp port rate width vfs flit => Sys2Proof.Machine.execHostLinkUp port rate width vfs flit s
  | .cxlLinkDown q => Sys2Proof.Machine.execCxlLinkDown q s
  | .flashOperationEnd => Sys2Proof.Machine.execFlashOperationEnd s
  | .inputPowerSample mv ma => Sys2Proof.Machine.execInputPowerSample mv ma s
  | .selfTestCheckMark cid => Sys2Proof.Machine.execSelfTestCheckMark cid s
  | .priorityFlowControl k half prio pause => Sys2Proof.Machine.execPriorityFlowControl k half prio pause s

end Sys2Proof.Machine
end

