-- ==== Sys2Proof/Machine/Passes.lean ====
section
/-!
DEFINITION. Passes.lean: what MAT_LOADs and MAT_STREAMs do in the core cycles before their counts: row loads (R210, R225) and
passes through the stages of R215, with the checksums of R226 to R231.
-/
namespace Sys2Proof.Machine
open Sys2Proof.Config

/-! ## Row loads (R210, R225) -/

/-- Elements lo to lo + n − 1 of a list replaced by those of another. -/
def splice {α : Type} (d : α) (old new : List α) (lo n : Nat) : List α :=
  (List.range (Nat.max old.length (lo + n))).map fun i =>
    if lo ≤ i ∧ i < lo + n then new.getD i d else old.getD i d

/-- Row load i of the bank v arrives in a bank: its weight rows, their checksums and the block exponents of their group. With
the last one the rows that the load does not write read as zero; the column checksums come with the count (R210, R225). -/
def Bank.putRow (old v : Bank) (i : Nat) : Bank :=
  let k := if v.paired then 2 else 1
  if v.rows.length ≤ k * (i + 1) then { v with rw := old.rw, ra := old.ra }
  else
    { v with
      rows := splice [] old.rows v.rows (k * i) k, exps := splice [] old.exps v.exps (k * i / 32) 1,
      cw := splice Cif.zero0 old.cw v.cw (k * i) k, aw := splice Cif.zero0 old.aw v.aw (k * i) k, rw := old.rw, ra := old.ra }

/-- Row load of bank v that is written c cycles after issue: one every ρ cycles, the first in cycle 2 + ρ (R210). -/
def Bank.rowAt (v : Bank) (c : Nat) : Option Nat :=
  let rho := if v.cls = 2 then 2 else 1
  let i := (c - 2 - rho) / rho
  if 2 + rho ≤ c ∧ (c - 2 - rho) % rho = 0 ∧ i * (if v.paired then 2 else 1) < v.rows.length then some i else none

/-- The row loads of a MAT_LOAD that arrive in this cycle, and at its count the column checksums, which a pass of that cycle compares with
(R213, R225, R227). -/
def State.loadRow (s : State) (f : InFlight) : State :=
  f.effects.foldl (fun a e => match e with
    | .bank tile k b v =>
      (let x := a.tile tile
       let put (w : Bank) : State := a.setTile tile { x with banks := tset Bank.dflt x.banks (2 * k + b) w }
       match v.rowAt (s.now - f.issue) with
       | some i => put ((tget Bank.dflt x.banks (2 * k + b)).putRow v i)
       | none => if s.now = f.due then put v else a)
    | _ => a) s

/-! ## Passes (R214 to R221) -/

/-- Core cycle, counted from issue, in which the last entry cycle of a pass falls (R214 to R216). -/
def StreamRun.lastEntry (u : StreamRun) (j : Nat) : Nat :=
  if j < u.v then u.w + u.r * j + u.r - 1 else if j = u.v then 0 else u.w + u.r * u.v + 12 + u.r - 1

/-- The passes that the stream runs, in order of entry. -/
def StreamRun.passes (u : StreamRun) : List Nat :=
  (if u.w = 1 then [u.v] else []) ++ List.range u.v ++ (if u.claimed.isSome then [u.v + 1] else [])

/-- The pass whose work pass j does: the retry pass does that of the pass that failed (R229). -/
def StreamRun.work (u : StreamRun) (j : Nat) : Nat := if j = u.v + 1 then u.claimed.getD j else j

/-- Vector j as the arrays take it, with its block exponents: read, decoded and rotated (R174, R215, R395). -/
def State.passVec (s : State) (x : Thread) (u : StreamRun) (j : Nat) : List Cif × List Int :=
  let dt := u.dt
  let blk := blockOf dt
  let nb := if blk = 0 then 0 else u.ev / blk
  let raw := s.localLE x (u.src + j * u.stride) (u.ev * elemBits dt / 8)
  let ex := (List.range nb).map fun q => blockExp dt (s.localLE x (u.scaleAt + j * nb + q) 1)
  let el := (List.range u.ev).map fun i =>
    if blk ≠ 0 ∧ (ex.getD (i / blk) (0, false)).2 = true then Cif.nanV else toCif dt (unpackAt (elemBits dt) raw i)
  (if u.rot.isEmpty then el else s.rotate x (rotaryOf u.rot) u.ev j el, ex.map (·.1))

/-- A column sum with a hardware error in it. -/
def ColSum.upset (c : ColSum) (e : Int) : ColSum :=
  if e = 0 then c
  else match c with
    | .nan => .nan
    | .zero => .val e 0
    | .val t m => .val (t + e) m

/-- Error of the column sum of a pass, an array and a column. -/
def StreamRun.upsetOf (u : StreamRun) (j a c : Nat) : Int :=
  ((u.upsets.find? fun q => q.1 == j && q.2.1 == a && q.2.2.1 == c).map (·.2.2.2)).getD 0

/-- A column sum below 2^128 in magnitude. -/
def ColSum.isFin (c : ColSum) : Bool :=
  match c with
  | .nan => false
  | _ => c.num.absOf.lt (Num.two 128)

/-- |d − c| > 2^-6 × m (R226, R227). -/
def differs (d c m : Num) : Bool := (m.mul (Num.two (-6))).lt (d.add c.neg1).absOf

/-- The column sums of pass j on array a: of its vector, or of ones in the row-check pass (R175 to R179, R227). -/
def StreamRun.sumsOf (u : StreamRun) (k : Bank) (j a : Nat) (v : List Cif × List Int) : List ColSum :=
  (List.range 32).map fun c =>
    (if u.work j = u.v then colSum { k with scale := 0 } u.ev (List.replicate u.ev (Cif.val false 0)) [] 0 0 c
     else colSum k u.ev v.1 v.2 (blockOf u.dt) u.ta c).upset (u.upsetOf j a c)

/-- The checksum comparison of pass j on one array (R226, R227). No comparison is made where mag is zero, which in the row-check pass
is the case where ra_c is zero in every column (R228). -/
def StreamRun.mismatch (u : StreamRun) (k : Bank) (j : Nat) (v : List Cif × List Int) (sums : List ColSum) : Bool :=
  if u.work j = u.v then
    let ra (c : Nat) : Num := (k.ra.getD c Cif.zero0).linear 0
    (List.range 32).any (fun c => Num.zero0.lt (ra c)) &&
      (List.range 32).any fun c => differs (sums.getD c .zero).num ((k.rw.getD c Cif.zero0).linear 0) (ra c)
  else
    let blk := blockOf u.dt
    let check (f : Cif → Cif) (w : List Cif) : Num :=
      (columnSum ((List.range u.ev).map fun r =>
        product (f (v.1.getD r Cif.zero0)) (w.getD r Cif.zero0) (if blk = 0 then 0 else v.2.getD (r / blk) 0) 0 u.ta k.scale)).num
    let mag := check (fun x => { x with sign := false }) k.aw
    Num.zero0.lt mag && differs (sumNum (sums.map ColSum.num)) (check id k.cw) mag

/-- Weight read and adder trees of pass j: its column sums by array, and whether it mismatches; no comparison is made where a
product is NaN or a column sum is not finite (R226 to R228). -/
def State.passSums (s : State) (tile : Nat) (u : StreamRun) (j : Nat) : Bool × List (Nat × List ColSum) :=
  let v := (tfind u.vecs (u.work j)).getD ([], [])
  let rows := (arraysOf u.mask).map fun a =>
    let k := tget Bank.dflt (s.tile tile).banks (2 * a + u.bank)
    let q := u.sumsOf k j a v
    (a, q, u.mismatch k j v q)
  (rows.all (fun q => q.2.1.all ColSum.isFin) && rows.any (fun q => q.2.2), rows.map fun q => (q.1, q.2.1))

/-- Accumulator blocks in which pass j writes entries: those of the arrays in the mask, and with INIT those of every array (R218,
R219). -/
def StreamRun.blocks (u : StreamRun) (j : Nat) : List Nat :=
  let k := if u.wide then 2 else 1
  dedup ((([0, 1, 2, 3].filter fun a => bit u.mask a || u.init).flatMap fun a =>
    accRegions (u.base + k * (128 * j + 32 * a)) (32 * k)).map (· - 1536))

/-- The entries of pass j take its column sums, and with INIT zeros for the other arrays; with INIT the first write into a block
clears its NF bit first (R218 to R221, R191). -/
def State.writePass (s : State) (tile : Nat) (u : StreamRun) (j : Nat) (sums : List (Nat × List ColSum)) : State :=
  let s1 := if u.init then ((u.blocks j).filter fun b => !u.begun.contains b).foldl (fun a b => a.setNf tile b false) s else s
  ([0, 1, 2, 3].filter fun a => bit u.mask a || u.init).foldl (fun q a =>
    (List.range 32).foldl (fun z c =>
      z.accumulate (accAddr tile u.base u.wide (128 * j + 32 * a + c)) u.wide u.init (((tfind sums a).getD []).getD c .zero)) q) s1

/-! ## Mismatches (R229 to R231) -/

/-- Mismatches are counted in the physical tile's error counters (R231). -/
def State.countMismatch (s : State) (tile : Nat) (second : Bool) : State :=
  let cl := tile / 8
  let k := s.fld (F.slotMap cl (tile % 8))
  if second then s.setFld (F.errSecond cl k) (satInc 255 (s.fld (F.errSecond cl k)))
  else s.setFld (F.errFirst cl k) (satInc 65535 (s.fld (F.errFirst cl k)))

def State.modFlight (s : State) (id : Nat) (g : InFlight → InFlight) : State :=
  { s with inflight := updFirst (fun i => i.id == id) g s.inflight }

def InFlight.modRun (f : InFlight) (g : StreamRun → StreamRun) : InFlight := { f with run := f.run.map g }

/-- A pass mismatches: the first one claims the retry window, keeping its vector. Each later one is suppressed, sets the NF bit of every
block it would have written, and takes the tile out of service at the count (R229, R230). DESIGN CHOICE (assumption 118): the pass index
of a row-check pass is V. DESIGN CHOICE (assumption 141): a third or later mismatch of a stream is suppressed and counted like the
second. DESIGN CHOICE (assumption 134): the blocks of the suppressed pass count as begun, so that no later pass of an INIT stream clears
the NF bits set here (R221). -/
def State.failPass (s : State) (tile id : Nat) (u : StreamRun) (j : Nat) : State :=
  let drop (q : StreamRun) : StreamRun := { q with sums := tdel q.sums j }
  if u.claimed.isNone then
    (s.countMismatch tile false).modFlight id fun f => f.modRun fun q => { drop q with claimed := some j }
  else
    let b := if u.work j = u.v then [] else u.blocks (u.work j)
    ((b.foldl (fun a k => a.setNf tile k true) s).countMismatch tile true).modFlight id fun f =>
      { f with effects := if u.out then f.effects else f.effects ++ [Effect.tileOut (u.work j)] }.modRun fun q =>
        { drop q with out := true, begun := q.begun ++ b }

/-- Checksum comparison of pass j. -/
def State.judgePass (s : State) (tile id : Nat) (u : StreamRun) (j : Nat) : State :=
  match tfind u.sums j with
  | some (true, _) => s.failPass tile id u j
  | _ => s.modFlight id fun f => f.modRun fun q => { q with vecs := tdel q.vecs j }

/-- The stage of pass j in this cycle (R215). -/
def State.passStage (s : State) (id j : Nat) : State :=
  match s.inflight.find? fun i => i.id == id with
  | some f =>
    (match f.run with
     | some u =>
       let tile := f.thread / 16
       let c := s.now - f.issue
       let e := u.lastEntry j
       if c = e + 1 ∧ j < u.v then
         s.modFlight id fun g => g.modRun fun q => { q with vecs := q.vecs ++ [(j, s.passVec (s.thread f.thread) u j)] }
       else if c = e + 7 then
         s.modFlight id fun g => g.modRun fun q => { q with sums := q.sums ++ [(j, s.passSums tile u j)] }
       else if c = e + 12 then s.judgePass tile id u j
       else if c = e + 15 then
         (match tfind u.sums j with
          | some (_, l) =>
            (if u.work j = u.v then s else s.writePass tile u (u.work j) l).modFlight id fun g => g.modRun fun q =>
              { q with sums := tdel q.sums j, begun := if u.work j = u.v then q.begun else q.begun ++ u.blocks (u.work j) }
          | none => s)
       else s
     | none => s)
  | none => s

/-- A drain reads the entries of its present cycle (R232). -/
def State.drainCycle (s : State) (f : InFlight) : State :=
  match f.effects with
  | [.drain d] => if f.issue < s.now then s.modFlight f.id fun g => { g with effects := [.drain (s.readEntries d (s.now - f.issue))] } else s
  | _ => s

/-- What the matrix instructions under way do in the core cycle that begins. -/
def State.matrixCycle (s : State) : State :=
  s.inflight.foldl (fun a f => match f.run, f.mat with
    | some u, _ => u.passes.foldl (fun b j => b.passStage f.id j) a
    | none, some m => if m.load then a.loadRow f else a
    | none, none => a.drainCycle f) s

end Sys2Proof.Machine
end

