-- ==== Sys2Proof/Machine/Idle.lean ====
section
/-!
DEFINITION. Idle.lean: what happens when no command waits. The current cycle ends: DMA steps are made (R313), step flags are raised (R430),
cancellations, teardowns and handovers that can begin do so (R129, R143, R145, R151, R366), checkpoints whose mark has come
are captured (R634), and the next core cycle begins, in which the matrix instructions under way go on (R210, R215).
-/
namespace Sys2Proof.Machine

/-- The end of the current cycle, with its DMA steps (R313, R314), and the step to the next one, which takes the MARKSYNC pulses whose
delay by the trim ends then (assumption 10). A write of PWR_CAP by the physical function takes effect with the end of its cycle (R669,
assumption 6), and interrupts are signalled in the cycle after what raises them (R118). -/
def State.idle (s : State) : State :=
  if s.board.off then s
  else (s.latchChecks.dmaCycle.serveQueues.pollSteps.latchFlue.dueReplays.dueCancels.dueTeardowns.dueHandovers.dueCaptures.capDue.serveAgents.idleFlits).tick.signalDue.matrixCycle.duePulses

end Sys2Proof.Machine
end

