-- ==== Sys2Proof/Machine/Step.lean ====
section
/-!
DEFINITION. Step.lean: one step of the block. The command at the front of the queue is carried out with the rest of the
queue; on an empty queue one core cycle passes (assumption 10).
-/
namespace Sys2Proof.Machine

/-- One step: the front command is taken off the queue and carried out; with an empty queue one core cycle passes. -/
def step (s : State) : Host.Outcome State Fault Refusal :=
  match s.pending with
  | [] => .next s.idle
  | c :: r => exec c { s with pending := r }

/-- The state with the command that a word of the table spells put at the front of the queue; no row of the table gives
bits, so no word spells one and the state stays as it is (assumption 9). -/
def State.withFetchWord (s : State) (nbits w : Nat) : State :=
  match Sys2Proof.decodeTableWord nbits w with
  | some c => { s with pending := c :: s.pending }
  | none => s

end Sys2Proof.Machine
end

