-- ==== Sys2Proof/Safety.lean ====
section
/-!
DEFINITION. Safety.lean: what a safe step is, and the invariant of the block: its memory, its register file and its tables
keep their canonical forms, and its time stays in range. The kinds of state,
of which a frame names those that a command can change.
-/
namespace Sys2Proof.Machine

/-- The step ends in a next state. -/
def Safe (s : State) : Prop := ∃ t, step s = .next t

/-- The register file in its canonical form: offsets strictly rise from `lo`, and no entry holds the register's reset
value. -/
def regsOkFrom : Nat → List (Nat × Word) → Bool
  | _, [] => true
  | lo, (i, v) :: r => decide (lo ≤ i) && !decide (v = regReset i) && regsOkFrom (i + 1) r

/-- The invariant: the memory, the register file and the tables are in canonical form (assumption 1), the cycle counter
has 10 bits, the mark counter has 54 (R60), and so has a mark that waits to be loaded (R66). -/
structure State.Inv (s : State) : Prop where
  mem : s.mem.wf = true
  regs : regsOkFrom 0 s.regs = true
  ctxs : twf CtxRun.dflt s.ctxs = true
  parts : twf Part.dflt s.parts = true
  clusters : twf Cluster.dflt s.clusters = true
  tiles : twf Tile.dflt s.tiles = true
  threads : twf Thread.dflt s.threads = true
  table : twf Sample.dflt s.table = true
  links : twf Link.dflt s.links = true
  hosts : twf HostPort.dflt s.hosts = true
  cyc : s.time.cyc < 1024
  mark : s.time.mark < 2 ^ 54
  setM : ∀ x ∈ s.time.setM, x.2.1 < 2 ^ 54

/-! ## Kinds of state -/

/-- The kinds of state: one for each field of State. -/
inductive Kind where
  | pending | time | regs | mem | ctxs | cmds | nextCid | xlat | loads | parts | clusters | tiles | threads | inflight
  | nextIf | table | reqs | steps | jobs | groups | colls | links | hosts | soot | board | outbox | free
deriving DecidableEq, Repr

/-- The two states agree on a kind of state. -/
def Kind.same (s t : State) : Kind → Prop
  | .pending => t.pending = s.pending
  | .time => t.time = s.time
  | .regs => t.regs = s.regs
  | .mem => t.mem = s.mem
  | .ctxs => t.ctxs = s.ctxs
  | .cmds => t.cmds = s.cmds
  | .nextCid => t.nextCid = s.nextCid
  | .xlat => t.xlat = s.xlat
  | .loads => t.loads = s.loads
  | .parts => t.parts = s.parts
  | .clusters => t.clusters = s.clusters
  | .tiles => t.tiles = s.tiles
  | .threads => t.threads = s.threads
  | .inflight => t.inflight = s.inflight
  | .nextIf => t.nextIf = s.nextIf
  | .table => t.table = s.table
  | .reqs => t.reqs = s.reqs
  | .steps => t.steps = s.steps
  | .jobs => t.jobs = s.jobs
  | .groups => t.groups = s.groups
  | .colls => t.colls = s.colls
  | .links => t.links = s.links
  | .hosts => t.hosts = s.hosts
  | .soot => t.soot = s.soot
  | .board => t.board = s.board
  | .outbox => t.outbox = s.outbox
  | .free => t.free = s.free

/-- The index of a kind. -/
def Kind.idx : Kind → Nat
  | .pending => 0 | .time => 1 | .regs => 2 | .mem => 3 | .ctxs => 4 | .cmds => 5 | .nextCid => 6 | .xlat => 7
  | .loads => 8 | .parts => 9 | .clusters => 10 | .tiles => 11 | .threads => 12 | .inflight => 13 | .nextIf => 14
  | .table => 15 | .reqs => 16 | .steps => 17 | .jobs => 18 | .groups => 19 | .colls => 20 | .links => 21
  | .hosts => 22 | .soot => 23 | .board => 24 | .outbox => 25 | .free => 26

end Sys2Proof.Machine
end

