-- ==== Sys2Proof/Certificates/Slice0/Obligations.lean ====
section
/-!
DEFINITION. Obligations.lean: the statements for the provers.
-/
open Sys2Proof Sys2Proof.Machine Sys2Proof.Config

namespace Sys2Proof.Claims

/-! ## Instructions that issue -/

/-- The instruction word at the PC of thread t. -/
def word (s : State) (t : Nat) : Nat := s.localLE (s.thread t) (s.thread t).pc 8

/-- Thread t's next instruction has class c and opcode o, and the issue stage picks it in this cycle (R18, R266): what
decides whether the row of that instruction issues. -/
structure Turn (s : State) (t c o : Nat) : Prop where
  inv : s.Inv
  on : s.board.off = false
  pick : s.picks t = true
  cls : wClass (word s t) = c
  op : wOp (word s t) = o

/-- The same for an instruction that reads memory in the cycle in which it issues: the writes that reach their counts in that cycle,
and its DMA steps, come first (R292, R293; assumption 15). -/
structure Reads (s : State) (t c o : Nat) : Prop where
  on : s.board.off = false
  turn : Turn s.settleWrites t c o

/-- Scalar register operands of the word, as 64-bit values. -/
def ra (s : State) (t : Nat) : Word := BitVec.ofNat 64 ((s.thread t).sreg (wRa (word s t)))
def rb (s : State) (t : Nat) : Word := BitVec.ofNat 64 ((s.thread t).sreg (wRb (word s t)))
def imm (s : State) (t : Nat) : Word := (BitVec.ofNat 32 (word s t / 2 ^ 32)).signExtend 64
def rd (s : State) (t : Nat) : Nat := wRd (word s t)

/-- Thread t issued one instruction from s to u: its record joins the incomplete ones with the due cycle, the pending
registers and the effects named; the thread's PC is `pc`, no register of it changed; every other thread is as it was; the
tile notes who issued and when; and nothing outside the kinds `ks` changed. -/
structure Issued (s u : State) (t pc count : Nat) (sdst vdst : Option Nat) (fx : List Effect) (ks : List Kind) : Prop where
  flight : ∃ f : InFlight, u.inflight = s.inflight ++ [f] ∧ f.id = s.nextIf ∧ f.thread = t ∧
    f.word = BitVec.ofNat 64 (word s t) ∧ f.pc = (s.thread t).pc ∧ f.issue = s.now ∧ f.due = s.now + count ∧
    f.sdst = sdst ∧ f.vdst = vdst ∧ f.effects = fx
  next : u.nextIf = s.nextIf + 1
  pc : (u.thread t).pc = pc
  state : (u.thread t).state = (s.thread t).state ∧ (u.thread t).record = (s.thread t).record ∧
    (u.thread t).owner = (s.thread t).owner
  sregs : (u.thread t).sregs = (s.thread t).sregs
  vregs : (u.thread t).vregs = (s.thread t).vregs
  threads : ∀ v, v ≠ t → u.thread v = s.thread v
  tile : (u.tile (t / 16)).lastThread = t % 16 ∧ (u.tile (t / 16)).lastIssue = some s.now ∧
    (u.tile (t / 16)).banks = (s.tile (t / 16)).banks ∧ (u.tile (t / 16)).nf = (s.tile (t / 16)).nf
  tiles : ∀ v, v ≠ t / 16 → u.tile v = s.tile v
  frame : ∀ k : Kind, k ∉ [Kind.threads, .tiles, .inflight, .nextIf] ++ ks → k.same s u

/-- Where the next instruction stands. -/
def after (s : State) (t : Nat) : Nat := (s.thread t).pc + 8
/-- The target of a relative branch or jump: PC plus 8 × IMM, modulo 2^64. -/
def target (s : State) (t : Nat) : Nat := (BitVec.ofNat 64 (s.thread t).pc + 8 * imm s t).toNat
/-- No write to s0 is pending. -/
def dst (r : Nat) : Option Nat := if r = 0 then none else some r

/-- Commands, opcodes, counts and results of the register-register rows of R275. -/
def aluRows : List ((Nat → Instr) × Nat × Nat × (Word → Word → Word)) :=
  [(.add, 0x00, 2, fun a b => a + b), (.sub, 0x01, 2, fun a b => a - b), (.and, 0x02, 2, fun a b => a &&& b),
   (.or, 0x03, 2, fun a b => a ||| b), (.xor, 0x04, 2, fun a b => a ^^^ b),
   (.shl, 0x05, 2, fun a b => a <<< (b.toNat % 64)), (.shr, 0x06, 2, fun a b => a >>> (b.toNat % 64)),
   (.sra, 0x07, 2, fun a b => a.sshiftRight (b.toNat % 64)), (.slt, 0x08, 2, fun a b => if a.slt b then 1 else 0),
   (.sltu, 0x09, 2, fun a b => if a < b then 1 else 0), (.mul, 0x0A, 4, fun a b => a * b),
   (.mulhu, 0x0B, 4, fun a b => ((a.setWidth 128 * b.setWidth 128) >>> 64).setWidth 64),
   (.divu, 0x0C, 34, fun a b => if b = 0 then BitVec.allOnes 64 else a / b),
   (.remu, 0x0D, 34, fun a b => if b = 0 then a else a % b)]

/-- Rows with an immediate. -/
def immRows : List ((Nat → Instr) × Nat × (Word → Word → Word)) :=
  [(.addi, 0x10, fun a i => a + i), (.andi, 0x11, fun a i => a &&& i), (.shli, 0x12, fun a i => a <<< (i.toNat % 64)),
   (.shri, 0x13, fun a i => a >>> (i.toNat % 64)),
   (.movhi, 0x14, fun a i => (a.setWidth 32).setWidth 64 ||| ((i.setWidth 32).setWidth 64 <<< 32))]

/-- Branch conditions. -/
def branchRows : List ((Nat → Instr) × Nat × (Word → Word → Bool)) :=
  [(.beq, 0x20, fun a b => a == b), (.bne, 0x21, fun a b => a != b), (.blt, 0x22, fun a b => a.slt b),
   (.bge, 0x23, fun a b => !a.slt b), (.bltu, 0x24, fun a b => a.ult b), (.bgeu, 0x25, fun a b => !a.ult b)]

end Sys2Proof.Claims

open Sys2Proof.Claims in
/-- The register-register rows of R275: each issues with its count and its 64-bit result for rd. -/
def Sys2Proof.Claims.RegisterRowsIssueTheirResult : Prop :=
  ∀ row ∈ aluRows, ∀ (s : State) (t : Nat), Turn s t 0 row.2.1 →
    ∃ u, exec (row.1 t) s = .next u ∧
      Issued s u t (after s t) row.2.2.1 (dst (rd s t)) none [.sreg (rd s t) (row.2.2.2 (ra s t) (rb s t))] []

open Sys2Proof.Claims in
/-- The immediate rows of R275 and MOVS (R261). -/
def Sys2Proof.Claims.ImmediateRowsIssueTheirResult : Prop :=
  (∀ row ∈ immRows, ∀ (s : State) (t : Nat), Turn s t 0 row.2.1 →
    ∃ u, exec (row.1 t) s = .next u ∧
      Issued s u t (after s t) 2 (dst (rd s t)) none [.sreg (rd s t) (row.2.2 (ra s t) (imm s t))] []) ∧
  ∀ (s : State) (t : Nat), Turn s t 0 0x15 → ∃ u v, exec (.movs t) s = .next u ∧
    Issued s u t (after s t) 2 (dst (rd s t)) none [.sreg (rd s t) v] [] ∧
    (imm s t = 0 → v = BitVec.ofNat 64 t) ∧
    (imm s t = 1 → v = BitVec.ofNat 64 (s.thread t).tileNo) ∧
    (imm s t = 2 → v = BitVec.ofNat 64 (s.thread t).ctx) ∧
    (imm s t = 3 → v = BitVec.ofNat 64 (1024 * s.time.mark + s.time.cyc)) ∧
    (imm s t = 4 → v = BitVec.ofNat 64 (s.thread t).spBase) ∧
    (imm s t = 5 → v = BitVec.ofNat 64 (s.thread t).spSize) ∧
    (imm s t = 6 → v = BitVec.ofNat 64 ((s.thread t).accBase + 256 * (s.thread t).accBlocks)) ∧
    (imm s t = 7 → v = BitVec.ofNat 64 (s.thread t).pc)

open Sys2Proof.Claims in
/-- The scalar rows: register rows and rows with an immediate issue with their result (R275). -/
def Obligations.ScalarRowsIssueTheirResult : Prop :=
  RegisterRowsIssueTheirResult ∧ ImmediateRowsIssueTheirResult

open Sys2Proof.Claims in
/-- The branches of R275: a branch that is taken moves the PC by 8 × IMM and has count 3, one that is not has count 1. -/
def Sys2Proof.Claims.BranchesGoWhereTheirConditionSays : Prop :=
  ∀ row ∈ branchRows, ∀ (s : State) (t : Nat), Turn s t 0 row.2.1 →
    ∃ u, exec (row.1 t) s = .next u ∧
      (row.2.2 (ra s t) (rb s t) = true → Issued s u t (target s t) 3 none none [] [] ∧ (u.thread t).nextAt = s.now + 3) ∧
      (row.2.2 (ra s t) (rb s t) = false → Issued s u t (after s t) 1 none none [] [])

open Sys2Proof.Claims in
/-- JAL and JALR link the address of the following instruction and jump (R275). -/
def Sys2Proof.Claims.JumpsLinkAndJump : Prop :=
  ∀ (s : State) (t : Nat),
    (Turn s t 0 0x26 → ∃ u, exec (.jal t) s = .next u ∧ (u.thread t).nextAt = s.now + 3 ∧
      Issued s u t (target s t) 3 (dst (rd s t)) none [.sreg (rd s t) (BitVec.ofNat 64 (after s t))] []) ∧
    (Turn s t 0 0x27 → ∃ u, exec (.jalr t) s = .next u ∧ (u.thread t).nextAt = s.now + 3 ∧
      Issued s u t (ra s t + 8 * imm s t).toNat 3 (dst (rd s t)) none
        [.sreg (rd s t) (BitVec.ofNat 64 (after s t))] [])

open Sys2Proof.Claims in
/-- Branches and jumps go to their targets (R274, R275). -/
def Obligations.BranchesAndJumpsGoToTheirTarget : Prop :=
  BranchesGoWhereTheirConditionSays ∧ JumpsLinkAndJump

namespace Sys2Proof.Claims

/-- Local offset of a register value plus IMM. -/
def loc (s : State) (t : Nat) (v : Word) : Nat := (v + imm s t).toNat
/-- Bytes that the access of LD or ST moves: 2^AUX[1:0]. -/
def accessBytes (s : State) (t : Nat) : Nat := 2 ^ (wAux (word s t) % 4)
/-- The kinds that an access to memory can touch beside the thread, its tile and the incomplete instructions: none unless its home is a
GDDR7, whose L2, queue and events it may change, or an expander, which has its queue. -/
def sideKinds (g : Target) : List Kind :=
  if g.gddr.isSome then [.regs, .parts, .hosts, .soot, .outbox] else if g.cxl.isSome then [.parts] else []
/-- A load from a host window sends its request to the host (R55). -/
def askKinds (g : Target) : List Kind := if g.host.isSome then [.outbox] else []
/-- The read of the access at its home stays uncorrectable: GDDR7 is read, not L2 (R537). -/
def uncorrectable (s : State) (g : Target) (edc : Nat) : Option (Nat × Nat) :=
  match g.gddr with
  | some (q, off) => if 2 ≤ edc ∧ (s.part q).l2Hit off = false then some (q, off) else none
  | none => none

end Sys2Proof.Claims

open Sys2Proof.Claims in
/-- LD, ST, VLD and VST (R276): four cycles; a load reads the local scratchpad in the issue cycle, after the writes of that cycle
(R292; assumption 15), a store writes it at the count. -/
def Sys2Proof.Claims.LocalLoadsAndStoresIssue : Prop :=
  ∀ (s : State) (t : Nat),
    let v := s.settleWrites
    (Reads s t 1 0x00 → ∃ u, exec (.ld t) s = .next u ∧
      Issued v u t (after v t) 4 (dst (rd v t)) none
        [.sreg (rd v t) (BitVec.ofNat 64 (v.localLE (v.thread t) (loc v t (ra v t)) (accessBytes v t)))] []) ∧
    (Turn s t 1 0x01 → ∃ u, exec (.st t) s = .next u ∧
      Issued s u t (after s t) 4 none none
        [.store ((s.thread t).base + loc s t (ra s t)) (toLE (accessBytes s t) (rb s t).toNat)] []) ∧
    (Reads s t 1 0x02 → ∃ u, exec (.vld t) s = .next u ∧
      Issued v u t (after v t) 4 none (some (rd v t))
        [.vreg (rd v t) (bytesLanes (v.localBytes (v.thread t) (loc v t (ra v t)) 256))] []) ∧
    (Turn s t 1 0x03 → ∃ u, exec (.vst t) s = .next u ∧
      Issued s u t (after s t) 4 none none
        [.store ((s.thread t).base + loc s t (ra s t)) (laneBytes ((s.thread t).vreg (rd s t)))] [])

open Sys2Proof.Claims in
/-- GLD and GST (R276, R278, R279, R296): the count and the target are those of the translated address; a load that faults
leaves its destination undefined and faults its thread, a store that faults is not performed. `edc` is 0 for a read without
a detected link error, 1 for one that was repeated, and 2 or 3 for one that stays uncorrectable (R537). A GST takes its local bytes
after the writes of its issue cycle (assumption 15). -/
def Sys2Proof.Claims.RemoteLoadsAndStoresIssue : Prop :=
  ∀ (s : State) (t : Nat),
    (∀ edc, Turn s t 1 0x08 →
      let x := s.thread t
      let g := s.target x (ra s t).toNat true false false true
      let o := x.base + loc s t (rb s t)
      ∃ u, exec (.gld t edc) s = .next u ∧
        Issued s u t (after s t) g.count none none
          (match g.pa, uncorrectable s g edc with
           | none, _ => [.undef o 64, .fault x.ctx]
           | some _, some (q, off) => [.undef o 64, .memUe q off, .fault x.ctx]
           | some a, none => [.load a o 64 none]) (sideKinds g ++ askKinds g)) ∧
    (∀ retries, Reads s t 1 0x09 →
      let v := s.settleWrites
      let x := v.thread t
      let g := v.target x (ra v t).toNat false true false false
      ∃ u, exec (.gst t retries) s = .next u ∧
        Issued v u t (after v t) g.count none none
          (match g.pa with
           | none => [.fault x.ctx]
           | some a => [.store a (v.localBytes x (loc v t (rb v t)) 64)]) (sideKinds g))

open Sys2Proof.Claims in
/-- Local loads and stores, and those outside the tile, issue. -/
def Obligations.LoadsAndStoresIssue : Prop :=
  LocalLoadsAndStoresIssue ∧ RemoteLoadsAndStoresIssue

open Sys2Proof.Claims in
/-- SIG_ADD (R276, R279, R288, R289, R537, R547, R608): it issues when every earlier write of its thread has reached its count;
it needs READ and WRITE, adds rb to the 8-byte word and returns the old value; a signal that a replay suppresses adds nothing,
and one whose word GDDR7 gives uncorrectable is not performed. -/
def Sys2Proof.Claims.SigAddIssues : Prop :=
  ∀ (s : State) (t edc retries : Nat), Turn s t 5 0x00 →
    let x := s.thread t
    let g := s.target x (ra s t).toNat true true true (rd s t != 0)
    (∀ i ∈ s.inflight, i.thread = t → writesMemory i.word.toNat = false) ∧
    ∃ u, exec (.sigAdd t edc retries) s = .next u ∧
      Issued s u t (after s t) g.count (dst (rd s t)) none
        (match g.pa with
         | none => [.fault x.ctx]
         | some a =>
           if 0 < x.suppress then
             (if rd s t = 0 then [] else [.sreg (rd s t) (BitVec.ofNat 64 (s.readLE a 8))])
           else match uncorrectable s g edc with
             | some (q, off) => [.memUe q off, .fault x.ctx]
             | none => [.sigAdd a (rd s t) (rb s t) true]) (sideKinds g) ∧
      (u.thread t).suppress = (if 0 < x.suppress ∧ g.pa.isSome then x.suppress - 1 else x.suppress)

open Sys2Proof.Claims in
/-- SIG_WAIT issues once its word, after the writes of the cycle, is at least rb, at its timeout mark, or at once with AUX = 0 (R290);
MARK_WAIT once
MARK_NOW is at least ra (R291); TFENCE and EXIT once every earlier instruction of the thread has reached its count (R276). -/
def Sys2Proof.Claims.WaitingInstructionsIssue : Prop :=
  ∀ (s : State) (t : Nat),
    (Reads s t 5 0x01 →
      let v := s.settleWrites
      let y := v.localLE (v.thread t) (loc v t (ra v t)) 8
      ((rb v t).toNat ≤ y ∨ wAux (word v t) = 0 ∨ (v.thread t).timedOut = true) ∧
      ∃ u, exec (.sigWait t) s = .next u ∧
        Issued v u t (after v t) 2 (dst (rd v t)) none [.sreg (rd v t) (BitVec.ofNat 64 y)] []) ∧
    (Turn s t 5 0x02 →
      (ra s t).toNat ≤ s.time.mark ∧ ∃ u, exec (.markWait t) s = .next u ∧
        Issued s u t (after s t) 1 (dst (rd s t)) none
          [.sreg (rd s t) (BitVec.ofNat 64 (1024 * s.time.mark + s.time.cyc))] []) ∧
    (Turn s t 5 0x03 →
      (∀ i ∈ s.inflight, i.thread ≠ t) ∧ ∃ u, exec (.tfence t) s = .next u ∧
        Issued s u t (after s t) 1 none none [] []) ∧
    (Turn s t 5 0x04 →
      (∀ i ∈ s.inflight, i.thread ≠ t) ∧ ∃ u, exec (.exit t) s = .next u ∧
        Issued s u t (after s t) 1 none none [.exit] [])

open Sys2Proof.Claims in
/-- A waiting SIG_WAIT times out AUX marks after the mark in which it became the thread's next instruction (R290): from then
on it is ready. Nothing else changes. -/
def Sys2Proof.Claims.SigWaitTimesOut : Prop :=
  ∀ (s : State) (t : Nat), s.Inv → s.board.off = false → s.offers t = true → (s.thread t).pcOk = true →
    wClass (word s t) = 5 → wOp (word s t) = 1 → (s.thread t).nextMark + wAux (word s t) ≤ s.time.mark →
    ∃ u, exec (.sigWaitTimeout t) s = .next u ∧ u.thread t = { s.thread t with timedOut := true } ∧
      (∀ v, v ≠ t → u.thread v = s.thread v) ∧ ∀ k : Kind, k ≠ .threads → k.same s u

open Sys2Proof.Claims in
/-- DMA_SUBMIT (R277, R311): a sound descriptor, read after the writes of the issue cycle (assumption 15), joins the channel AUX[1:0]
of the thread's cluster, to start 4 cycles after the issue at the earliest; one that breaks a check of R311 queues nothing and faults its
thread 4 cycles later. -/
def Sys2Proof.Claims.DmaSubmitQueuesItsDescriptor : Prop :=
  ∀ (s0 : State) (t : Nat), Reads s0 t 4 0x00 →
    let s := s0.settleWrites
    let x := s.thread t
    let d := s.localBytes x (ra s t).toNat 64
    let ch := wAux (word s t) % 4
    ∃ u, exec (.dmaSubmit t) s0 = .next u ∧
      (s.descOk (x.tileNo / 8) d = true → Issued s u t (after s t) 4 none none [] [.clusters] ∧
        (∀ c, c ≠ t / 128 → u.cluster c = s.cluster c) ∧
        ∃ q : Desc, (u.cluster (t / 128)).channels =
            tset [] (s.cluster (t / 128)).channels ch (s.channel (t / 128) ch ++ [q]) ∧
          q.thread = t ∧ q.ifId = s.nextIf ∧ q.bytes = d ∧ q.ctx = x.ctx ∧ q.queued = s.now + 4 ∧ q.running = false ∧
          q.signal = (if bit (wAux (word s t)) 2 = false ∨ 0 < x.suppress then none else some (x.base + (rb s t).toNat))) ∧
      (s.descOk (x.tileNo / 8) d = false → Issued s u t (after s t) 4 none none [.badDesc (ra s t).toNat] [])

open Sys2Proof.Claims in
/-- Signals, the waiting instructions, EXIT and DMA_SUBMIT issue. -/
def Obligations.SignalsWaitsAndDmaIssue : Prop :=
  SigAddIssues ∧ WaitingInstructionsIssue ∧ SigWaitTimesOut ∧ DmaSubmitQueuesItsDescriptor

namespace Sys2Proof.Claims

/-! ## Vector and Spark instructions -/

/-- Lane i of a register, and element j of a BF16 register (R259, R260). -/
def lane (v : List Word32) (i : Nat) : Word32 := v.getD i 0
def half (v : List Word32) (j : Nat) : Machine.Num := bf16.decode ((lane v (j / 2)).toNat / 2 ^ (16 * (j % 2)) % 2 ^ 16)
/-- A register by its lanes. -/
def reg (f : Nat → Word32) : List Word32 := (List.range 64).map f
/-- Vector operands of the word. -/
def va (s : State) (t : Nat) : List Word32 := (s.thread t).vreg (vVa (word s t))
def vb (s : State) (t : Nat) : List Word32 := (s.thread t).vreg (vVb (word s t))
def vc (s : State) (t : Nat) : List Word32 := (s.thread t).vreg (vVc (word s t))
def vd (s : State) (t : Nat) : Nat := vVd (word s t)

/-- A register result by data type: `f` gives FP32 lane codes, `g` BF16 element codes. -/
def byType (dt : Nat) (f g : Nat → Nat) (v : List Word32) : Prop :=
  (dt = 0 → v = reg fun i => BitVec.ofNat 32 (f i)) ∧
  (dt = 1 → v = reg fun i => BitVec.ofNat 32 (g (2 * i) + 2 ^ 16 * g (2 * i + 1)))

/-- FP32 number of a lane. -/
def num (v : List Word32) (i : Nat) : Machine.Num := ofF32 (lane v i).toNat
/-- BF16 code of an FP32 result (R299). -/
def bf (x : Machine.Num) : Nat := bf16.ieee (ofF32 (toF32 x))

/-- Two-operand rows of R281: opcode, count, operation. -/
def laneRows : List ((Nat → Instr) × Nat × Nat × (Machine.Num → Machine.Num → Machine.Num)) :=
  [(.vadd, 0x00, 6, Machine.Num.add), (.vsub, 0x01, 6, fun a b => a.add b.neg1), (.vmul, 0x02, 6, Machine.Num.mul),
   (.vmax, 0x04, 4, numMax), (.vmin, 0x05, 4, numMin)]

/-- Integer rows (R304). -/
def intRows : List ((Nat → Instr) × Nat × Nat × (Word32 → Word32 → Word32)) :=
  [(.viadd, 0x20, 4, fun a b => a + b), (.visub, 0x21, 4, fun a b => a - b), (.vimul, 0x22, 4, fun a b => a * b),
   (.vand, 0x23, 2, fun a b => a &&& b), (.vor, 0x24, 2, fun a b => a ||| b), (.vxor, 0x25, 2, fun a b => a ^^^ b),
   (.vshl, 0x26, 2, fun a b => a <<< (b.toNat % 32)), (.vshr, 0x27, 2, fun a b => a >>> (b.toNat % 32))]

/-- Special functions (R301). -/
def specialRows : List ((Nat → Instr) × Nat) :=
  [(.vexp2, 0x10), (.vlog2, 0x11), (.vrcp, 0x12), (.vrsqrt, 0x13), (.vsin, 0x14), (.vcos, 0x15)]

/-- Reductions (R302). -/
def treeRows : List ((Nat → Instr) × Nat × Nat × (Machine.Num → Machine.Num → Machine.Num)) :=
  [(.vrsum, 0x18, 10, Machine.Num.add), (.vrmax, 0x19, 8, numMax)]

/-- The tree of R302 after j levels: lane i combines with lane i + 32, then i + 16, and so on. -/
def tree (f : Machine.Num → Machine.Num → Machine.Num) (x : Nat → Nat) : Nat → Nat → Nat
  | 0, i => x i
  | j + 1, i => toF32 (f (ofF32 (tree f x j i)) (ofF32 (tree f x j (i + 2 ^ (5 - j)))))

end Sys2Proof.Claims

open Sys2Proof.Claims in
/-- VADD, VSUB, VMUL, VMAX, VMIN and VFMA (R281, R298 to R300): the lanes of the result, and BF16 results rounded through FP32
(VFMA once, directly). -/
def Sys2Proof.Claims.LaneArithmeticIssues : Prop :=
  (∀ row ∈ laneRows, ∀ (s : State) (t : Nat), Turn s t 2 row.2.1 →
    ∃ u v, exec (row.1 t) s = .next u ∧ Issued s u t (after s t) row.2.2.1 none (some (vd s t)) [.vreg (vd s t) v] [] ∧
      byType (vDt (word s t)) (fun i => toF32 (row.2.2.2 (num (va s t) i) (num (vb s t) i)))
        (fun j => bf (row.2.2.2 (half (va s t) j) (half (vb s t) j))) v) ∧
  ∀ (s : State) (t : Nat), Turn s t 2 0x03 →
    ∃ u v, exec (.vfma t) s = .next u ∧ Issued s u t (after s t) 6 none (some (vd s t)) [.vreg (vd s t) v] [] ∧
      byType (vDt (word s t)) (fun i => toF32 (((num (va s t) i).mul (num (vb s t) i)).add (num (vc s t) i)))
        (fun j => bf16.ieee (((half (va s t) j).mul (half (vb s t) j)).add (half (vc s t) j))) v

open Sys2Proof.Claims in
/-- VCMP, VSEL, VBCAST and VEXTR (R281, R300, R304). -/
def Sys2Proof.Claims.ComparesAndLaneMovesIssue : Prop :=
  ∀ (s : State) (t : Nat),
    (Turn s t 2 0x06 → ∃ u v, exec (.vcmp t) s = .next u ∧
      Issued s u t (after s t) 4 none (some (vd s t)) [.vreg (vd s t) v] [] ∧
      byType (vDt (word s t))
        (fun i => if compare (vCc (word s t)) (num (va s t) i) (num (vb s t) i) then 2 ^ 32 - 1 else 0)
        (fun j => if compare (vCc (word s t)) (half (va s t) j) (half (vb s t) j) then 2 ^ 16 - 1 else 0) v) ∧
    (Turn s t 2 0x07 → ∃ u, exec (.vsel t) s = .next u ∧
      Issued s u t (after s t) 2 none (some (vd s t))
        [.vreg (vd s t) (reg fun i => if lane (vc s t) i = 0 then lane (vb s t) i else lane (va s t) i)] []) ∧
    (Turn s t 2 0x08 → ∃ u, exec (.vbcast t) s = .next u ∧
      Issued s u t (after s t) 2 none (some (vd s t))
        [.vreg (vd s t) (reg fun _ => BitVec.ofNat 32 ((s.thread t).sreg (vRs (word s t))))] []) ∧
    (Turn s t 2 0x09 → ∃ u, exec (.vextr t) s = .next u ∧
      Issued s u t (after s t) 4 (dst (vRt (word s t))) none
        [.sreg (vRt (word s t)) ((lane (va s t) ((s.thread t).sreg (vRs (word s t)) % 64)).setWidth 64)] [])

open Sys2Proof.Claims in
/-- The integer rows (R281, R304): results modulo 2^32, shifts by the amount modulo 32. -/
def Sys2Proof.Claims.IntegerLaneRowsIssue : Prop :=
  ∀ row ∈ intRows, ∀ (s : State) (t : Nat), Turn s t 2 row.2.1 →
    ∃ u, exec (row.1 t) s = .next u ∧
      Issued s u t (after s t) row.2.2.1 none (some (vd s t))
        [.vreg (vd s t) (reg fun i => row.2.2.2 (lane (va s t) i) (lane (vb s t) i))] []

open Sys2Proof.Claims in
/-- The lane rows: arithmetic, compares, moves and integer rows issue with their lanes. -/
def Obligations.LaneRowsIssueTheirResult : Prop :=
  LaneArithmeticIssues ∧ ComparesAndLaneMovesIssue ∧ IntegerLaneRowsIssue

open Sys2Proof.Claims in
/-- The special functions take 12 cycles (R281, R301); their values at the special inputs stand in
`SpecialFunctionsAtSpecialInputs`. -/
def Sys2Proof.Claims.SpecialFunctionsIssue : Prop :=
  ∀ row ∈ specialRows, ∀ (s : State) (t : Nat), Turn s t 2 row.2 →
    ∃ u v, exec (row.1 t) s = .next u ∧ Issued s u t (after s t) 12 none (some (vd s t)) [.vreg (vd s t) v] [] ∧
      byType (vDt (word s t)) (fun i => toF32 (specialOf row.2 (num (va s t) i)))
        (fun j => bf (specialOf row.2 (half (va s t) j))) v

open Sys2Proof.Claims in
/-- The special inputs of R301, and at the others its accuracy: VEXP2 and VLOG2 lie within 2 ulp of the value (VLOG2 within
2^-22 where that is below 1), VSIN and VCOS within 2^-22; VRCP is exact at powers of 2. The values themselves are those of the
fixed-point series of Machine/Reals.lean (assumption 7). -/
def Sys2Proof.Claims.SpecialFunctionsAtSpecialInputs : Prop :=
  (∀ op ∈ [0x10, 0x11, 0x12, 0x13, 0x14, 0x15], specialOf op .nan = .nan) ∧
  (specialOf 0x10 (.inf false) = .inf false ∧ specialOf 0x10 (.inf true) = Machine.Num.zero0 ∧
    specialOf 0x11 (.inf false) = .inf false ∧ specialOf 0x11 (.inf true) = .nan ∧
    specialOf 0x13 (.inf false) = Machine.Num.zero0 ∧ specialOf 0x13 (.inf true) = .nan) ∧
  (∀ b, specialOf 0x12 (.inf b) = Machine.Num.zero0 ∧ specialOf 0x14 (.inf b) = .nan ∧ specialOf 0x15 (.inf b) = .nan) ∧
  (∀ b e, specialOf 0x11 (.fin b 0 e) = .inf true ∧ specialOf 0x12 (.fin b 0 e) = .inf false ∧
    specialOf 0x13 (.fin b 0 e) = .inf false) ∧
  (∀ m e, 0 < m → specialOf 0x11 (.fin true m e) = .nan ∧ specialOf 0x13 (.fin true m e) = .nan) ∧
  (∀ m : Nat, ∀ e : Int, 0 ≤ e → 128 ≤ m * 2 ^ e.toNat → specialOf 0x10 (.fin false m e) = .inf false) ∧
  (∀ m : Nat, ∀ e : Int, 0 ≤ e → 126 < m * 2 ^ e.toNat → specialOf 0x10 (.fin true m e) = Machine.Num.zero0) ∧
  (∀ b k e, specialOf 0x12 (.fin b (2 ^ k) e) = .fin b 1 (-e - (k : Nat))) ∧
  ∀ b m e,
    let x : Machine.Num := .fin b m e
    let l := Machine.Num.ofInt (log2Fix m e) (-96)
    (-126 ≤ floorOf b m e → floorOf b m e < 128 →
      (specialOf 0x10 x).within (pow2Fix (x.units (-96))) (ulps 2 (pow2Fix (x.units (-96)))) = true) ∧
    (b = false → 0 < m → (specialOf 0x11 x).within l
      (if l.absOf.lt (Machine.Num.two 0) then Machine.Num.two (-22) else ulps 2 l) = true) ∧
    (specialOf 0x14 x).within (sinTurn x) (Machine.Num.two (-22)) = true ∧
    (specialOf 0x15 x).within (cosTurn x) (Machine.Num.two (-22)) = true

open Sys2Proof.Claims in
/-- The special functions issue, and answer their special inputs as listed. -/
def Obligations.SpecialFunctionRowsIssue : Prop :=
  SpecialFunctionsIssue ∧ SpecialFunctionsAtSpecialInputs

open Sys2Proof.Claims in
/-- VRSUM and VRMAX reduce in the fixed tree, with the BF16 pairs combined first (R302); VRARGMAX gives the largest element
and the lowest index that holds it (R303). -/
def Sys2Proof.Claims.ReductionsIssue : Prop :=
  (∀ row ∈ treeRows, ∀ (s : State) (t : Nat), Turn s t 2 row.2.1 →
    ∃ u v, exec (row.1 t) s = .next u ∧
      Issued s u t (after s t) row.2.2.1 none (some (vd s t))
        [.vreg (vd s t) (reg fun i => if i = 0 then BitVec.ofNat 32 v else 0)] [] ∧
      (vDt (word s t) = 0 → v = tree row.2.2.2 (fun i => toF32 (num (va s t) i)) 6 0) ∧
      (vDt (word s t) = 1 → v = tree row.2.2.2
        (fun i => toF32 (row.2.2.2 (ofF32 (toF32 (half (va s t) (2 * i)))) (ofF32 (toF32 (half (va s t) (2 * i + 1)))))) 6 0)) ∧
  ∀ (s : State) (t : Nat), Turn s t 2 0x1A →
    ∃ u r, exec (.vrargmax t) s = .next u ∧
      Issued s u t (after s t) 8 none (some (vd s t))
        [.vreg (vd s t) (reg fun i => if i = 0 then BitVec.ofNat 32 r.1 else if i = 1 then BitVec.ofNat 32 r.2 else 0)] [] ∧
      (vDt (word s t) = 0 → r = argmax ((List.range 64).map (num (va s t)))) ∧
      (vDt (word s t) = 1 → r = argmax ((List.range 128).map (half (va s t))))

open Sys2Proof.Claims in
/-- VCVT, VUNPK, SPK_BITS and SPK_GUMBEL (R281, R282, R305 to R307, R321, R328): random words come from the stream that RS
names, from the element that RT names, a multiple of 64: another element is illegal in the cycle of the check (R294). -/
def Sys2Proof.Claims.ConversionsAndSparkIssue : Prop :=
  ∀ (s : State) (t : Nat),
    let st := (s.thread t).sreg (vRs (word s t))
    let el := (s.thread t).sreg (vRt (word s t))
    let z := s.seedOf (s.thread t).ctx
    ((s.thread t).checked = none →
      (Turn s t 2 0x30 → vRnd (word s t) = 1 → el % 64 = 0) ∧ ((Turn s t 6 0x00 ∨ Turn s t 6 0x01) → el % 64 = 0)) ∧
    (Turn s t 2 0x30 → (vRnd (word s t) = 1 → el % 64 = 0) → ∃ u, exec (.vcvt t) s = .next u ∧
      Issued s u t (after s t) 6 none (some (vd s t))
        [.vreg (vd s t) (vcvt (vDt (word s t)) (va s t)
          ((List.range 64).map fun i => if vRnd (word s t) = 1 then some (sparkWord z st (el + i)) else none))] []) ∧
    (Turn s t 2 0x31 → ∃ u, exec (.vunpk t) s = .next u ∧
      Issued s u t (after s t) 6 none (some (vd s t)) [.vreg (vd s t) (vunpk (vDt (word s t)) (va s t))] []) ∧
    (Turn s t 6 0x00 → el % 64 = 0 → ∃ u, exec (.spkBits t) s = .next u ∧
      Issued s u t (after s t) 10 none (some (vd s t))
        [.vreg (vd s t) (reg fun i => BitVec.ofNat 32 (sparkWord z st (el + i)))] []) ∧
    (Turn s t 6 0x01 → el % 64 = 0 → ∃ u, exec (.spkGumbel t) s = .next u ∧
      Issued s u t (after s t) 16 none (some (vd s t))
        [.vreg (vd s t) (reg fun i =>
          BitVec.ofNat 32 (toF32 ((num (va s t) i).add (gumbelNum (sparkWord z st (el + i))))))] [])

open Sys2Proof.Claims in
/-- Reductions, conversions and the Spark rows issue. -/
def Obligations.ReductionsAndConversionsIssue : Prop :=
  ReductionsIssue ∧ ConversionsAndSparkIssue

namespace Sys2Proof.Claims

/-! ## Matrix and Damper instructions -/

/-- Scratchpad offset of format-M operand RA. -/
def mra (s : State) (t : Nat) : Nat := (s.thread t).sreg (mRa (word s t))
/-- Arrays of the mask, ascending (R207). -/
def arrays (s : State) (t : Nat) : List Nat := [0, 1, 2, 3].filter fun a => bit (mMask (word s t)) a
/-- Damper slot of the word, on the partition of the thread. -/
def slot (s : State) (t : Nat) : Nat := mDslot (word s t)
/-- Vectors of a stream: IMM[56:47] plus 1 (R284). -/
def vectors (s : State) (t : Nat) : Nat := mImm (word s t) % 1024 + 1
/-- Cycles per pass of a stream: 4 in the 16-bit class, else 1 (R160). -/
def passCycles (s : State) (t : Nat) : Nat :=
  if s.streamClass (s.thread t).tileNo (mMask (word s t)) (mBank (word s t)) (mDtype (word s t)) = 2 then 4 else 1
/-- 1 where a switch cycle comes first: the named bank is not current on some array of the mask (R214). -/
def switchCycle (s : State) (t : Nat) : Nat :=
  if (arrays s t).any fun a => bit (s.tile (s.thread t).tileNo).current a != (mBank (word s t) == 1) then 1 else 0

end Sys2Proof.Claims

open Sys2Proof.Claims in
/-- MAT_LOAD (R210, R283): its count is ρ × R + 3, and each array of its mask, in ascending order, takes the bank with the
rate class of the format and the scale offset of the issue cycle (R222), after the writes of that cycle (assumption 15). -/
def Sys2Proof.Claims.MatLoadIssues : Prop :=
  ∀ (s0 : State) (t : Nat), Reads s0 t 3 0x00 →
    let s := s0.settleWrites
    ∃ (u : State) (fx : List Effect), exec (.matLoad t) s0 = .next u ∧
      Issued s u t (after s t)
        ((if rateClass (mDtype (word s t)) = 2 then 2 else 1) * (mImm (word s t) % 64 + 1) + 3) none none fx [] ∧
      fx.length = (arrays s t).length ∧
      ∀ (i a : Nat), (arrays s t)[i]? = some a → ∃ b : Bank,
        fx[i]? = some (Effect.bank (s.thread t).tileNo a (mBank (word s t)) b) ∧
        b.cls = rateClass (mDtype (word s t)) ∧ b.scale = s.scaleOffset (s.thread t) (word s t)

open Sys2Proof.Claims in
/-- MAT_STREAM (R214 to R217, R284): its count is w + r × (V + 1) + 26, the stream port is occupied for w + r × V + r + 12
cycles, the named bank becomes current on the arrays of the mask, and its passes run from its operands as its issue fixes them.
`upsets` names the hardware errors that they meet. -/
def Sys2Proof.Claims.MatStreamIssues : Prop :=
  ∀ (s : State) (t : Nat) (upsets : List (Nat × Nat × Nat × Int)), Turn s t 3 0x01 → (s.thread t).tileNo = t / 16 →
    let w := word s t
    let x := s.thread t
    ∃ u : State, exec (.matStream t upsets) s = .next u ∧
      Issued s u t (after s t) (switchCycle s t + passCycles s t * (vectors s t + 1) + 26) none none [] [] ∧
      (u.tile (t / 16)).portFree = s.now + (switchCycle s t + passCycles s t * vectors s t + passCycles s t + 12) ∧
      (∀ a, a < 4 → bit (u.tile (t / 16)).current a =
        if bit (mMask w) a then mBank w == 1 else bit (s.tile (t / 16)).current a) ∧
      ∃ r : StreamRun, (u.inflight.getLast?.map fun f => f.run) = some (some r) ∧ r.w = switchCycle s t ∧ r.r = passCycles s t ∧
        r.v = vectors s t ∧ r.mask = mMask w ∧ r.bank = mBank w ∧ r.dt = mDtype w ∧ r.base = x.sreg (mRb w) % 2 ^ 16 ∧
        r.wide = mAf w ∧ r.init = mInit w ∧ r.src = mra s t % 2 ^ 24 ∧ r.stride = mra s t / 2 ^ 24 % 2 ^ 24 ∧
        r.ta = s.scaleOffset x w ∧ r.upsets = upsets ∧ r.vecs = [] ∧ r.sums = [] ∧ r.claimed = none ∧ r.out = false

open Sys2Proof.Claims in
/-- The passes of a stream write their entries (R181, R215, R218 to R220): in the fifteenth cycle after the last entry cycle of
pass j, entry 128 × j + 32 × a + c of every array a of the mask takes the sum of column c, added to what it held, or to 0 with
INIT; with INIT the entries of the other arrays become 0, and every other byte of memory is as it was. -/
def Sys2Proof.Claims.StreamPassesWriteTheirEntries : Prop :=
  ∀ (s : State) (f : InFlight) (u : StreamRun) (j : Nat) (b : Bool) (l : List (Nat × List ColSum)),
    (s.inflight.find? fun i => i.id == f.id) = some f → f.run = some u → f.thread < 16384 → j < u.v → j < 512 → u.base < 65536 →
    tfind u.sums j = some (b, l) → s.now = f.issue + (u.w + u.r * j + u.r - 1) + 15 →
    let y := s.passStage f.id j
    let n := if u.wide then 8 else 4
    let entry (a c : Nat) : Nat := accAddr (f.thread / 16) u.base u.wide (128 * j + 32 * a + c)
    let old (a c : Nat) : Machine.Num :=
      if u.init then Machine.Num.zero0 else accDecode u.wide (s.readLE (entry a c) (if u.wide then 6 else 4))
    (∀ a c, a < 4 → c < 32 → bit u.mask a = true →
      y.readMem (entry a c) n =
        toLE n (accEncode u.wide (accAdd u.wide (old a c) (((tfind l a).getD []).getD c .zero)))) ∧
    (∀ a c, a < 4 → c < 32 → bit u.mask a = false → tfind l a = none → u.init = true →
      y.readMem (entry a c) n = toLE n (accEncode u.wide Machine.Num.zero0)) ∧
    (∀ k, (∀ a c, a < 4 → c < 32 → (bit u.mask a || u.init) = true → k < entry a c ∨ entry a c + n ≤ k) →
      y.mem.read k = s.mem.read k) ∧
    ∀ k : Kind, k ∉ [Kind.mem, .tiles, .inflight] → k.same s y

open Sys2Proof.Claims in
/-- MAT_DRAIN (R232, R234, R239 to R243): a drain of E entries has count 14 + ceil(E / g), g 128 for AF32 and 64 for AF48; it takes its
descriptor, its vectors, the NF bits and its first g entries in its issue cycle, after the writes of that cycle (assumption 15). With the
codes of all its entries it stores the encoded outputs, the block scales and the mask bits at the destinations of its descriptor in the
scratchpad window of its tile and nothing else; its result register takes the largest magnitude of stage 6, rounded upward to FP32, with
NF in bit 32; and with DAMPER it reports these to the slot. -/
def Sys2Proof.Claims.MatDrainIssues : Prop :=
  ∀ (s0 : State) (t : Nat), Reads s0 t 3 0x02 →
    let s := s0.settleWrites
    let x := s.thread t
    let d := s.localBytes x (mra s t) 64
    let e := leAt d 4 4
    let wide := leAt d 2 1 == 1
    let dt := leAt d 3 1
    let g := if wide then 64 else 128
    let win := windowOf x.tileNo
    let entry (i : Nat) : Nat := s.readLE (accAddr x.tileNo (leAt d 0 2) wide i) (if wide then 6 else 4)
    let vector (en : Bool) (off : Nat) : List Nat :=
      if en then (List.range (min (leAt d 8 4) e)).map (fun k => s.localLE x (leAt d off 4 + 4 * k) 4) else []
    ∃ (u : State) (r : DrainRun), exec (.matDrain t) s0 = .next u ∧
      Issued s u t (after s t) (14 + cdiv e g) (dst (mRb (word s t))) none [.drain r] [] ∧
      (u.tile (t / 16)).ocuFree = s.now + cdiv e g ∧ r.desc = d ∧ r.codes = (List.range (min g e)).map entry ∧
      r.scale = vector (bit (leAt d 12 1) 4) 36 ∧ r.bias = vector (bit (leAt d 12 1) 5) 40 ∧
      r.nf = (accRegions (leAt d 0 2) (e * if wide then 2 else 1)).any (fun k => (s.tile x.tileNo).nf.getLsbD (k - 1536)) ∧
      ∀ (z : State) (codes : List Nat),
        let q := { r with codes := codes }
        let fx := z.drainEffects q
        let rows := (List.range e).map q.elem
        let top := (rows.filterMap (fun o => o.2.1)).foldl maxMag (0, 0)
        let nf := r.nf || rows.any (fun o => match o.2.2 with
          | .fin _ _ _ => false
          | _ => true)
        let enc := encodeVec dt (bit (leAt d 12 1) 1) (rows.map (fun o => o.2.2)) ((List.range e).map q.random)
        Effect.sreg (mRb (word s t)) (BitVec.ofNat 64 (upF32 top.1 top.2 + 2 ^ 32 * b2n nf)) ∈ fx ∧
        (q.outBytes ≠ 0 → Effect.store (win + leAt d 24 4)
          (z.mergeBits (win + leAt d 24 4) (e * elemBits dt) (pack (elemBits dt) enc.1)) ∈ fx) ∧
        (q.scaleBytes ≠ 0 → Effect.store (win + leAt d 28 4) (enc.2.map (BitVec.ofNat 8)) ∈ fx) ∧
        (q.maskBytes ≠ 0 → Effect.store (win + leAt d 32 4)
          (z.mergeBits (win + leAt d 32 4) e (pack 1 (rows.map (fun o => b2n o.1)))) ∈ fx) ∧
        (∀ pa b, Effect.store pa b ∈ fx →
          (pa = win + leAt d 24 4 ∧ b.length = q.outBytes) ∨
          (pa = win + leAt d 28 4 ∧ (e % blockOf dt = 0 → b.length = q.scaleBytes)) ∨
          (pa = win + leAt d 32 4 ∧ b.length = q.maskBytes)) ∧
        ∀ p sl mx n, Effect.damperReport p sl mx n ∈ fx ↔
          bit (leAt d 12 1) 7 = true ∧ p = x.part ∧ sl = leAt d 44 2 % 512 ∧ mx = upF32 top.1 top.2 ∧ n = nf

open Sys2Proof.Claims in
/-- The Damper instructions (R246, R253, R283 to R285): 24 cycles, 40 for the history images, on a slot of the thread's own
context; DAMPER_UPDATE only of a slot with AUTO clear: the check of R294 asks so in the first cycle in which the registers are free. -/
def Sys2Proof.Claims.DamperInstructionsIssue : Prop :=
  ∀ (s : State) (t : Nat),
    let x := s.thread t
    let p := x.part
    let sl := slot s t
    let w := word s t
    let own : Prop := s.flag (F.dValid p sl) = true ∧ s.fld (F.dCtx p sl) = x.ctx
    (x.checked = none → (Turn s t 3 0x08 → own ∧ s.flag (F.dAuto p sl) = false) ∧
      ((Turn s t 3 0x09 ∨ Turn s t 3 0x0A ∨ Turn s t 3 0x0B) → own)) ∧
    (Turn s t 3 0x08 → ∃ u, exec (.damperUpdate t) s = .next u ∧
      Issued s u t (after s t) 24 none none [.damperUpdate p sl] []) ∧
    (Turn s t 3 0x09 → ∃ u, exec (.damperRead t) s = .next u ∧
      Issued s u t (after s t) 24 (dst (mRb w)) none [.damperRead p sl (mRb w)] []) ∧
    (Turn s t 3 0x0A → ∃ u, exec (.damperWrite t) s = .next u ∧
      Issued s u t (after s t) 24 none none [.damperWrite p sl (mra s t % 2 ^ 32)] []) ∧
    (Turn s t 3 0x0B → ∃ u, exec (.damperHsave t) s = .next u ∧
      Issued s u t (after s t) 40 none none [.damperSave p sl (x.base + mra s t)] []) ∧
    (Reads s t 3 0x0C →
      let v := s.settleWrites
      let p := (v.thread t).part
      let sl := slot v t
      ((v.thread t).checked = none → v.flag (F.dValid p sl) = true ∧ v.fld (F.dCtx p sl) = (v.thread t).ctx) ∧ ∃ u, exec (.damperHload t) s = .next u ∧
        Issued v u t (after v t) 40 none none
          [.damperLoad p sl (imageHist (v.localBytes (v.thread t) (mra v t) 128) (v.fld (F.dHlenM1 p sl) + 1))] [])

open Sys2Proof.Claims in
/-- The matrix rows and the Damper rows issue. -/
def Obligations.MatrixAndDamperInstructionsIssue : Prop :=
  MatLoadIssues ∧ MatStreamIssues ∧ StreamPassesWriteTheirEntries ∧ MatDrainIssues ∧ DamperInstructionsIssue

namespace Sys2Proof.Claims

/-! ## Threads, completions and descriptors -/

/-- The next soot entry after those of s is `e`, while the buffer has room (R595). -/
def logged (s u : State) (e : List Byte) : Prop := s.soot.length < 256 → ∃ r, u.soot = s.soot ++ e :: r

/-- The block acts: it is powered, out of reset, and its junctions are not critical (R662, R676). -/
def acting (s : State) : Prop := s.Inv ∧ s.board.off = false

/-- A block that acts and whose function fn of a port takes memory requests of its host (R556, R643). -/
def hosted (s : State) (port fn : Nat) : Prop := acting s ∧ s.configReady = true ∧ s.reaches port fn = true

/-- `e` is among the soot entries that u has beside those of s, while the buffer has room for two (R595). -/
def reported (s u : State) (e : List Byte) : Prop := s.soot.length + 1 < 256 → e ∈ u.soot.drop s.soot.length

/-- Instruction f of thread t, found under id, has reached its count, and the order of its cycle puts nothing before it: no other
instruction (R286, R293), for a load no DMA step and no end of a descriptor (R292), and for an effect on a Damper slot no commit (R249,
R287). -/
structure Due (s : State) (t id : Nat) (f : InFlight) : Prop where
  act : acting s
  found : s.flightOf t id = some f
  done : f.answer = false
  now : f.due ≤ s.now
  first : ∀ i ∈ s.inflight, i.answer = false → i.due = s.now → f.rank ≤ i.rank
  quiet : isLoad f = true → s.settleWrites = s
  free : s.damperHolds f = false

/-- Memory of u and s agrees outside the n bytes at device address a, while no step is in flight (a step's flags are
mirrored into its control block by the next completion, R430). -/
def memOut (s u : State) (a n : Nat) : Prop :=
  s.steps = [] → ∀ k, k < s.key a ∨ s.key a + n ≤ k → u.mem.read k = s.mem.read k

/-- Memory is as it was, while no step is in flight. -/
def memSame (s u : State) : Prop := s.steps = [] → u.mem = s.mem

/-- An earlier GLD i of the tile of a GST or SIG_ADD f to the same line, still to answer, takes what the line holds before f is
performed there (R288). -/
def served (s : State) (f i : InFlight) : InFlight :=
  if isRemoteWrite f.word.toNat = true ∧ f.line.isSome = true ∧ i.thread / 16 = f.thread / 16 ∧ i.id < f.id ∧ i.line = f.line then
    { i with effects := i.effects.map fun e => match e with
        | .load pa dst len none => .load pa dst len (some (s.readMem pa len))
        | x => x }
  else i

/-- The instruction is no longer among the incomplete ones; nothing else left them. -/
def released (s u : State) (f : InFlight) : Prop :=
  u.inflight = (s.inflight.filter fun i => i.id != f.id).map (served s f)

/-- Descriptor rows: the kind that each starts (R309). -/
def descRows : List ((Nat → Nat → Hap → Instr) × Nat) :=
  [(.copy, 0), (.strided, 1), (.transpose, 2), (.pageWalk, 3), (.multicast, 4), (.fill, 5)]

/-- The rows of an issue stage that read memory in the cycle of their issue and take no other operand. -/
def readRows : List (Nat → Instr) := [.ld, .vld, .dmaSubmit, .sigWait, .matLoad, .matDrain, .damperHload]

/-- The other rows that look at one thread of an issue stage and take no other operand. -/
def issueRows : List (Nat → Instr) :=
  [.add, .sub, .and, .or, .xor, .shl, .shr, .sra, .slt, .sltu, .mul, .mulhu, .divu, .remu, .addi, .andi, .shli, .shri,
   .movhi, .movs, .beq, .bne, .blt, .bge, .bltu, .bgeu, .jal, .jalr, .st, .vst] ++
  [.markWait, .tfence, .exit, .vadd, .vsub, .vmul, .vfma, .vmax, .vmin, .vcmp, .vsel,
   .vbcast, .vextr, .vexp2, .vlog2, .vrcp, .vrsqrt, .vsin, .vcos, .vrsum, .vrmax, .vrargmax, .viadd, .visub, .vimul] ++
  [.vand, .vor, .vxor, .vshl, .vshr, .vcvt, .vunpk, .spkBits, .spkGumbel, .damperUpdate,
   .damperRead, .damperWrite, .damperHsave]

/-- The issue stage looks at thread t for row c in state v: that of the command, or, for a row that reads memory, the one in which the
writes of the cycle have come (assumption 15). -/
def looksAt (s : State) (t : Nat) (c : Instr) (v : State) : Prop :=
  (v = s ∧ ((∃ row ∈ issueRows, c = row t) ∨ (∃ e, c = .gld t e) ∨ (∃ e r, c = .sigAdd t e r) ∨ ∃ l, c = .matStream t l)) ∨
    (v = s.settleWrites ∧ ((∃ row ∈ readRows, c = row t) ∨ ∃ e, c = .gst t e))

end Sys2Proof.Claims

open Sys2Proof.Claims in
/-- An accepted launch (R255 to R257): the thread is LIVE from its start cycle at its entry point, with s1 to s4 from ARGS and
every other register 0. -/
def Sys2Proof.Claims.LaunchStartsItsThread : Prop :=
  ∀ (s : State) (p i : Nat) (r : List Byte) (start : Nat), acting s → s.launchOk p r = true → s.withinAllowance p r = true →
    (s.role p = rHearth → bit (leAt r 3 1) 0 = false) →
    s.replayBars { Thread.dflt with record := r }.ctx (recordThread r / 128) = false →
    ∃ u, exec (.threadLaunch p i r start) s = .next u ∧
      (∀ v, v ≠ recordThread r → u.thread v = s.thread v) ∧ (∀ k : Kind, k ≠ .threads → k.same s u) ∧
      let x := u.thread (recordThread r)
      x.state = .live ∧ x.record = r ∧ x.index = i ∧ x.pc = x.codeBase + x.entryOf ∧ x.startAt = max start s.now ∧
        x.sreg 1 = x.arg 0 % 2 ^ 64 ∧ x.sreg 2 = x.arg 1 % 2 ^ 64 ∧ x.sreg 3 = x.arg 2 % 2 ^ 64 ∧ x.sreg 4 = x.arg 3 % 2 ^ 64 ∧
        (∀ q, q = 0 ∨ 4 < q → x.sreg q = 0) ∧ (∀ q, x.vreg q = zeroLanes)

open Sys2Proof.Claims in
/-- A refused launch starts no thread: on a lantern partition it is logged and the samples whose work the record carries lose the
frame (R364, R365); on a hearth partition, where a SHARED record is refused too (R297), it counts as a header fault of the step in
flight and sets FAULT (R423, R430). A partition whose control core does not run, being Off, Spare, not yet in service or in reset,
takes no launch (R40, R45; assumption 67), and the launches of a suspect wait while the engine replays another one (R607). -/
def Sys2Proof.Claims.RefusedLaunchStartsNothing : Prop :=
  ∀ (s : State) (p i : Nat) (r : List Byte) (start : Nat), acting s →
    let bars := s.replayBars { Thread.dflt with record := r }.ctx (recordThread r / 128)
    (s.launchOk p r = false ∨ s.withinAllowance p r = false ∨ (s.role p = rHearth ∧ bit (leAt r 3 1) 0 = true) ∨ bars = true) →
    ∃ u, exec (.threadLaunch p i r start) s = .next u ∧ u.threads = s.threads ∧
      ((s.role p ≠ rLantern ∧ s.role p ≠ rHearth) ∨ s.flag (F.inService p) = false ∨ s.flag (F.inReset p) = true ∨ bars = true →
        u = s) ∧
      (s.role p = rLantern → s.flag (F.inService p) = true → s.flag (F.inReset p) = false → bars = false → logged s u
        (sootBytes s.stamp 0x11 p 0 0 (leAt r 0 2 / 8) (toLE 4 (recordThread r) ++ toLE 4 i)) ∧
        ∀ w ∈ (u.part p).curWork, w.entry ∈ s.carried p r → w.lost = true) ∧
      (s.role p = rHearth → s.flag (F.inService p) = true → s.flag (F.inReset p) = false → bars = false → ∀ t, s.stepOn p = some t →
        u.steps = updFirst (fun q => q.cid == t.cid)
          (fun q => { q with hdrFault := if q.hdrFault.contains p then q.hdrFault else q.hdrFault ++ [p] }) s.steps ∧
        u.flag (F.fault p) = true)

open Sys2Proof.Claims in
/-- A launch starts its thread, and a refused one starts nothing. -/
def Obligations.LaunchesStartTheirThread : Prop :=
  LaunchStartsItsThread ∧ RefusedLaunchStartsNothing

open Sys2Proof.Claims in
/-- INSTRUCTION_COMPLETE (R274): at its count the instruction is released and its result takes effect: a scalar or vector
register, bytes stored, bytes loaded, a signal added, the end of the thread. -/
def Sys2Proof.Claims.EachEffectAtItsCount : Prop :=
  ∀ (s : State) (t id : Nat) (f : InFlight), Due s t id f →
    ∃ u, exec (.instructionComplete t id) s = .next u ∧
      (f.effects = [] → released s u f ∧ memSame s u) ∧
      (∀ r v, f.effects = [.sreg r v] → (s.thread t).state = .live →
        released s u f ∧ memSame s u ∧ (u.thread t).sregs = ((s.thread t).setSreg r v).sregs ∧
        (u.thread t).vregs = (s.thread t).vregs ∧ (u.thread t).pc = (s.thread t).pc ∧
        (u.thread t).state = .live ∧ ∀ v, v ≠ t → u.thread v = s.thread v) ∧
      (∀ r v, f.effects = [.vreg r v] → (s.thread t).state = .live →
        released s u f ∧ memSame s u ∧ (u.thread t).vregs = ((s.thread t).setVreg r v).vregs ∧
        (u.thread t).sregs = (s.thread t).sregs ∧ (u.thread t).pc = (s.thread t).pc ∧
        (u.thread t).state = .live ∧ ∀ v, v ≠ t → u.thread v = s.thread v) ∧
      (∀ pa d, f.effects = [.store pa d] → s.backed pa = true →
        released s u f ∧ memOut s u pa d.length ∧
        (s.steps = [] → u.mem.readN (s.key pa) d.length = d)) ∧
      (∀ pa dst n, f.effects = [.load pa dst n none] → s.backed pa = true →
        released s u f ∧ memOut s u dst n ∧
        (s.steps = [] → u.mem.readN (s.key dst) n = s.readMem pa n)) ∧
      (∀ pa dst d, f.effects = [.load pa dst d.length (some d)] → s.backed pa = true →
        released s u f ∧ memOut s u dst d.length ∧
        (s.steps = [] → u.mem.readN (s.key dst) d.length = d)) ∧
      (∀ pa r v b, f.effects = [.sigAdd pa r v b] → s.backed pa = true → (s.thread t).state = .live →
        released s u f ∧ memOut s u pa 8 ∧
        (s.steps = [] → u.mem.readN (s.key pa) 8 = toLE 8 ((s.readLE pa 8 + v.toNat) % 2 ^ 64)) ∧
        (u.thread t).sregs = ((s.thread t).setSreg r (BitVec.ofNat 64 (s.readLE pa 8))).sregs ∧
        (u.thread t).sigs = (s.thread t).sigs + 1) ∧
      (f.effects = [.exit] → (s.thread t).state = .live → released s u f ∧ memSame s u ∧ u.thread t = Thread.dflt)

open Sys2Proof.Claims in
/-- Instructions whose counts fall in one cycle reach them in the order of R286 and R293: whatever comes before it, the one that
the command names is complete after it, unless its effect on a Damper slot waits for the commit of that cycle (R249, R287). -/
def Sys2Proof.Claims.CompletionsOfACycleKeepTheirOrder : Prop :=
  ∀ (s : State) (t id : Nat) (f : InFlight), acting s → s.flightOf t id = some f → f.answer = false → f.due ≤ s.now →
    (s.damperHolds f = false → ∃ u, exec (.instructionComplete t id) s = .next u ∧ u.flightOf t id = none) ∧
    (s.damperHolds f = true → exec (.instructionComplete t id) s = .next s)

open Sys2Proof.Claims in
/-- At its count an instruction is released and takes effect, in the order of its cycle. -/
def Obligations.CompletionTakesEffect : Prop :=
  EachEffectAtItsCount ∧ CompletionsOfACycleKeepTheirOrder

open Sys2Proof.Claims in
/-- An access that faults at its count leaves the thread FAULTED, so that it issues nothing more (R258, R296, R297): it stays so while the
command on whose behalf it runs is not over, and else becomes FREE with its last instruction. The fault
of a SHARED thread also writes a SHARED_FAULT entry (R364). A thread that is not SHARED and runs for no step faults its context
at once, which is the model's choice (assumption 114). -/
def Sys2Proof.Claims.FaultsStopTheThread : Prop :=
  ∀ (s : State) (t id : Nat) (f : InFlight), Due s t id f → (s.thread t).state = .live →
    (f.effects = [.fault (s.thread t).ctx] ∨ ∃ pa d, f.effects = [.store pa d] ∧ s.backed pa = false) →
    let x := s.thread t
    ∃ u, exec (.instructionComplete t id) s = .next u ∧ released s u f ∧ memSame s u ∧
      ((u.thread t).state = .faulted ∨ (u.thread t) = Thread.dflt) ∧
      (s.ownerOpen x.owner = true → x.owner ≠ .ended → (u.thread t).state = .faulted) ∧
      (∀ v, v ≠ t → u.thread v = s.thread v) ∧
      (x.shared = true → reported s u (sootBytes s.stamp 0x29 x.part 0 0 (x.tileNo / 8)
        (toLE 4 t ++ toLE 4 x.pc ++ toLE 2 x.ctx))) ∧
      (x.shared = false → (∀ cid, x.owner ≠ .step cid) → 2 ≤ x.ctx → s.cstate x.ctx = cLive ∨ s.cstate x.ctx = cQuiesced →
        u.cstate x.ctx = cFaulted)

open Sys2Proof.Claims in
/-- An illegal instruction (R294, R295, R593): it does not issue; an ILLEGAL entry names the thread, its PC and the condition
that broke, and the thread enters FAULTED. Every row that looks at the thread takes it. -/
def Sys2Proof.Claims.IllegalInstructionFaultsItsThread : Prop :=
  ∀ (s0 s : State) (t w : Nat) (p : Plan) (c : Instr), acting s0 → looksAt s0 t c s → s.nextOf t = some (w, p) →
    s.regsFree t p = true → p.cond ≠ 0 →
    ∃ u, exec c s0 = .next u ∧ (u.thread t).state = .faulted ∧ u.inflight = s.inflight ∧
      (∀ v, v ≠ t → u.thread v = s.thread v) ∧
      logged s u (sootBytes s.stamp 0x10 (s.thread t).part 0 (sootCtx (s.thread t).ctx) ((s.thread t).tileNo / 8)
        (toLE 4 t ++ toLE 4 (s.thread t).pc ++ toLE 1 p.cond))

open Sys2Proof.Claims in
/-- A faulting completion, and an illegal instruction, stop their thread. -/
def Obligations.FaultsStopTheirThread : Prop :=
  FaultsStopTheThread ∧ IllegalInstructionFaultsItsThread

open Sys2Proof.Claims in
/-- The answer to a host-window read (R280, R561): the data, or the error of the completion status, become the effect at the
count, or in the next cycle when the count is here or past (R293; assumption 4); a late answer writes HOST_SLOW, an error HOST_CPL_ERR. -/
def Sys2Proof.Claims.HostAnswersARead : Prop :=
  ∀ (s : State) (t id status : Nat) (data : List Byte) (f : InFlight) (pa dst n port off : Nat), acting s →
    s.flightOf t id = some f → (∃ g, f.effects = [.load pa dst n g]) → f.answer = true → hostOf pa = some (port, off) →
    ∃ u, exec (.hostCompletionArrive t id status data) s = .next u ∧ u.threads = s.threads ∧
      u.inflight = updFirst (fun i => i.id == f.id)
        (fun _ => { f with answer := false, due := max f.due (s.now + 1), late := 0, effects :=
          if status = 0 then [.store dst ((data ++ List.replicate n 0).take n)] else [.undef dst n, .fault (s.thread t).ctx] })
        s.inflight ∧
      (f.due < s.now → logged s u (sootBytes s.stamp 0x13 (8 + port % 2) 0 0 port (toLE 4 t ++ toLE 4 (s.now - f.due)))) ∧
      (status ≠ 0 → s.now ≤ f.due → logged s u
        (sootBytes s.stamp 0x14 (8 + port % 2) 0 (sootCtx (s.thread t).ctx) port (toLE 4 t ++ toLE 1 status)))

open Sys2Proof.Claims in
/-- The answer of an expander (R552, R554), once the line has had its slot (R553), and the timeout of a read (R561, R601): the access
stops waiting and reaches its count, or the next cycle where that is here or past (R293; assumption 4); `wait` cycles beyond the limit set
SLOW and log CXL_SLOW, an error sets MEDIA_ERR and faults a write as well as a read (assumption 27), and a timeout faults the context and
is logged as an error completion with status 0 (assumption 26). -/
def Sys2Proof.Claims.ExpanderAnswersOrReadTimesOut : Prop :=
  ∀ (s : State) (t id : Nat) (f : InFlight), acting s → s.flightOf t id = some f → f.answer = true →
    let goes (due : Nat) (fx : List Effect) : List InFlight := updFirst (fun i => i.id == f.id)
      (fun _ => { f with answer := false, due := max due (s.now + 1), late := 0, effects := fx }) s.inflight
    (∀ wait err, f.line.isSome = true → (cxlOf (f.line.getD 0 * 64)).isSome = true → s.cxlWaits id = false →
      ∃ u, exec (.cxlResponseArrive t id wait err) s = .next u ∧ u.threads = s.threads ∧
        u.inflight = goes (f.due + wait) (if err then f.failed (s.thread t).ctx else f.effects) ∧
        (wait ≠ 0 → f.unit < 4 → u.fld (F.cxlSlow f.unit) = 1) ∧
        (err = true → f.unit < 4 → u.fld (F.cxlMediaErr f.unit) = 1)) ∧
    (isLoad f = true → f.due + 16384 * 1024 ≤ s.now →
      ∃ u, exec (.readTimeout t id) s = .next u ∧ u.threads = s.threads ∧
        u.inflight = goes s.now (f.failed (s.thread t).ctx) ∧
        ((cxlOf (f.line.getD 0 * 64)).isSome = true → logged s u
          (sootBytes s.stamp 0x42 (8 + cxlDie f.unit) 0 0 f.unit (toLE 4 ((s.now - f.due) % 2 ^ 32)))) ∧
        (cxlOf (f.line.getD 0 * 64) = none → logged s u
          (sootBytes s.stamp 0x14 (8 + f.unit % 2) 0 (sootCtx (s.thread t).ctx) f.unit (toLE 4 t ++ toLE 1 0))))

open Sys2Proof.Claims in
/-- Host and expander answers complete the accesses that wait for them. -/
def Obligations.RemoteAnswersComplete : Prop :=
  HostAnswersARead ∧ ExpanderAnswersOrReadTimesOut

open Sys2Proof.Claims in
/-- The oldest descriptor of a channel starts when it is due and its engine is not frozen; its end is fixed then (R277, R312), and its
steps fall in the last 4 × n cycles before it, n the number of steps (assumption 131). Each of the six rows starts descriptors of its own
kind; `h` names what its accesses meet. -/
def Sys2Proof.Claims.DescriptorsStart : Prop :=
  ∀ row ∈ descRows, ∀ (s : State) (cl ch : Nat) (h : Hap) (d : Desc) (r : List Desc), acting s → s.channel cl ch = d :: r →
    d.running = false → d.queued ≤ s.now → dKind d.bytes = row.2 → (s.cluster cl).frozenAt = none →
    let e := s.now + s.descTime (cl / 16) (some cl) d.ctx d.bytes
    ∃ u, exec (row.1 cl ch h) s = .next u ∧
      (u.cluster cl).channels = tset [] (s.cluster cl).channels ch
        ({ d with running := true, endAt := e, margin := s.fld (F.snufferMargin (cl / 16)), hap := h,
                  run := DmaRun.start (e + hapWait h - 4 * dSteps d.bytes) (stepKey cl) (.desc cl ch d.ifId) } :: r) ∧
      (∀ c, c ≠ cl → u.cluster c = s.cluster c) ∧ ∀ k : Kind, k ≠ .clusters → k.same s u

open Sys2Proof.Claims in
/-- A move of a DMA step (R314, R315): the bytes at its source stand at its destination, and no other byte of memory has changed; where
the source or the destination faults nothing is written, and after that no further move is made. -/
def Sys2Proof.Claims.DmaMovesItsLine : Prop :=
  ∀ (s : State) (p n who : Nat) (h : Hap) (r : DmaRun) (m : DmaMove) (va vb : Nat), s.Inv → m.src = some va → m.dst = [vb] →
    m.phys = [] → h.err = none →
    let q := s.dmaMove p n who h r m
    (∀ a b, r.bad = false → s.reach (some p) false n va true false = some a → s.reach (some p) false n vb false true = some b →
      q.2.bad = false ∧ q.1.mem.readN (s.key b) m.len = s.readMem a m.len ∧
      ∀ k, k < s.key b ∨ s.key b + m.len ≤ k → q.1.mem.read k = s.mem.read k) ∧
    (r.bad = true ∨ s.reach (some p) false n va true false = none ∨ s.reach (some p) false n vb false true = none →
      q.2.bad = true ∧ q.1.mem = s.mem)

open Sys2Proof.Claims in
/-- An instruction that is not ready, or whose thread the rotation does not reach, waits: the row changes nothing (R18, R266,
R269 to R273); one that reads memory still lets the writes of its cycle come (assumption 15). -/
def Obligations.NothingIssuesOutOfTurn : Prop :=
  ∀ (s v : State) (t : Nat) (c : Instr), acting s → looksAt s t c v → v.picks t = false →
    (∀ w p, v.nextOf t = some (w, p) → v.regsFree t p = false ∨ p.cond = 0) → exec c s = .next v

open Sys2Proof.Claims in
/-- The end of a descriptor (R276, R312, R315), once its steps are made: it leaves its channel, its signal word is incremented, and the
DMA_SUBMIT that queued it completes. A step that has faulted, or an access that has come back with an error, faults the thread, which stays
FAULTED while its command goes on (R258), and nothing is signalled. -/
def Sys2Proof.Claims.DescriptorsEnd : Prop :=
  ∀ (s : State) (cl ch : Nat) (d : Desc) (r : List Desc) (f : InFlight), acting s →
    s.channel cl ch = d :: r → d.running = true → d.endAt + transferLate d.hap d.run ≤ s.now → (s.cluster cl).frozenAt = none →
    s.settleSteps = s →
    s.flightOf d.thread d.ifId = some f → f.effects = [] → f.line = none → (s.thread d.thread).state = .live → s.steps = [] →
    let p := cl / 16
    let bad := d.run.bad || (((s.setChannel cl ch r).lateTransfer p d.ctx d.hap d.ranges).badWrite p d.ctx d.hap (dDests d.bytes)).2
    ∃ u, exec (.dmaDescriptorEnd cl ch) s = .next u ∧ released s u f ∧ u.channel cl ch = r ∧
      (u.mem = match d.signal with
        | some a => if bad then s.mem else (s.writeMem a (toLE 8 ((s.readLE a 8 + 1) % 2 ^ 64))).mem
        | none => s.mem) ∧
      (bad = false → (u.thread d.thread).state = .live) ∧
      (bad = true → ((u.thread d.thread).state = .faulted ∨ u.thread d.thread = Thread.dflt) ∧
        (s.ownerOpen (s.thread d.thread).owner = true → (s.thread d.thread).owner ≠ .ended → (u.thread d.thread).state = .faulted))

open Sys2Proof.Claims in
/-- Descriptors start in their order, move their lines and end with their effect. -/
def Obligations.DescriptorsStartAndEnd : Prop :=
  DescriptorsStart ∧ DmaMovesItsLine ∧ DescriptorsEnd

/-! ## Device time -/

open Sys2Proof.Claims in
/-- A MARKSYNC pulse (R59, R62, R64, R65, R85): it defines its boundary when its delay by TIME_TRIM and the trim step of that
boundary is over, k cycles ago. The first one after the lock moves the counter to the next candle; one within 512 cycles of the
expected boundary realigns it and counts TIME_STEP, and relocks the device after a loss of MARKREF; one further off is ignored,
counted and logged. The published counts never jump (R63). That a negative delay acts so is the model's reading (assumption 102); that
only SET and HOLDOVER become UNFIT, and UNSET stays, is assumption 11, and that a first pulse that is a slip drops the relock and makes
the device UNFIT, and the first pulse of all clears TIME_HOLDOVER, assumption 33 (all DEDUCED). -/
def Sys2Proof.Claims.MarksyncPulseAlignsTheCounter : Prop :=
  ∀ s : State, acting s → s.flag F.markrefLock = true → s.time.pulses = [] →
    let step := s.trimStep s.time.nextCandle
    let k := (-(s.trimVal + step)).toNat
    let d := s.time.displacement - k - step
    let pos := s.time.mark % 65536 * 1024 + s.time.cyc
    let early : Prop := s.time.atEdge = true ∨ 65536 * 1024 ≤ 2 * pos
    let reached (u : State) : Prop := u.time.mark = (s.time.nextCandle + k / 1024) % 2 ^ 54 ∧ u.time.cyc = k % 1024
    (0 < s.trimVal + step → exec .marksyncPulse s = .next { s with time := { s.time with pulses := [s.now] } }) ∧
    (s.trimVal + step ≤ 0 → ∃ u, exec .marksyncPulse s = .next u ∧ u.time.cycle = s.time.cycle ∧
      (s.time.synced = false → u.time.synced = true ∧ reached u ∧ (s.time.relock = false → u.regs = s.regs) ∧
        (s.time.relock = true → u.fld F.timeHoldover = 0)) ∧
      (s.time.synced = true → 512 < d.natAbs → u.time.mark = s.time.mark ∧ u.time.cyc = s.time.cyc ∧
        u.time.stall = s.time.stall ∧ u.fld F.syncSlip = satInc 255 (s.fld F.syncSlip) ∧
        u.fld F.timeStep = s.fld F.timeStep ∧ logged s u (sootBytes s.stamp 0x02 8 0 0 0xFFFF (toLE 4 (unsigned 32 d))) ∧
        u.tstate = (if (s.time.relock = true ∨ (0 < d ∧ s.time.badPrev = true)) ∧ (s.tstate = 1 ∨ s.tstate = 2) then 3
          else s.tstate)) ∧
      (s.time.synced = true → d.natAbs ≤ 512 → u.time.lastD = d ∧ u.fld F.syncSlip = s.fld F.syncSlip ∧
        u.fld F.timeStep = (if d = 0 then s.fld F.timeStep else satInc 255 (s.fld F.timeStep)) ∧
        (early → reached u) ∧
        (¬early → k ≤ pos → u.time.mark = s.time.mark ∧ u.time.cyc = s.time.cyc ∧ u.time.stall = pos - k) ∧
        (¬early → pos < k → u.time.mark = (1024 * s.time.mark + s.time.cyc + (k - pos)) / 1024 % 2 ^ 54 ∧
          u.time.cyc = (1024 * s.time.mark + s.time.cyc + (k - pos)) % 1024) ∧
        (d ≠ 0 → s.relocks = false →
          logged s u (sootBytes s.stamp 0x01 8 0 0 0xFFFF (toLE 4 (unsigned 32 d)))) ∧
        (s.time.relock = false → u.tstate = s.tstate) ∧
        (s.time.relock = true → s.tstate = 2 ∨ s.tstate = 3 → u.tstate = 1 ∧ u.fld F.timeHoldover = 0 ∧
          logged s u (sootBytes u.stamp 0x06 8 0 0 0xFFFF (toLE 4 (unsigned 32 d))))))

open Sys2Proof.Claims in
/-- A candle without a pulse (R62, R64): the counter jumps to cycle 512 of mark 0 of the new candle, and the miss is counted
and logged. -/
def Sys2Proof.Claims.MissedPulseJumpsTheCounter : Prop :=
  ∀ s : State, acting s → s.sampling = true → s.time.atEdge = true →
    513 + s.trimStep s.time.nextCandle ≤ (s.time.hold : Int) →
    ∃ u, exec .marksyncMiss s = .next u ∧ u.time.mark = s.time.nextCandle % 2 ^ 54 ∧ u.time.cyc = 512 ∧
      u.time.candleBad = true ∧ u.fld F.syncMiss = satInc 255 (s.fld F.syncMiss) ∧ u.tstate = s.tstate ∧
      logged s u (sootBytes s.stamp 0x03 8 0 0 0xFFFF [])

open Sys2Proof.Claims in
/-- MARKSYNC pulses, and missing ones, drive the mark counter. -/
def Obligations.MarksyncPulsesDriveTheCounter : Prop :=
  MarksyncPulseAlignsTheCounter ∧ MissedPulseJumpsTheCounter

open Sys2Proof.Claims in
/-- A candle boundary (R68, R70, R76, R565, R668): a MARK_SET accepted at least 2 marks before loads its mark and makes the time
state SET; in SET without one TIME_TRIM moves one cycle against the pod offset; a boundary that its pulse has placed has that step in it
already, so that the counter does not move again; the second boundary in a row with a miss or a
slip puts the device in UNFIT; down ports count the candle; the chosen power factors take effect; the counts of engine resets
start anew. -/
def Sys2Proof.Claims.CandleBoundaryTakesEffect : Prop :=
  ∀ (s : State) (temps : List Nat), acting s → s.time.boundary = true →
    ∃ u, exec (.candleBoundary temps) s = .next u ∧ u.time.boundary = false ∧ u.board.capBudget = false ∧
      (∀ p, p < 8 → u.fld (F.hangs p) = 0 ∧
        (s.board.capBudget = true → u.fld (F.factor p) = (s.part p).pendF % 32)) ∧
      (∀ n, n < 2 → u.fld (F.hDownCandles n) =
        if s.portDown n then satInc 255 (s.fld (F.hDownCandles n)) else 0) ∧
      (∀ c, c < 128 → (u.cluster c).freezes = 0) ∧
      u.time.stepIn = none ∧
      (s.trimErr = 0 → s.time.stepIn = none → s.time.setM = none →
        u.time.mark = s.time.mark ∧ u.time.cyc = s.time.cyc ∧ u.fld F.trim = s.fld F.trim) ∧
      (∀ d, s.time.stepIn = some d → s.time.setM = none → -32768 ≤ s.trimVal + d → s.trimVal + d < 32768 →
        u.time.mark = s.time.mark ∧ u.time.cyc = s.time.cyc ∧ u.time.stall = s.time.stall ∧ u.trimVal = s.trimVal + d) ∧
      (∀ cid m adm, s.trimErr = 0 → s.time.stepIn = none → s.time.setM = some (cid, m, adm) → adm + 2 ≤ s.time.mark →
        s.fenced cid = false →
        u.time.mark = (m + s.time.mark % 65536) % 2 ^ 54 ∧ u.time.cyc = s.time.cyc ∧ u.time.setM = none ∧
        (s.time.candleBad = false ∨ s.time.badLast = false → u.tstate = 1)) ∧
      (s.time.setM = none → s.time.stepIn = none → s.tstate = 1 → s.trimErr ≠ 0 → -32768 < s.trimVal → s.trimVal < 32767 →
        u.trimVal = s.trimVal + (if 0 < s.trimErr then -1 else 1)) ∧
      (s.time.setM = none → s.tstate = 1 → s.time.candleBad = true → s.time.badLast = true → u.tstate = 3)

open Sys2Proof.Claims in
/-- Loss and return of MARKREF and the end of holdover (R70, R81, R83, R84, R698): a loss sets TIME_HOLDOVER, is logged with the
time of the last edge, and moves SET to HOLDOVER; a pulse that the trim still delays is dropped with it (assumption 140, DESIGN CHOICE);
a lock makes the next pulse the first one after the return; after 65,536
marks HOLDOVER becomes UNFIT. -/
def Sys2Proof.Claims.MarkrefLossAndLock : Prop :=
  ∀ s : State, acting s →
    (s.flag F.markrefLock = true → ∃ u, exec .markrefLoss s = .next u ∧ u.flag F.markrefLock = false ∧
      u.flag F.timeHoldover = true ∧ u.tstate = (if s.tstate = 1 then 2 else s.tstate) ∧
      (s.tstate = 1 → u.time.holdSince = s.time.cycle) ∧
      u.time.pulses = [] ∧ u.time.mark = s.time.mark ∧ u.time.cyc = s.time.cyc ∧
      logged s u (sootBytes s.stamp 0x04 8 0 0 0xFFFF (toLE 8 (s.stamp - 32)))) ∧
    (s.flag F.markrefLock = false → ∃ u, exec .markrefLock s = .next u ∧ u.flag F.markrefLock = true ∧
      u.time = { s.time with relock := s.flag F.timeHoldover } ∧ u.tstate = s.tstate) ∧
    (s.tstate = 2 → s.time.holdSince + 65536 * 1024 ≤ s.time.cycle → ∃ u, exec .holdoverExpiry s = .next u ∧
      u.tstate = 3 ∧ u.time = s.time ∧ logged s u (sootBytes s.stamp 0x05 8 0 0 0xFFFF [1]))

open Sys2Proof.Claims in
/-- Candle boundaries, and the loss and return of MARKREF. -/
def Obligations.CandlesAndMarkref : Prop :=
  CandleBoundaryTakesEffect ∧ MarkrefLossAndLock

open Sys2Proof.Claims in
/-- Beacons (R73, R74, R75, R578, R712): at mark 0 of a 256-mark interval a Flue-mode port that is up sends one beacon, with the
stamp of its first transmitted bit where the port is free; a beacon received whose CRC holds gives the one-way delay, half of the round
trip, rounded down (assumption 103, DESIGN CHOICE), and a beacon sent where nothing was heard echoes 0 (assumption 34); from the
upstream port it gives one measurement of the pod offset; a write of TIME_UPSTREAM names the port and starts the measurement anew. -/
def Sys2Proof.Claims.BeaconsMeasureTheOffset : Prop :=
  ∀ s : State, acting s →
    (∀ k, s.time.mark % 256 = 0 → s.flag (F.lkMode k) = false → s.linkUp k = true →
      (s.link k).sentBeacon ≠ s.time.mark + 1 → ∃ u, exec (.beaconSend k) s = .next u ∧
        (u.link k).sentBeacon = s.time.mark + 1 ∧ u.time = s.time ∧
        ((s.link k).txq = [] → (∀ j, j ≠ k → u.link j = s.link j) ∧
          (1 ≤ (s.link k).vc3.room → ∃ b, u.outbox = .flit k b :: s.outbox ∧ (b.drop 8).take 36 =
            mgmtMsg 0 s.stamp (if (s.link k).heard then (s.link k).lastTx else 0)
              (if (s.link k).heard then (s.time.cycle - (s.link k).lastRx) % 2 ^ 32 else 0)))) ∧
    (∀ k msg, mgmtOk msg = false → exec (.beacon k msg) s = .next s) ∧
    (∀ k msg, k < 8 → s.flag (F.lkMode k) = false → s.linkUp k = true → mgmtOk msg = true → leAt msg 0 1 = 0 →
      let tx := leAt msg 8 8
      let echo := leAt msg 16 8
      let hold := leAt msg 24 4
      echo ≠ 0 → echo + hold ≤ s.stamp →
      ∃ u, exec (.beacon k msg) s = .next u ∧ (u.link k).lastTx = tx ∧ (u.link k).lastRx = s.time.cycle ∧
        u.fld (F.lkDelay k) = (s.stamp - echo - hold) / 2 % 2 ^ 32 ∧
        (s.flag F.upValid = true → s.fld F.upPort = k → s.flag F.noUpstream = false → u.time.beacons =
          (((tx : Int) + ((s.stamp - echo - hold) / 2 % 2 ^ 32 : Nat) - s.stamp) :: s.time.beacons).take 16) ∧
        (s.flag F.upValid = false → u.time = s.time)) ∧
    ∀ port v, hosted s port 0 → ∃ u, exec (.timeUpstreamWrite port v) s = .next u ∧ u.fld F.upPort = v.toNat % 8 ∧
      u.flag F.noUpstream = false ∧ u.flag F.upValid = v.toNat.testBit 4 ∧
      u.time.beacons = (if v.toNat.testBit 4 then [] else s.time.beacons)

open Sys2Proof.Claims in
/-- PTP over an Ethernet port (R79, R590): a Sync of the configured domain and transmitter is stamped; its Follow_Up brings
t1 and sends a Delay_Req; the Delay_Resp gives the mean path delay and with it one measurement, in core cycles of 1.25 ns, with the
roundings of assumption 103 (DESIGN CHOICE: the halving and the factor 4/5); an Announce changes nothing (assumption 100). -/
def Sys2Proof.Claims.PtpMeasuresTheOffset : Prop :=
  ∀ (s : State) (k dom seq m : Nat), acting s → s.ptpFor k dom m = true →
    (∃ u, exec (.sync k dom seq m) s = .next u ∧
      u.time = { s.time with ptpSync := some (seq, 0, s.fld F.ptpEpoch + s.stamp * 5 / 4, 0) } ∧ u.regs = s.regs) ∧
    (∀ t0 t1 t2 t3, s.time.ptpSync = some (seq, t0, t2, t3) → ∃ u, exec (.followUp k dom seq m t1) s = .next u ∧
      u.time.ptpSync = some (seq, t1, t2, s.fld F.ptpEpoch + s.stamp * 5 / 4) ∧
      u.outbox = .delayReq k seq :: s.outbox) ∧
    (∀ t1 t2 t3 t4, s.time.ptpSync = some (seq, t1, t2, t3) → t3 ≠ 0 → ∃ u, exec (.delayResp k dom seq m t4) s = .next u ∧
      u.time.ptpSync = none ∧ u.time.beacons =
        ((((t1 : Int) + ((t2 : Int) - t1 + (t4 - t3)) / 2 - t2) * 4 / 5) :: s.time.beacons).take 16) ∧
    exec (.announce k dom m) s = .next s

open Sys2Proof.Claims in
/-- Beacons and PTP messages measure the pod offset. -/
def Obligations.OffsetsAreMeasured : Prop :=
  BeaconsMeasureTheOffset ∧ PtpMeasuresTheOffset

namespace Sys2Proof.Claims

/-! ## Boot, power, attestation and recovery -/

/-- The mailbox of a port took a request: the response becomes due `marks` marks later and the connection state is `st`; no
other mailbox, register or byte of memory changed. -/
def answered (s u : State) (port marks : Nat) (msg : List Byte) (st : Nat) : Prop :=
  u.host port = { s.host port with doeReq := some (s.now + marks * 1024, msg), doeState := st } ∧
    (∀ q, q ≠ port → u.host q = s.host q) ∧ ∀ k : Kind, k ≠ .hosts → k ≠ .board → k.same s u

/-- The SPDM requests and the connection state that each needs (R654). -/
def spdmRow (port need : Nat) (c : Instr) : Prop :=
  (c = .getVersion port ∧ need = 0) ∨ (c = .getCapabilities port ∧ need = 1) ∨
    (c = .negotiateAlgorithms port ∧ need = 2) ∨ (c = .getDigests port ∧ need = 3) ∨
    (∃ slot off len, c = .getCertificate port slot off len ∧ need = 3) ∨
    (∃ slot nonce, c = .challenge port slot nonce ∧ need = 3) ∨
    ∃ index slot signed nonce, c = .getMeasurements port index slot signed nonce ∧ need = 3

/-- A partition reset of p is triggered for a cause, where p is neither Off nor already in a reset (R617). -/
def resetDue (s u : State) (p cause : Nat) : Prop :=
  s.role p ≠ 0 → s.flag (F.inReset p) = false → (s.part p).resetAt = none →
    (u.part p).resetAt = some (s.time.mark + 1, cause)

/-- A chip reset is triggered for cycle 0 of the next mark. -/
def chipDue (s u : State) : Prop :=
  u.board = { s.board with chipTrig := some (s.board.chipTrig.getD (s.time.mark + 1)) } ∧
    ∀ k : Kind, k ≠ .board → k.same s u

/-- A chip reset has begun n cycles ago (R38, R619, R644): start-up runs from there, with FATAL# and the flash as they were. -/
def restarted (s u : State) (n : Nat) : Prop :=
  u.time = { TimeBase.reset with cycle := n, mark := n / 1024 % 2 ^ 54, cyc := n % 1024 } ∧ u.cmds = [] ∧ u.ctxs = [] ∧ u.parts = [] ∧
    u.threads = [] ∧ u.inflight = [] ∧ u.board.byReset = true ∧ u.board.chipTrig = none ∧ u.board.fatal = s.board.fatal ∧
    ((∀ c ∈ s.cmds, c.op = 0x83 → c.started = false) → u.board.flash = s.board.flash) ∧
    u.fld F.stage = 0 ∧ (∀ p, p < 8 → u.role p = 0) ∧ ∀ n, n < 4096 → u.cstate n = 0

/-- The command, which has not ended before, reaches its count with a status and a RESULT: it is posted once every earlier command of its
context has completed (R127, R128). -/
def completes (v u : State) (cid status : Nat) (result : List Byte) (late : Bool) : Prop :=
  (∃ c, v.cmd cid = some c ∧ c.phase ≠ .done) ∧ u = v.finish cid status result late

end Sys2Proof.Claims

open Sys2Proof.Claims in
/-- The DOE and SPDM requests of R654: in order, each is answered 16 marks later, a signed one 2,048 marks later (R655). The bytes of the
messages are those of DOE and SPDM (assumption 31, PRESUMED: R654 names the messages alone). -/
def Sys2Proof.Claims.MailboxRequestsAreAnswered : Prop :=
  ∀ (s : State) (port : Nat), acting s → s.doeOpen port = true →
    let st := (s.host port).doeState
    (∃ u, exec (.doeDiscovery port 0) s = .next u ∧ answered s u port 16 (doeObject 0 [1, 0, 0, 1]) st) ∧
    (∃ u, exec (.doeDiscovery port 1) s = .next u ∧ answered s u port 16 (doeObject 0 [1, 0, 1, 0]) st) ∧
    (∃ u, exec (.getVersion port) s = .next u ∧
      answered s u port 16 (doeObject 1 [0x10, 0x04, 0, 0, 0, 1, 0x00, 0x12]) 1) ∧
    (1 ≤ st → ∃ u b, exec (.getCapabilities port) s = .next u ∧ b.length = 8 ∧
      answered s u port 16 (doeObject 1 ([0x12, 0x61, 0, 0, 0, 12, 0, 0, 22, 0, 0, 0] ++ b)) 2) ∧
    (2 ≤ st → ∃ u b, exec (.negotiateAlgorithms port) s = .next u ∧ b.length = 32 ∧
      answered s u port 16 (doeObject 1 ([0x12, 0x63, 0, 0] ++ b)) 3) ∧
    (3 ≤ st →
      (∃ u, exec (.getDigests port) s = .next u ∧ answered s u port 16
        (doeObject 1 ([0x12, 0x01, 0] ++ (if s.idOk then 1 :: sha256 s.certChain else [0]))) 3) ∧
      (∀ off len, s.idOk = true → off < s.certChain.length →
        ∃ u, exec (.getCertificate port 0 off len) s = .next u ∧
          let n := min len (s.certChain.length - off)
          answered s u port 16 (doeObject 1 ([0x12, 0x02, 0, 0] ++ toLE 2 n ++ toLE 2 (s.certChain.length - off - n) ++
            (s.certChain.drop off).take n)) 3) ∧
      (∀ nonce, s.idOk = true → ∃ u b, exec (.challenge port 0 nonce) s = .next u ∧
        answered s u port 2048 (doeObject 1 ([0x12, 0x03, 0, 1] ++ sha256 s.certChain ++ b)) 3) ∧
      (∀ i nonce, 1 ≤ i → i ≤ 7 → ∃ u b, exec (.getMeasurements port i 0 false nonce) s = .next u ∧
        answered s u port 16 (doeObject 1 ([0x12, 0x60, 0, 0, 1] ++ toLE 3 (s.measBlock i).length ++ s.measBlock i ++ b)) 3) ∧
      (∀ i nonce, s.idOk = true → 1 ≤ i → i ≤ 7 → ∃ u b, exec (.getMeasurements port i 0 true nonce) s = .next u ∧
        answered s u port 2048 (doeObject 1 ([0x12, 0x60, 0, 0, 1] ++ toLE 3 (s.measBlock i).length ++ s.measBlock i ++ b)) 3))

open Sys2Proof.Claims in
/-- The mailbox around its requests (R654, R655): a request out of order is answered UnexpectedRequest, and a busy mailbox takes none
(the code and this rule are assumption 31, PRESUMED); one in another stage takes none; the response that is due is placed; an abort
discards the request and the connection. -/
def Sys2Proof.Claims.MailboxRefusesAndResponds : Prop :=
  ∀ (s : State) (port : Nat), acting s →
    (∀ need c, spdmRow port need c → s.doeOpen port = true → (s.host port).doeState < need →
      ∃ u, exec c s = .next u ∧ answered s u port 16 (doeObject 1 [0x12, 0x7F, 4, 0]) (s.host port).doeState) ∧
    (∀ need c, spdmRow port need c → s.doeOpen port = false → exec c s = .next s) ∧
    (∀ t msg, (s.host port).doeReq = some (t, msg) → t ≤ s.now → ∃ u, exec (.doeResponse port) s = .next u ∧
      u.host port = { s.host port with doeReq := none, doeOut := dwords msg } ∧ u.outbox = .doe port msg :: s.outbox) ∧
    ∃ u, exec (.doeAbort port) s = .next u ∧
      u.host port = { s.host port with doeReq := none, doeBuf := [], doeOut := [], doeState := 0 } ∧
      (∀ q, q ≠ port → u.host q = s.host q) ∧ ∀ k : Kind, k ≠ .hosts → k.same s u

open Sys2Proof.Claims in
/-- The DOE mailboxes answer, refuse and respond. -/
def Obligations.MailboxesAnswer : Prop :=
  MailboxRequestsAreAnswered ∧ MailboxRefusesAndResponds

open Sys2Proof.Claims in
/-- PWRGOOD and the converter (R660, R662): PWRGOOD low, or a trip of the converter, after more than 16 marks outside 30 to 42 V or
more than 4 above 120 A, puts the device in reset with every command, context, partition and register lost, GDDR7 and the tiles undefined
and the flash pins tri-stated; expander memory keeps its bytes, but for the destinations of work that is broken off (R622). PWRGOOD high
starts mark 0. -/
def Obligations.PowerLossAndReturn : Prop :=
  ∀ s : State, s.Inv →
    (∀ c, c = Instr.pwrgoodFall ∨ (c = Instr.converterTrip ∧ (16 < s.board.vinOut ∨ 4 < s.board.curOver)) →
      ∃ u, exec c s = .next u ∧ u.board.inReset = true ∧ u.board.flashTri = true ∧
        u.board.pwrgood = false ∧ u.board.powered = (if c = .converterTrip then false else s.board.powered) ∧
        u.pending = s.pending ∧ u.time = TimeBase.reset ∧ u.cmds = [] ∧ u.ctxs = [] ∧ u.parts = [] ∧ u.threads = [] ∧
        u.inflight = [] ∧ u.table = [] ∧ u.soot = [] ∧ (∀ p, p < 8 → u.role p = 0) ∧ u.fld F.stage = 0 ∧
        (∀ i, i < 5 → u.fld (F.domainWord i) = 0) ∧
        (∀ a, a < gddrEnd ∨ (windowBase ≤ a ∧ a < windowEnd) → ∃ ev, u.mem.read a = undefByte ev a) ∧
        ((∀ p, (s.part p).dma = []) → (∀ d ∈ s.cmds, d.started = false) → ∀ a, cxlBase ≤ a → u.mem.read a = s.mem.read a)) ∧
    (s.board.vinOut ≤ 16 → s.board.curOver ≤ 4 → exec .converterTrip s = .next s) ∧
    (s.board.inReset = true → ∃ u, exec .pwrgoodRise s = .next u ∧ u.board =
        { s.board with powered := true, pwrgood := true, inReset := false, byReset := false } ∧
      u.time = TimeBase.reset ∧ ∀ k : Kind, k ≠ .board → k ≠ .time → k.same s u)

open Sys2Proof.Claims in
/-- Chip resets (R36, R617, R619, R620, R644, R676, R687, R696): the written key and the I3C command trigger one for the next mark; an
I/O die above 105.0 °C for 8 marks triggers one with its trigger as mark 0, and a fault of the mesh, an I/O die, the sequence-table SRAM or
the management core begins one at once; it begins start-up anew, with the flash as it was, and with FATAL# at its level (assumption 80,
DEDUCED: R662 and R676 do not say); one that is not ready after
2,097,152 marks asserts FATAL#, as does a fault that disables the management core. -/
def Obligations.ChipResets : Prop :=
  ∀ s : State, acting s →
    (∀ port (v : Word32), hosted s port 0 → v.toNat.testBit 0 = true → v.toNat / 256 % 256 = 0xC3 →
      ∃ u, exec (.chipReset port v) s = .next u ∧ chipDue s u) ∧
    (∀ d, 8 ≤ (tfind s.board.ioOver (8 + d)).getD 0 → s.board.chipFrom = none → ∃ u, exec (.ioDieOvertemp d) s = .next u ∧
      u.board = { s.board with chipTrig := some s.time.mark, chipFrom := some s.now, chipDeaf := false } ∧
      ∀ k : Kind, k ≠ .board → k.same s u) ∧
    (s.fld F.stage ≠ 0 → ∃ u, exec (.i3cChipReset [0xC3, 0x5A]) s = .next u ∧ chipDue s u) ∧
    (∀ f, ∃ u, exec (.chipResetStart (some f)) s = .next u ∧ restarted s u (s.now - s.board.chipFrom.getD s.now)) ∧
    (∀ m, s.board.chipTrig = some m → s.markCome m = true → ∃ u, exec (.chipResetStart none) s = .next u ∧
      restarted s u (match s.board.chipFrom with
        | some t => s.now - t
        | none => (s.time.mark - m) * 1024 + s.time.cyc)) ∧
    ∀ disabled, disabled = true ∨
        (s.board.byReset = true ∧ 2097152 * 1024 ≤ s.now ∧ s.board.goAt = none ∧ s.fld F.stage < 4) →
      ∃ u, exec (.chipResetTimeout disabled) s = .next u ∧ u.board = { s.board with fatal := true } ∧
        ∀ k : Kind, k ≠ .board → k.same s u

open Sys2Proof.Claims in
/-- Start-up (R643 to R646, R648, R684): the domains go off at mark 1,024; the straps are sampled at 2,048, where a high TEST_MODE keeps
the device in reset; the configuration object is
checked at 18,944 and the image at 35,840, a failure entering RECOVERY with its FAIL_CODE; the device is READY at 2,097,152. -/
def Sys2Proof.Claims.StartUpStages : Prop :=
  ∀ s : State, acting s →
    (s.fld F.stage = 0 → 1024 * 1024 ≤ s.now → ∃ u, exec .domainsOff s = .next u ∧ u.board.rails = 0 ∧ u.board.dueOn = [] ∧
      ∀ i, i < 5 → u.fld (F.domainWord i) = 0) ∧
    (∀ own a1 a0 sf, s.fld F.stage = 0 → 2048 * 1024 ≤ s.now →
      (∃ u, exec (.bootRomStart own false a1 a0 false sf) s = .next u ∧ u.fld F.stage = 1 ∧ u.fld F.ownerKeyEn = b2n own ∧
        u.board.strapI3c = 2 * b2n a1 + b2n a0 ∧ u.board.sfdp = sf ∧ Output.flReset ∈ u.outbox) ∧
      (∀ force, exec (.bootRomStart own force a1 a0 true sf) s = .next { s with board := { s.board with testMode := true } }) ∧
      ∃ u, exec (.bootRomStart own true a1 a0 false sf) s = .next u ∧ u.fld F.stage = 5 ∧ u.fld F.failCode = 9 ∧
        u.fld F.flashReleased = 1 ∧ u.fld (F.hNumVfs 0) = 0 ∧ u.fld (F.hNumVfs 1) = 0) ∧
    (∀ ok, s.fld F.stage = 1 → 18944 * 1024 ≤ s.now → ∃ u, exec (.configCheck ok) s = .next u ∧
      let obj := readObject s.board.flashRead 0 65280
      let f := configFail (s.flag F.ownerKeyEn) (s.board.flashRead 0x10000 256) obj
      (ok = false ∨ s.board.sfdp = false → u.fld F.stage = 5 ∧ u.fld F.failCode = 1) ∧
      (ok = true → s.board.sfdp = true → f ≠ 0 → u.fld F.stage = 5 ∧ u.fld F.failCode = f % 256) ∧
      (ok = true → s.board.sfdp = true → f = 0 → u.fld F.stage = 2 ∧ u.board.config = obj ∧
        u.board.flashBytes = leAt (obj.drop 256) 4 4 ∧ u.fld F.handoverCandles = leAt (obj.drop 256) 24 1 % 256)) ∧
    (∀ ok, s.fld F.stage = 2 → 35840 * 1024 ≤ s.now → ∃ u, exec (.imageCheck ok) s = .next u ∧
      let obj := readObject s.board.flashRead 0x100000 4128512
      let f := imageFail (s.flag F.ownerKeyEn) s.board.ownerBlk obj
      (ok = false → u.fld F.stage = 5 ∧ u.fld F.failCode = 1) ∧
      (ok = true → f ≠ 0 → u.fld F.stage = 5 ∧ u.fld F.failCode = f % 256) ∧
      (ok = true → f = 0 → u.fld F.stage = 3 ∧ u.board.image = obj ∧ u.fld F.path = 0)) ∧
    (s.fld F.stage = 3 → (s.board.goAt = none ∧ 2097152 * 1024 ≤ s.now ∨
        ∃ g, s.board.goAt = some g ∧ g + 2097152 * 1024 ≤ s.now) →
      ∃ u, exec .deviceReady s = .next u ∧ u.fld F.stage = 4 ∧ u.fld F.locked = 1)

open Sys2Proof.Claims in
/-- The boot from staged objects (R647 to R649): GO is taken in RECOVERY only; 1,024 marks later the objects are checked, a failure
returning to RECOVERY with FAIL_CODE 10 or 11 and no VF (R647); 1,024 marks after an acceptance both host links drop and the device waits.
-/
def Sys2Proof.Claims.RamBootFromRecovery : Prop :=
  ∀ s : State, acting s →
    (∀ port (v : Word32), s.reaches port 0 = true → v.toNat.testBit 0 = true → s.fld F.stage = 5 → ∃ u,
      exec (.recoveryGo port v) s = .next u ∧
      u.fld F.stage = 6 ∧ u.board.goAt = some s.now ∧ u.board.ramOk = false) ∧
    (∀ g, s.board.goAt = some g → s.fld F.stage = 6 → g + 1024 * 1024 ≤ s.now → s.board.ramOk = false →
      ∃ u, exec .ramVerifyEnd s = .next u ∧
        let cfg := configFail (s.flag F.ownerKeyEn) s.board.ownerBlk (readObject s.board.stagingRead 0 65280)
        let img := imageFail (s.flag F.ownerKeyEn) s.board.ownerBlk (readObject s.board.stagingRead 0x10000 4128512)
        (cfg ≠ 0 ∨ img ≠ 0 → u.fld F.stage = 5 ∧ u.fld F.failCode = (if cfg ≠ 0 then 10 else 11) ∧ u.board.goAt = none ∧
          u.fld (F.hNumVfs 0) = 0 ∧ u.fld (F.hNumVfs 1) = 0) ∧
        (cfg = 0 → img = 0 → u.board.ramOk = true ∧ u.fld F.stage = 6 ∧ u.fld F.path = 1)) ∧
    (∀ g, s.board.goAt = some g → s.fld F.stage = 6 → g + 2048 * 1024 ≤ s.now → s.board.ramOk = true →
      ∃ u, exec .ramBootLinkDrop s = .next u ∧ u.fld F.stage = 3 ∧ u.board.staging = [] ∧
        u.flag (F.hUp 0) = false ∧ u.flag (F.hUp 1) = false)

open Sys2Proof.Claims in
/-- Start-up in its stages, and the RAM boot from RECOVERY. -/
def Obligations.StartUpAndRamBoot : Prop :=
  StartUpStages ∧ RamBootFromRecovery

open Sys2Proof.Claims in
/-- FLASH_WRITE (R561, R657, R658, R713): P0 reads the source once, 2 marks after admission or when the last FENCE before it lets it go,
and FLASH_BUSY is set; the count is one sector time per 4,096 bytes from there; then the flash holds the data, or, after a read that the
host has answered with an error too, its range is undefined and the status is FAULT_CONTEXT. -/
def Obligations.FlashWriteProgramsTheFlash : Prop :=
  ∀ (s : State) (cid : Nat) (c : Cmd), acting s → s.cmd cid = some c → c.op = 0x83 → c.phase = .running →
    let off := c.fld 16 4
    let size := c.fld 20 4
    let from_ := if c.startAt = 0 then s.now else c.startAt
    (∀ m, c.started = false → c.admitCyc + 2 * 1024 ≤ s.now → s.fenced cid = false →
      ∃ u, exec (.flashSourceRead cid m) s = .next u ∧ u.flag F.flashBusy = true ∧ u.mem = s.mem ∧
        u.board = { s.board with flashWork := some (cid, s.readVirt flashReader false c.ctx (c.fld 8 8) size) } ∧
        u.cmd cid = some { c with
          started := true, startAt := from_,
          faulted := !s.reachRange flashReader false c.ctx (c.fld 8 8) size true false || m.err.isSome,
          endAt := from_ + cdiv size 4096 * s.board.sectorMarks * 1024 }) ∧
    (∀ failed busy w, c.started = true → c.endAt ≤ s.now → s.board.flashWork = some w →
      twf 0xFF s.board.flash = true → ∃ u v, exec (.flashWriteComplete cid failed busy) s = .next u ∧
        v.board.flashWork = none ∧ v.flag F.flashBusy = busy ∧ v.mem = s.mem ∧
        (failed = false → busy = false → c.faulted = false → completes v u cid 0x00 [] false ∧
          (∀ i, i < w.2.length → tget 0xFF v.board.flash (off + i) = w.2.getD i 0) ∧
          ∀ a, a < off ∨ off + w.2.length ≤ a → tget 0xFF v.board.flash a = tget 0xFF s.board.flash a) ∧
        (failed = true ∨ busy = true ∨ c.faulted = true → completes v u cid 0x40 [] false ∧
          (∀ i, i < size → tget 0xFF v.board.flash (off + i) = undefByte s.free (off + i)) ∧
          ∀ a, a < off ∨ off + size ≤ a → tget 0xFF v.board.flash a = tget 0xFF s.board.flash a))

open Sys2Proof.Claims in
/-- Power and temperature (R660, R667, R668, R673 to R676): the converter watches its input while it has power, whatever the device does,
and the samples of the last 65,536 marks are kept; at mark 32 before a candle boundary, or at the boundary where the counter has jumped
past that mark, every capped partition gets its next factor from their average; junction readings are shown; 8 marks above 105.0 °C
trigger a partition reset, 2 above 115.0 °C assert FATAL#; the flash is no longer busy when no write is at work. -/
def Obligations.PowerAndTemperature : Prop :=
  (∀ (s : State) (mv ma : Nat), s.board.off = true → s.board.powered = true → exec (.inputPowerSample mv ma) s = .next { s with
    board := { s.board with
      vinOut := if mv < 30000 ∨ 42000 < mv then s.board.vinOut + 1 else 0
      curOver := if 120000 < ma then s.board.curOver + 1 else 0 } }) ∧
  ∀ s : State, acting s →
    (∀ mv ma, ∃ u, exec (.inputPowerSample mv ma) s = .next u ∧
      u.board = { s.board with
        powerWin := ((mv, ma) :: s.board.powerWin).take 65536
        vinOut := if mv < 30000 ∨ 42000 < mv then s.board.vinOut + 1 else 0
        curOver := if 120000 < ma then s.board.curOver + 1 else 0 } ∧
      (mv < 32000 ∨ 40000 < mv → u.flag F.vinRange = true)) ∧
    (65504 ≤ s.time.mark % 65536 ∨ s.time.boundary = true → s.board.capBudget = false → ∃ u, exec .powerFactorUpdate s = .next u ∧
      u.board = { s.board with capBudget := true } ∧ ∀ q, q < 8 →
        let f := s.fld (F.factor q)
        let sum := 100 * sumOf (s.board.powerWin.map fun e => e.1 * e.2)
        let cap := s.fld F.capW * 1000000 * s.board.powerWin.length
        (u.part q).pendF =
          if (s.fld F.capMask).testBit q = false then 16
          else if 110 * cap < sum then max (s.fld (F.fmin q)) (f - 4)
          else if 100 * cap < sum then max (s.fld (F.fmin q)) (f - 2)
          else if 95 * cap < sum then f else min 16 (f + 1)) ∧
    (∀ temps : List Nat, temps.length = 10 → ∃ u, exec (.thermalSample temps) s = .next u ∧
      (∀ i, i < 10 → u.fld (F.thermJ i) = min 4095 (temps.getD i 0)) ∧
      (∀ p, p < 8 → (u.part p).tempOver = if 1680 < temps.getD p 0 then (s.part p).tempOver + 1 else 0) ∧
      (∀ i, i < 10 → 16 * s.fld F.warnJ ≤ min 4095 (temps.getD i 0) → u.flag F.alert = true)) ∧
    (∀ p, p < 8 → 8 ≤ (s.part p).tempOver → ∃ u, exec (.junctionOvertemp p) s = .next u ∧ resetDue s u p 5 ∧
      logged s u (sootBytes s.stamp 0x50 p 0 0 p (toLE 1 0 ++ toLE 2 (s.fld (F.thermJ p))))) ∧
    (∀ i, 2 ≤ (tfind s.board.critical i).getD 0 → ∃ u, exec (.junctionCritical i) s = .next u ∧
      u.board = { s.board with fatal := true, dead := true } ∧ ∀ k : Kind, k ≠ .board → k.same s u) ∧
    (s.board.flashWork = none → ∃ u, exec .flashOperationEnd s = .next u ∧ u.flag F.flashBusy = false ∧ u.board = s.board)

open Sys2Proof.Claims in
/-- I3C (R669, R684, R686, R687): tray reads are answered 2 marks later and refused before; of tray writes only PWR_CAP is taken, and it
discards a PF's write of its cycle; addresses are assigned to a target without one and taken back; a target that holds one ignores ENTDAA
and SETDASA (assumption 32, PRESUMED); in-band interrupts are switched; the CCCs are answered. A read gives the dwords as they stand at
its TREAD, and a private read without one is refused (assumption 127, DEDUCED). -/
def Obligations.I3cCommands : Prop :=
  ∀ s : State, acting s → s.fld F.stage ≠ 0 →
    (∀ off n, 1 ≤ n → n ≤ 16 → off + n ≤ 256 → ∃ u, exec (.tread off n) s = .next u ∧ u.board = { s.board with
        treadAt := s.now, treadData := some ((List.range n).flatMap fun i => toLE 4 (s.trayWord (4 * (off + i)))) } ∧
      ∀ k : Kind, k ≠ .board → k.same s u) ∧
    (∀ d, s.board.treadData = some d → s.board.treadAt + 2048 ≤ s.now → ∃ u, exec .i3cPrivateRead s = .next u ∧
      u.outbox = .i3cData d :: s.outbox ∧ u.board = { s.board with treadData := none }) ∧
    (s.board.treadData = none ∨ s.now < s.board.treadAt + 2048 → ∃ u, exec .i3cPrivateRead s = .next u ∧
      u.outbox = .i3cNack :: s.outbox ∧ u.board = s.board) ∧
    (∀ off n (data : List Byte), n ≤ 16 → off ≤ 8 → 8 < off + n → data.length = 4 * n →
      let v := leAt data (4 * (8 - off)) 4
      ∃ u, exec (.twrite off n data) s = .next u ∧ u.board = { s.board with capAt := some s.now, capPend := [] } ∧
        (400 ≤ v % 4096 → v % 4096 ≤ 2800 → u.fld F.capW = v % 4096 ∧ u.fld F.capMask = v / 2 ^ 20 % 256) ∧
        (v % 4096 < 400 ∨ 2800 < v % 4096 → u.fld F.capW = s.fld F.capW ∧ u.flag F.pwrCfgErr = true)) ∧
    (∀ a c, c = Instr.entdaa a ∨ c = Instr.setdasa (0x2C + s.board.strapI3c) a → ∃ u, exec c s = .next u ∧
      u.board = { s.board with dynAddr := some (s.board.dynAddr.getD a) }) ∧
    (∀ st a, st ≠ 0x2C + s.board.strapI3c → exec (.setdasa st a) s = .next s) ∧
    (∃ u, exec .rstdaa s = .next u ∧ u.board = { s.board with dynAddr := none }) ∧
    (∃ u, exec .enec s = .next u ∧ u.board = { s.board with ibiOn := true }) ∧
    (∃ u, exec .disec s = .next u ∧ u.board = { s.board with ibiOn := false }) ∧
    ∀ c n, (c, n) ∈ [(Instr.getpid, 6), (.getbcr, 1), (.getdcr, 1), (.getstatus, 2)] →
      ∃ u d, exec c s = .next u ∧ d.length = n ∧ u.outbox = .i3cData d :: s.outbox ∧ u.board = s.board

open Sys2Proof.Claims in
/-- JTAG (R681, R685): each instruction selects its data register; IDCODE reads 0x188403D3; SAMPLE/PRELOAD shifts the levels of the
sideband and flash pins out of the 28 cells of the boundary register, in the model's order (assumption 129), and the preload data in;
EXTEST and CLAMP drive the pins from it, HIGHZ tri-states them; the bypass register of BYPASS, HIGHZ and CLAMP captures a 0 (assumption
32, PRESUMED from IEEE 1149.1). -/
def Obligations.JtagInstructions : Prop :=
  ∀ s : State, acting s →
    (∃ u, exec .bypass s = .next u ∧ u.board = { s.board with
      jtagIr := 0, jtagDr := [false], pinsDriven := none, tristate := false }) ∧
    (∃ u, exec .idcode s = .next u ∧ u.board.jtagIr = 1 ∧ u.board.jtagDr.length = 32 ∧
      (∀ i, i < 32 → u.board.jtagDr.getD i false = Nat.testBit 0x188403D3 i) ∧
      u.outbox = .tdo u.board.jtagDr :: s.outbox) ∧
    (∀ data : List Bool, ∃ u, ∃ cells : List Bool, exec (.samplePreload data) s = .next u ∧ cells.length = 28 ∧
      cells.getD 4 false = s.board.pwrgood ∧ cells.getD 5 false = (!s.board.fatal) ∧ cells.getD 6 false = (!s.flag F.alert) ∧
      cells.getD 7 false = (!s.flag (F.hPerst 0)) ∧ cells.getD 8 false = (!s.flag (F.hPerst 1)) ∧
      u.board = { s.board with
        jtagIr := 2, jtagDr := (cells ++ data).drop data.length, pinsDriven := none, tristate := false,
        scan := (cells ++ data).drop data.length } ∧
      u.outbox = .tdo ((cells ++ data).take data.length) :: s.outbox) ∧
    (∃ u, exec .extest s = .next u ∧ u.board = { s.board with
      jtagIr := 3, jtagDr := s.board.scan, pinsDriven := some s.board.scan, tristate := false }) ∧
    (∃ u, exec .highz s = .next u ∧ u.board = { s.board with
      jtagIr := 4, jtagDr := [false], pinsDriven := none, tristate := true }) ∧
    (∃ u, exec .clamp s = .next u ∧ u.board = { s.board with
      jtagIr := 5, jtagDr := [false], pinsDriven := some s.board.scan, tristate := false })

open Sys2Proof.Claims in
/-- The Snuffer (R595, R600, R604, R607, R608, R615): an issued instruction past its count and margin freezes its engine; 512
marks later the engine is reset or its partition is; a suspect's thread is relaunched from its record, with its signals to
suppress; the oldest soot entry moves into the ring. -/
def Obligations.EnginesFreezeResetAndReplay : Prop :=
  ∀ s : State, acting s →
    (∀ cl i, cl < 128 → i ∈ s.inflight → i.thread / 128 = cl → i.answer = false →
      (∀ pa b, Effect.store pa b ∈ i.effects → hostOf pa = none) → i.due + 1024 * i.margin ≤ s.now →
      (s.cluster cl).frozenAt = none → ∃ u, exec (.snufferHang cl) s = .next u ∧
        (u.cluster cl).frozenAt = some s.now ∧ (∀ j ∈ u.inflight, j.thread / 128 ≠ cl) ∧
        u.flag (F.hangEvt (cl / 16)) = true ∧
        ∃ d, logged s u (sootBytes s.stamp 0x20 (cl / 16) (b2n (s.flag (F.sampleEn (cl / 16)))) 0 cl d)) ∧
    (∀ cl f, cl < 128 → (s.cluster cl).frozenAt = some f → f + 512 * 1024 ≤ s.now →
      (∃ u, exec (.engineResetEnd cl true) s = .next u ∧ (u.cluster cl).frozenAt = none ∧
        (∀ t, t / 128 = cl → u.thread t = Thread.dflt) ∧ (∀ t, t / 128 ≠ cl → u.thread t = s.thread t) ∧
        ∃ d, logged s u (sootBytes s.stamp 0x21 (cl / 16) 0 0 cl d)) ∧
      ∃ u, exec (.engineResetEnd cl false) s = .next u ∧ resetDue s u (cl / 16) 2 ∧ u.cluster cl = s.cluster cl) ∧
    (∀ cl n rest r, let c := s.cluster cl
      c.frozenAt = none → c.current = none → s.role (cl / 16) = 2 → c.suspects = n :: rest → c.repair = false →
      c.relaunchMark * 1024 + 64 ≤ s.time.mark * 1024 + s.time.cyc → s.stepOn (cl / 16) = none → c.replay = [r] →
      r.ctx = n → s.ownerOpen r.owner = true → s.launchOk (cl / 16) r.record = true → r.thread = recordThread r.record →
      ∃ u, exec (.suspectRelaunch cl) s = .next u ∧ (u.cluster cl).current = some n ∧ (u.cluster cl).suspects = rest ∧
        (u.thread r.thread).state = .live ∧ (u.thread r.thread).record = r.record ∧
        (u.thread r.thread).index = r.index ∧ (u.thread r.thread).suppress = r.sigs ∧ (u.thread r.thread).startAt = s.now ∧
        ∀ t, t ≠ r.thread → u.thread t = s.thread t) ∧
    (∀ e rest retries, s.soot = e :: rest → s.sootReady = true → ∃ u, exec (.sootRingMove retries) s = .next u ∧ u.soot = rest ∧
      u.mem = (s.writeMem (s.fld F.sootBase * 4096 + 32 * (s.fld F.sootTail % 2 ^ s.fld F.sootSizeLog2)) e).mem ∧
      u.fld F.sootTail = (s.fld F.sootTail + 1) % 2 ^ s.fld F.sootSizeLog2 % 2 ^ 20 ∧
      u.fld F.sootBuffered = rest.length % 512)

namespace Sys2Proof.Claims

/-! ## Contexts and commands -/

/-- Admission rows with the opcode and the checks of R124 for each; m says how the write of the handles, or the reads of a member list,
meet their memory. -/
def admissionRows (m : Meet) : List ((Nat → Instr) × Nat × (State → Cmd → Verdict)) :=
  [(fun n => .seqSubmit n m, 0x01, State.checkSubmit), (.seqCancel, 0x02, State.checkCancel), (.seqReward, 0x03, State.checkReward),
   (.seqQuery, 0x04, State.checkQuery), (.adapterInstall, 0x10, fun s c => s.checkAdapter c false),
   (.adapterReplace, 0x11, fun s c => s.checkAdapter c true), (.adapterRemove, 0x12, State.checkRemove),
   (.stepLaunch, 0x20, State.checkStep), (.publish, 0x30, State.checkPublish), (.variantLoad, 0x31, State.checkVariant),
   (.referenceSet, 0x32, State.checkReference), (.flueCollective, 0x40, State.checkCollective),
   (fun n => .flueGroupDefine n m, 0x41, State.checkGroup)] ++
  [(.ctxSave, 0x50, fun s c => s.checkImage c 1 true (s.live (c.fld 8 2) || s.cstate (c.fld 8 2) == 4)),
   (.ctxRestore, 0x51, fun s c => s.checkImage c 0 false (s.cstate (c.fld 8 2) == 4 && !s.imagePending c &&
     (s.cmdsOf (c.fld 8 2)).all fun d => !d.incomplete)),
   (.checkpoint, 0x52, State.checkCheckpoint), (.ctxTeardown, 0x60, State.checkTeardown),
   (.ctxHandover, 0x61, State.checkHandover), (.dmaFill, 0x70, State.checkFill), (.dmaCopy, 0x71, State.checkCopy),
   (.fence, 0x7F, fun _ c => verdict (reservedBad c []) true [] false true true true),
   (.partitionRole, 0x80, State.checkRole), (.frameSet, 0x81, State.checkFrameSet), (.markSet, 0x82, State.checkMarkSet),
   (.flashWrite, 0x83, State.checkFlash)]

/-- Command c is the next of context n to be checked, and its checks answer v. -/
structure Checked (s : State) (row : (Nat → Instr) × Nat × (State → Cmd → Verdict)) (n : Nat) (c : Cmd) (v : Verdict) :
    Prop where
  member : ∃ m, row ∈ admissionRows m
  fresh : s.freshCmd n row.2.1 = some c
  known : s.cmd c.cid = some c
  verdict : row.2.2 s c = v

/-- Command c waits for its count with a status and a RESULT, and nothing but the list of commands changed. -/
def waits (s u : State) (c : Cmd) (status : Nat) (result : List Byte) : Prop :=
  u.cmd c.cid = some { c with phase := .waiting, status := status, result := result } ∧
    ∀ k : Kind, k ≠ .cmds → k.same s u

/-- The completion entry of c stands at the tail of its completion queue, and c has left the list (R110, R116, R128). -/
def posted (s u : State) (c : Cmd) : Prop :=
  let n := c.ctx
  let r := s.ctx n
  let a := s.ringAt n 1 + 32 * r.cqTail
  let wrap := s.ringSize n 1 ≤ r.cqTail + 1
  (∀ d ∈ u.cmds, d.cid ≠ c.cid) ∧
    (u.ctx n).cqTail = (if wrap then 0 else r.cqTail + 1) ∧ (u.ctx n).cqPhase = (if wrap then !r.cqPhase else r.cqPhase) ∧
    ((match hostOf a with
      | some (k, _) => s.portDown k = false
      | none => s.ringReach a = true) → u.mem = (s.writeMem a (toLE 8 s.stamp ++ toLE 4 c.tag ++
      toLE 1 (if c.replayed = true ∧ c.status = 0 then 1 else c.status) ++
      toLE 1 (b2n r.cqPhase + 2 * b2n c.replayed + 4 * b2n c.late) ++ toLE 2 r.sqHead ++
      (c.result ++ toLE 16 0).take 16)).mem)

/-- Command c heads the list of context n and waits for its count, and none of the commands behind it has reached one. -/
structure FirstWaits (s : State) (n : Nat) (c : Cmd) (r : List Cmd) : Prop where
  act : acting s
  list : s.cmdsOf n = c :: r
  known : ∀ d ∈ c :: r, s.cmd d.cid = some d
  waits : c.phase = .waiting
  count : c.presented + 2048 ≤ s.now ∧ c.endAt ≤ s.now
  others : ∀ d ∈ r, d.phase = .presented ∨ d.phase = .fresh ∨ d.phase = .running

/-- Threads of context n that were LIVE are FAULTED, and its samples drain (R142, R145, R367). -/
def stopped (s u : State) (n : Nat) : Prop :=
  (∀ t, (s.thread t).state = .live → (s.thread t).ctx = n → (u.thread t).state = .faulted) ∧
    ∀ e, (s.entry e).ctx = n → (s.entry e).state ≠ 0 → (s.entry e).state ≠ 8 → (u.entry e).state = 7

end Sys2Proof.Claims

open Sys2Proof.Claims in
/-- Ownership and the states of a context (R105, R108, R110, R140, R704, R705): a claim, a release, which leaves PORT and gives FUNC
the value written, START with its checks, STOP. -/
def Obligations.ContextsAreClaimedAndStarted : Prop :=
  ∀ (s : State) (port n : Nat), hosted s port 0 → port < 2 → n < 4096 →
    (∀ v : Word32, let fn := v.toNat % 256
      2 ≤ n → s.flag (F.cOwned n) = false → s.cstate n = 0 → s.fld F.stage = 4 → v.toNat.testBit 15 = true →
      ∃ u, exec (.ctxOwnerWrite port n v) s = .next u ∧
        (fn ≤ s.fld (F.hNumVfs port) → fn ≠ 0 ∨ 16 ≤ s.fld (F.cVector n) →
          u.flag (F.cOwned n) = true ∧ u.fld (F.cPort n) = port ∧ u.fld (F.cFunc n) = fn) ∧
        (s.fld (F.hNumVfs port) < fn ∨ fn = 0 ∧ s.fld (F.cVector n) < 16 →
          u.flag (F.cOwned n) = false ∧ u.flag (F.cConfigErr n) = true)) ∧
    (∀ v : Word32, let fn := v.toNat % 256
      2 ≤ n → s.pfOwns port n = true → s.cstate n = 0 → v.toNat.testBit 15 = false →
      ∃ u, exec (.ctxOwnerWrite port n v) s = .next u ∧
        (fn ≤ s.fld (F.hNumVfs port) → u.flag (F.cOwned n) = false ∧ u.fld (F.cFunc n) = fn ∧ u.fld (F.cPort n) = port) ∧
        (s.fld (F.hNumVfs port) < fn → u.flag (F.cOwned n) = true ∧ u.flag (F.cConfigErr n) = true)) ∧
    (s.pfOwns port n = true → s.cstate n = 0 ∨ s.cstate n = 4 → s.fld F.stage = 4 → ∃ u, exec (.start port n) s = .next u ∧
      let ok := !s.flag (F.mmuLoading n) && (!s.flag (F.ptValid n) || s.flag (F.mmuLoaded n)) &&
        s.ringOk n 0 && s.ringOk n 1 && s.ringOk n 2
      (ok = false → u.cstate n = s.cstate n ∧ u.flag (F.cConfigErr n) = true) ∧
      (ok = true → u.cstate n = 1 ∧ (s.cstate n = 4 → u.ctx n = s.ctx n) ∧
        (s.cstate n = 0 → (u.ctx n).sqTail = 0 ∧ (u.ctx n).sqHead = 0 ∧ (u.ctx n).cqHead = 0 ∧ (u.ctx n).cqTail = 0 ∧
          (u.ctx n).cqPhase = true ∧ (u.ctx n).emHead = 0 ∧ (u.ctx n).emTail = 0 ∧ (u.ctx n).emPhase = true))) ∧
    (s.pfOwns port n = true → s.cstate n = 1 → ∃ u, exec (.stop port n) s = .next u ∧ u.cstate n = 4 ∧
      u.cmds = s.cmds.filter (fun c => !(c.ctx == n && c.phase == .presented)) ∧ (u.ctx n).sqNext = (s.ctx n).sqHead)

open Sys2Proof.Claims in
/-- The three doorbells (R111 to R113): an aligned 4-byte write by the owning function moves its index; a tail outside the ring,
or a head that would move past its tail, is ignored and sets the doorbell error; every other write is ignored. -/
def Obligations.DoorbellsMoveTheirIndex : Prop :=
  ∀ (s : State) (port fn n : Nat) (v : Word32), hosted s port fn →
    let c := s.ctx n
    let x := v.toNat % 2 ^ 16
    let y := v.toNat % 2 ^ 20
    let z := s.ringSize n 1
    let w := s.ringSize n 2
    (s.fnOwns port fn n = true → s.cstate n ≠ 5 →
      (∃ u, exec (.sqTail port fn n 4 v) s = .next u ∧ (∀ k : Kind, k ≠ .ctxs → k.same s u) ∧
        (∀ m, m ≠ n → u.ctx m = s.ctx m) ∧
        u.ctx n = if x < s.ringSize n 0 then { c with sqTail := x } else { c with doorbellErr := true, errAt := some s.now }) ∧
      (∃ u, exec (.cqHead port fn n 4 v) s = .next u ∧ (∀ k : Kind, k ≠ .ctxs → k.same s u) ∧
        (∀ m, m ≠ n → u.ctx m = s.ctx m) ∧ u.ctx n =
        if x < z ∧ (x + z - c.cqHead) % z ≤ (c.cqTail + z - c.cqHead) % z then { c with cqHead := x }
        else { c with doorbellErr := true, errAt := some s.now }) ∧
      ∃ u, exec (.emberHead port fn n 4 v) s = .next u ∧ (∀ k : Kind, k ≠ .ctxs → k.same s u) ∧
        (∀ m, m ≠ n → u.ctx m = s.ctx m) ∧ u.ctx n =
        if y < w ∧ (y + w - c.emHead) % w ≤ (c.emTail + w - c.emHead) % w then { c with emHead := y }
        else { c with doorbellErr := true, errAt := some s.now }) ∧
    ∀ size, size ≠ 4 ∨ s.fnOwns port fn n = false ∨ s.cstate n = 5 → exec (.sqTail port fn n size v) s = .next s ∧
      exec (.cqHead port fn n size v) s = .next s ∧ exec (.emberHead port fn n size v) s = .next s

open Sys2Proof.Claims in
/-- Presentation and admission (R47, R120, R121, R442): an entry is read from the submission ring, its 64 bytes as they stand at its
presentation (assumption 40, DEDUCED: R120 and R121 do not say when they are read), and reserves a completion slot; a ring that the device
cannot reach, or a read that comes back with an error (R537, R561), faults the context; in another mark, after the checkpoints and the
teardowns that are due there (R87, R143), the entry is admitted and SQ_HEAD advances; an opcode that no row names fails the format check
at byte 0 (R117, R124). -/
def Obligations.EntriesArePresentedAndAdmitted : Prop :=
  ∀ (s : State) (n : Nat), acting s →
    (∀ m : Meet, let r := s.ctx n
     s.cstate n = 1 → s.resetting n = false → r.sqNext ≠ r.sqTail → s.cqUsed n + 1 < s.ringSize n 1 →
      ((s.cmdsOf n).filter fun d => d.phase == .presented).length < 8 →
      (s.ringReach (s.ringAt n 0 + 64 * r.sqNext) = true → m.err = none → ∃ u c, exec (.entryPresent n m) s = .next u ∧
        u.cmds = s.cmds ++ [c] ∧ c.cid = s.nextCid ∧ c.ctx = n ∧ c.phase = .presented ∧ c.presented = s.now ∧
        c.presMark = s.time.mark ∧ c.entry = s.readMem (s.ringAt n 0 + 64 * r.sqNext) 64 ∧
        (u.ctx n).sqNext = (r.sqNext + 1) % s.ringSize n 0 ∧ (u.ctx n).sqHead = r.sqHead ∧ u.mem = s.mem) ∧
      (s.ringReach (s.ringAt n 0 + 64 * r.sqNext) = false ∨ m.err.isSome = true → 2 ≤ n → n < 4096 →
        ∃ u, exec (.entryPresent n m) s = .next u ∧ u.cstate n = 2 ∧ (∀ c ∈ u.cmds, c ∈ s.cmds) ∧ u.mem = s.mem)) ∧
    (∀ c, let v := s.dueCaptures.dueTeardowns
      v.cstate n = 1 → v.resetting n = false → v.cmd c.cid = some c → (∀ d ∈ v.cmds, d.cid = c.cid → d = c) →
      ((v.cmdsOf n).filter fun d => d.phase == .presented && d.presMark != s.time.mark) = [c] →
      ∃ u, exec (.admission n) s = .next u ∧ (u.ctx n).sqHead = ((v.ctx n).sqHead + 1) % v.ringSize n 0 ∧
        (c.op ∈ (admissionRows Meet.none).map (fun r => r.2.1) →
          u.cmd c.cid = some { c with phase := .fresh, admitMark := v.time.mark, admitCyc := v.now }) ∧
        (c.op ∉ (admissionRows Meet.none).map (fun r => r.2.1) → u.cmd c.cid = some { c with
          phase := .waiting, admitMark := v.time.mark, admitCyc := v.now, status := 0x10, result := [0] })) ∧
    ∀ k m, s.dueCaptures.teardownDue k (s.dueCaptures.ctx k) = true → (s.dueCaptures.ctx k).flrMark = some m →
      ∃ u, exec (.admission n) s = .next u ∧ u.cstate k = 3 ∧ (u.ctx k).teardownAt = some (s.now - s.time.cyc)

open Sys2Proof.Claims in
/-- The checks of an admitted command, for every opcode (R117, R124, R126): a failed check gives its status, with the offset of
the field in byte 16 of RESULT for a format or length failure; the zero case gives OK; FLAGS[7:1] and the reserved field of
bytes 2 and 3 come first (assumption 109). Each waits for the count of R99. -/
def Obligations.FailedChecksRejectTheCommand : Prop :=
  ∀ (s : State) (row : (Nat → Instr) × Nat × (State → Cmd → Verdict)) (n : Nat) (c : Cmd) (v : Verdict), acting s →
    Checked s row n c v →
    (∀ st off, v = .reject st off → ∃ u, exec (row.1 n) s = .next u ∧
      waits s u c st (if st = 0x10 ∨ st = 0x12 then toLE 1 off else [])) ∧
    (v = .zero → ∃ u, exec (row.1 n) s = .next u ∧ waits s u c 0x00 []) ∧
    (2 ≤ c.flags → ∃ u, exec (row.1 n) s = .next u ∧ waits s u c 0x10 [1]) ∧
    (c.flags < 2 → c.fld 2 2 ≠ 0 → ∃ u, exec (row.1 n) s = .next u ∧ waits s u c 0x10 [2])

open Sys2Proof.Claims in
/-- Completions at their count (R99, R116, R126, R128, R129): 2 marks after presentation a command that waits is posted, and so is a FENCE
that no earlier command stands before; a FENCE behind another command is posted with it where its own 2 marks have passed, and else stays;
a FENCE row makes its command wait; a command that a FENCE still holds at the mark it names ends DEADLINE_MISSED. -/
def Obligations.WaitingCommandsCompleteAtTheirCount : Prop :=
  (∀ (s : State) (n : Nat) (c : Cmd) (r : List Cmd), FirstWaits s n c r →
    ((0x10 ≤ c.status ∧ c.status ≤ 0x14) ∨ c.status = 0x47 → ∃ u, exec (.rejectCompletion n) s = .next u ∧ posted s u c) ∧
    (c.status = 0 → c.op ≠ 0x03 → ∀ meets, ∃ u, exec (.acceptedCompletion n meets) s = .next u ∧ posted s u c)) ∧
  (∀ (s : State) (n : Nat) (c f : Cmd) (r : List Cmd) (meets : List (Nat × Meet)), acting s → s.cmdsOf n = c :: f :: r →
    (∀ d ∈ c :: f :: r, s.cmd d.cid = some d) → c.phase = .waiting → c.status = 0 → c.op ≠ 0x7F → c.op ≠ 0x03 →
    c.presented + 2048 ≤ s.now → c.endAt ≤ s.now → f.op = 0x7F → f.phase = .waiting → f.status = 0 →
    (∀ d ∈ r, d.phase = .presented ∨ d.phase = .fresh ∨ d.phase = .running) →
    ∃ u, exec (.acceptedCompletion n meets) s = .next u ∧ (∀ d ∈ u.cmds, d.cid ≠ c.cid) ∧
      (f.presented + 2048 ≤ s.now → ∀ d ∈ u.cmds, d.cid ≠ f.cid) ∧ (s.now < f.presented + 2048 → f ∈ u.cmds)) ∧
  (∀ (s : State) (n : Nat) (c : Cmd), acting s → s.cmd c.cid = some c → s.freshCmd n 0x7F = some c →
    firstBad (reservedBad c []) = none → ∃ u, exec (.fence n) s = .next u ∧ waits s u c 0 []) ∧
  ∀ (s : State) (c : Cmd) (m : Nat), acting s → s.cmd c.cid = some c → c.namedMark = some m → m ≤ s.time.mark →
    c.phase = .running ∨ c.phase = .held → s.fenced c.cid = true → (s.cmds.filter fun d => d.cid == c.cid) = [c] →
    ∃ u v w, exec (.fenceDeadlineMiss c.cid) s = .next u ∧
      completes v w c.cid 0x22 (v.endedResult c 0x22) (v.pastCount c) ∧
      u = { w with colls := w.colls.filter fun co => co.cid != c.cid }

open Sys2Proof.Claims in
/-- A context reset (R142): RESETTING is set, its threads fault and its samples drain; 262,144 core cycles later the reset ends,
and a FAULTED context is LIVE again. -/
def Sys2Proof.Claims.ContextResets : Prop :=
  ∀ (s : State) (port n : Nat), acting s → n < 4096 →
    (hosted s port 0 → s.pfOwns port n = true → s.resetting n = false →
      s.cstate n = 1 ∨ s.cstate n = 4 ∨ s.cstate n = 2 →
      ∃ u, exec (.reset port n) s = .next u ∧ u.resetting n = true ∧ (u.ctx n).resetAt = some s.now ∧
        u.cstate n = s.cstate n ∧ stopped s u n) ∧
    (∀ t, (s.ctx n).resetAt = some t → t + 262144 ≤ s.now → ∃ u, exec (.contextResetEnd n) s = .next u ∧
      u.resetting n = false ∧ (u.ctx n).resetAt = none ∧ (u.ctx n).emReserved = 0 ∧ (s.cstate n = 2 → u.cstate n = 1))

open Sys2Proof.Claims in
/-- Teardown and quarantine (R143, R145 to R147): the target drains, its threads fault and its samples drain; 262,144 core
cycles later it is FREE, unowned and without translations, with seed 0; 65,536 marks later that quarantine ends, and no other. A
function level reset notes the contexts of its function, whose teardown begins at the next mark, and a FREE one becomes unowned
at once. -/
def Sys2Proof.Claims.TeardownsFreeTheContext : Prop :=
  ∀ s : State, acting s →
    (∀ n c, s.freshCmd n 0x60 = some c → s.checkTeardown c = .accept → s.fenced c.cid = false →
      ∃ u, exec (.ctxTeardown n) s = .next u ∧ u.cstate (c.fld 8 2) = 3 ∧
        (u.ctx (c.fld 8 2)).teardownAt = some s.now ∧ (u.ctx (c.fld 8 2)).teardownCid = some c.cid ∧
        stopped s u (c.fld 8 2)) ∧
    (∀ n t, n < 4096 → (s.ctx n).teardownAt = some t → t + 262144 ≤ s.now → s.cstate n = 3 →
      ∃ u, exec (.teardownComplete n) s = .next u ∧ u.cstate n = 0 ∧ u.flag (F.cOwned n) = false ∧
        (u.ctx n).teardownAt = none ∧ (∃ k, (u.ctx n).quars = (s.ctx n).quars ++ [(s.now, k)]) ∧
        u.fld (F.seed n) = 0 ∧ (∀ x ∈ u.xlat, x.ctx ≠ n)) ∧
    (∀ n t k, (t, k) ∈ (s.ctx n).quars → t + 65536 * 1024 ≤ s.now → ∃ u, exec (.quarantineEnd n) s = .next u ∧
      (∀ q ∈ (u.ctx n).quars, q.1 ≠ t) ∧
      (∀ q ∈ (s.ctx n).quars, s.now < q.1 + 65536 * 1024 → q ∈ (u.ctx n).quars) ∧
      ∀ p, p < 8 → ∀ d ∈ (u.part p).adapters, ¬(d.state = 3 ∧ d.ctx = n ∧ d.quar = t)) ∧
    ∀ port fn n, 2 ≤ n → n < 4096 → s.pfOwns port n = true → fn = 0 ∨ s.fld (F.cFunc n) = fn →
      ∃ u, exec (.functionLevelReset port fn) s = .next u ∧
        (s.cstate n = 0 → u.flag (F.cOwned n) = false) ∧
        (s.cstate n = 1 ∨ s.cstate n = 4 ∨ s.cstate n = 2 → (s.ctx n).flrMark = none →
          (u.ctx n).flrMark = some s.time.mark ∧ u.cstate n = s.cstate n)

open Sys2Proof.Claims in
/-- Context resets, teardowns, quarantine and function level resets. -/
def Obligations.ContextsAreResetAndTornDown : Prop :=
  ContextResets ∧ TeardownsFreeTheContext

open Sys2Proof.Claims in
/-- Handover and Damper slots (R150 to R152, R248): the target enters HANDOVER with its queue released; 262,144 core cycles later
it is QUIESCED under the other port's PF. A PF claims an unowned Damper slot for its context, and releases it to its reset
values. -/
def Obligations.HandoversAndDamperOwners : Prop :=
  ∀ s : State, acting s →
    (∀ n c, s.freshCmd n 0x61 = some c → s.checkHandover c = .accept → s.fenced c.cid = false →
      ∃ u, exec (.ctxHandover n) s = .next u ∧ u.cstate (c.fld 8 2) = 5 ∧
        ∀ d ∈ u.cmds, ¬(d.ctx = c.fld 8 2 ∧ d.phase = .presented)) ∧
    (∀ cid c, s.cmd cid = some c → c.op = 0x61 → c.phase = .running → c.handle < 4096 → s.cstate c.handle = 5 →
      c.admitCyc + 262144 ≤ s.now → ∃ u v, exec (.handoverComplete cid) s = .next u ∧ completes v u cid 0 [] false ∧
        v.cstate c.handle = 4 ∧ v.fld (F.cPort c.handle) = 1 - s.fld (F.cPort c.handle) ∧ v.fld (F.cFunc c.handle) = 0) ∧
    (∀ port p sl (v : Word32), hosted s port 0 → p < 8 → sl < 512 →
      (s.flag (F.dValid p sl) = false → v.toNat.testBit 15 = true → s.tableOpen port (v.toNat % 4096) = true →
        ∃ u, exec (.damperOwnerWrite port p sl v) s = .next u ∧ u.flag (F.dValid p sl) = true ∧
          u.fld (F.dCtx p sl) = v.toNat % 4096) ∧
      (s.flag (F.dValid p sl) = true → v.toNat.testBit 15 = false → s.tableOpen port (s.fld (F.dCtx p sl)) = true →
        ∃ u, exec (.damperOwnerWrite port p sl v) s = .next u ∧ u.flag (F.dValid p sl) = false ∧
          u.reg (F.damper p sl) = 0 ∧ u.fld (F.dOffset p sl) = 0 ∧ u.fld (F.dPendMax p sl) = 0))

open Sys2Proof.Claims in
/-- The command DMA channels (R55, R96, R315 to R317, R530): a fill or a copy is queued behind what its partition's channel
holds; the first command starts 1,024 cycles after its admission at the earliest, its n steps fall in the last 4 × n cycles of its
duration (assumption 131), and `h` says how a host or an expander meets it;
at its end, once the writes of that cycle have come, it completes, with LATE when that is past its duration, and FAULT_CONTEXT and an
undefined destination (R622) when a step has faulted or an access has come back with an error. -/
def Obligations.CommandDmaRuns : Prop :=
  ∀ s : State, acting s →
    (∀ n c p, c.ctx = n → s.dmaPart c.ctx (c.fld 16 8) = some p → s.freshCmd n 0x70 = some c → s.checkFill c = .accept →
      ∃ u j, exec (.dmaFill n) s = .next u ∧ (u.part p).dma = (s.part p).dma ++ [j] ∧
        j.cid = c.cid ∧ j.ctx = c.ctx ∧ j.isFill = true ∧ j.dst = c.fld 16 8 ∧ j.size = c.fld 24 8 ∧ j.pattern = c.fld 32 8 ∧
        j.ready = s.now + 1024 ∧ j.running = false ∧ ∀ q, q ≠ p → u.part q = s.part q) ∧
    (∀ n c p, c.ctx = n → s.dmaPart c.ctx (c.fld 16 8) = some p → s.freshCmd n 0x71 = some c → s.checkCopy c = .accept →
      ∃ u j, exec (.dmaCopy n) s = .next u ∧ (u.part p).dma = (s.part p).dma ++ [j] ∧
        j.cid = c.cid ∧ j.ctx = c.ctx ∧ j.isFill = false ∧ j.src = c.fld 8 8 ∧ j.dst = c.fld 16 8 ∧ j.size = c.fld 24 8 ∧
        j.ready = s.now + 1024 ∧ j.running = false ∧ ∀ q, q ≠ p → u.part q = s.part q) ∧
    (∀ p j r h, (s.part p).dma = j :: r → j.running = false → j.ready ≤ s.now → s.fenced j.cid = false → s.gddrUp p = true →
      let e := s.now + s.jobTime p j
      ∃ u, exec (.dmaCommandStart p h) s = .next u ∧ u.mem = s.mem ∧ (u.part p).dma =
        { j with running := true, endAt := e, hap := h, run := DmaRun.start (e + hapWait h - 4 * j.steps) (jobKey p) (.job p j.cid) } :: r ∧
        ∀ c, s.cmd j.cid = some c → (u.cmd j.cid).map (fun d => d.endAt) = some (max c.endAt e)) ∧
    ∀ p j r i l, (s.part p).dma = j :: r → j.running = true → j.endAt + transferLate j.hap j.run ≤ s.now → s.gddrUp p = true →
      let w := s.settleWrites
      (w.part p).dma = i :: l → i.cid = j.cid → i.endAt + transferLate i.hap i.run ≤ s.now →
      let q := ((w.modPart p fun x => { x with dma := x.dma.filter fun a => a != i }).lateTransfer p i.ctx i.hap i.ranges).badWrite p
        i.ctx i.hap (if i.adapter then [] else dDests i.desc)
      let bad := i.run.bad || q.2
      let v := if bad then q.1.undefJob p i else q.1
      ∃ u, exec (.dmaCommandEnd p) s = .next u ∧
        (∀ c, v.cmd i.cid = some c → c.phase ≠ .done → i.adapter = false →
          completes v u i.cid (if bad then 0x40 else 0) [] (decide (i.endAt < w.now))) ∧
        (∀ c, v.cmd i.cid = some c → i.adapter = true → u.cmd i.cid = some { c with
          faulted := c.faulted || bad, late := c.late || decide (i.endAt < w.now) })

open Sys2Proof.Claims in
/-- The sequence commands (R337, R338, R344 to R347, R366, R483, R484): a best-effort SEQ_SUBMIT of one sample enters the lowest FREE
entry and returns its handle; SEQ_CANCEL drains its sample, and its count is the next boundary (R130); SEQ_REWARD holds an ember slot, and
its ember is written in the core cycle before its count; SEQ_QUERY waits with its entry. -/
def Sys2Proof.Claims.SequenceCommands : Prop :=
  ∀ (s : State) (n : Nat) (c : Cmd), acting s → c.ctx = n → s.cmd c.cid = some c →
    (∀ e l, s.freshCmd n 0x01 = some c → s.checkSubmit c = .accept → c.fld 25 1 = 0 → c.fld 27 1 = 1 →
      s.freeEntries 1 = [e] → s.freeLists (c.fld 24 1) 1 = [l] → ∀ m, ∃ u, exec (.seqSubmit n m) s = .next u ∧
        (u.entry e).state = 1 ∧ (u.entry e).ctx = n ∧ (u.entry e).part = c.fld 24 1 ∧ (u.entry e).gen = (s.entry e).gen ∧
        (u.entry e).promptLen = c.fld 16 4 ∧ (u.entry e).maxLen = c.fld 20 4 ∧ (u.entry e).pageList = l ∧
        (u.entry e).admitMark = c.admitMark ∧ (∀ k, k ≠ e → u.entry k = s.entry k) ∧
        (u.ctx n).emReserved = (s.ctx n).emReserved + 1 ∧ u.cmd c.cid = some { c with
          phase := .waiting, status := 0, result := toLE 8 0 ++ toLE 4 (e + 65536 * (s.entry e).gen) ++ toLE 1 1 }) ∧
    (s.freshCmd n 0x02 = some c → s.checkCancel c = .accept → s.fenced c.cid = false →
      ∃ u, exec (.seqCancel n) s = .next u ∧ (u.entry (c.fld 8 2)).state = 7 ∧ (u.entry (c.fld 8 2)).endAs = some 0 ∧
        (u.entry (c.fld 8 2)).cancelCid = some c.cid ∧
        u.cmd c.cid = some { c with
          phase := .running, handle := c.fld 8 2, endAt := (s.nextBoundary (s.entry (c.fld 8 2)).part).getD 0 }) ∧
    (s.freshCmd n 0x03 = some c → s.checkReward c = .accept → ∃ u, exec (.seqReward n) s = .next u ∧
      (u.ctx n).emReserved = (s.ctx n).emReserved + 1 ∧
      u.cmd c.cid = some { c with phase := .waiting, status := 0, result := [], handle := c.fld 8 2 }) ∧
    (s.freshCmd n 0x04 = some c → s.checkQuery c = .accept → ∃ u, exec (.seqQuery n) s = .next u ∧
      u.cmd c.cid = some { c with phase := .held, handle := c.fld 8 2 } ∧ ∀ k : Kind, k ≠ .cmds → k.same s u) ∧
    (c.op = 0x03 → c.phase = .waiting → c.status = 0 → c.started = false → c.presented + 2048 ≤ s.now + 1 →
      s.fenced c.cid = false → ∃ u, exec (.rewardEmberWrite c.cid) s = .next u ∧
        u.cmd c.cid = some { c with started := true, result := toLE 4 (s.ctx n).emTail } ∧
        (u.ctx n).emTail = (if s.ringSize n 2 ≤ (s.ctx n).emTail + 1 then 0 else (s.ctx n).emTail + 1) ∧
        let x := s.entry c.handle
        let a := s.ringAt n 2 + 32 * (s.ctx n).emTail
        ((match hostOf a with
          | some (k, _) => s.portDown k = false
          | none => s.ringReach a = true) → u.mem = (s.writeMem a (toLE 8 s.stamp ++ toLE 4 (c.fld 16 4) ++
          toLE 4 (c.fld 20 2) ++ toLE 2 c.handle ++ toLE 2 x.version ++ toLE 2 x.adapterVer ++
          toLE 2 (2 + 2 ^ 15 * b2n (s.ctx n).emPhase) ++ toLE 4 (c.fld 12 4) ++ toLE 2 n ++ toLE 2 x.gen)).mem))

open Sys2Proof.Claims in
/-- SEQ_SUBMIT of any class and number of samples (R337, R338, R345 to R350): best-effort, the samples that have room are admitted, and
guaranteed, all of them, by the plan of GuaranteedPlansFollowTheirRules; sample i enters the i-th lowest FREE entry, with the i-th lowest
free page list, and, guaranteed, with its promise mark and its reserved pages; each takes an ember slot for its END ember; the request
holds the placed chunks and, guaranteed, the pages of its prompt. RESULT is the promise mark, the first handle and the number admitted.
With more than one sample the handles, 0 for those not admitted, are copied to HANDLE_ADDR; a copy that faults, or that an expander
answers with an error response (R554), ends the command FAULT_CONTEXT (R135), and one that it answers late completes it late (R552). -/
def Sys2Proof.Claims.SamplesAreSubmitted : Prop :=
  ∀ (s : State) (n : Nat) (c : Cmd) (m : Meet), acting s → c.ctx = n → s.cmd c.cid = some c → s.freshCmd n 0x01 = some c →
    s.checkSubmit c = .accept →
    let p := c.fld 24 1
    let k := c.fld 27 1
    let guar := decide (c.fld 25 1 = 1)
    let got := if guar then k else min k (s.roomFor n p k)
    let plan := if guar then (s.guarPlan c).getD ([], 0) else ([], 0)
    let es := s.freeEntries got
    let taken := es.zip (s.freeLists p got)
    let handle (i : Nat) : Nat := match es[i]? with
      | some e => e + 65536 * (s.entry e).gen
      | none => 0
    let bytes := (List.range k).flatMap fun i => toLE 4 (handle i)
    let result := toLE 8 plan.2 ++ toLE 4 (handle 0) ++ toLE 1 got
    let pas := (s.extents (some p) false n (c.fld 56 8) (4 * k) false true).map (·.1)
    let reach := s.reachRange (some p) false n (c.fld 56 8) (4 * k) false true
    let d := if lateAt m pas = 0 then c else { c with endAt := c.presented + 2048 + lateAt m pas, late := true }
    ∃ u, exec (.seqSubmit n m) s = .next u ∧
      (∀ i e l, taken[i]? = some (e, l) → let x := u.entry e
        x.state = 1 ∧ x.ctx = n ∧ x.part = p ∧ x.sample = i ∧ x.gen = (s.entry e).gen ∧ x.guar = guar ∧
        x.promptLen = c.fld 16 4 ∧ x.maxLen = c.fld 20 4 ∧ x.drafts = c.fld 38 1 ∧ x.pageList = l ∧ x.admitMark = c.admitMark ∧
        (guar = true → x.promise = plan.2 - c.admitMark ∧
          x.reserve = cdiv (c.fld 20 4) 64 - c.fld 16 4 / 64 + cdiv (c.fld 38 1) 64 + 1)) ∧
      (∀ e, e ∉ taken.map (·.1) → u.entry e = s.entry e) ∧
      (u.ctx n).emReserved = (s.ctx n).emReserved + taken.length ∧
      (∃ r, u.reqs = s.reqs ++ [r] ∧ r.2.ctx = n ∧ r.2.part = p ∧ r.2.entries = es ∧ r.2.placed = plan.1 ∧
        r.2.promptRes = if guar then cdiv (c.fld 16 4) 64 else 0) ∧
      (k ≤ 1 → u.mem = s.mem ∧ u.cmd c.cid = some { c with phase := .waiting, status := 0, result := result }) ∧
      (1 < k → reach = true → badAt m pas = false → u.mem = (s.writeVirt (some p) false n (c.fld 56 8) bytes).mem ∧
        u.cmd c.cid = some { d with phase := .waiting, status := 0, result := result }) ∧
      (1 < k → reach = true → badAt m pas = true →
        u.cmd c.cid = some { d with phase := .waiting, status := 0x40, result := result }) ∧
      (1 < k → reach = false → u.cmd c.cid = some { c with phase := .waiting, status := 0x40, result := result })

/-- The plan of a GUARANTEED request (R348 to R350): it exists exactly where the conditions of R348 hold, its chunks are those of R349,
each in the earliest of the next 256 frames, after that of the chunk before it, in which it fits, and its promise mark is the boundary
that ends the frame of its last chunk. -/
def Sys2Proof.Claims.GuaranteedPlansFollowTheirRules : Prop :=
  (∀ (s : State) (c : Cmd) (placed : List (Nat × Nat × Nat)) (promise : Nat),
    let p := c.fld 24 1
    let k := c.fld 27 1
    let len := c.fld 16 4
    let draft := c.fld 38 1
    let own := cdiv (c.fld 20 4) 64 - len / 64 + cdiv draft 64
    let held := s.guarHeld p
    let g := guarFig (s.part p).budget (s.fld (F.factor p))
    s.guarPlan c = some (placed, promise) ↔ ∃ b, s.firstFrame p (max c.admitMark (s.serveFrom p)) = some b ∧
      k ≤ s.roomFor c.ctx p k ∧ (c.fld 32 4 = 0 ∨ ∀ sc, s.schedAt p b = some sc → sc.len ≤ c.fld 32 4) ∧
      cdiv len 64 + k * (own + 1) ≤ s.unreserved p ∧ held.pos + k * (1 + draft) ≤ g.pos ∧ held.seqs + k ≤ g.seqs ∧
      held.pages + cdiv len 64 + k * own ≤ g.pages ∧
      s.placeList p (held.pos + k * (1 + draft)) g.pos (s.boundsFrom p b 256) (chunksFrom (chunkOf (s.part p).ctrl) len) = (placed, []) ∧
      promise = (s.boundAfter p (maxOf (placed.map (·.1)))).getD 0 ∧ (c.fld 28 4 = 0 ∨ promise ≤ c.admitMark + c.fld 28 4)) ∧
  (∀ (s : State) (p dec g : Nat) (c : Nat × Nat) (r : List (Nat × Nat)) (full : List Nat),
    (∀ b ∈ full, g < dec + s.ledger p b + c.2) → s.placeList p dec g full (c :: r) = ([], c :: r) ∧
      ∀ b later, dec + s.ledger p b + c.2 ≤ g → s.placeList p dec g (full ++ b :: later) (c :: r) =
        ((b, c.1, c.2) :: (s.placeList p dec g later r).1, (s.placeList p dec g later r).2)) ∧
  ∀ len size j : Nat, (chunksFrom size len)[j]? =
    if j < cdiv len size then some (j * size, min ((j + 1) * size) len - j * size) else none

open Sys2Proof.Claims in
/-- The sequence commands; a submission of any class and number of samples, and the plan of a guaranteed one. -/
def Obligations.SequenceCommandsTakeEffect : Prop :=
  SequenceCommands ∧ SamplesAreSubmitted ∧ GuaranteedPlansFollowTheirRules

namespace Sys2Proof.Claims

/-! ## Flue -/

/-- The member of collective cid on partition p. -/
def memberOf (s : State) (cid p : Nat) : Option Member := (s.coll cid).bind fun co => co.member p

/-- Member x of collective cid stands in the queue of its partition without an outcome. -/
structure Local (s : State) (cid : Nat) (co : Coll) (x : Member) : Prop where
  act : acting s
  found : s.coll cid = some co
  here : co.member x.p = some x
  cidOk : co.cid = cid
  running : x.outcome = none

/-- The same, where x is the only local member of the collective and the command has not been completed. -/
structure OneLocal (s : State) (cid : Nat) (co : Coll) (x : Member) : Prop where
  act : acting s
  found : s.coll cid = some co
  only : co.locals = [x]
  cidOk : co.cid = cid
  running : x.outcome = none
  open_ : x.recorded = false
  command : ∃ c, s.cmd cid = some c ∧ c.phase ≠ .done

/-- The member of cid on partition p ends with FAULT_CONTEXT at the next mark (R510, R521). -/
def faulted (s u : State) (cid p : Nat) : Prop :=
  ∃ y, memberOf u cid p = some y ∧ y.outcome = some 0x40 ∧ y.outMark = some (s.time.mark + 1) ∧ y.stopped = true

end Sys2Proof.Claims

open Sys2Proof.Claims in
/-- Flue groups (R442, R485, R488, R489): a definition takes effect at its admission, unless its list cannot be read or its read comes
back with an error, which ends the command FAULT_CONTEXT. P0 reads the list then (assumption 61, DEDUCED), and a read that a
host or an expander answers late makes the completion late by as much, with LATE (R96, R552, R562). A drop removes a group; one that a
collective still names stays, with CFG_ERR. -/
def Sys2Proof.Claims.FlueGroupsAreDefinedAndDropped : Prop :=
  ∀ s : State, acting s →
    (∀ n m c, s.freshCmd n 0x41 = some c → s.cmd c.cid = some c → s.checkGroup c = .accept → s.fenced c.cid = false →
      let late := lateAt m ((s.extents (some 0) false c.ctx (c.fld 16 8) (8 * c.fld 12 4) true false).map (·.1))
      let d := if late = 0 then c else { c with endAt := c.presented + 2048 + late, late := true }
      ∃ u, exec (.flueGroupDefine n m) s = .next u ∧
        (s.listRead c = true → m.err = none →
          u.group (c.fld 8 2) = some {
            ctx := c.ctx
            list := c.fld 16 8
            members := (s.readRecords 0 false c.ctx (c.fld 16 8) (c.fld 12 4)).map (·.1) } ∧
          (∀ g, g ≠ c.fld 8 2 → u.group g = s.group g) ∧
          u.cmd c.cid = some { d with phase := .waiting, status := 0, result := [] }) ∧
        (s.listRead c = false ∨ m.err.isSome = true → u.groups = s.groups ∧
          u.cmd c.cid = some { d with phase := .waiting, status := 0x40, result := [] })) ∧
    ∀ port (v : Word32), hosted s port 0 → let g := v.toNat % 65536
      ∃ u, exec (.flueGroupDrop port v) s = .next u ∧ (∀ k, k ≠ g → u.group k = s.group k) ∧
        ((s.group g).isSome = true → s.groupBusy g = false → u.group g = none) ∧
        (s.group g = none ∨ s.groupBusy g = true → u.groups = s.groups ∧ u.flag F.flueCfgErr = true)

open Sys2Proof.Claims in
/-- A collective is accepted and begins (R490, R502, R505, R506, R515, R522): it enters the queue with its operands and its completion
mark; at START_MARK its member begins with an empty lag table and the member list that its Flue agent reads then (the instant is
assumption 61, DEDUCED); a list that cannot be read faults the member, and a member on a partition in a reset ends with it. -/
def Sys2Proof.Claims.CollectivesAreAcceptedAndBegin : Prop :=
  (∀ (s : State) (n : Nat) (c : Cmd), acting s → s.freshCmd n 0x40 = some c → s.cmd c.cid = some c →
    s.checkCollective c = .accept → ∃ u co, exec (.flueCollective n) s = .next u ∧ u.colls = s.colls ++ [co] ∧
      co.cid = c.cid ∧ co.id = c.fld 8 4 ∧ co.group = c.fld 12 2 ∧ co.op = c.fld 14 1 ∧ co.dtype = c.fld 15 1 ∧
      co.src = c.fld 16 8 ∧ co.dst = c.fld 24 8 ∧ co.size = c.fld 32 8 ∧ co.start = c.fld 48 8 ∧ co.deadline = c.fld 56 8 ∧
      co.done ≤ co.deadline ∧ (∀ x ∈ co.locals, x.begun = false ∧ x.outcome = none) ∧
      u.cmd c.cid = some { c with phase := .running }) ∧
  ∀ (s : State) (cid : Nat) (co : Coll) (c : Cmd) (meets : List (Nat × Meet)), acting s → s.coll cid = some co → co.cid = cid →
    (co.locals.map (·.p)).Nodup → s.cmd cid = some c → c.cid = cid → c.started = false → co.start ≤ s.time.mark →
    s.fenced cid = false → ∃ u, exec (.collectiveStart cid meets) s = .next u ∧ u.cmd cid = some { c with started := true } ∧
      (∀ x ∈ co.locals, x.stopped = false → ∃ y, memberOf u cid x.p = some y ∧ y.m = x.m ∧
        (s.flag (F.inReset x.p) = true → x.outcome = none → y.outcome = some 0x21) ∧
        (s.flag (F.inReset x.p) = false →
          y.begun = true ∧ u.reg (F.laggardReg x.p) = 0 ∧ ∀ j, j < 16 → u.reg (F.lagReg x.p j) = 0)) ∧
      ∀ x, co.locals = [x] → x.stopped = false → x.outcome = none → s.flag (F.inReset x.p) = false → s.steps = [] →
        s.arriveAt x.p = none → ∃ y, memberOf u cid x.p = some y ∧
          (∀ v, s.readView co x = some v → (meetOf meets (2 * x.p)).err = none → y.view = v ∧ y.outcome = none) ∧
          (s.readView co x = none ∨ (meetOf meets (2 * x.p)).err.isSome = true → faulted s u cid x.p)

open Sys2Proof.Claims in
/-- Flue groups are defined and dropped; collectives are accepted and begin. -/
def Obligations.GroupsAndCollectivesBegin : Prop :=
  FlueGroupsAreDefinedAndDropped ∧ CollectivesAreAcceptedAndBegin

open Sys2Proof.Claims in
/-- Sending (R493, R501, R508, R509, R511, R516): the first chunk in plan order whose cycle and whose inputs have come is sent with
what the member holds and reads in this cycle, its header and its marks; a source that cannot be read faults the member; a planned
send that has waited 1,024 cycles sends one stall notice. -/
def Sys2Proof.Claims.ChunksAreSent : Prop :=
  ∀ (s : State) (cid : Nat) (co : Coll) (x : Member), Local s cid co x →
    let here (k : Nat) : Prop := s.flag F.flueNodeValid = true ∧ (memberAt (s.memGroup co x) k).1 = s.fld F.flueDevice
    (∀ ch m, s.nextSend co x = some ch →
      (∀ d bad, s.takeHeld co x ch.src ch.rd m = some (d, bad) → ∃ u y, exec (.chunkSend cid x.p m) s = .next u ∧
        memberOf u cid x.p = some y ∧ y.sent = (ch.idx, ch.peer) :: x.sent ∧ y.got = x.got ∧
        y.nf = (x.nf || (s.marksOf co x).1 || bad) ∧ y.poison = (x.poison || (s.marksOf co x).2) ∧
        (here ch.peer → ∃ h, h.length = 32 ∧
          u.outbox.head? = some (.meshMsg (memberAt (s.memGroup co x) ch.peer).2.1 1 (h ++ d)) ∧
          leAt h 0 4 = co.id % 2 ^ 32 ∧ leAt h 8 4 = x.m % 2 ^ 32 ∧ leAt h 12 4 = ch.idx % 2 ^ 32 ∧
          leAt h 27 1 = b2n y.nf + 2 * b2n y.poison ∧ leAt h 28 4 = crc32c (h.take 28 ++ d))) ∧
      (s.takeHeld co x ch.src ch.rd m = none → ∃ u, exec (.chunkSend cid x.p m) s = .next u ∧ faulted s u cid x.p)) ∧
    ∀ ch i, s.heldSend co x = some (ch, i) → ∃ u y, exec (.stallNoticeSend cid x.p) s = .next u ∧
      memberOf u cid x.p = some y ∧ y = { x with stalled := (ch.idx, ch.peer) :: x.stalled } ∧
      (here ch.peer → u.outbox = .meshMsg (memberAt (s.memGroup co x) ch.peer).2.1 3
        (stallMsg co x.m (x.blamed i) ch.idx) :: s.outbox)

open Sys2Proof.Claims in
/-- Receiving (R497, R499, R510 to R512, R515): a chunk of the plan is taken once, its partial sum waits for the local operand (R493) at
its place in the plan's order, whatever came before it (R499), and one with a wrong CRC sets POISON; a chunk of no collective, or from
another device than its sender's, is a stray, and one of a wrong plan faults the member. That a chunk from a sender which the plan does
not name faults the member as one of a wrong plan does is assumption 62, and that one that has come already, or comes for a stopped
member, changes nothing is assumption 65 (both DEDUCED). -/
def Sys2Proof.Claims.ChunksAreReceived : Prop :=
  ∀ (s : State) (cid : Nat) (co : Coll) (x : Member), Local s cid co x → ∀ fr h pay,
    let g := s.memGroup co x
    let sender := leAt h 8 4
    let stray := ∃ u, exec (.chunkReceive x.p fr h pay) s = .next u ∧ u.colls = s.colls ∧
      logged s u (sootBytes s.stamp 0x38 x.p 0 0 x.p (toLE 4 (leAt h 0 4) ++ toLE 4 sender))
    let same := leAt h 4 2 = co.group ∧ leAt h 6 1 = co.op + 8 * co.plan ∧ leAt h 7 1 = co.dtype ∧ leAt h 24 3 = co.start % 2 ^ 24
    (s.collOn x.p (leAt h 0 4) = none → stray) ∧
    (s.collOn x.p (leAt h 0 4) = some (co, x) → (g.members.length ≤ sender ∨ (memberAt g sender).1 ≠ fr → stray) ∧
      (sender < g.members.length → (memberAt g sender).1 = fr →
        let mine := (s.inOf co x).find? fun i => i.idx == leAt h 12 4 && i.peer == sender
        let k := (s.inOf co x).findIdx fun i => i.idx == leAt h 12 4 && i.peer == sender
        (mine = none ∨ ¬same → ∃ u, exec (.chunkReceive x.p fr h pay) s = .next u ∧ faulted s u cid x.p) ∧
        ∀ ch, mine = some ch → same →
          (x.has ch = true ∨ x.stopped = true → exec (.chunkReceive x.p fr h pay) s = .next s) ∧
          (x.has ch = false → x.stopped = false → segLen ch.wr = pay.length →
            ∃ u y, exec (.chunkReceive x.p fr h pay) s = .next u ∧ memberOf u cid x.p = some y ∧
              y.got = (ch.idx, ch.peer) :: x.got ∧ y.sent = x.sent ∧ y.outcome = none ∧
              (ch.add = false → y.buf = putSegs x.buf ch.wr pay ∧ y.valid = ch.wr ++ x.valid) ∧
              (ch.add = true → y.buf = x.buf ∧ y.adds = (x.adds.filter fun e => decide (e.1 ≤ k)) ++
                (linesFrom ch.wr pay).map (fun e => (k, e)) ++ x.adds.filter fun e => decide (k < e.1)) ∧
              y.nf = (x.nf || (leAt h 27 1).testBit 0) ∧
              (leAt h 28 4 = crc32c (h.take 28 ++ pay) → y.poison = (x.poison || (leAt h 27 1).testBit 1)) ∧
              (leAt h 28 4 ≠ crc32c (h.take 28 ++ pay) → y.poison = true))))

open Sys2Proof.Claims in
/-- Arrival counting (R519, R520): 256 cycles after a step is complete its units are in the destination and the arrival word counts
them; a result that cannot be written, or that an expander answers with an error response (R554), faults the member. -/
def Sys2Proof.Claims.ArrivalsAreCounted : Prop :=
  ∀ (s : State) (cid : Nat) (co : Coll) (x : Member), Local s cid co x → ∀ w i meets, s.arriveAt x.p = some w →
    s.arrivedStep co x = some i →
    let r := s.writeResult co x (s.arrivedSegs co x i) (meetOf meets x.p)
    (r.2 = true → ∃ u y, exec (.arrivalAdd cid x.p meets) s = .next u ∧ memberOf u cid x.p = some y ∧
      y.arrSteps = x.arrSteps ++ [i] ∧ y.arrived = x.arrived + (s.collPlan co x).unitsIn x.m i ∧
      u.mem = (r.1.writeMem w (toLE 8 ((r.1.readLE w 8 + (s.collPlan co x).unitsIn x.m i) % 2 ^ 64))).mem) ∧
    (r.2 = false → ∃ u, exec (.arrivalAdd cid x.p meets) s = .next u ∧ faulted s u cid x.p)

open Sys2Proof.Claims in
/-- Stall notices, poison and tombstones (R512, R513, R516, R580): a notice is remembered; poison sets the member's POISON; a
tombstone also ends it with FAULT_POISON at the next mark; after the end, and where no collective is known under the number
(assumption 65, DEDUCED), both set POISON_LATE and are logged. -/
def Sys2Proof.Claims.FlueMessagesReachTheirMember : Prop :=
  (∀ (s : State) (cid : Nat) (co : Coll) (x : Member), Local s cid co x → s.collOn x.p co.id = some (co, x) →
    (∀ sender blamed chunk, ∃ u y, exec (.stall x.p co.id sender blamed chunk) s = .next u ∧ memberOf u cid x.p = some y ∧
      y = { x with stalls := x.stalls ++ [(sender, chunk, blamed)] }) ∧
    (∀ origin, ∃ u y, exec (.poison x.p co.id origin) s = .next u ∧ memberOf u cid x.p = some y ∧
      y = { x with poison := true, poisonFwd := true }) ∧
    (∀ sender, ∃ u y, exec (.tombstone x.p co.id sender) s = .next u ∧ memberOf u cid x.p = some y ∧ y.poison = true ∧
      y.stopped = true ∧ y.outcome = some 0x42 ∧ y.outMark = some (s.time.mark + 1) ∧ y.named = some sender)) ∧
  ∀ (s : State) (p id who : Nat), acting s → p < 8 → s.collOn p id = none →
    (∃ u, exec (.poison p id who) s = .next u ∧ u.colls = s.colls ∧ u.flag (F.flPoisonLate p) = true ∧
      logged s u (sootBytes s.stamp 0x3C p 0 0 p (toLE 4 id ++ toLE 4 who))) ∧
    ∃ u, exec (.tombstone p id who) s = .next u ∧ u.colls = s.colls ∧ u.flag (F.flPoisonLate p) = true ∧
      logged s u (sootBytes s.stamp 0x3C p 0 0 p (toLE 4 id ++ toLE 4 who))

open Sys2Proof.Claims in
/-- Chunks are sent, received and counted; the other Flue messages reach their member. -/
def Obligations.ChunksAndMessagesAreCarried : Prop :=
  ChunksAreSent ∧ ChunksAreReceived ∧ ArrivalsAreCounted ∧ FlueMessagesReachTheirMember

open Sys2Proof.Claims in
/-- The end of a collective (R96, R502, R517, R518, R521): once its mark C has come and its result can be written, it completes with
the status of its flags and the laggard, LATE when the mark is past, and FAULT_CONTEXT where the source cannot be read, the result not be
written, or an expander answers its writes with an error response (R554); a member that is not done at the deadline ends TIMEOUT_PEER and
names the missing member, or 0xFFFFFFFF where none is missing (assumption 65, DEDUCED); once every local member has an outcome the first
of R521 is the status. -/
def Obligations.CollectivesComplete : Prop :=
  (∀ (s : State) (cid : Nat) (co : Coll) (x : Member) (meets : List (Nat × Meet)), OneLocal s cid co x →
    let late := decide (co.done < s.time.mark)
    let l := s.resultSegs co x
    let held := s.takeHeld co x false l (meetOf meets x.p)
    let refused := badAt (meetOf meets x.p) ((s.resultExtents co x l).map (·.1))
    let ends (i : Instr) (st who : Nat) : Prop := ∃ u v, exec i s = .next u ∧ completes v u cid st (toLE 4 who) late ∧
      (∀ y ∈ v.colls, y.cid ≠ cid) ∧ v.cmds = s.cmds
    (∀ d bad, let st := if x.nf || bad then 0x41 else if x.poison then 0x42 else 0
      let who := x.named.getD (s.laggard x.p)
      s.memberDone co x = true → co.done ≤ s.time.mark → held = some (d, bad) → s.resultOk co x l = true → refused = false →
      ends (.collectiveComplete cid meets) st who ∧ (co.done < s.time.mark → ends (.collectiveLateComplete cid meets) st who)) ∧
    (s.memberDone co x = true → co.done ≤ s.time.mark → held = none ∨ s.resultOk co x l = false ∨ refused = true →
      ends (.collectiveComplete cid meets) 0x40 (s.laggard x.p) ∧
      (co.done < s.time.mark → ends (.collectiveLateComplete cid meets) 0x40 (s.laggard x.p))) ∧
    (co.deadline ≤ s.time.mark → s.memberDone co x = false →
      ends (.collectiveDeadline cid meets) 0x43 ((s.missing co x).getD 0xFFFFFFFF))) ∧
  ∀ (s : State) (cid st : Nat) (co : Coll) (meets : List (Nat × Meet)), acting s → s.coll cid = some co → co.cid = cid →
    (∃ c, s.cmd cid = some c ∧ c.phase ≠ .done) → (∀ x ∈ co.locals, x.recorded = true ∧ x.outcome.isSome = true) →
    [0x20, 0x21, 0x40, 0x43, 0x41, 0x42, 0].find? (fun z => co.locals.any fun x => x.outcome == some z) = some st →
    ∃ u v, exec (.collectiveComplete cid meets) s = .next u ∧
      completes v u cid st (s.collResult co st) (decide (co.done < s.time.mark)) ∧
      (∀ y ∈ v.colls, y.cid ≠ cid) ∧ v.cmds = s.cmds

namespace Sys2Proof.Claims

/-! ## Training steps -/

/-- The step of command cid runs, on partition p among others. -/
structure StepOn (s : State) (cid : Nat) (t : Step) (p : Nat) : Prop where
  act : acting s
  found : s.step? cid = some t
  cidOk : t.cid = cid
  here : p ∈ t.parts
  range : ∀ q ∈ t.parts, q < 8
  each : t.parts.Nodup
  awake : t.frozen = false

/-- The thread of record r is LIVE on behalf of the step, from cycle 64 of the mark, as R255 to R257 say. -/
def launched (s u : State) (cid : Nat) (r : List Byte) : Prop :=
  let x := u.thread (recordThread r)
  x.state = .live ∧ x.record = r ∧ x.owner = .step cid ∧ x.startAt = max s.now (s.now - s.time.cyc + 64)

/-- Every record of a table that names partition p: accepted in the state in which the records before it leave the threads, it is
launched; refused, FAULT of p is set and its thread is as those records leave it. -/
def launches (s u : State) (t : Step) (p : Nat) (tab : List (List Byte)) : Prop :=
  ∀ l r rest, tab = l ++ r :: rest → leAt r 0 2 / 128 = p →
    ((s.launchTable t p l).launchOk p r = true → launched s u t.cid r) ∧
    ((s.launchTable t p l).launchOk p r = false → u.flag (F.fault p) = true ∧
      (leAt r 2 1 < 16 → (∀ z ∈ rest, recordThread z ≠ recordThread r) →
        u.thread (recordThread r) = (s.launchTable t p l).thread (recordThread r)))

end Sys2Proof.Claims

open Sys2Proof.Claims in
/-- STEP_LAUNCH and the step start (R421, R422, R423, R713): the step is in flight on every partition of its mask with no flag set, and
PHASE stays 0 until it starts (assumption 57, DEDUCED: R439 only lists the codes); 2 marks later it starts, each partition with the
header and tables that it reads itself then, and keeps (assumption 59), and a header that cannot be read, or a read that comes back
with an error (assumption 136), is a header fault of that partition. -/
def Sys2Proof.Claims.StepsLaunchAndStart : Prop :=
  (∀ (s : State) (n : Nat) (c : Cmd), acting s → s.freshCmd n 0x20 = some c → s.cmd c.cid = some c → s.checkStep c = .accept →
    ∃ u t, exec (.stepLaunch n) s = .next u ∧ u.steps = s.steps ++ [t] ∧ t.cid = c.cid ∧ t.ctx = c.ctx ∧
      t.parts = maskParts (c.fld 30 1) ∧ t.commit = c.fld 40 8 ∧ t.number = c.fld 32 8 ∧ t.version = c.fld 48 2 ∧
      u.cmd c.cid = some { c with phase := .running } ∧ ∀ p ∈ maskParts (c.fld 30 1),
        u.flag (F.inFlight p) = true ∧ u.fld (F.phase p) = 0 ∧ u.sflags p = 0 ∧ (u.part p).step = some c.cid) ∧
  ∀ (s : State) (cid : Nat) (t : Step) (p : Nat) (c : Cmd) (meets : List (Nat × Meet)), StepOn s cid t p → s.cmd cid = some c →
    c.op = 0x20 → c.phase = .running → t.started = false → c.admitMark + 2 ≤ s.time.mark → s.fenced cid = false →
    ∃ u q, exec (.stepStart cid meets) s = .next u ∧ u.step? cid = some q ∧ q.started = true ∧ q.startAt = s.time.mark ∧
      q.parts = t.parts ∧ q.commit = t.commit ∧ u.fld (F.phase p) = 1 ∧ q.view p = s.readStep t.ctx p (c.fld 8 8) ∧
      (s.reachRange (some p) false t.ctx (c.fld 8 8) 64 true false = false ∨ (meetOf meets p).err.isSome = true →
        p ∈ q.hdrFault)

open Sys2Proof.Claims in
/-- The launches and the update gate (R422, R423, R424, R430, R432): 2 marks after the start every record of the main table that names p
is launched in the table's order, or a header fault sets FAULT; a record that the control core refuses, in the state that the records
before it leave, sets FAULT and launches nothing; at the U of a partition the gate opens only with no flag set and every listed
collective OK, and the update table follows in the same way; a gate that stays closed is shown as PHASE 3 (assumption 57, DEDUCED); a
thread LIVE one mark before COMMIT_MARK of a SELF_TEST step sets FAULT. -/
def Sys2Proof.Claims.StepTablesAndGate : Prop :=
  ∀ (s : State) (cid : Nat) (t : Step) (p : Nat), StepOn s cid t p →
    (t.started = true → t.mainUp = false → t.startAt + 2 ≤ s.time.mark →
      (∀ q ∈ t.parts, s.tableFree t q (t.view q).mainTab = true) → ∃ u, exec (.mainLaunch cid) s = .next u ∧
      (p ∈ t.hdrFault → u.flag (F.fault p) = true ∧ ∀ h, h / 2048 = p → u.thread h = s.thread h) ∧
      (p ∉ t.hdrFault → launches s u t p (t.view p).mainTab)) ∧
    (t.mainUp = true → p ∉ t.gated → t.updateMark p ≤ s.time.mark → ∃ u q, exec (.updateGate cid) s = .next u ∧
      u.step? cid = some q ∧ p ∈ q.gated ∧
      (s.sflags p = 0 → (∀ e ∈ (t.view p).list, (t.outcome p e.1).map (·.1) = some 0) → p ∈ q.gate ∧ u.fld (F.phase p) = 2) ∧
      (s.sflags p ≠ 0 ∨ (∃ e ∈ (t.view p).list, (t.outcome p e.1).map (·.1) ≠ some 0) →
        (p ∈ q.gate → p ∈ t.gate) ∧ u.fld (F.phase p) = 3) ∧
      ((∃ e ∈ (t.view p).list, t.outcome p e.1 = none) → u.flag (F.fault p) = true)) ∧
    (p ∈ t.gated → p ∉ t.updUp → t.updateMark p ≤ s.time.mark → p ∈ t.gate → s.tableFree t p (t.view p).updTab = true →
      ∃ u, exec (.updateLaunch cid) s = .next u ∧ launches s u t p (t.view p).updTab) ∧
    (∀ h, t.started = true → (t.view p).mode = 2 → t.commit = s.time.mark + 1 → h / 2048 = p → (s.thread h).state = .live →
      (s.thread h).owner = .step cid → ∃ u, exec (.selfTestCheckMark cid) s = .next u ∧ u.flag (F.fault p) = true ∧
        u.threads = s.threads)

open Sys2Proof.Claims in
/-- A training step is launched, starts, launches its tables and passes its gate. -/
def Obligations.StepsRunToTheirGate : Prop :=
  StepsLaunchAndStart ∧ StepTablesAndGate

open Sys2Proof.Claims in
/-- The end of a step (R436, R439, R444, R447, R618): on each partition the first row of R436 that applies is its status, and the
first of them that R436 lists is the command's; only an OK step of mode NORMAL commits, by inverting LIVE_HALF of every valid
region, moving the versions and counting the step; in a partition reset the step waits for the end of that reset. REVERT moves
the versions back, and is ignored with CFG_ERR while PREV_VALID is 0 or an incomplete PUBLISH reads p (R447), and while a step is in
flight on p (assumption 60, DEDUCED: R439 excepts REVERT from its own rule). -/
def Obligations.StepsCommitOrNot : Prop :=
  (∀ (s : State) (cid : Nat) (t : Step) (p : Nat), StepOn s cid t p → t.commit ≤ s.time.mark → s.fenced cid = false →
    ((∃ q ∈ t.parts, s.flag (F.inReset q) = true) → exec (.stepCommit cid) s = .next s) ∧
    ∀ w, (∀ q ∈ t.parts, s.flag (F.inReset q) = false) → (∃ c, s.cmd cid = some c ∧ c.phase ≠ .done) →
      [0x40, 0x43, 0x41, 0x42, 0x44, 0x22, 0].find? (fun z => t.parts.any fun q => s.stepRow t q == z) = some w →
    let st := s.stepRow t p
    ∃ u v, exec (.stepCommit cid) s = .next u ∧
      completes v u cid w (toLE 2 (v.fld (F.liveVersion (t.parts.headD 0)))) false ∧ (∀ q ∈ v.steps, q.cid ≠ cid) ∧
      v.flag (F.inFlight p) = false ∧ v.fld (F.phase p) = 0 ∧ v.sflags p = 0 ∧ v.fld (F.lastStatus p) = st ∧
      (p ∈ t.threadFault ∨ p ∈ t.hdrFault → st = 0x40) ∧
      (s.fld (F.nf p) = 1 → p ∉ t.threadFault → p ∉ t.hdrFault → (∀ e ∈ t.colls, e.2.2.1 ≠ 0x43) → st = 0x41) ∧
      (st = 0 → (t.view p).mode = 0 → v.fld (F.liveVersion p) = t.version % 65536 ∧
        v.fld (F.prevVersion p) = s.fld (F.liveVersion p) ∧ v.flag (F.prevValid p) = true ∧
        v.fld (F.stepCount p) = (s.fld (F.stepCount p) + 1) % 2 ^ 64 ∧
        ∀ i, i < 32 → v.fld (F.crLiveHalf p i) =
          if s.flag (F.crValid p i) then 1 - s.fld (F.crLiveHalf p i) else s.fld (F.crLiveHalf p i)) ∧
      (st ≠ 0 ∨ (t.view p).mode ≠ 0 → v.fld (F.liveVersion p) = s.fld (F.liveVersion p) ∧
        v.fld (F.stepCount p) = s.fld (F.stepCount p) ∧ ∀ i, i < 32 → v.fld (F.crLiveHalf p i) = s.fld (F.crLiveHalf p i))) ∧
  ∀ (s : State) (port p : Nat), hosted s port 0 → p < 8 → ∃ u, exec (.revert port p) s = .next u ∧
    ((s.stepOn p).isSome = true ∨ s.flag (F.prevValid p) = false ∨ s.publishing p none = true → u.flag (F.hearthCfgErr p) = true ∧
      u.fld (F.liveVersion p) = s.fld (F.liveVersion p) ∧ u.fld (F.stepCount p) = s.fld (F.stepCount p)) ∧
    (s.stepOn p = none → s.flag (F.prevValid p) = true → s.publishing p none = false →
      u.fld (F.liveVersion p) = s.fld (F.prevVersion p) ∧ u.flag (F.prevValid p) = false ∧
      u.fld (F.stepCount p) = (s.fld (F.stepCount p) + (2 ^ 64 - 1)) % 2 ^ 64 ∧
      ∀ i, i < 32 → u.fld (F.crLiveHalf p i) =
        if s.flag (F.crValid p i) then 1 - s.fld (F.crLiveHalf p i) else s.fld (F.crLiveHalf p i))

namespace Sys2Proof.Claims

/-! ## Lamplighter -/

/-- Command c, of opcode op, is the next of context n to be checked, and its checks accept it. -/
structure Accepted (s : State) (n op : Nat) (c : Cmd) (check : State → Cmd → Verdict) : Prop where
  act : acting s
  fresh : s.freshCmd n op = some c
  known : s.cmd c.cid = some c
  accept : check s c = .accept

/-- Command cid, of opcode op, was accepted, and its work runs. -/
structure Running (s : State) (op cid : Nat) (c : Cmd) : Prop where
  act : acting s
  known : s.cmd cid = some c
  opcode : c.op = op
  phase : c.phase = .running

/-- Every extent of a copy can be read. -/
def readable (s : State) (l : List (Nat × Nat)) : Prop := ∀ e ∈ l, s.backed e.1 = true ∧ s.backed (e.1 + e.2 - 1) = true

/-- The command runs from here on, with no other change to it. -/
def runs (u : State) (c : Cmd) : Prop := u.cmd c.cid = some { c with phase := .running }

/-- The command waits for its count with status OK and no RESULT (R130). -/
def settles (u : State) (c : Cmd) : Prop := u.cmd c.cid = some { c with phase := .waiting, status := 0, result := [] }

end Sys2Proof.Claims

open Sys2Proof.Claims in
/-- Publication (R468, R469, R471, R472): an accepted PUBLISH takes its slots and its place on the copy engine; at the start
the copy runs and the engine is busy (R709), or a source that cannot be translated or read abandons it; at the end every target slot
holds the image as the source stands then (assumption 53, DEDUCED: R469 writes its lines from s to e) and is READY, or a reported error
of the copy, or an expander that is late (assumption 132), abandons it. -/
def Obligations.PublicationsAreCopied : Prop :=
  (∀ (s : State) (n : Nat) (c : Cmd), Accepted s n 0x30 c State.checkPublish →
    let ps := maskParts (c.fld 9 1)
    let rate := (s.publishPlan c).1
    ∃ u j d, exec (.publish n) s = .next u ∧ u.jobs = s.jobs ++ [j] ∧ j.cid = c.cid ∧
      (s.jobs = [] → j.start = c.admitMark + 2 ∧ j.endAt = j.start + 64 + cdiv (s.fld F.imageUnits * 32768) (300 * rate)) ∧
      u.cmd c.cid = some d ∧ d.phase = .running ∧ d.startAt = j.start ∧ d.endAt = j.endAt ∧
      ∀ p ∈ ps, ∀ i, s.emptySlotOf p = some i → (p, i) ∈ d.targets ∧
        u.fld (F.slVersion p i) = c.fld 12 2 ∧ u.fld (F.slState p i) = 1 ∧ u.flag (F.slIncoming p i) = true) ∧
  ∀ (s : State) (cid : Nat) (c : Cmd), Running s 0x30 cid c → c.abandoned = false →
    (c.started = false → c.startAt ≤ s.time.mark → s.fenced cid = false →
      (∀ l, s.publishExtents c = some l →
        (readable s l → ∃ u, exec (.publishCopyStart cid) s = .next u ∧ u.cmd cid = some { c with started := true } ∧
          ((∃ j ∈ s.jobs, j.cid = cid) → u.flag F.copyBusy = true) ∧ ∀ k : Kind, k ≠ .cmds → k ≠ .regs → k.same s u) ∧
        (¬readable s l → ∃ u, exec (.publishCopyStart cid) s = .next u ∧
          u.cmd cid = some { c with abandoned := true } ∧ ∀ j ∈ u.jobs, j.cid ≠ cid)) ∧
      (s.publishExtents c = none → ∃ u, exec (.publishCopyStart cid) s = .next u ∧
        u.cmd cid = some { c with abandoned := true, faulted := true } ∧ ∀ j ∈ u.jobs, j.cid ≠ cid)) ∧
    ∀ l h, (∀ t ∈ c.targets, t.1 < 8 ∧ t.2 < 4) → c.started = true → c.endAt ≤ s.time.mark → (∃ j ∈ s.jobs, j.cid = cid) →
      s.publishExtents c = some l → ∃ u, exec (.publishCopyEnd cid h) s = .next u ∧ (∀ j ∈ u.jobs, j.cid ≠ cid) ∧
      (readable s l → h.err = none → h.cxlLate = 0 → (∀ t ∈ c.targets, u.fld (F.slState t.1 t.2) = 2) ∧
        ∀ p i, c.targets = [(p, i)] → u.mem = (s.copyExtents (s.slotAt p i) l).mem) ∧
      (¬readable s l ∨ h.err.isSome = true ∨ h.cxlLate ≠ 0 → u.cmd cid = some { c with abandoned := true } ∧ u.mem = s.mem)

open Sys2Proof.Claims in
/-- Variants and the REFERENCE (R465, R466, R475): VARIANT_LOAD takes the lowest EMPTY entry; VARIANT_DROP empties its entry, and
is ignored with CFG_ERR while the entry is IN_USE; REFERENCE_SET reserves the slots that hold its version. -/
def Sys2Proof.Claims.VariantsAndReferencesAreSet : Prop :=
  (∀ (s : State) (n : Nat) (c : Cmd), Accepted s n 0x31 c State.checkVariant → s.fenced c.cid = false →
    ∃ u i, exec (.variantLoad n) s = .next u ∧ i < 8 ∧ s.fld (F.varState i) = 0 ∧ (∀ j < i, s.fld (F.varState j) ≠ 0) ∧
      u.fld (F.varState i) = 1 ∧ u.fld (F.varVersion i) = c.fld 24 2 ∧ u.fld (F.varCtx i) = c.ctx % 4096 ∧
      u.fld (F.varSrc i) = c.fld 8 8 % 2 ^ 48 ∧ settles u c) ∧
  (∀ (s : State) (port v : Nat), hosted s port 0 → v < 8 →
    (s.fld (F.varState v) = 2 → ∃ u, exec (.variantDrop port v) s = .next u ∧ u.flag F.lampCfgErr = true ∧
      u.reg (F.varReg v) = s.reg (F.varReg v)) ∧
    (s.fld (F.varState v) ≠ 2 → ∃ u, exec (.variantDrop port v) s = .next u ∧ u.reg (F.varReg v) = 0 ∧
      u.fld (F.varSrc v) = 0 ∧ ∀ k : Kind, k ≠ .regs → k.same s u)) ∧
  ∀ (s : State) (n : Nat) (c : Cmd), Accepted s n 0x32 c State.checkReference →
    ∃ u ts, exec (.referenceSet n) s = .next u ∧ u.cmd c.cid = some { c with phase := .running, targets := ts } ∧
      (c.fld 10 2 = 0 → ts = []) ∧ ∀ p ∈ maskParts (c.fld 8 1), ∀ i, c.fld 10 2 ≠ 0 →
        s.slotWith p (c.fld 10 2) = some i → (p, i) ∈ ts ∧ u.flag (F.slReserved p i) = true

/-- Each target takes its lowest free block for the version, LOADING, and queues one copy into it (R479). -/
def Sys2Proof.Claims.installs (s u : State) (c : Cmd) : Prop :=
  u.cmd c.cid = some { c with phase := .running } ∧
    ∀ p ∈ maskParts (c.fld 30 1), ∀ b, s.freeBlock p = some b → ∃ a j,
      (u.part p).adapters = (s.part p).adapters ++ [a] ∧ a.ctx = c.ctx ∧ a.id = c.fld 24 2 ∧ a.ver = c.fld 26 2 ∧
      a.block = b ∧ a.state = 0 ∧ a.refs = 0 ∧ (u.part p).dma = (s.part p).dma ++ [j] ∧ j.cid = c.cid ∧
      j.adapter = true ∧ j.src = c.fld 8 8 ∧ j.dst = s.blockAt p b ∧ j.size = c.fld 16 8

open Sys2Proof.Claims in
/-- Adapters (R477 to R481): an install or a replacement takes the lowest free block of each target and queues one copy there;
with the last copy the version is the CURRENT one, the former one is RETIRED, and a replacement reports the version it
replaced; a removal retires the CURRENT version. -/
def Sys2Proof.Claims.AdaptersAreInstalledAndRemoved : Prop :=
  (∀ (s : State) (n : Nat) (c : Cmd), Accepted s n 0x10 c (fun s c => s.checkAdapter c false) →
    ∃ u, exec (.adapterInstall n) s = .next u ∧ installs s u c) ∧
  (∀ (s : State) (n : Nat) (c : Cmd), Accepted s n 0x11 c (fun s c => s.checkAdapter c true) →
    ∃ u, exec (.adapterReplace n) s = .next u ∧ installs s u c) ∧
  (∀ (s : State) (cid : Nat) (c : Cmd), Running s 0x10 cid c ∨ Running s 0x11 cid c →
    (∀ p < 8, ∀ j ∈ (s.part p).dma, j.cid ≠ cid) → s.ending c.ctx = false →
    (c.faulted = true → ∃ u v, exec (.adapterCopyEnd cid) s = .next u ∧ completes v u cid 0x40 [] false) ∧
    (c.faulted = false → ∃ u v r, exec (.adapterCopyEnd cid) s = .next u ∧ completes v u cid 0 r false ∧
      (c.op = 0x10 → r = []) ∧
      (∀ p a, c.op = 0x11 → maskParts (c.fld 30 1) = [p] → s.adapter p (c.fld 24 2) 1 = some a → r = toLE 2 a.ver) ∧
      ∀ p ∈ maskParts (c.fld 30 1),
        (∀ a ∈ (v.part p).adapters, a.id = c.fld 24 2 → a.state = 1 → a.ver = c.fld 26 2) ∧
        ∀ a ∈ (s.part p).adapters, a.id = c.fld 24 2 → a.ver = c.fld 26 2 → a.state = 0 →
          { a with state := 1 } ∈ (v.part p).adapters)) ∧
  ∀ (s : State) (n : Nat) (c : Cmd), Accepted s n 0x12 c State.checkRemove → s.fenced c.cid = false →
    ∃ u, exec (.adapterRemove n) s = .next u ∧ settles u c ∧
      ∀ p ∈ maskParts (c.fld 30 1), ∀ a ∈ (u.part p).adapters, ¬(a.id = c.fld 24 2 ∧ a.state = 1)

open Sys2Proof.Claims in
/-- Variants, the REFERENCE and adapters. -/
def Obligations.VariantsAndAdapters : Prop :=
  VariantsAndReferencesAreSet ∧ AdaptersAreInstalledAndRemoved

open Sys2Proof.Claims in
/-- PARTITION_ROLE (R42, R45, R46, R699): the change is shown as pending; at its effective mark the role is the new one and the
partition leaves service; Off is complete then, and shown in service; any other role when the partition serves, 2,048 marks later, or
16,384 from Off. A change that fell within the reset by which the partition leaves Off ends with that reset, ABORTED_RESET (R48,
assumption 67). -/
def Sys2Proof.Claims.RolesChangeAndServe : Prop :=
  (∀ (s : State) (n : Nat) (c : Cmd), Accepted s n 0x80 c State.checkRole →
    let p := c.fld 8 1
    ∃ u, exec (.partitionRole n) s = .next u ∧
      u.cmd c.cid = some { c with phase := .running, endAt := c.fld 16 8 + serviceMarks (s.role p) (c.fld 9 1) } ∧ (u.part p).pendRole = some (c.cid, c.fld 9 1, c.fld 16 8) ∧
      u.flag (F.pending p) = true ∧ u.role p = s.role p ∧ u.flag (F.inService p) = s.flag (F.inService p)) ∧
  ∀ (s : State) (p : Nat), acting s → p < 8 →
    (∀ cid r m, (s.part p).pendRole = some (cid, r, m) → m ≤ s.time.mark → s.fenced cid = false →
      s.flag (F.inReset p) = false → r < 4 →
      (r ≠ 0 → ∃ u, exec (.roleEffective p) s = .next u ∧ u.role p = r ∧ u.flag (F.inService p) = false ∧
        (u.part p).pendRole = none ∧ (u.part p).serveAt = some (cid, r, m + if s.role p = 0 then 16384 else 2048)) ∧
      (∀ c, r = 0 → Running s 0x80 cid c → (∀ j ∈ (s.part p).dma, j.cid ≠ cid) →
        (∀ z, (s.part p).serveAt = some z → z.1 ≠ cid) → ∃ u v, exec (.roleEffective p) s = .next u ∧
        completes v u cid 0 [] false ∧ v.role p = 0 ∧ v.flag (F.inService p) = true)) ∧
    ∀ cid c r m, (s.part p).serveAt = some (cid, r, m) → m ≤ s.time.mark → Running s 0x80 cid c →
      ∃ u v w, exec (.roleService p) s = .next u ∧ completes v w cid 0 [] false ∧ (s.flag (F.inReset p) = false → u = w) ∧
        (s.flag (F.inReset p) = true → u = w.finishAll 0x21 (s.fallenRoles p cid)) ∧ v.flag (F.inService p) = true ∧
        v.flag (F.inReset p) = false ∧ v.role p = s.role p ∧ (v.part p).serveAt = none

open Sys2Proof.Claims in
/-- Schedules, marks and power domains (R66, R90, R665): FRAME_SET and MARK_SET wait for their marks; the first domain or rail
that is due switches on, 8 marks after the last one at the earliest. -/
def Sys2Proof.Claims.SchedulesMarksAndDomains : Prop :=
  (∀ (s : State) (n : Nat) (c : Cmd), Accepted s n 0x81 c State.checkFrameSet →
    let p := c.fld 8 1
    ∃ u, exec (.frameSet n) s = .next u ∧ runs u c ∧ (u.part p).sched = (s.part p).sched ∧
      ((s.part p).nextSched = none → (u.part p).nextSched =
        some (c.cid, { len := c.fld 12 4, origin := c.fld 16 8, builder := c.fld 9 1 })) ∧
      ∀ q, q ≠ p → u.part q = s.part q) ∧
  (∀ (s : State) (n : Nat) (c : Cmd), Accepted s n 0x82 c State.checkMarkSet →
    ∃ u, exec (.markSet n) s = .next u ∧ runs u c ∧ u.time = { s.time with setM := some (c.cid, c.fld 16 8, c.admitMark) }) ∧
  ∀ (s : State) (i t : Nat) (r : List (Nat × Nat)), acting s → s.board.dueOn = (t, i) :: r →
    (∀ m, s.board.lastOn = some m → m + 8 * 1024 ≤ s.now - s.time.cyc) → ∃ u, exec .domainSwitchOn s = .next u ∧
      u.board.dueOn = r ∧ u.board.lastOn = some (s.now - s.time.cyc) ∧ (i < 200 → u.domainOn i = true) ∧
      (200 ≤ i → i < 208 → u.board.rails.toNat.testBit (i - 200) = true)

open Sys2Proof.Claims in
/-- Role changes, frame schedules, MARK_SET and the power domains. -/
def Obligations.RolesSchedulesAndDomains : Prop :=
  RolesChangeAndServe ∧ SchedulesMarksAndDomains

open Sys2Proof.Claims in
/-- A partition reset (R36, R37, R602, R617, R618, R675): a hang, once work is overdue, another fault of the control core and an
uncorrectable error of the L2 trigger it for the next mark; at its start the partition leaves service, its threads are gone and its
samples drain; 16,384 marks after the trigger it serves again, with RESET_EVT set, or, where the reset has not completed, a chip reset
follows. -/
def Obligations.PartitionResets : Prop :=
  ∀ (s : State) (p : Nat), acting s → p < 8 →
    (∃ u, exec (.controlHang p .hang) s = .next u ∧ (s.overdue p = true → resetDue s u p 4) ∧ (s.overdue p = false → u = s) ∧
      ∀ k : Kind, k ≠ .parts → k.same s u) ∧
    (∃ u, exec (.controlHang p .core) s = .next u ∧ resetDue s u p 6 ∧ ∀ k : Kind, k ≠ .parts → k.same s u) ∧
    (∃ u, exec (.controlHang p .l2) s = .next u ∧ resetDue s u p 3 ∧ ∀ k : Kind, k ≠ .parts → k.same s u) ∧
    (∀ m cause, (s.part p).resetAt = some (m, cause) → s.markCome m = true → ∃ u, exec (.partitionResetStart p) s = .next u ∧
      u.flag (F.inReset p) = true ∧ u.flag (F.inService p) = false ∧ u.flag (F.pending p) = false ∧
      (u.part p).resetAt = none ∧ (u.part p).resetFrom = some (s.time.mark, cause, s.role p) ∧
      (∀ t, t / 2048 = p → u.thread t = Thread.dflt) ∧ (∀ f ∈ u.inflight, f.thread / 2048 ≠ p) ∧
      (∀ e, (s.entry e).part = p → (s.entry e).state ≠ 0 → (s.entry e).state ≠ 8 → (u.entry e).state = 7) ∧
      logged s u (sootBytes s.stamp 0x23 p 0 0 p [0, BitVec.ofNat 8 cause])) ∧
    ∀ m cause r, (s.part p).resetFrom = some (m, cause, r) → (s.part p).resetTrig + 16384 * 1024 ≤ s.now →
      (s.colls = [] → ∃ u, exec (.partitionResetEnd p true) s = .next u ∧ u.flag (F.inReset p) = false ∧
        u.flag (F.inService p) = true ∧ u.flag (F.resetEvt p) = true ∧ (u.part p).resetFrom = none ∧
        (u.part p).adapters = [] ∧ ((s.part p).hotDie = true → 1600 < s.fld (F.thermJ p) → u.board.chipFrom.isSome = true)) ∧
      ∃ u, exec (.partitionResetEnd p false) s = .next u ∧ (∀ k : Kind, k ≠ .board → k.same s u) ∧ (s.board.chipFrom = none →
        u.board = { s.board with chipTrig := some s.time.mark, chipFrom := some s.now, chipDeaf := false })

namespace Sys2Proof.Claims

/-! ## Frames -/

/-- Partition p serves frames by the schedule sc, and no new schedule waits. -/
structure Serving (s : State) (p : Nat) (sc : Sched) : Prop where
  act : acting s
  range : p < 8
  serves : s.serving p = true
  sched : (s.part p).sched = some sc
  next : (s.part p).nextSched = none

end Sys2Proof.Claims

open Sys2Proof.Claims in
/-- Boundary and seal (R62, R90, R331, R353, R356): at the next boundary, the earliest of those that a forward jump has passed, its frame
is the current one with the budget last written, and where the frame before was finalised 16 marks ago its tokens have been posted;
at the origin of an accepted FRAME_SET, unless a FENCE makes it miss that (R129), the new schedule is in force with frame 0; from 16
marks before the boundary a work list is sealed for the frame, what SealedListsAreBuilt says; an empty one while the current frame is not
finalised (assumption 48, DEDUCED: R335 only discards the sealed list of such a boundary), and at a boundary that starts no work. -/
def Sys2Proof.Claims.FramesBeginAndAreSealed : Prop :=
  (∀ (s : State) (p : Nat) (sc : Sched) (b : Nat), acting s → Serving (s.dueCancels.missFrameSets p) p sc →
    let v := s.dueCancels.missFrameSets p
    let x := v.part p
    v.nextBoundary p = some b → b ≤ v.time.mark → ∃ u, exec (.frameBoundary p) s = .next u ∧
      let y := u.part p
      y.curFrame = some ((b - sc.origin) / sc.len) ∧ y.sealed = none ∧ (y.budget, y.ctrl) = x.nextBudget.getD (x.budget, x.ctrl) ∧
      y.nextBudget = none ∧ y.sched = some sc ∧
      (x.curWork = [] ∧ x.overrun = false ∨ (∃ f, x.finalised = some f ∧ f + 16 ≤ b) →
        y.staged = [] ∧ y.finalised = none ∧ y.overrun = false)) ∧
  (∀ (s : State) (p cid : Nat) (n : Sched), acting s → p < 8 →
    let v := s.dueCancels.missFrameSets p
    let x := v.part p
    v.framing p = true → x.nextSched = some (cid, n) → v.nextBoundary p = some n.origin → n.origin ≤ v.time.mark →
    ∃ u, exec (.frameBoundary p) s = .next u ∧ (u.part p).sched = some n ∧ (u.part p).curFrame = some 0 ∧
      (u.part p).nextSched = x.laterScheds.head?) ∧
  ∀ (s : State) (p : Nat) (sc : Sched) (b : Nat) (meets : List (Nat × Meet)), Serving s p sc →
    let x := s.part p
    s.nextBoundary p = some b → b ≤ s.time.mark + 16 → x.sealed.map (·.1) ≠ some b →
    ∃ u ws, exec (.frameSeal p meets) s = .next u ∧ (u.part p).sealed = some (b, ws) ∧
      (x.curWork ≠ [] ∨ x.overrun = true → x.finalised = none → ws = []) ∧ (b < x.noWorkTill → ws = [])

/-- Sample e is active on the partition of the frame, of one class, admitted before the seal (R332), of the suspect's context in a replay
frame (R612), neither ending nor behind a FENCE: what a seal builds from (R356). -/
def Sys2Proof.Claims.mayRun (s : State) (f : FrameCtx) (guar : Bool) (e : Nat) : Prop :=
  let x := s.entry e
  x.part = f.p ∧ 1 ≤ x.state ∧ x.state ≤ 5 ∧ x.guar = guar ∧ x.endAs = none ∧ x.admitMark + 16 < f.b ∧
    (∀ n, f.only = some n → x.ctx = n) ∧ ∀ r, s.req x.reqRec = some r → s.fenced r.cid = false

/-- The list of build(k) with the work of sample e at its end, which costs `cost`. -/
def Sys2Proof.Claims.adds (b y : Build) (e first count : Nat) (prefill : Bool) (cost : Bud) : Prop :=
  (∃ w, y.works = b.works ++ [w] ∧ w.entry = e ∧ w.first = first ∧ w.count = count ∧ w.prefill = prefill) ∧
    y.used = ⟨b.used.pos + cost.pos, b.used.seqs + cost.seqs, b.used.pages + cost.pages⟩

open Sys2Proof.Claims in
/-- A decode sample in its turn (R356, R357, R359): a guaranteed one is added from its reservation, or skipped where its ember slots
cannot be reserved; a best-effort one is left out where the list with it exceeds the budget in a component, waits for pages where they
cannot be had, is skipped without ember slots, and is added else. Its work begins at LENGTH − 1 and costs 1 + PENDING positions, one
sample, and the pages of its list not yet counted with those it needs. -/
def Sys2Proof.Claims.DecodeTurns : Prop :=
  ∀ (b : Build) (f : FrameCtx) (e : Nat),
    let s := b.st
    let x := s.entry e
    let first := x.length - 1
    let count := 1 + x.pending
    let need := (s.newBlocks e first count).length + if (s.copyNeeded f.writers e first).isSome then 1 else 0
    let cost : Bud := ⟨count, 1, s.unseen e b.seen + need⟩
    let fits := b.used.pos + cost.pos ≤ f.eff.pos ∧ b.used.seqs + 1 ≤ f.eff.seqs ∧ b.used.pages + cost.pages ≤ f.eff.pages
    let got := s.canObtain e need
    x.promptLen ≤ x.length →
      (x.guar = true → count ≤ s.emFree x.ctx → adds b (b.visit f e) e first count false cost) ∧
      (x.guar = true → s.emFree x.ctx < count → b.visit f e = { b with st := s.skipSample e }) ∧
      (x.guar = false → ¬fits → b.visit f e = b) ∧
      (x.guar = false → fits → got.2 = false → b.visit f e = { b with st := got.1.starved e }) ∧
      (x.guar = false → fits → got.2 = true → s.emFree x.ctx < count → b.visit f e = { b with st := got.1.skipSample e }) ∧
      (x.guar = false → fits → got.2 = true → count ≤ s.emFree x.ctx → adds b (b.visit f e) e first count false cost)

open Sys2Proof.Claims in
/-- The samples of a request in the turn of the first of them (R356, R357, R359, R400): they prefill as one unit, once. A guaranteed one
runs the rest of the chunk placed in the frame, and has no work in a frame without one; a best-effort one runs a chunk of the length of
R356, cut at a segment (R400), where the budget holds its pages and they can be had. -/
def Sys2Proof.Claims.PrefillTurns : Prop :=
  ∀ (b : Build) (f : FrameCtx) (e : Nat) (r : Request),
    let s := b.st
    let x := s.entry e
    let unit := s.unitOf x.reqRec
    let cost (first count : Nat) : Bud := ⟨count, 0, s.unseen e b.seen + (s.newBlocks e first count).length⟩
    x.length < x.promptLen → s.req x.reqRec = some r →
      (x.reqRec ∈ b.units → b.visit f e = b) ∧
      (x.reqRec ∉ b.units → x.guar = true →
        ((∀ c ∈ r.placed, c.1 ≠ f.b) → b.visit f e = b) ∧
        ∀ c0 len, r.placed.find? (fun c => c.1 == f.b) = some (f.b, c0, len) → let first := max c0 x.length
          (c0 + len ≤ first → b.visit f e = b) ∧
          (first < c0 + len → s.emFree x.ctx < unit.length → (b.visit f e).works = b.works ∧ (b.visit f e).used = b.used) ∧
          (first < c0 + len → unit.length ≤ s.emFree x.ctx → unit.head? = some e →
            adds b (b.visit f e) e first (c0 + len - first) true (cost first (c0 + len - first)))) ∧
      (x.reqRec ∉ b.units → x.guar = false →
        let left := x.promptLen - x.length
        let most := min (min (chunkOf f.ctrl) left) (f.eff.pos - b.used.pos)
        let size := if most = left then most else most / 64 * 64
        ∀ toks, s.promptToks r 0 (min x.promptLen (x.length + size + 1)) = some toks →
          let count := segmentEnd toks x.length (x.length + size) - x.length
          let got := s.canObtain e (s.newBlocks e x.length count).length
          (count = 0 ∨ f.eff.pages < b.used.pages + (cost x.length count).pages → b.visit f e = b) ∧
          (count ≠ 0 → b.used.pages + (cost x.length count).pages ≤ f.eff.pages →
            (got.2 = false ∨ s.emFree x.ctx < unit.length → (b.visit f e).works = b.works ∧ (b.visit f e).used = b.used) ∧
            (got.2 = true → unit.length ≤ s.emFree x.ctx → unit.head? = some e →
              adds b (b.visit f e) e x.length count true (cost x.length count))))

open Sys2Proof.Claims in
/-- The work list of a seal (R331, R332, R356, R358): where the current frame is finalised, no prefix is to be matched and no replay is
under way, it is that of build(k): the guaranteed samples in ascending table index, then the best-effort ones in ascending key, each in
its turn as DecodeTurns and PrefillTurns say, within the frame's effective budget; copies on write are those of the list's own writers
(R389). -/
def Sys2Proof.Claims.SealedListsAreBuilt : Prop :=
  (∀ (s : State) (p : Nat) (sc : Sched) (b : Nat) (meets : List (Nat × Meet)), Serving s p sc →
    let x := s.part p
    let v := s.placeWaiting p b
    let at_ (ws : List Nat) : FrameCtx := {
      p := p, b := b, ctrl := x.comingBudget.2, eff := v.effFor p b x.comingBudget.1 (v.factorFor p b), only := none, writers := ws }
    s.nextBoundary p = some b → b ≤ s.time.mark + 16 → x.sealed.map (·.1) ≠ some b →
    x.curWork = [] ∧ x.overrun = false ∨ x.finalised.isSome = true → x.noWorkTill ≤ b → s.inReplay p = false →
    (∀ r ∈ v.reqs, v.matchNow (at_ []) r = false) → ∃ u ws writers, exec (.frameSeal p meets) s = .next u ∧
      (u.part p).sealed = some (b, ws) ∧ ws.map (fun w => (w.entry, w.first, w.count, w.prefill, w.final)) =
        (v.build (at_ writers)).works.map fun w => (w.entry, w.first, w.count, w.prefill, w.final)) ∧
  (∀ (s : State) (f : FrameCtx), s.Inv → let builder := ((s.schedAt f.p f.b).map (·.builder)).getD 0
    ∃ gs es : List Nat, s.build f = es.foldl (fun b e => b.visit f e) (gs.foldl (fun b e => b.visit f e) ⟨s, ⟨0, 0, 0⟩, [], [], []⟩) ∧
      (∀ e, e ∈ gs ↔ mayRun s f true e) ∧ (∀ e, e ∈ es ↔ mayRun s f false e) ∧ gs.Pairwise (· < ·) ∧
      es.Pairwise fun d e => lexLe (s.key358 f.p f.ctrl builder d) (s.key358 f.p f.ctrl builder e) = true) ∧
  DecodeTurns ∧ PrefillTurns

open Sys2Proof.Claims in
/-- The weight switch (R471): at the boundary at SWITCH_MARK the INCOMING slot becomes the ACTIVE one, and PUBLISH completes OK.
-/
def Sys2Proof.Claims.PublicationsSwitchAtTheirBoundary : Prop :=
  ∀ (s : State) (p i b : Nat) (sc : Sched) (c : Cmd), Serving s p sc →
    s.nextBoundary p = some b → b ≤ s.time.mark → s.samplesOn p = [] → (s.part p).sealed = none →
    s.cmds = [c] → c.op = 0x30 → c.phase = .running → c.abandoned = false → c.faulted = false → c.targets = [(p, i)] →
    c.fld 16 8 = b → i < 4 → (∀ j < 4, s.flag (F.slIncoming p j) = true ↔ j = i) → s.flag (F.slActive p i) = false →
    ∃ u v, exec (.frameBoundary p) s = .next u ∧ completes v u c.cid 0 [] (decide (b < s.time.mark)) ∧
      v.flag (F.slActive p i) = true ∧ v.flag (F.slIncoming p i) = false ∧
      ∀ j < 4, j ≠ i → s.activeSlot p = some j → v.flag (F.slActive p j) = false

open Sys2Proof.Claims in
/-- Frames begin and are sealed with the list of R356; the weight switch falls on their boundary. -/
def Obligations.FramesBeginAndSwitch : Prop :=
  FramesBeginAndAreSealed ∧ SealedListsAreBuilt ∧ PublicationsSwitchAtTheirBoundary

open Sys2Proof.Claims in
/-- Kernels and finalisation (R331, R335, R461, R365): at cycle 64 of the boundary mark, once, a launch record of the version
that the frame uses starts its thread for the frame, and a refused one is logged and loses its work; at the cutoff the frame is
finalised, or, with a kernel thread still running, becomes an overrun, which is finalised once the threads have exited. -/
def Sys2Proof.Claims.KernelsRunAndFramesAreFinalised : Prop :=
  ∀ (s : State) (p : Nat) (sc : Sched), Serving s p sc →
    (∀ r k, (s.part p).curWork ≠ [] → (s.part p).overrun = false → (s.part p).finalised = none → (s.part p).kernelUp = false →
      (s.part p).curFrame = some k → s.kernelsDue p = true → s.launchesOk p [r] = true →
      (s.launchOk p r = true → ∃ u, exec (.frameKernelStart p [r]) s = .next u ∧
        let x := u.thread (recordThread r)
        x.state = .live ∧ x.record = r ∧ x.owner = .frame p k ∧ x.startAt = max s.now (s.now - s.time.cyc + 64) ∧
        x.pc = x.codeBase + x.entryOf) ∧
      (s.launchOk p r = false → ∃ u, exec (.frameKernelStart p [r]) s = .next u ∧ u.threads = s.threads ∧
        (∀ w ∈ (u.part p).curWork, w.lost = true) ∧
        logged s u (sootBytes s.stamp 0x11 p 0 0 (leAt r 0 2 / 8) (toLE 4 (recordThread r) ++ toLE 4 0)))) ∧
    (∀ outs m, s.cutoff p = some m → m ≤ s.time.mark → (s.part p).finalised = none → (s.part p).overrun = false →
      (s.kernelsLive p = true → ∃ u, exec (.frameFinalise p outs) s = .next u ∧ (u.part p).overrun = true ∧
        (u.part p).finalised = none ∧ u.flag (F.overrunF p) = true ∧
        logged s u (sootBytes s.stamp 0x28 p 0 0 p (toLE 8 ((s.part p).curFrame.getD 0)))) ∧
      (s.kernelsLive p = false → ∃ u, exec (.frameFinalise p outs) s = .next u ∧
        (u.part p).finalised = some s.time.mark ∧ (u.part p).overrun = false)) ∧
    ∀ outs, (s.part p).overrun = true → (s.part p).finalised = none →
      (s.kernelsLive p = true → exec (.lateFinalisation p outs) s = .next s) ∧
      (s.kernelsLive p = false → ∃ u, exec (.lateFinalisation p outs) s = .next u ∧
        (u.part p).finalised = some s.time.mark ∧ (u.part p).overrun = true)

open Sys2Proof.Claims in
/-- Table entries (R336, R340): 65,536 marks after DONE an entry is FREE again at a boundary of its partition, or at once where
that has no schedule; its generation rises and skips 0; until then it stays. -/
def Sys2Proof.Claims.EntriesAreFreedLater : Prop :=
  ∀ (s : State) (e : Nat), acting s → (s.entry e).state = 8 →
    let x := s.entry e
    let due := x.doneAt + 65536
    (due ≤ s.time.mark → (s.part x.part).sched = none ∨ (∃ b, s.lastBoundary x.part = some b ∧ due ≤ b) →
      ∃ u, exec (.seqEntryFree e) s = .next u ∧
        u.entry e = { Sample.dflt with gen := if x.gen = 65535 then 1 else x.gen + 1 } ∧
        ∀ k, k ≠ e → u.entry k = s.entry k) ∧
    (s.time.mark < due → exec (.seqEntryFree e) s = .next s) ∧
    ∀ b, (s.part x.part).sched ≠ none → s.lastBoundary x.part = some b → b < due → exec (.seqEntryFree e) s = .next s

open Sys2Proof.Claims in
/-- Frame kernels run, frames are finalised, and table entries are freed. -/
def Obligations.FramesAreFinalised : Prop :=
  KernelsRunAndFramesAreFinalised ∧ EntriesAreFreedLater

open Sys2Proof.Claims in
/-- CTX_SAVE (R625, R626, R628): once accepted it runs; at START_MARK its target is QUIESCED, its threads freeze and its samples
are SUSPENDED; 240 marks later it completes with the bytes of the image, FAULT_CONTEXT where part of it could not be written
(R130, R628; that the tile records are written at this count is assumption 91, DEDUCED), and with RESUME a LIVE target runs on. -/
def Sys2Proof.Claims.ContextsAreSaved : Prop :=
  (∀ (s : State) (n : Nat) (c : Cmd), Accepted s n 0x50 c
      (fun s c => s.checkImage c 1 true (s.live (c.fld 8 2) || s.cstate (c.fld 8 2) == 4)) →
    ∃ u, exec (.ctxSave n) s = .next u ∧ u.cmd c.cid = some { c with phase := .running, handle := c.fld 8 2 } ∧
      ∀ k : Kind, k ≠ .cmds → k.same s u) ∧
  ∀ (s : State) (cid : Nat) (c : Cmd), Running s 0x50 cid c → c.handle < 4096 →
    (c.started = false → c.fld 32 8 ≤ s.time.mark → s.fenced cid = false →
      ∃ u d, exec (.saveStart cid) s = .next u ∧ u.cmd cid = some d ∧ d.started = true ∧ d.wasLive = s.live c.handle ∧
        (s.live c.handle = true → u.cstate c.handle = 4) ∧
        (∀ t, (s.thread t).state ≠ .free → (s.thread t).ctx = c.handle → (u.thread t).frozen = true) ∧
        ∀ e, (s.entry e).ctx = c.handle → 1 ≤ (s.entry e).state → (s.entry e).state ≤ 5 → (u.entry e).state = 6 ∧
          (u.entry e).susp = (s.entry e).state) ∧
    (c.started = true → c.fld 32 8 + 240 ≤ s.time.mark →
      ∃ u v, exec (.saveComplete cid) s = .next u ∧
        completes v u cid (if ∀ e ∈ c.sources,
            s.reachRange (some (e.1 / 128)) false c.ctx e.2.1 recordBytes false true = true then c.status else 0x40) (toLE 8 c.bytes) false ∧
        v.cstate c.handle = (if (c.fld 10 1).testBit 0 = true ∧ c.wasLive = true ∧ s.cstate c.handle = 4 then 1
          else s.cstate c.handle))

open Sys2Proof.Claims in
/-- CTX_RESTORE (R130, R625, R629 to R631): once accepted it runs; at START_MARK its outcome is fixed; 240 marks later it completes with
it, also where it is a failure (assumption 92, DEDUCED), FAULT_CONTEXT where the image can no longer be read (R442) or a read of it comes
back with an error (R537), and a good restore has set SPARK_SEED and SERVE_POLICY; a restored step whose commit is at least 2 marks away
runs on at its resume. -/
def Sys2Proof.Claims.ContextsAreRestored : Prop :=
  (∀ (s : State) (n : Nat) (c : Cmd), Accepted s n 0x51 c
      (fun s c => s.checkImage c 0 false (s.cstate (c.fld 8 2) == 4 && !s.imagePending c &&
        (s.cmdsOf (c.fld 8 2)).all fun d => !d.incomplete)) →
    ∃ u, exec (.ctxRestore n) s = .next u ∧ u.cmd c.cid = some { c with phase := .running, handle := c.fld 8 2 } ∧
      ∀ k : Kind, k ≠ .cmds → k.same s u) ∧
  (∀ (s : State) (cid : Nat) (c : Cmd), Running s 0x51 cid c → c.handle < 4096 →
    (c.started = false → c.fld 32 8 ≤ s.time.mark → s.fenced cid = false →
      (∃ u d, exec (.restoreStart cid) s = .next u ∧ u.cmd cid = some d ∧ d.started = true ∧
        (d.status = 0 ∨ d.status = 0x40 ∨ d.status = 0x45 ∧ s.imageFld c 2 1 = 1)) ∧
      (s.imageFld c 2 1 ≠ 1 → s.openCmds 0x52 = [] → ∃ u, exec (.restoreStart cid) s = .next u ∧
        (∀ k : Kind, k ≠ .cmds → k.same s u) ∧
        u.cmd cid = some { c with started := true, status := if s.restoreBad c then 0x40 else 0 })) ∧
    (c.started = true → c.fld 32 8 + 240 ≤ s.time.mark →
      ∀ meets,
      (c.status ≠ 0 → ∃ u, exec (.restoreComplete cid meets) s = .next u ∧ completes s u cid c.status [] false) ∧
      (c.status = 0 → s.imageReach c = false ∨ s.imageError c meets = true → ∃ u v, exec (.restoreComplete cid meets) s = .next u ∧
        completes v u cid 0x40 [] false ∧ ∀ k : Kind, k ∉ [Kind.regs, .parts, .hosts, .soot, .outbox] → k.same s v) ∧
      (c.status = 0 → s.imageReach c = true → s.imageError c meets = false → ∃ u v, exec (.restoreComplete cid meets) s = .next u ∧
        completes v u cid 0 [] false ∧
        v.fld (F.seed c.handle) = s.imageFld c 512 8 ∧
        (v.reg (F.servePolicy c.handle)).toNat = s.imageFld c 520 8))) ∧
  ∀ (s : State) (n k : Nat) (d : Cmd) (t : Step) (meets : List (Nat × Meet)), acting s → s.live n = true → (s.ctx n).restored = [k] → s.cmd k = some d →
    d.startAt ≤ s.now → s.step? k = some t → t.cid = k → s.restoredTied t = false → s.time.mark + 2 ≤ t.commit →
    ∃ u q, exec (.restoredStepResume n meets) s = .next u ∧ (u.ctx n).restored = [] ∧ u.step? k = some q ∧ q.frozen = false ∧
      ∀ h ∈ s.stepThreads k, (u.thread h).frozen = false

open Sys2Proof.Claims in
/-- Context images are saved and restored. -/
def Obligations.ContextsAreSavedAndRestored : Prop :=
  ContextsAreSaved ∧ ContextsAreRestored

open Sys2Proof.Claims in
/-- Checkpoints and the flash (R96, R552, R554, R634, R635, R658): an accepted CHECKPOINT has its place on the copy engine; at the start
the halves of its partitions are captured, where they are not yet (the instant is assumption 73, DEDUCED), and the engine is busy (R709);
at the end e (R634), or later where the expander is late, then with LATE (assumption 132), it completes OK, FAULT_CONTEXT or
DEADLINE_MISSED with its bytes; that DEADLINE_MISSED stands before a fault, with the byte total as RESULT, is assumption 73. An accepted
FLASH_WRITE runs. -/
def Obligations.CheckpointsAreCopied : Prop :=
  (∀ (s : State) (n : Nat) (c : Cmd), Accepted s n 0x52 c State.checkCheckpoint →
    let ps := maskParts (c.fld 8 1)
    ∃ u j, exec (.checkpoint n) s = .next u ∧ u.jobs = s.jobs ++ [j] ∧ j.cid = c.cid ∧
      (∀ k : Kind, k ≠ .cmds → k ≠ .jobs → k.same s u) ∧
      (s.jobs = [] → j.start = c.fld 32 8 ∧
        j.endAt = j.start + 64 + cdiv (s.ckptTotal ps / 64) (300 * s.leastShare ps true)) ∧
      u.cmd c.cid = some { c with
        phase := .running, startAt := j.start, endAt := j.endAt, bytes := s.ckptTotal ps }) ∧
  (∀ (s : State) (cid : Nat) (c : Cmd), Running s 0x52 cid c →
    (c.started = false → c.startAt ≤ s.time.mark → s.fenced cid = false →
      ∃ u d, exec (.checkpointCopyStart cid) s = .next u ∧ u.cmd cid = some d ∧ d.started = true ∧
        ((∃ j ∈ s.jobs, j.cid = cid) → u.flag F.copyBusy = true) ∧
        (s.captured c = true → d = { c with
            started := true, targets := s.ckptDest c
            faulted := c.faulted || !s.reachRange none false c.ctx (c.fld 16 8) c.bytes false true } ∧
          ∀ k : Kind, k ≠ .cmds → k ≠ .regs → k.same s u) ∧
        (s.captured c = false → c.cid = cid → ∀ p ∈ maskParts (c.fld 8 1), (cid, false) ∈ (u.part p).ckpt)) ∧
    ∀ h : Hap, c.started = true → c.endAt * 1024 + h.cxlLate ≤ s.markCycle →
      let late := decide (0 < h.cxlLate)
      let good := s.reachRange none false c.ctx (c.fld 16 8) c.bytes false true = true ∧ ∀ e ∈ c.sources, s.backed e.2.1 = true
      ∃ u v, exec (.checkpointCopyEnd cid h) s = .next u ∧ (∀ j ∈ v.jobs, j.cid ≠ cid) ∧
        (c.abandoned = true → completes v u cid 0x22 (toLE 8 c.bytes) late) ∧
        (c.abandoned = false → h.badWrite = true ∨ h.err.isSome = true ∨ c.faulted = true ∨ ¬good →
          completes v u cid 0x40 (toLE 8 c.bytes) late) ∧
        (c.abandoned = false → h.badWrite = false → h.err = none → c.faulted = false → good →
          completes v u cid 0 (toLE 8 c.bytes) late)) ∧
  ∀ (s : State) (n : Nat) (c : Cmd), Accepted s n 0x83 c State.checkFlash →
    ∃ u, exec (.flashWrite n) s = .next u ∧ (∀ k : Kind, k ≠ .cmds → k.same s u) ∧ u.cmd c.cid = some { c with
      phase := .running, startAt := if s.fenced c.cid then 0 else c.admitCyc + 2048 }

namespace Sys2Proof.Claims

/-! ## Ports, links and registers -/

/-- The lanes a port in Flue mode comes up on: the first set of R582 that locks, without all 8 for a port that a RETRAIN write must
bring back to them (R585). -/
def firstSet (held : Bool) (locked : BitVec 8) : BitVec 8 :=
  if locked = 0xFF ∧ held = false then 0xFF else if locked &&& 0x3F = 0x3F then 0x3F else if locked &&& 0xFC = 0xFC then 0xFC
  else if locked &&& 0x0F = 0x0F then 0x0F else if locked &&& 0xF0 = 0xF0 then 0xF0 else 0

/-- The lanes a port in Ethernet mode comes up on: all 8, or with SPLIT every half that locks (R588). -/
def ethLanes (split : Bool) (locked : BitVec 8) : BitVec 8 :=
  if split = true then (if locked &&& 0x0F = 0x0F then 0x0F else 0) + (if locked &&& 0xF0 = 0xF0 then 0xF0 else 0)
  else if locked = 0xFF then 0xFF else 0

/-- Configuration dwords of a PF whose writes do more than keep the value (R556). -/
def capControls : List Nat :=
  [capAt 0x01 + 0x04, capAt 0x10010 + 0x08, capAt 0x10010 + 0x10, capAt 0x10015 + 0x08, capAt 0x1002E + 0x08,
   capAt 0x1002E + 0x10, capAt 0x1002E + 0x14]

/-- Commands that are a host's writes of registers (R643). -/
def isHostWrite : Instr → Prop
  | .registerWrite .. | .evtEnWrite .. | .recoveryGo .. | .ctxOwnerWrite .. | .start .. | .stop .. | .reset .. | .sqTail ..
  | .cqHead .. | .emberHead .. | .damperOwnerWrite .. | .flueGroupDrop .. | .variantDrop .. | .retrain .. | .linkEnable ..
  | .chipReset .. | .revert .. | .timeUpstreamWrite .. | .ctxPtRootWrite .. => True
  | _ => False

end Sys2Proof.Claims

open Sys2Proof.Claims in
/-- Translation loads (R106, R544, R545): a write of CTX_PT_ROOT starts a load from the next mark, or, with VALID 0, leaves the context no
translation; at its count the load gives the mappings of its tables as they stand there (assumption 74, DEDUCED), or none, with PT_ERR or
PT_FULL; a read at `a` that GDDR7 does not give (R537) fails it with PT_ERR, which is the model's choice (assumption 137). -/
def Sys2Proof.Claims.PageTablesAreLoaded : Prop :=
  (∀ (s : State) (port n : Nat) (v : Word), hosted s port 0 → n < 4096 → s.tableOpen port n = true →
    let w := v &&& BitVec.ofNat 64 (mask 0 3 + mask 21 27)
    (s.flag (F.mmuLoading n) = true → ∃ u, exec (.ctxPtRootWrite port n v) s = .next u ∧ u.loads = s.loads ∧
      u.xlat = s.xlat ∧ u.flag (F.cConfigErr n) = true) ∧
    (s.flag (F.mmuLoading n) = false → v.toNat.testBit 0 = true → ∃ u, exec (.ctxPtRootWrite port n v) s = .next u ∧
      u.reg (F.ctxRec n + 0x28) = w ∧ u.flag (F.mmuLoading n) = true ∧
      u.loads = s.loads ++ [{ ctx := n, root := w.toNat, start := s.time.mark + 1 }] ∧ u.xlat = s.xlat) ∧
    (s.flag (F.mmuLoading n) = false → v.toNat.testBit 0 = false → ∃ u, exec (.ctxPtRootWrite port n v) s = .next u ∧
      u.reg (F.ctxRec n + 0x28) = w ∧ u.loads = s.loads ∧ ∀ x, x ∈ u.xlat ↔ x ∈ s.xlat ∧ x.ctx ≠ n)) ∧
  ∀ (s : State) (l : PtLoad) (a : Nat) (m : Meet), acting s → s.loads = [l] → l.ctx < 4096 →
    let q := s.readTables l
    let old := s.xlat.filter fun x => x.ctx != l.ctx
    let full := 262144 < old.length + q.1.length
    let bad := q.2.2 = true ∨ (m.err.isSome = true ∧ a < 0x3000000000)
    l.start + 32 + cdiv (32768 + 64 * q.2.1) 600 ≤ s.time.mark → ∃ u, exec (.ptLoadComplete a m) s = .next u ∧ u.loads = [] ∧
      u.flag (F.mmuLoading l.ctx) = false ∧ (bad ∨ full → u.xlat = old) ∧ (¬bad → ¬full → u.xlat = old ++ q.1) ∧
      (u.flag (F.mmuLoaded l.ctx) = true ↔ ¬bad ∧ ¬full) ∧
      (bad → u.flag (F.mmuPtErr l.ctx) = true) ∧ (¬bad → full → u.flag (F.mmuPtFull l.ctx) = true)

open Sys2Proof.Claims in
/-- CXL and host ports (R1, R538, R549, R551, R554, R556 to R558, R563, R564, R644): a link coming up at a rate and width that the port
supports shows its figures, a CXL port going down clears its UP, and with it RATE and WIDTH (assumption 75, DEDUCED), and a host's comes
up from mark 2,048 on with PERST# deasserted, with the VFs that its operand names, at most TotalVFs (assumption 79, DESIGN CHOICE); a port
reset forgets the port's own PCIe state; BAR4 reads and writes device memory, or is refused with BAR4_ERR, as is a read that fails
(assumption 137); configuration requests are retried until the configuration is checked, a function above NUM_VFS is an Unsupported
Request, and a PF then shows the vendor, device and revision ID, its BARs and TotalVFs; VF Enable, the size of BAR4, the AER status and
the power state follow the capability registers, whose layouts are PCI Express's, at places that are open (assumption 104). -/
def Sys2Proof.Claims.PortsAndBar4 : Prop :=
  ∀ s : State, acting s →
    (∀ q rate width cap, q < 8 → (rate < 3 ∨ 6 < rate ∨ width ∉ [4, 8, 16]) → exec (.cxlLinkUp q rate width cap) s = .next s) ∧
    (∀ q rate width cap, q < 8 → 3 ≤ rate → rate ≤ 6 → width ∈ [4, 8, 16] → ∃ u, exec (.cxlLinkUp q rate width cap) s = .next u ∧
      u.flag (F.cxlUp q) = true ∧ u.fld (F.cxlRate q) = rate ∧ u.fld (F.cxlWidth q) = width ∧
      (u.flag (F.cxlDegraded q) = true ↔ rate < 6 ∨ width < 16) ∧ u.fld (F.cxlCap q) = min cap 1048576) ∧
    (∀ q, q < 8 → s.flag (F.cxlUp q) = true → ∃ u, exec (.cxlLinkDown q) s = .next u ∧ u.flag (F.cxlUp q) = false ∧
      u.fld (F.cxlRate q) = 0 ∧ u.fld (F.cxlWidth q) = 0 ∧ u.mem = s.mem) ∧
    (∀ port rate width vfs flit, port < 2 → vfs < 256 →
      let fits := 1 ≤ rate ∧ rate ≤ 6 ∧ width ∈ [1, 2, 4, 8, 16] ∧ (rate = 6 → flit = true)
      (fits → 2048 * 1024 ≤ s.now → s.flag (F.hPerst port) = false →
        ∃ u, exec (.hostLinkUp port rate width vfs flit) s = .next u ∧ u.flag (F.hUp port) = true ∧
          u.fld (F.hRate port) = rate ∧ u.fld (F.hWidth port) = width ∧ u.flag (F.hFlit port) = flit ∧
          (u.flag (F.hDegraded port) = true ↔ rate < 6 ∨ width < 16) ∧
          u.fld (F.hNumVfs port) = (if s.fld F.stage = 5 then 0 else min vfs (s.host port).vfs)) ∧
      (¬fits ∨ s.now < 2048 * 1024 ∨ s.flag (F.hPerst port) = true → exec (.hostLinkUp port rate width vfs flit) s = .next s)) ∧
    (∀ port perst, port < 2 → ∃ u, exec (.hostPortReset port perst) s = .next u ∧ u.flag (F.hUp port) = false ∧
      u.flag (F.hPerst port) = perst ∧ u.fld (F.hNumVfs port) = 0 ∧ (u.host port).unmasked = [] ∧ (u.host port).pend = [] ∧
      (u.host port).config = [] ∧ (u.host port).doeReq = none ∧ u.mem = s.mem ∧ u.cmds = s.cmds ∧ u.ctxs = s.ctxs) ∧
    (∀ port fn off (wr : Bool) (v : Word32),
      (s.configReady = false → ∃ u, exec (.pcieConfigRequest port fn off wr v) s = .next u ∧
        u.outbox = .crs port fn off :: s.outbox ∧ ∀ k : Kind, k ≠ .outbox → k.same s u) ∧
      (s.configReady = true → s.fld (F.hNumVfs port) < fn → ∃ u, exec (.pcieConfigRequest port fn off wr v) s = .next u ∧
        u.outbox = .cfgUr port fn off :: s.outbox ∧ ∀ k : Kind, k ≠ .outbox → k ≠ .hosts → k.same s u) ∧
      (s.configReady = true → fn ≤ s.fld (F.hNumVfs port) → wr = true → let o := off / 4 * 4
        (fn ≠ 0 ∨ o ∉ capControls → ¬(o = capAt 0x01 + 0x04 ∧ (v.toNat % 4 = 1 ∨ v.toNat % 4 = 2)) → ∃ u, exec (.pcieConfigRequest port fn off wr v) s = .next u ∧
          tfind (u.host port).config (4096 * fn + o) = some v ∧ ∀ k : Kind, k ≠ .hosts → k.same s u) ∧
        (o = capAt 0x01 + 0x04 → v.toNat % 4 = 1 ∨ v.toNat % 4 = 2 →
          exec (.pcieConfigRequest port fn off wr v) s = .next s) ∧
        (fn = 0 → port < 2 → v.toNat % 4 = 0 ∨ v.toNat % 4 = 3 → o = capAt 0x10010 + 0x08 ∨ o = capAt 0x10010 + 0x10 →
          ∃ u, exec (.pcieConfigRequest port fn off wr v) s = .next u ∧ tfind (u.host port).config o = some v ∧
            u.fld (F.hNumVfs port) = if (u.configWritten port 0 (capAt 0x10010 + 0x08)).testBit 0 then
              u.vfsOn port (u.configWritten port 0 (capAt 0x10010 + 0x10) % 65536) % 256 else 0) ∧
        (fn = 0 → o = capAt 0x10015 + 0x08 → v.toNat % 4 = 0 → 8 ≤ v.toNat / 256 % 64 → v.toNat / 256 % 64 ≤ 18 →
          ∃ u, exec (.pcieConfigRequest port fn off wr v) s = .next u ∧ (u.host port).barLog2 = v.toNat / 256 % 64 + 20) ∧
        (fn = 0 → port < 2 → o = capAt 0x10001 + 0x04 → o ∉ capControls → ∃ u,
          exec (.pcieConfigRequest port fn off wr v) s = .next u ∧
          (u.host port).aer = (s.host port).aer &&& (2 ^ 32 - 1 - v.toNat))) ∧
      (s.configReady = true → fn ≤ s.fld (F.hNumVfs port) → wr = false → ∃ u w, exec (.pcieConfigRequest port fn off wr v) s = .next u ∧
        u.outbox = .cfgData port fn off w :: s.outbox ∧ (fn = 0 → off / 4 = 0 → w.toNat = (s.reg 0).toNat % 2 ^ 32) ∧
        (fn = 0 → off / 4 = 2 → w.toNat % 256 = (s.reg 4).toNat % 256) ∧
        (fn = 0 → off / 4 = 4 → w.toNat % 2 ^ 26 = 4) ∧ (fn = 0 → off / 4 = 6 → w.toNat % 2 ^ 24 = 4) ∧
        (fn = 0 → off / 4 = 8 → 28 ≤ (s.host port).barLog2 → w.toNat % 2 ^ 28 = 12) ∧
        (fn ≠ 0 → 4 ≤ off / 4 → off / 4 < 10 → w = 0) ∧
        (fn = 0 → s.barAt port (off / 4 * 4) = none → off / 4 * 4 = capAt 0x10010 + 0x0C → off / 4 * 4 ∉ [0x2C, capAt 0x10001 + 0x04,
          capAt 0x10001 + 0x10] → (s.host port).vfs < 65536 → w.toNat = (s.host port).vfs * 65537) ∧ ∀ k : Kind, k ≠ .outbox → k.same s u)) ∧
    ∀ port off (data : List Byte) (m : Meet), port < 2 →
      let a := s.bar4Addr port off
      (s.reaches port 0 = true → s.bar4Ok port off data.length = true →
        (∃ u, exec (.bar4Write port off data m) s = .next u ∧ u.mem = s.mem.writeN (s.key a) data ∧
          (∀ k : Kind, k ∉ [Kind.mem, .parts, .regs, .hosts, .soot] → k.same s u) ∧
          (∀ p, gddrPart a = some p → m.retries ≠ 0 →
            u.fld (F.writeRetries p) = min 65535 (s.fld (F.writeRetries p) + m.retries)) ∧
          ∀ q o, q < 8 → cxlOf a = some (q, o) → m.badWrite = true → u.flag (F.cxlMediaErr q) = true) ∧
        ∃ u, exec (.bar4Read port off data.length m) s = .next u ∧ u.mem = s.mem ∧
          (m.err = none → u.outbox.head? = some (.bar4Data port off (s.readMem a data.length))) ∧
          (m.err.isSome = true → u.outbox.head? = some (.bar4Ur port off) ∧ u.flag (F.hBar4Err port) = true)) ∧
      (s.reaches port 0 = false ∨ s.bar4Ok port off data.length = false → (∃ u, exec (.bar4Write port off data m) s = .next u ∧
          (s.reaches port 0 = true → u.flag (F.hBar4Err port) = true) ∧ ∀ k : Kind, k ≠ .regs → k ≠ .hosts → k.same s u) ∧
        ∃ u, exec (.bar4Read port off data.length m) s = .next u ∧ u.outbox = .bar4Ur port off :: s.outbox ∧
          (s.reaches port 0 = true → u.flag (F.hBar4Err port) = true) ∧ u.mem = s.mem)

open Sys2Proof.Claims in
/-- Page tables are loaded; CXL and host ports come up and go down; BAR4 and configuration requests are served. -/
def Obligations.TranslationsAndPorts : Prop :=
  PageTablesAreLoaded ∧ PortsAndBar4

open Sys2Proof.Claims in
/-- Flits, datagrams and pauses (R567, R569 to R572, R575, R577, R586, R588, R589): the codewords `words` that came with them count per
lane (assumption 78, DESIGN CHOICE); a bad flit, or one for a port that is down, is discarded; one on VC0 or VC1 is a protocol error; one
in sequence for this device begins its message, or, as the last, delivers it (that it is delivered with its last flit is assumption 76),
and frees a buffer; on VC3 a message of several flits, or with a bad CRC, is discarded; a gap is a lost message, with a FLUE_LOST entry;
the segments of a datagram message are joined and delivered in order, from the first message of a source on, whatever its number
(assumption 77, DEDUCED); a priority pauses the channel on one interface. -/
def Sys2Proof.Claims.FlitsAndDatagramsAreReceived : Prop :=
  ∀ (s : State) (k : Nat) (words : List (Nat × Bool)), acting s → k < 8 →
    (∀ flit : List Byte, let h := leAt flit 0 8
      let v := h % 4
      let seq := h / 2 ^ 8 % 2 ^ 16
      let c := (s.link k).vc v
      let ok := s.linkUp k = true ∧ s.flag (F.lkMode k) = false ∧ leAt flit 252 4 = crc32c (flit.take 252)
      (¬ok → exec (.flitReceive k flit words) s = .next (s.takeWords k words)) ∧
      (ok → v < 2 → ∃ u, exec (.flitReceive k flit words) s = .next u ∧ u.flag (F.lkProtoErr k) = true ∧
        ∀ j : Kind, j ≠ .regs → j ≠ .links → j.same s u) ∧
      (ok → 2 ≤ v → h / 64 % 4 < 2 → seq = c.seqIn → h / 4 % 4 = 1 → h.testBit 4 = true →
        (if v = 2 then (s.link k).fwd2 else (s.link k).fwd3) = none → s.isSelf (h / 2 ^ 40 % 2 ^ 15) = true →
        let data := (flit.drop 8).take (leAt flit 251 1)
        ∃ u, exec (.flitReceive k flit words) s = .next u ∧
          ((u.link k).vc v).seqIn = (seq + 1) % 65536 ∧ ((u.link k).vc v).freed = (c.freed + 1) % 65536 ∧
          (h.testBit 5 = false → v = 2 → (u.link k).msg2 = data ∧ u.outbox = s.outbox) ∧
          (h.testBit 5 = true → v = 2 ∨ mgmtOk data = true → (if v = 2 then (u.link k).msg2 else (u.link k).msg3) = [] ∧
            u.outbox = .meshMsg (h / 2 ^ 55 % 8) v data :: s.outbox) ∧
          (v = 3 → h.testBit 5 = false ∨ mgmtOk data = false → (u.link k).msg3 = (s.link k).msg3 ∧ u.outbox = s.outbox)) ∧
      (ok → 2 ≤ v → h / 64 % 4 < 2 → seq ≠ c.seqIn → c.seqIn < 65536 → h / 4 % 4 = 0 →
        ∃ u, exec (.flitReceive k flit words) s = .next u ∧ ((u.link k).vc v).seqIn = seq ∧
          logged s u (sootBytes s.stamp 0x3A (8 + linkDie k) 0 0 k
            (toLE 1 v ++ toLE 2 ((seq + 65536 - c.seqIn) % 65536))))) ∧
    (∀ (header payload : List Byte), let v := leAt header 1 1 % 4
      let src := leAt header 20 2 % 2 ^ 15
      let seq := leAt header 4 4
      let l := s.link k
      s.linkUp k = true → s.flag (F.lkMode k) = true → leAt header 0 1 = 1 → 2 ≤ v → payload.length ≤ 8192 →
      (leAt header 2 1 = 1 → ethFind l.ethMsg src v = none → (ethFind l.ethSeq src v).getD seq = seq → leAt header 8 4 = 0 →
        ∃ u, exec (.datagramReceive k header payload words) s = .next u ∧ ethFind (u.link k).ethMsg src v = some payload) ∧
      (leAt header 2 1 = 3 → ethFind l.ethMsg src v = none → (ethFind l.ethSeq src v).getD seq = seq → leAt header 8 4 = 0 →
        leAt header 12 4 = payload.length → s.isSelf (leAt header 16 2 % 2 ^ 15) = true → v = 2 ∨ mgmtOk payload = true →
        ∃ u, exec (.datagramReceive k header payload words) s = .next u ∧ ethFind (u.link k).ethMsg src v = none ∧
          ethFind (u.link k).ethSeq src v = some ((seq + 1) % 2 ^ 32) ∧
          u.outbox = .meshMsg (leAt header 18 1 % 8) v payload :: s.outbox) ∧
      (∀ m, leAt header 2 1 = 0 → ethFind l.ethMsg src v = some m → (ethFind l.ethSeq src v).getD seq = seq →
        leAt header 8 4 = m.length → ∃ u, exec (.datagramReceive k header payload words) s = .next u ∧
          ethFind (u.link k).ethMsg src v = some (m ++ payload)) ∧
      (∀ m, leAt header 2 1 = 0 → ethFind l.ethMsg src v = some m → leAt header 8 4 ≠ m.length →
        ∃ u, exec (.datagramReceive k header payload words) s = .next u ∧ ethFind (u.link k).ethMsg src v = none)) ∧
    ∀ half prio pause, s.flag (F.lkMode k) = true → s.fld F.ethPcp2 ≠ s.fld F.ethPcp3 →
      (half = 0 ∨ half = 1 ∧ s.flag (F.lkSplit k) = true → ∃ u, exec (.priorityFlowControl k half prio pause) s = .next u ∧
        (∀ i, (u.link k).pause2.testBit i =
          if i = half ∧ prio = s.fld F.ethPcp2 then pause else (s.link k).pause2.testBit i) ∧
        ∀ i, (u.link k).pause3.testBit i =
          if i = half ∧ prio = s.fld F.ethPcp3 then pause else (s.link k).pause3.testBit i) ∧
      (half ≠ 0 → half ≠ 1 ∨ s.flag (F.lkSplit k) = false → exec (.priorityFlowControl k half prio pause) s = .next s)

open Sys2Proof.Claims in
/-- Link training (R581 to R586, R588): ENABLE, RETRAIN, and a lane that loses lock or brings its port's uncorrectable codewords of the
mark above 16 plan a retraining for the next mark; from its start the port is TRAINING with no lanes, but for an Ethernet interface,
of which one with a failed lane is DOWN and the other one of a split port goes on; 512 marks later a port in Flue mode is UP on all
its lanes, DEGRADED on the first set that locks, or DOWN, with the event and the soot entry; one in Ethernet mode is UP or DOWN, a split
one UP on either half (assumption 77, DEDUCED). The codewords are those of the operand, and a lane keeps its LOCK while its port
retrains (assumption 78, DESIGN CHOICE). -/
def Sys2Proof.Claims.LinksAreTrained : Prop :=
  ∀ (s : State) (k : Nat), acting s → k < 8 →
    (∀ port (v : Word32), hosted s port 0 → s.flag (F.lkEnable k) = false → v.toNat.testBit 0 = true →
      (s.link k).retrainMark = none → (s.link k).retrainFrom = none → ∃ u, exec (.linkEnable port k v) s = .next u ∧
        u.flag (F.lkEnable k) = true ∧ u.flag (F.lkMode k) = v.toNat.testBit 1 ∧ u.flag (F.lkSplit k) = v.toNat.testBit 2 ∧
        (u.link k).retrainMark = some (s.time.mark + 1)) ∧
    (∀ port (v : Word32), hosted s port 0 → s.flag (F.lkEnable k) = true → v.toNat.testBit 0 = false →
      ∃ u, exec (.linkEnable port k v) s = .next u ∧ u.flag (F.lkEnable k) = false ∧
        u.flag (F.lkMode k) = s.flag (F.lkMode k) ∧ u.fld (F.lkState k) = 4 ∧ u.fld (F.lkLanes k) = 0 ∧
        (u.link k).retrainMark = none ∧ (u.link k).retrainFrom = none) ∧
    (∀ port, (s.flag (F.lkEnable k) = false → exec (.retrain port k) s = .next s) ∧
      (hosted s port 0 → s.flag (F.lkEnable k) = true → (s.link k).retrainMark = none → (s.link k).retrainFrom = none →
        ∃ u, exec (.retrain port k) s = .next u ∧
          u.link k = { s.link k with retrainMark := some (s.time.mark + 1), byWrite := true })) ∧
    (∀ lane lost words, lane / 8 = k → s.flag (F.laneInUse lane) = true → s.linkUp k = true → (s.link k).retrainMark = none →
      (s.link k).retrainFrom = none →
      let many := 16 < ((s.takeWords k words).link k).badWords.2
      (lost = true ∨ many → ∃ u, exec (.laneLockLoss lane lost words) s = .next u ∧
        (u.link k).retrainMark = some (s.time.mark + 1) ∧ (u.link k).byWrite = false ∧
        u.flag (F.laneLock lane) = (!lost && s.flag (F.laneLock lane))) ∧
      (lost = false → ¬many → exec (.laneLockLoss lane lost words) s = .next (s.takeWords k words))) ∧
    (∀ m, (s.link k).retrainMark = some m → s.markCome m = true → s.flag (F.lkEnable k) = true →
      let down := s.flag (F.lkMode k) = true ∧ (s.link k).byWrite = false ∧ (s.link k).failed ≠ 0
      ∃ u, exec (.linkRetrainStart k) s = .next u ∧ (u.link k).retrainMark = none ∧
        (u.link k).retrainFrom = some (s.now - s.time.cyc) ∧ u.fld (F.lkLanes k) = s.keptLanes k % 256 ∧
        (s.keptLanes k ≠ 0 → u.fld (F.lkState k) = 2) ∧
        (s.keptLanes k = 0 → u.fld (F.lkState k) = (if down then 0 else 1) ∧ (u.link k).msg2 = [] ∧ (u.link k).msg3 = []) ∧
        (down → u.flag (F.lkDownEvt k) = true)) ∧
    ∀ m (locked : BitVec 8), (s.link k).retrainFrom = some m → m + 512 * 1024 ≤ s.now →
      ∃ u, exec (.linkRetrainEnd k locked) s = .next u ∧ (u.link k).retrainFrom = none ∧
        (s.flag (F.lkMode k) = false →
          let set := firstSet ((s.link k).needWrite && !(s.link k).byWrite) locked
          u.fld (F.lkLanes k) = set.toNat ∧ u.fld (F.lkState k) = (if set = 0xFF then 2 else if set = 0 then 0 else 3) ∧
          (set ≠ 0 → set ≠ 0xFF → u.flag (F.lkDegradeEvt k) = true ∧
            logged s u (sootBytes s.stamp 0x48 (8 + linkDie k) 0 0 k (toLE 1 set.toNat))) ∧
          (set = 0 → s.fld (F.lkState k) ≠ 0 → u.flag (F.lkDownEvt k) = true ∧
            logged s u (sootBytes s.stamp 0x49 (8 + linkDie k) 0 0 k (toLE 1 0)))) ∧
        (s.flag (F.lkMode k) = true → let set := ethLanes (s.flag (F.lkSplit k)) locked
          u.fld (F.lkLanes k) = set.toNat ∧ u.fld (F.lkState k) = (if set = 0 then 0 else 2))

open Sys2Proof.Claims in
/-- Flits and datagrams are received; device links are trained. -/
def Obligations.FlitsAndTraining : Prop :=
  FlitsAndDatagramsAreReceived ∧ LinksAreTrained

open Sys2Proof.Claims in
/-- Register writes (R10, R372, R556, R643, R688, R703): before the configuration is checked, or to a function that is not enabled or
stands in D3hot (assumption 104), a host's write changes nothing; event enables take the bits written; a write that is misaligned or of
another size does nothing; a write of a doorbell or of CTX_CTRL is that row's; KV_CFG is written, or, on a partition that serves as
Lantern, refused with CFG_ERR. -/
def Obligations.RegistersAreWritten : Prop :=
  (∀ (s : State) (c : Instr), acting s → s.configReady = false → isHostWrite c → exec c s = .next s) ∧
  ∀ s : State, acting s →
    (∀ port n (v : Word), hosted s port 0 → n < 2 → ∃ u, exec (.evtEnWrite port n 8 false v) s = .next u ∧
      u.fld (F.evtEn n) = v.toNat % 2 ^ 16 ∧ u.fld (F.evtCause n) = s.fld (F.evtCause n) ∧ u.mem = s.mem) ∧
    (∀ port fn bar off size (v : Word), (size ≠ 4 ∧ size ≠ 8) ∨ off % size ≠ 0 →
      exec (.registerWrite port fn bar off size v) s = .next s) ∧
    (∀ port fn n (v : Word), hosted s port fn → n < 4096 → v.toNat < 2 ^ 32 →
      exec (.registerWrite port fn 2 (4096 * n) 4 v) s = exec (.sqTail port fn n 4 (v.setWidth 32)) s) ∧
    (∀ port n, hosted s port 0 → n < 4096 → s.pfOwns port n = true →
      exec (.registerWrite port 0 0 (F.ctxRec n + 8) 4 1) s = exec (.start port n) s ∧
      exec (.registerWrite port 0 0 (F.ctxRec n + 8) 4 2) s = exec (.stop port n) s ∧
      exec (.registerWrite port 0 0 (F.ctxRec n + 8) 4 4) s = exec (.reset port n) s) ∧
    (∀ port fn bar off size (v : Word), s.reaches port fn = false → exec (.registerWrite port fn bar off size v) s = .next s) ∧
    ∀ port p (v : Word), hosted s port 0 → p < 8 →
      (s.lanternSoon p = false → ∃ u d, regDesc (F.pb p 0x200) = some d ∧
        exec (.registerWrite port 0 0 (F.pb p 0x200) 8 v) s = .next u ∧
        u.reg (F.pb p 0x200) = (s.reg (F.pb p 0x200) &&& ~~~BitVec.ofNat 64 d.rw) ||| (v &&& BitVec.ofNat 64 d.rw) ∧
        (∀ o, o ≠ F.pb p 0x200 → u.reg o = s.reg o) ∧ ∀ k : Kind, k ≠ .regs → k.same s u) ∧
      (s.lanternSoon p = true → ∃ u, exec (.registerWrite port 0 0 (F.pb p 0x200) 8 v) s = .next u ∧
        u.flag (F.kvCfgErr p) = true ∧ u.reg (F.pb p 0x200) = s.reg (F.pb p 0x200))

namespace Sys2Proof.Claims

/-! ## The block as a whole -/

/-- The kinds of state that a command can change; it changes no other. -/
def touches : Instr → List Kind
  | .marksyncPulse | .marksyncMiss | .markrefLoss | .delayResp .. =>
      [.time, .regs, .hosts, .soot]
  | .candleBoundary .. =>
      [.time, .regs, .mem, .ctxs, .cmds, .parts, .clusters, .links, .hosts, .soot, .board, .outbox]
  | .markrefLock | .timeUpstreamWrite .. =>
      [.time, .regs]
  | .holdoverExpiry =>
      [.regs, .hosts, .soot]
  | .beaconSend .. | .priorityFlowControl .. =>
      [.links, .outbox]
  | .beacon .. =>
      [.time, .regs, .links, .hosts, .soot]
  | .sync .. =>
      [.time]
  | .followUp .. =>
      [.time, .outbox]
  | .lowHalfRead .. =>
      [.time, .hosts, .outbox]
  | .announce .. =>
      []
  | .ctxOwnerWrite .. | .hostPortReset .. | .variantDrop .. | .cxlLinkUp .. | .evtEnWrite .. | .hostLinkUp .. =>
      [.regs, .hosts]
  | .deviceReady =>
      [.regs, .hosts, .outbox]
  | .start .. =>
      [.regs, .ctxs, .cmds, .hosts]
  | .stop .. | .ctxHandover .. =>
      [.regs, .ctxs, .cmds]
  | .reset .. =>
      [.regs, .mem, .ctxs, .cmds, .parts, .clusters, .threads, .inflight, .table, .steps, .colls, .outbox, .free]
  | .contextResetEnd .. =>
      [.time, .regs, .mem, .ctxs, .cmds, .parts, .threads, .table, .reqs, .steps, .jobs, .colls, .hosts, .soot,
       .board, .outbox, .free]
  | .sqTail .. | .cqHead .. | .emberHead .. =>
      [.ctxs]
  | .entryPresent .. =>
      [.regs, .ctxs, .cmds, .nextCid, .parts, .hosts, .soot, .outbox]
  | .admission .. | .ctxTeardown .. =>
      [.regs, .mem, .ctxs, .cmds, .parts, .clusters, .threads, .inflight, .table, .steps, .colls, .links, .hosts,
       .soot, .outbox, .free]
  | .seqReward .. =>
      [.ctxs, .cmds]
  | .rejectCompletion .. | .handoverComplete .. | .rewardEmberWrite .. =>
      [.regs, .mem, .ctxs, .cmds, .parts, .hosts, .outbox]
  | .seqSubmit .. =>
      [.regs, .mem, .ctxs, .cmds, .parts, .table, .reqs, .hosts, .soot, .outbox, .free]
  | .seqCancel .. =>
      [.cmds, .parts, .threads, .table]
  | .seqQuery .. | .ctxSave .. | .ctxRestore .. | .fence .. | .flashWrite .. =>
      [.cmds]
  | .adapterInstall .. | .adapterReplace .. =>
      [.mem, .cmds, .parts, .free]
  | .adapterRemove .. | .dmaFill .. | .dmaCopy .. | .frameSet .. | .dmaCommandStart .. =>
      [.cmds, .parts]
  | .checkpointCopyStart .. | .partitionRole .. =>
      [.regs, .cmds, .parts]
  | .adapterCopyEnd .. =>
      [.regs, .mem, .ctxs, .cmds, .parts, .hosts, .outbox, .free]
  | .dmaCommandEnd .. | .instructionComplete .. | .dmaDescriptorEnd .. =>
      [.regs, .mem, .ctxs, .cmds, .parts, .clusters, .tiles, .threads, .inflight, .steps, .hosts, .soot, .outbox,
       .free]
  | .hostCompletionArrive .. =>
      [.regs, .mem, .inflight, .hosts, .soot]
  | .cxlResponseArrive .. | .readTimeout .. =>
      [.regs, .inflight, .hosts, .soot]
  | .stepLaunch .. =>
      [.regs, .cmds, .parts, .steps]
  | .publish .. | .publishCopyStart .. =>
      [.regs, .cmds, .jobs]
  | .checkpoint .. =>
      [.cmds, .jobs]
  | .variantLoad .. | .referenceSet .. =>
      [.regs, .cmds]
  | .flueCollective .. =>
      [.cmds, .parts, .colls]
  | .flueGroupDefine .. =>
      [.regs, .cmds, .parts, .groups, .hosts, .soot, .outbox]
  | .teardownComplete .. =>
      [.time, .regs, .mem, .ctxs, .cmds, .xlat, .parts, .clusters, .threads, .inflight, .table, .reqs, .steps,
       .jobs, .colls, .hosts, .soot, .board, .outbox, .free]
  | .quarantineEnd .. =>
      [.regs, .mem, .ctxs, .parts]
  | .controlHang .. =>
      [.parts]
  | .fenceDeadlineMiss .. =>
      [.time, .regs, .mem, .ctxs, .cmds, .parts, .threads, .reqs, .steps, .jobs, .colls, .hosts, .soot, .board,
       .outbox, .free]
  | .roleEffective .. =>
      [.time, .regs, .mem, .ctxs, .cmds, .parts, .clusters, .tiles, .threads, .inflight, .reqs, .steps, .jobs,
       .colls, .hosts, .soot, .board, .outbox, .free]
  | .roleService .. =>
      [.regs, .mem, .ctxs, .cmds, .parts, .clusters, .hosts, .soot, .board, .outbox]
  | .markSet .. =>
      [.time, .cmds]
  | .flashSourceRead .. =>
      [.regs, .cmds, .parts, .hosts, .soot, .board, .outbox]
  | .flashWriteComplete .. =>
      [.regs, .mem, .ctxs, .cmds, .parts, .hosts, .board, .outbox, .free]
  | .functionLevelReset .. =>
      [.regs, .ctxs, .parts, .hosts]
  | .pcieConfigRequest .. | .bootRomStart .. | .imageCheck .. | .recoveryGo .. | .ramBootLinkDrop =>
      [.regs, .hosts, .board, .outbox]
  | .doeResponse .. =>
      [.hosts, .outbox]
  | .threadLaunch .. =>
      [.regs, .mem, .parts, .threads, .steps, .hosts, .soot, .outbox]
  | .add .. | .sub .. | .and .. | .or .. | .xor .. | .shl .. | .shr .. | .sra .. | .slt .. | .sltu .. | .mul .. |
    .mulhu .. | .divu .. | .remu .. | .addi .. | .andi .. | .shli .. | .shri .. | .movhi .. | .movs .. | .beq .. |
    .bne .. | .blt .. | .bge .. | .bltu .. | .bgeu .. | .jal .. | .jalr .. | .st .. | .vst .. | .gld .. |
    .sigAdd .. | .markWait .. | .tfence .. | .exit .. | .vadd .. | .vsub .. | .vmul .. | .vfma .. | .vmax .. |
    .vmin .. | .vcmp .. | .vsel .. | .vbcast .. | .vextr .. | .vexp2 .. | .vlog2 .. | .vrcp .. | .vrsqrt .. |
    .vsin .. | .vcos .. | .vrsum .. | .vrmax .. | .vrargmax .. | .viadd .. | .visub .. | .vimul .. | .vand .. |
    .vor .. | .vxor .. | .vshl .. | .vshr .. | .vcvt .. | .vunpk .. | .spkBits .. | .spkGumbel .. | .matStream .. |
    .damperUpdate .. | .damperRead .. | .damperWrite .. | .damperHsave .. =>
      [.regs, .mem, .ctxs, .cmds, .parts, .clusters, .tiles, .threads, .inflight, .nextIf, .steps, .hosts, .soot,
       .outbox]
  | .ld .. | .vld .. | .gst .. | .dmaSubmit .. | .sigWait .. | .matLoad .. | .matDrain .. | .damperHload .. =>
      [.regs, .mem, .ctxs, .cmds, .parts, .clusters, .tiles, .threads, .inflight, .nextIf, .steps, .hosts, .soot,
       .outbox, .free]
  | .copy .. | .strided .. | .transpose .. | .pageWalk .. | .multicast .. | .fill .. =>
      [.clusters]
  | .sigWaitTimeout .. =>
      [.threads]
  | .damperOwnerWrite .. =>
      [.regs, .parts]
  | .frameBoundary .. =>
      [.regs, .mem, .ctxs, .cmds, .parts, .threads, .table, .reqs, .hosts, .outbox]
  | .lateFinalisation .. =>
      [.regs, .mem, .parts, .table, .reqs]
  | .frameKernelStart .. =>
      [.regs, .mem, .parts, .threads, .hosts, .soot, .outbox]
  | .frameFinalise .. =>
      [.regs, .mem, .parts, .table, .reqs, .hosts, .soot]
  | .frameSeal .. =>
      [.regs, .mem, .ctxs, .parts, .table, .reqs, .hosts, .soot, .outbox, .free]
  | .seqEntryFree .. =>
      [.table, .reqs]
  | .stepStart .. =>
      [.regs, .mem, .cmds, .parts, .steps, .hosts, .soot, .outbox]
  | .mainLaunch .. | .updateLaunch .. =>
      [.regs, .mem, .parts, .threads, .steps, .outbox]
  | .updateGate .. =>
      [.regs, .mem, .parts, .steps, .outbox]
  | .stepCommit .. =>
      [.regs, .mem, .ctxs, .cmds, .parts, .threads, .steps, .hosts, .soot, .outbox, .free]
  | .revert .. =>
      [.regs, .parts, .hosts]
  | .publishCopyEnd .. =>
      [.regs, .mem, .cmds, .parts, .jobs, .hosts, .soot]
  | .collectiveStart .. =>
      [.regs, .mem, .cmds, .parts, .steps, .colls, .hosts, .soot, .outbox, .free]
  | .chunkSend .. | .tombstone .. =>
      [.regs, .mem, .parts, .colls, .links, .hosts, .soot, .outbox, .free]
  | .chunkReceive .. =>
      [.regs, .mem, .colls, .links, .hosts, .soot, .outbox, .free]
  | .arrivalAdd .. =>
      [.regs, .mem, .parts, .colls, .hosts, .soot, .outbox, .free]
  | .stallNoticeSend .. =>
      [.regs, .colls, .links, .hosts, .soot, .outbox]
  | .stall .. =>
      [.colls]
  | .poison .. =>
      [.regs, .mem, .parts, .colls, .links, .hosts, .soot, .outbox]
  | .collectiveComplete .. | .collectiveLateComplete .. | .collectiveDeadline .. =>
      [.regs, .mem, .ctxs, .cmds, .parts, .steps, .colls, .hosts, .soot, .outbox, .free]
  | .flueGroupDrop .. =>
      [.regs, .groups, .hosts]
  | .ctxPtRootWrite .. =>
      [.regs, .cmds, .xlat, .loads, .hosts]
  | .ptLoadComplete .. =>
      [.regs, .ctxs, .cmds, .xlat, .loads, .parts, .hosts, .soot, .outbox]
  | .bar4Read .. =>
      [.regs, .parts, .hosts, .soot, .outbox]
  | .bar4Write .. | .sootRingMove .. =>
      [.regs, .mem, .parts, .hosts, .soot]
  | .selfTestCheckMark .. =>
      [.regs, .mem, .parts, .outbox]
  | .doeDiscovery .. | .getVersion .. | .getCapabilities .. | .negotiateAlgorithms .. | .getDigests .. |
    .getCertificate .. | .doeAbort .. =>
      [.hosts]
  | .challenge .. | .getMeasurements .. =>
      [.hosts, .board]
  | .flitReceive .. | .datagramReceive .. | .linkRetrainEnd .. =>
      [.regs, .links, .hosts, .soot, .outbox]
  | .linkRetrainStart .. | .linkEnable .. =>
      [.regs, .links, .hosts, .soot]
  | .laneLockLoss .. =>
      [.regs, .links]
  | .retrain .. =>
      [.links]
  | .snufferHang .. =>
      [.regs, .mem, .parts, .clusters, .threads, .inflight, .steps, .hosts, .soot, .outbox]
  | .engineResetEnd .. =>
      [.regs, .mem, .parts, .clusters, .tiles, .threads, .table, .hosts, .soot, .board, .free]
  | .suspectRelaunch .. | .restoredStepResume .. =>
      [.regs, .mem, .ctxs, .cmds, .parts, .clusters, .threads, .steps, .colls, .hosts, .soot, .outbox, .free]
  | .partitionResetStart .. =>
      [.regs, .mem, .cmds, .parts, .clusters, .tiles, .threads, .inflight, .table, .jobs, .colls, .hosts, .soot,
       .free]
  | .partitionResetEnd .. =>
      [.time, .regs, .mem, .ctxs, .cmds, .parts, .clusters, .threads, .table, .reqs, .steps, .jobs, .colls, .hosts,
       .soot, .board, .outbox, .free]
  | .chipReset .. | .chipResetTimeout .. | .ioDieOvertemp .. | .junctionCritical .. | .tread .. |
    .i3cChipReset .. | .entdaa .. | .setdasa .. | .rstdaa | .enec | .disec | .bypass | .extest | .highz | .clamp =>
      [.board]
  | .chipResetStart .. =>
      [.time, .regs, .mem, .ctxs, .cmds, .nextCid, .xlat, .loads, .parts, .clusters, .tiles, .threads, .inflight,
       .nextIf, .table, .reqs, .steps, .jobs, .groups, .colls, .links, .hosts, .soot, .board, .outbox, .free]
  | .pwrgoodFall | .converterTrip =>
      [.time, .regs, .mem, .ctxs, .cmds, .nextCid, .xlat, .loads, .parts, .clusters, .tiles, .threads, .inflight,
       .nextIf, .table, .reqs, .steps, .jobs, .groups, .colls, .links, .hosts, .soot, .board, .free]
  | .saveStart .. =>
      [.regs, .mem, .ctxs, .cmds, .parts, .threads, .table, .reqs, .outbox]
  | .saveComplete .. =>
      [.regs, .mem, .ctxs, .cmds, .parts, .threads, .hosts, .outbox]
  | .restoreStart .. =>
      [.regs, .cmds, .parts, .clusters, .board]
  | .restoreComplete .. =>
      [.regs, .mem, .ctxs, .cmds, .nextCid, .parts, .clusters, .tiles, .threads, .inflight, .nextIf, .table, .reqs,
       .steps, .hosts, .soot, .outbox]
  | .checkpointCopyEnd .. =>
      [.regs, .mem, .ctxs, .cmds, .parts, .jobs, .hosts, .soot, .outbox, .free]
  | .pwrgoodRise =>
      [.time, .board]
  | .domainsOff =>
      [.regs, .mem, .board, .free]
  | .twrite .. | .inputPowerSample .. =>
      [.regs, .hosts, .board]
  | .configCheck .. | .ramVerifyEnd =>
      [.regs, .clusters, .hosts, .board, .outbox]
  | .domainSwitchOn =>
      [.regs, .board]
  | .powerFactorUpdate =>
      [.regs, .parts, .hosts, .board]
  | .thermalSample .. =>
      [.regs, .parts, .hosts, .board, .outbox]
  | .junctionOvertemp .. =>
      [.regs, .parts, .hosts, .soot]
  | .i3cPrivateRead | .idcode =>
      [.board, .outbox]
  | .getpid | .getbcr | .getdcr =>
      [.outbox]
  | .getstatus =>
      [.outbox, .free]
  | .samplePreload .. =>
      [.board, .outbox, .free]
  | .registerWrite .. =>
      [.time, .regs, .mem, .ctxs, .cmds, .xlat, .loads, .parts, .clusters, .threads, .inflight, .table, .steps,
       .groups, .colls, .links, .hosts, .soot, .board, .outbox, .free]
  | .acceptedCompletion .. =>
      [.regs, .mem, .ctxs, .cmds, .parts, .groups, .hosts, .soot, .outbox, .free]
  | .cxlLinkDown .. =>
      [.regs, .cmds, .jobs, .hosts]
  | .flashOperationEnd =>
      [.regs]

end Sys2Proof.Claims

open Sys2Proof.Claims in
/-- The state at reset meets the invariant, and holds what the manual says of the device once it has been reset (R41, R65, R104,
R105, R619, R706): time is mark 0, cycle 0, in state UNSET; every partition is Off; every context is FREE, the two management
contexts belong to the PFs of their ports and every other one is unowned; nothing runs and nothing waits. -/
def Obligations.ResetMeetsTheInvariant : Prop :=
  let s := State.reset
  s.Inv ∧ s.pending = [] ∧ s.time.mark = 0 ∧ s.time.cyc = 0 ∧ s.tstate = 0 ∧ s.cmds = [] ∧ s.steps = [] ∧ s.colls = [] ∧
    s.inflight = [] ∧ s.mem.cells = [] ∧ (∀ p < 8, s.role p = 0 ∧ s.flag (F.inService p) = false) ∧
    (∀ n < 4096, s.cstate n = 0 ∧ (s.flag (F.cOwned n) = true ↔ n < 2)) ∧
    (∀ n < 2, s.fld (F.cPort n) = n ∧ s.fld (F.cFunc n) = 0 ∧ s.reg (F.ctxRec n + 4) = 7) ∧
    ∀ t, (s.thread t).state = .free

open Sys2Proof.Claims in
/-- The invariant holds after every step from a state in which it holds: memory, register file and tables keep their canonical
forms, the cycle counter stays below 1,024, and bits [63:54] of the mark counter, and of a mark that waits to be loaded, stay
0 (R60, R62, R66). -/
def Obligations.EveryStepKeepsTheInvariant : Prop :=
  ∀ s t : State, s.Inv → step s = .next t → t.Inv

open Sys2Proof.Claims in
/-- A step takes the command at the front of the queue, and is that command's effect with the rest of the queue. -/
def Obligations.StepCarriesOutTheFrontCommand : Prop :=
  ∀ (c : Instr) (r : List Instr) (s : State), s.pending = c :: r →
    step s = exec c { s with pending := r } ∧ ∃ t, step s = .next t ∧ t.pending = r

open Sys2Proof.Claims in
/-- With no command waiting one core cycle passes; that an empty queue means this is the model's choice (assumption 10). The
counters move as R62 says: they hold while a trim or a realignment is absorbed and at the end of a candle that waits for
MARKSYNC, and count otherwise; the published counts always advance (R63). Where nothing is under way nothing else changes. A
device that is off stands still. -/
def Obligations.EmptyQueueLetsACyclePass : Prop :=
  ∀ s : State, s.pending = [] →
    (s.board.off = true → step s = .next s) ∧
    (s.board.off = false → twf HostPort.dflt s.hosts = true → s.cmds = [] → s.ctxs = [] → s.steps = [] → s.inflight = [] →
      s.colls = [] → s.clusters = [] → (∀ e ∈ s.threads, e.2.state ≠ .live) →
      (∀ p < 8, (s.part p).dma = [] ∧ (s.part p).tenant = [] ∧ (s.part p).cxlQ = [] ∧ (s.part p).agentQ = false) → s.board.capPend = [] → s.time.pulses = [] → (∀ q < 2, (s.host q).due = []) →
      (∀ k < 8, s.linkUp k = true → s.flag (F.lkMode k) = true) →
      ∃ t, step s = .next t ∧ (∀ k : Kind, k ≠ .time → k ≠ .hosts → k.same s t) ∧ (∀ q, t.host q = s.host q) ∧
      t.time.cycle = s.time.cycle + 1 ∧
      (0 < s.time.stall → t.time.stall = s.time.stall - 1 ∧ t.time.mark = s.time.mark ∧ t.time.cyc = s.time.cyc) ∧
      (s.time.stall = 0 →
        (s.time.mark % 65536 = 65535 → s.time.cyc = 1023 → s.sampling = true →
          t.time.mark = s.time.mark ∧ t.time.cyc = s.time.cyc ∧ t.time.hold = s.time.hold + 1) ∧
        (s.time.cyc < 1023 → t.time.mark = s.time.mark ∧ t.time.cyc = s.time.cyc + 1) ∧
        (s.time.cyc = 1023 → s.time.mark % 65536 ≠ 65535 ∨ s.sampling = false →
          t.time.mark = (s.time.mark + 1) % 2 ^ 54 ∧ t.time.cyc = 0)))

open Sys2Proof.Claims in
/-- Every command ends in a next state with the queue as it was; a device without power, in reset or stopped for its junctions
ignores every command but PWRGOOD and the converter (R662, R676), which watches its input whenever it has power (R660). -/
def Obligations.EveryCommandEndsInANextState : Prop :=
  ∀ (c : Instr) (s : State), (∃ t, exec c s = .next t ∧ t.pending = s.pending) ∧
    (s.board.off = true → c ≠ .pwrgoodRise → c ≠ .pwrgoodFall → c ≠ .converterTrip → (∀ mv ma, c ≠ .inputPowerSample mv ma) →
      exec c s = .next s) ∧
    ∀ mv ma, s.board.off = true → exec (.inputPowerSample mv ma) s =
      .next (if s.board.powered then { s with board := s.board.watchInput mv ma } else s)

open Sys2Proof.Claims in
/-- The frame of every command: it changes no kind of state but those that its row lists. -/
def Obligations.CommandsTouchOnlyTheirKinds : Prop :=
  ∀ (c : Instr) (s t : State), exec c s = .next t → ∀ k : Kind, k ∉ touches c → k.same s t

open Sys2Proof.Claims in
/-- The registers of a thread (R259): a written one reads back and leaves the others, s0 reads 0 and ignores writes, a vector
register has 64 lanes and lane i is word i of its 256 bytes. -/
def Obligations.ThreadRegistersReadBack : Prop :=
  ∀ (x : Thread) (r q : Nat) (v : Word) (l : List Word32),
    x.sreg 0 = 0 ∧ x.setSreg 0 v = x ∧ (r ≠ 0 → (x.setSreg r v).sreg r = v.toNat) ∧
    (q ≠ r → (x.setSreg r v).sreg q = x.sreg q) ∧ (x.setSreg r v).vregs = x.vregs ∧
    (x.setVreg r l).vreg r = l ∧ (q ≠ r → (x.setVreg r l).vreg q = x.vreg q) ∧ (x.setVreg r l).sregs = x.sregs ∧
    (∀ b, (bytesLanes b).length = 64) ∧ (∀ i < l.length, leAt (laneBytes l) (4 * i) 4 = (l.getD i 0).toNat) ∧
    (l.length = 64 → bytesLanes (laneBytes l) = l)

/-- A 4-byte read of register `off` of a BAR by function fn of a port returns v and leaves everything else as it was, while the function
takes memory requests (R556). -/
def Sys2Proof.Claims.reads (s : State) (port fn bar off v : Nat) : Prop :=
  s.reaches port fn = true → ∃ u, exec (.lowHalfRead port fn bar off 4) s = .next u ∧ u.outbox = .readData port fn bar off v :: s.outbox ∧
    ∀ k : Kind, k ≠ .outbox → k.same s u

open Sys2Proof.Claims in
/-- Latched reads (R690): a 4-byte read of the low half of TIME_NOW or MARK_NOW by a PF latches its high half for the port, other
ports' latches staying; the next read of that high half by the port returns the latched value (R690), and uses it up (assumption 95,
DEDUCED: R690 says only what the next read returns). -/
def Obligations.LowHalfReadsLatchTheHighHalf : Prop :=
  ∀ (s : State) (port : Nat), acting s → s.reaches port 0 = true →
    (∃ u, exec (.lowHalfRead port 0 0 0x500 4) s = .next u ∧ u.outbox = .readData port 0 0 0x500 (s.stamp % 2 ^ 32) :: s.outbox ∧
      tfind u.time.latchTime port = some (BitVec.ofNat 32 (s.stamp / 2 ^ 32)) ∧
      ∀ q, q ≠ port → tfind u.time.latchTime q = tfind s.time.latchTime q) ∧
    (∃ u, exec (.lowHalfRead port 0 0 0x508 4) s = .next u ∧
      u.outbox = .readData port 0 0 0x508 (s.time.mark % 2 ^ 54 % 2 ^ 32) :: s.outbox ∧
      tfind u.time.latchMark port = some (BitVec.ofNat 32 (s.time.mark % 2 ^ 54 / 2 ^ 32)) ∧
      ∀ q, q ≠ port → tfind u.time.latchMark q = tfind s.time.latchMark q) ∧
    (∀ w : Word32, tfind s.time.latchTime port = some w → ∃ u, exec (.lowHalfRead port 0 0 0x504 4) s = .next u ∧
      u.outbox = .readData port 0 0 0x504 w.toNat :: s.outbox ∧ tfind u.time.latchTime port = none) ∧
    ∀ w : Word32, tfind s.time.latchMark port = some w → ∃ u, exec (.lowHalfRead port 0 0 0x50C 4) s = .next u ∧
      u.outbox = .readData port 0 0 0x50C w.toNat :: s.outbox ∧ tfind u.time.latchMark port = none

open Sys2Proof.Claims in
/-- Reads by a function (R111, R112, R556, R688, R693): a read by one that is not enabled, or that stands in D3hot (assumption 104), is an
Unsupported Request; one that is misaligned or of another size completes with Completer Abort; every PF reads CTX_OWNER, and 0 for the
other registers of a context it does not own; a doorbell page shows SQ_HEAD, EMBER_TAIL, STATE, RESETTING, DOORBELL_ERR and LOST_POST to
the function that owns its context, and 0 to any other. -/
def Obligations.RegistersAreRead : Prop :=
  ∀ (s : State) (port fn : Nat), acting s →
    (∀ bar off size, s.reaches port fn = false → ∃ u, exec (.lowHalfRead port fn bar off size) s = .next u ∧
      u.outbox = .readUr port fn bar off :: s.outbox ∧ ∀ k : Kind, k ≠ .outbox → k ≠ .hosts → k.same s u) ∧
    (∀ bar off size, s.reaches port fn = true → (size ≠ 4 ∧ size ≠ 8) ∨ off % size ≠ 0 →
      ∃ u, exec (.lowHalfRead port fn bar off size) s = .next u ∧
      u.outbox = .readAbort port fn bar off :: s.outbox ∧ ∀ k : Kind, k ≠ .outbox → k ≠ .hosts → k.same s u) ∧
    (∀ n, n < 4096 → reads s port 0 0 (F.ctxRec n) ((s.reg (F.ctxRec n)).toNat % 2 ^ 32) ∧
      ∀ o, 4 ≤ o → o < 0x80 → o % 4 = 0 → s.pfOwns port n = false → reads s port 0 0 (F.ctxRec n + o) 0) ∧
    ∀ n, n < 4096 →
      (s.fnOwns port fn n = false → ∀ o, o < 0x1000 → o % 4 = 0 → reads s port fn 2 (0x1000 * n + o) 0) ∧
      (s.fnOwns port fn n = true → reads s port fn 2 (0x1000 * n + 0x00C) (s.ctx n).sqHead ∧
        reads s port fn 2 (0x1000 * n + 0x010) (s.ctx n).emTail ∧
        reads s port fn 2 (0x1000 * n + 0x014) (s.cstate n + 8 * b2n (s.resetting n) + 16 * b2n (s.ctx n).doorbellErr +
          32 * b2n (s.ctx n).lostPost) ∧
        ∀ o, o < 0x00C ∨ 0x018 ≤ o → o < 0x1000 → o % 4 = 0 → reads s port fn 2 (0x1000 * n + o) 0)
end

