-- ==== Sys2Proof/Laws/Mem.lean ====
section
/-!
SUPPORT. Mem.lean: the laws of the byte map: a read after a write, and every operation keeps the canonical form.
-/
namespace Sys2Proof.Machine
open Sys2Proof.Config

/-- Addresses strictly rise from `lo`. -/
def rising : Nat → List Host.Cell → Prop
  | _, [] => True
  | lo, (k, _) :: r => lo ≤ k ∧ rising (k + 1) r

theorem cellsOk_rising {u : List (Nat × Nat × Fill)} : ∀ {lo : Nat} {c : List Host.Cell}, cellsOk u lo c = true →
    rising lo c
  | _, [], _ => trivial
  | lo, (k, b) :: r, h => by
    simp only [cellsOk, Bool.and_eq_true, decide_eq_true_eq] at h
    exact ⟨h.1.1, cellsOk_rising h.2⟩

theorem cellsOk_weak {u : List (Nat × Nat × Fill)} {lo lo' : Nat} {c : List Host.Cell} (hl : lo' ≤ lo)
    (h : cellsOk u lo c = true) : cellsOk u lo' c = true := by
  cases c with
  | nil => rfl
  | cons e r =>
    obtain ⟨k, b⟩ := e
    simp only [cellsOk, Bool.and_eq_true, decide_eq_true_eq] at h ⊢
    exact ⟨⟨by omega, h.1.2⟩, h.2⟩

theorem clook_low {lo a : Nat} : ∀ {c : List Host.Cell}, rising lo c → a < lo → clook c a = none
  | [], _, _ => rfl
  | (k, b) :: r, h, ha => by
    have := h.1
    simp only [clook]
    rw [if_neg (by omega), if_neg (by omega)]

theorem clook_cput_same (a : Nat) (b : Byte) : ∀ (c : List Host.Cell), clook (cput c a b) a = some b
  | [] => by simp [cput, clook]
  | (k, x) :: r => by
    simp only [cput]
    split
    · rename_i h; simp only [clook, if_pos h]; exact clook_cput_same a b r
    · split <;> simp [clook]

theorem clook_cput_ne {a j : Nat} (b : Byte) (hj : j ≠ a) : ∀ {lo : Nat} {c : List Host.Cell}, rising lo c →
    clook (cput c a b) j = clook c j
  | _, [], _ => by
    simp only [cput, clook]
    split
    · rfl
    · rw [if_neg (by omega)]
  | lo, (k, x) :: r, h => by
    simp only [cput]
    split
    · simp only [clook, clook_cput_ne b hj h.2]
    · split
      · rename_i h1 h2
        simp only [clook]
        subst h2
        split
        · rfl
        · rw [if_neg (by omega), if_neg (by omega)]
      · rename_i h1 h2
        simp only [clook]
        by_cases h3 : a < j
        · rw [if_pos h3]
        · rw [if_neg h3, if_neg (by omega), if_neg (by omega), if_neg (by omega)]

theorem clook_cdel_same (a : Nat) : ∀ {lo : Nat} {c : List Host.Cell}, rising lo c → clook (cdel c a) a = none
  | _, [], _ => rfl
  | lo, (k, x) :: r, h => by
    simp only [cdel]
    split
    · rename_i h1; simp only [clook, if_pos h1]; exact clook_cdel_same a h.2
    · split
      · rename_i h1 h2; exact clook_low h.2 (by omega)
      · rename_i h1 h2; simp only [clook]; rw [if_neg h1, if_neg h2]

theorem clook_cdel_ne {a j : Nat} (hj : j ≠ a) : ∀ {lo : Nat} {c : List Host.Cell}, rising lo c →
    clook (cdel c a) j = clook c j
  | _, [], _ => rfl
  | lo, (k, x) :: r, h => by
    simp only [cdel]
    split
    · simp only [clook, clook_cdel_ne hj h.2]
    · split
      · rename_i h1 h2
        simp only [clook]
        split
        · rfl
        · rw [if_neg (by omega)]
          exact clook_low h.2 (by omega)
      · rfl

theorem cellsOk_cput {u : List (Nat × Nat × Fill)} {a : Nat} {b : Byte} (hb : ¬ blankOf u a = some b) :
    ∀ {lo : Nat} {c : List Host.Cell}, cellsOk u lo c = true → lo ≤ a → cellsOk u lo (cput c a b) = true
  | lo, [], _, hl => by simp [cput, cellsOk, hl]; exact hb
  | lo, (k, x) :: r, h, hl => by
    have h' := h
    simp only [cellsOk, Bool.and_eq_true, Bool.not_eq_true', decide_eq_true_eq, decide_eq_false_iff_not] at h'
    simp only [cput]
    split
    · simp only [cellsOk, Bool.and_eq_true, Bool.not_eq_true', decide_eq_true_eq, decide_eq_false_iff_not]
      exact ⟨h'.1, cellsOk_cput hb h'.2 (by omega)⟩
    · split
      · rename_i h1 h2
        subst h2
        simp only [cellsOk, Bool.and_eq_true, Bool.not_eq_true', decide_eq_true_eq, decide_eq_false_iff_not]
        exact ⟨⟨hl, hb⟩, h'.2⟩
      · simp only [cellsOk, Bool.and_eq_true, Bool.not_eq_true', decide_eq_true_eq, decide_eq_false_iff_not]
        exact ⟨⟨hl, hb⟩, ⟨by omega, h'.1.2⟩, h'.2⟩

theorem cellsOk_cdel {u : List (Nat × Nat × Fill)} {a : Nat} : ∀ {lo : Nat} {c : List Host.Cell},
    cellsOk u lo c = true → cellsOk u lo (cdel c a) = true
  | _, [], _ => rfl
  | lo, (k, x) :: r, h => by
    have h' := h
    simp only [cellsOk, Bool.and_eq_true, decide_eq_true_eq] at h'
    simp only [cdel]
    split
    · simp only [cellsOk, Bool.and_eq_true, decide_eq_true_eq]
      exact ⟨h'.1, cellsOk_cdel h'.2⟩
    · split
      · exact cellsOk_weak (by omega) h'.2
      · exact h

theorem write_undef (m : Memory) (a : Nat) (b : Byte) : (m.write a b).undef = m.undef := by
  unfold Memory.write; split <;> rfl

/-- An address without an entry reads as its known byte, where it has one. -/
theorem unlisted_blankOf {m : Memory} {a : Nat} {b : Byte} (h : blankOf m.undef a = some b) : m.unlisted a = b := by
  unfold blankOf at h
  unfold Memory.unlisted
  split at h <;> simp_all

/-- Reading the address just written gives the byte written. -/
theorem read_write_same (m : Memory) (a : Nat) (b : Byte) (h : m.wf = true) : (m.write a b).read a = b := by
  unfold Memory.write
  split
  · rename_i h0
    simp only [Memory.read, clook_cdel_same a (cellsOk_rising h)]
    exact unlisted_blankOf (m := { m with cells := cdel m.cells a }) h0
  · simp only [Memory.read, clook_cput_same]

/-- A write leaves every other address alone. -/
theorem read_write_ne (m : Memory) (a j : Nat) (b : Byte) (h : m.wf = true) (hj : j ≠ a) :
    (m.write a b).read j = m.read j := by
  unfold Memory.write
  split
  · simp only [Memory.read, clook_cdel_ne hj (cellsOk_rising h), Memory.unlisted]
  · simp only [Memory.read, clook_cput_ne b hj (cellsOk_rising h), Memory.unlisted]

theorem write_wf (m : Memory) (a : Nat) (b : Byte) (h : m.wf = true) : (m.write a b).wf = true := by
  unfold Memory.write
  split
  · exact cellsOk_cdel h
  · rename_i h0
    exact cellsOk_cput h0 h (Nat.zero_le _)

theorem writeN_wf : ∀ (d : List Byte) (m : Memory) (a : Nat), m.wf = true → (m.writeN a d).wf = true
  | [], _, _, h => h
  | b :: bs, m, a, h => writeN_wf bs (m.write a b) (a + 1) (write_wf m a b h)

/-- A run of writes leaves the addresses outside the run alone. -/
theorem read_writeN_out : ∀ (d : List Byte) (m : Memory) (a j : Nat), m.wf = true → j < a ∨ a + d.length ≤ j →
    (m.writeN a d).read j = m.read j
  | [], _, _, _, _, _ => rfl
  | b :: bs, m, a, j, h, hj => by
    simp only [List.length_cons] at hj
    simp only [Memory.writeN]
    rw [read_writeN_out bs (m.write a b) (a + 1) j (write_wf m a b h) (by omega),
      read_write_ne m a j b h (by omega)]

/-- A run just written reads back. -/
theorem readN_writeN : ∀ (d : List Byte) (m : Memory) (a : Nat), m.wf = true → (m.writeN a d).readN a d.length = d
  | [], _, _, _ => rfl
  | b :: bs, m, a, h => by
    simp only [Memory.writeN, List.length_cons, Memory.readN]
    rw [readN_writeN bs (m.write a b) (a + 1) (write_wf m a b h),
      read_writeN_out bs (m.write a b) (a + 1) a (write_wf m a b h) (by omega), read_write_same m a b h]

/-! ## Ranges -/

/-- Cells kept outside a range, under a list of fills by which every address kept reads as before or as nothing known. -/
theorem cellsOk_filter {u u' : List (Nat × Nat × Fill)} (p : Host.Cell → Bool)
    (hu : ∀ (c : Host.Cell) (b : Byte), p c = true → blankOf u' c.1 = some b → blankOf u c.1 = some b) :
    ∀ {lo : Nat} {c : List Host.Cell}, cellsOk u lo c = true → cellsOk u' lo (c.filter p) = true
  | _, [], _ => rfl
  | lo, (k, b) :: r, h => by
    simp only [cellsOk, Bool.and_eq_true, Bool.not_eq_true', decide_eq_true_eq, decide_eq_false_iff_not] at h
    simp only [List.filter_cons]
    split
    · rename_i hp
      simp only [cellsOk, Bool.and_eq_true, Bool.not_eq_true', decide_eq_true_eq, decide_eq_false_iff_not]
      exact ⟨⟨h.1.1, fun hb => h.1.2 (hu (k, b) b hp hb)⟩, cellsOk_filter p hu h.2⟩
    · exact cellsOk_weak (Nat.le_succ_of_le h.1.1) (cellsOk_filter p hu h.2)

/-- A fill that does not cover an address says nothing of it. -/
theorem undefAt_filter (q : Nat × Nat × Fill → Bool) (a : Nat) : ∀ (u : List (Nat × Nat × Fill)),
    (∀ e ∈ u, q e = false → ¬ (e.1 ≤ a ∧ a < e.1 + e.2.1)) → undefAt (u.filter q) a = undefAt u a
  | [], _ => rfl
  | (b, n, ev) :: r, h => by
    have ih := undefAt_filter q a r fun e he => h e (List.mem_cons_of_mem _ he)
    simp only [List.filter_cons, undefAt]
    split
    · simp only [undefAt, ih]
    · rename_i hq
      rw [if_neg (h _ (List.mem_cons_self ..) (by simpa using hq)), ih]

theorem fill_wf (m : Memory) (base n : Nat) (f : Fill) (h : m.wf = true) : (m.fill base n f).wf = true := by
  refine cellsOk_filter _ ?_ h
  intro c b hc hb
  simp only [Bool.not_eq_true', decide_eq_false_iff_not] at hc
  simp only [Memory.fill, blankOf, undefAt, if_neg hc] at hb
  rw [undefAt_filter] at hb
  · exact hb
  · intro e _ hq
    simp only [Bool.not_eq_false', decide_eq_true_eq] at hq
    omega

theorem undefine_wf (m : Memory) (base n ev : Nat) (h : m.wf = true) : (m.undefine base n ev).wf = true :=
  fill_wf m base n _ h

end Sys2Proof.Machine
end

