-- ==== Sys2Proof/Laws/Tbl.lean ====
section
/-!
SUPPORT. Tbl.lean: the laws of indexed tables: a read after a write, and the canonical form.
-/
namespace Sys2Proof.Machine

/-- Indexes strictly rise from `lo`. -/
def trising {α : Type} : Nat → List (Nat × α) → Prop
  | _, [] => True
  | lo, (i, _) :: r => lo ≤ i ∧ trising (i + 1) r

theorem trising_weak {α : Type} {a b : Nat} {l : List (Nat × α)} (hab : a ≤ b) (h : trising b l) : trising a l := by
  cases l with
  | nil => trivial
  | cons e l => exact ⟨Nat.le_trans hab h.1, h.2⟩

theorem tget_low {α : Type} (d : α) {lo k : Nat} : ∀ {t : List (Nat × α)}, trising lo t → k < lo → tget d t k = d
  | [], _, _ => rfl
  | (i, v) :: r, h, hk => by
    have := h.1
    simp only [tget]
    rw [if_neg (by omega), if_neg (by omega)]

variable {α : Type} [DecidableEq α] (d : α)

theorem twfFrom_rising : ∀ {lo : Nat} {t : List (Nat × α)}, twfFrom d lo t = true → trising lo t
  | _, [], _ => trivial
  | lo, (i, v) :: r, h => by
    simp only [twfFrom, Bool.and_eq_true, decide_eq_true_eq] at h
    exact ⟨h.1.1, twfFrom_rising h.2⟩

/-- Reading the index just written gives the value written. -/
theorem tget_tset_same (k : Nat) (v : α) : ∀ {lo : Nat} {t : List (Nat × α)}, trising lo t →
    tget d (tset d t k v) k = v
  | _, [], _ => by by_cases h : v = d <;> simp [tset, tget, h]
  | lo, (i, w) :: r, h => by
    simp only [tset]
    split
    · rename_i hi
      simp only [tget, if_pos hi]
      exact tget_tset_same k v h.2
    · split
      · split
        · rename_i hv
          subst hv
          exact tget_low v h.2 (by omega)
        · simp [tget]
      · split
        · rename_i hv
          simp only [tget]
          rw [if_neg (by omega), if_neg (by omega), hv]
        · simp [tget]

/-- A write leaves every other index alone, whatever an unlisted index there holds. -/
theorem tget_tset_ne (e : α) {j k : Nat} (v : α) (hj : j ≠ k) : ∀ {lo : Nat} {t : List (Nat × α)}, trising lo t →
    tget e (tset d t k v) j = tget e t j
  | _, [], _ => by
    by_cases h : v = d
    · simp [tset, h]
    · simp only [tset, if_neg h, tget]
      split
      · rfl
      · rw [if_neg (by omega)]
  | lo, (i, w) :: r, h => by
    simp only [tset]
    split
    · simp only [tget, tget_tset_ne e v hj h.2]
    · split
      · rename_i hi hk
        have hk' : k ≠ j := fun h => hj h.symm
        split
        · simp only [tget]
          split
          · rfl
          · rw [if_neg (by omega)]
            exact tget_low e h.2 (by omega)
        · simp [tget, hk, hk']
      · split
        · rfl
        · simp only [tget]
          by_cases h3 : k < j
          · rw [if_pos h3]
          · rw [if_neg h3, if_neg (by omega), if_neg (by omega), if_neg (by omega)]

theorem trising_tset (k : Nat) (v : α) : ∀ {lo : Nat} {t : List (Nat × α)}, trising lo t → lo ≤ k →
    trising lo (tset d t k v)
  | lo, [], _, hk => by
    by_cases h : v = d
    · simp [tset, h, trising]
    · simp [tset, h, trising, hk]
  | lo, (i, w) :: r, h, hk => by
    simp only [tset]
    split
    · exact ⟨h.1, trising_tset k v h.2 (by omega)⟩
    · split
      · split
        · exact trising_weak (by omega) h.2
        · exact ⟨hk, by rename_i h2 _; rw [← h2]; exact h.2⟩
      · split
        · exact h
        · exact ⟨hk, by omega, h.2⟩

/-- Every listed value differs from what its index has unlisted. -/
def listed (d : Nat → α) (t : List (Nat × α)) : Prop := ∀ e ∈ t, e.2 ≠ d e.1

theorem tset_listed (d : Nat → α) (k : Nat) (v : α) : ∀ {t : List (Nat × α)}, listed d t → listed d (tset (d k) t k v)
  | [], _ => by
    by_cases h : v = d k
    · simp [tset, h, listed]
    · simp [tset, h, listed]
  | (i, w) :: r, h => by
    have hr : listed d r := fun e he => h e (List.mem_cons_of_mem _ he)
    have hi : w ≠ d i := h (i, w) List.mem_cons_self
    simp only [tset]
    split
    · intro e he
      rcases List.mem_cons.mp he with rfl | he
      · exact hi
      · exact tset_listed d k v hr e he
    · split
      · split
        · exact hr
        · intro e he
          rcases List.mem_cons.mp he with rfl | he
          · assumption
          · exact hr e he
      · split
        · exact h
        · intro e he
          rcases List.mem_cons.mp he with rfl | he
          · assumption
          · exact h e he

theorem twfFrom_of {lo : Nat} {t : List (Nat × α)} (h1 : trising lo t) (h2 : listed (fun _ => d) t) :
    twfFrom d lo t = true := by
  induction t generalizing lo with
  | nil => rfl
  | cons e r ih =>
    obtain ⟨i, v⟩ := e
    simp only [twfFrom, Bool.and_eq_true, Bool.not_eq_true', decide_eq_true_eq, decide_eq_false_iff_not]
    exact ⟨⟨h1.1, h2 (i, v) List.mem_cons_self⟩, ih h1.2 fun e he => h2 e (List.mem_cons_of_mem _ he)⟩

theorem twfFrom_listed {lo : Nat} {t : List (Nat × α)} (h : twfFrom d lo t = true) : listed (fun _ => d) t := by
  induction t generalizing lo with
  | nil => intro e he; cases he
  | cons e r ih =>
    obtain ⟨i, v⟩ := e
    simp only [twfFrom, Bool.and_eq_true, Bool.not_eq_true', decide_eq_true_eq, decide_eq_false_iff_not] at h
    intro e he
    rcases List.mem_cons.mp he with rfl | he
    · exact h.1.2
    · exact ih h.2 e he

/-- A write keeps the canonical form. -/
theorem twf_tset {t : List (Nat × α)} (k : Nat) (v : α) (h : twf d t = true) : twf d (tset d t k v) = true :=
  twfFrom_of d (trising_tset d k v (twfFrom_rising d h) (Nat.zero_le _))
    (tset_listed (fun _ => d) k v (twfFrom_listed d h))

omit [DecidableEq α] in
theorem trising_filter (p : Nat × α → Bool) : ∀ {lo : Nat} {t : List (Nat × α)}, trising lo t → trising lo (t.filter p)
  | _, [], _ => trivial
  | lo, (i, w) :: r, h => by
    simp only [List.filter_cons]
    split
    · exact ⟨h.1, trising_filter p h.2⟩
    · exact trising_weak (Nat.le_succ_of_le h.1) (trising_filter p h.2)

theorem trising_map (f : Nat × α → Nat × α) (hf : ∀ e, (f e).1 = e.1) : ∀ {lo : Nat} {t : List (Nat × α)},
    trising lo t → trising lo (t.map f)
  | _, [], _ => trivial
  | lo, (i, w) :: r, h => by
    have h1 : (f (i, w)).1 = i := hf (i, w)
    have h2 := trising_map f hf h.2
    simp only [List.map_cons]
    generalize hq : f (i, w) = q at h1
    obtain ⟨a, b⟩ := q
    simp only at h1
    subst h1
    exact ⟨h.1, h2⟩

end Sys2Proof.Machine
end

