-- ==== Sys2Proof/Laws/Chg.lean ====
section
/-!
SUPPORT. Chg.lean: which kinds of state an operation can change, and that it keeps the invariant. A set of kinds is a number, bit
i for the kind of index i.
-/

set_option Elab.async false
namespace Sys2Proof.Machine
open Sys2Proof.Config

theorem Kind.same_refl (s : State) (k : Kind) : k.same s s := by cases k <;> rfl

theorem Kind.same_trans {s t u : State} {k : Kind} (h : k.same s t) (h' : k.same t u) : k.same s u := by
  cases k <;> exact Eq.trans h' h

/-- Only kinds of the set `m` change from `s` to `t`, and the invariant is kept. -/
def Chg (m : Nat) (s t : State) : Prop := (∀ k : Kind, m.testBit k.idx = false → k.same s t) ∧ (s.Inv → t.Inv)

/-- Every kind of `a` is one of `m`. -/
def Sub (a m : Nat) : Prop := a &&& m = a

theorem Sub.trans {a b m : Nat} (h : a &&& b = a) (h' : Sub b m) : Sub a m := by
  unfold Sub at *
  rw [← h, Nat.and_assoc, h', h]

theorem Sub.le {a b m : Nat} (h' : Sub b m) (h : a &&& b = a := by decide) : Sub a m := Sub.trans h h'

theorem Sub.bit {a m i : Nat} (h : Sub a m) (hi : a.testBit i = true) : m.testBit i = true := by
  have := congrArg (fun x => x.testBit i) h
  simp only [Nat.testBit_and, hi, Bool.true_and] at this
  exact this

theorem Chg.refl (m : Nat) (s : State) : Chg m s s := ⟨fun k _ => k.same_refl s, id⟩

theorem Chg.trans {m : Nat} {s t u : State} (h : Chg m s t) (h' : Chg m t u) : Chg m s u :=
  ⟨fun k hk => Kind.same_trans (h.1 k hk) (h'.1 k hk), fun i => h'.2 (h.2 i)⟩

theorem Chg.mono {a m : Nat} (hm : Sub a m) {s t : State} (h : Chg a s t) : Chg m s t :=
  ⟨fun k hk => h.1 k (by
    by_contra hc
    rw [hm.bit (by simpa using hc)] at hk
    cases hk), h.2⟩

theorem Chg.ite {m : Nat} {s a b : State} {c : Prop} [Decidable c] (h1 : Chg m s a) (h2 : Chg m s b) :
    Chg m s (if c then a else b) := by split <;> assumption

theorem Chg.foldl {α : Type} {m : Nat} {s : State} (f : State → α → State) (hf : ∀ a x, Chg m s a → Chg m s (f a x)) :
    ∀ (l : List α) {t : State}, Chg m s t → Chg m s (l.foldl f t)
  | [], _, h => h
  | x :: l, _, h => Chg.foldl f hf l (hf _ x h)

theorem Chg.foldlFst {α β : Type} {m : Nat} {s : State} (f : State × β → α → State × β)
    (hf : ∀ a x, Chg m s a.1 → Chg m s (f a x).1) :
    ∀ (l : List α) {t : State × β}, Chg m s t.1 → Chg m s (l.foldl f t).1
  | [], _, h => h
  | x :: l, _, h => Chg.foldlFst f hf l (hf _ x h)

/-- Fields without a canonical form change. -/
theorem Chg.mk {m : Nat} {s t : State} (h : Chg m s t) {cmds nextCid xlat loads inflight nextIf reqs steps jobs groups colls soot board outbox free}
    (e5 : cmds = t.cmds ∨ m.testBit 5 = true := by first | exact .inl (by with_reducible rfl) | exact .inr (Sub.bit (by assumption) (by decide)))
    (e6 : nextCid = t.nextCid ∨ m.testBit 6 = true := by first | exact .inl (by with_reducible rfl) | exact .inr (Sub.bit (by assumption) (by decide)))
    (e7 : xlat = t.xlat ∨ m.testBit 7 = true := by first | exact .inl (by with_reducible rfl) | exact .inr (Sub.bit (by assumption) (by decide)))
    (e8 : loads = t.loads ∨ m.testBit 8 = true := by first | exact .inl (by with_reducible rfl) | exact .inr (Sub.bit (by assumption) (by decide)))
    (e13 : inflight = t.inflight ∨ m.testBit 13 = true := by first | exact .inl (by with_reducible rfl) | exact .inr (Sub.bit (by assumption) (by decide)))
    (e14 : nextIf = t.nextIf ∨ m.testBit 14 = true := by first | exact .inl (by with_reducible rfl) | exact .inr (Sub.bit (by assumption) (by decide)))
    (e16 : reqs = t.reqs ∨ m.testBit 16 = true := by first | exact .inl (by with_reducible rfl) | exact .inr (Sub.bit (by assumption) (by decide)))
    (e17 : steps = t.steps ∨ m.testBit 17 = true := by first | exact .inl (by with_reducible rfl) | exact .inr (Sub.bit (by assumption) (by decide)))
    (e18 : jobs = t.jobs ∨ m.testBit 18 = true := by first | exact .inl (by with_reducible rfl) | exact .inr (Sub.bit (by assumption) (by decide)))
    (e19 : groups = t.groups ∨ m.testBit 19 = true := by first | exact .inl (by with_reducible rfl) | exact .inr (Sub.bit (by assumption) (by decide)))
    (e20 : colls = t.colls ∨ m.testBit 20 = true := by first | exact .inl (by with_reducible rfl) | exact .inr (Sub.bit (by assumption) (by decide)))
    (e23 : soot = t.soot ∨ m.testBit 23 = true := by first | exact .inl (by with_reducible rfl) | exact .inr (Sub.bit (by assumption) (by decide)))
    (e24 : board = t.board ∨ m.testBit 24 = true := by first | exact .inl (by with_reducible rfl) | exact .inr (Sub.bit (by assumption) (by decide)))
    (e25 : outbox = t.outbox ∨ m.testBit 25 = true := by first | exact .inl (by with_reducible rfl) | exact .inr (Sub.bit (by assumption) (by decide)))
    (e26 : free = t.free ∨ m.testBit 26 = true := by first | exact .inl (by with_reducible rfl) | exact .inr (Sub.bit (by assumption) (by decide))) :
    Chg m s (State.mk t.pending t.time t.regs t.mem t.ctxs cmds nextCid xlat loads t.parts t.clusters t.tiles t.threads inflight nextIf t.table reqs steps jobs groups colls t.links t.hosts soot board outbox free) := by
  have key : ∀ {α : Type} {a b c : α} {x : Bool}, b = c → x = false → (a = b ∨ x = true) → a = c := by
    intro α a b c x h1 h2 h3
    rcases h3 with rfl | h3
    · exact h1
    · rw [h2] at h3; cases h3
  refine ⟨fun k hk => ?_, fun i => ?_⟩
  · have hp := h.1 k hk
    cases k
    · exact hp
    · exact hp
    · exact hp
    · exact hp
    · exact hp
    · exact key hp hk e5
    · exact key hp hk e6
    · exact key hp hk e7
    · exact key hp hk e8
    · exact hp
    · exact hp
    · exact hp
    · exact hp
    · exact key hp hk e13
    · exact key hp hk e14
    · exact hp
    · exact key hp hk e16
    · exact key hp hk e17
    · exact key hp hk e18
    · exact key hp hk e19
    · exact key hp hk e20
    · exact hp
    · exact hp
    · exact key hp hk e23
    · exact key hp hk e24
    · exact key hp hk e25
    · exact key hp hk e26
  · have j := h.2 i
    exact ⟨j.mem, j.regs, j.ctxs, j.parts, j.clusters, j.tiles, j.threads, j.table, j.links, j.hosts, j.cyc, j.mark, j.setM⟩

/-- One kind of state changes. -/
theorem Chg.one {m : Nat} {s t u : State} (k : Kind) (hm : Sub (2 ^ k.idx) m) (h : Chg m s t)
    (hk : ∀ l : Kind, l ≠ k → l.same t u) (hi : t.Inv → u.Inv) : Chg m s u :=
  ⟨fun l hl => Kind.same_trans (h.1 l hl) (hk l (by
    rintro rfl
    rw [hm.bit (Nat.testBit_two_pow_self)] at hl
    cases hl)), fun i => hi (h.2 i)⟩

theorem Chg.mem {m : Nat} (hm : Sub 8 m) {s t : State} (h : Chg m s t) (x : Memory)
    (hx : t.mem.wf = true → x.wf = true) : Chg m s { t with mem := x } :=
  h.one .mem hm (fun l hl => by cases l <;> first | rfl | exact absurd rfl hl) fun j => ⟨hx j.mem, j.regs, j.ctxs, j.parts, j.clusters, j.tiles, j.threads, j.table, j.links, j.hosts, j.cyc, j.mark, j.setM⟩

theorem Chg.regs {m : Nat} (hm : Sub 4 m) {s t : State} (h : Chg m s t) (x : List (Nat × Word))
    (hx : regsOkFrom 0 t.regs = true → regsOkFrom 0 x = true) : Chg m s { t with regs := x } :=
  h.one .regs hm (fun l hl => by cases l <;> first | rfl | exact absurd rfl hl) fun j => ⟨j.mem, hx j.regs, j.ctxs, j.parts, j.clusters, j.tiles, j.threads, j.table, j.links, j.hosts, j.cyc, j.mark, j.setM⟩

theorem Chg.ctxs {m : Nat} (hm : Sub 16 m) {s t : State} (h : Chg m s t) (x : List (Nat × CtxRun))
    (hx : twf CtxRun.dflt t.ctxs = true → twf CtxRun.dflt x = true) : Chg m s { t with ctxs := x } :=
  h.one .ctxs hm (fun l hl => by cases l <;> first | rfl | exact absurd rfl hl) fun j => ⟨j.mem, j.regs, hx j.ctxs, j.parts, j.clusters, j.tiles, j.threads, j.table, j.links, j.hosts, j.cyc, j.mark, j.setM⟩

theorem Chg.parts {m : Nat} (hm : Sub 512 m) {s t : State} (h : Chg m s t) (x : List (Nat × Part))
    (hx : twf Part.dflt t.parts = true → twf Part.dflt x = true) : Chg m s { t with parts := x } :=
  h.one .parts hm (fun l hl => by cases l <;> first | rfl | exact absurd rfl hl) fun j => ⟨j.mem, j.regs, j.ctxs, hx j.parts, j.clusters, j.tiles, j.threads, j.table, j.links, j.hosts, j.cyc, j.mark, j.setM⟩

theorem Chg.clusters {m : Nat} (hm : Sub 1024 m) {s t : State} (h : Chg m s t) (x : List (Nat × Cluster))
    (hx : twf Cluster.dflt t.clusters = true → twf Cluster.dflt x = true) : Chg m s { t with clusters := x } :=
  h.one .clusters hm (fun l hl => by cases l <;> first | rfl | exact absurd rfl hl) fun j => ⟨j.mem, j.regs, j.ctxs, j.parts, hx j.clusters, j.tiles, j.threads, j.table, j.links, j.hosts, j.cyc, j.mark, j.setM⟩

theorem Chg.tiles {m : Nat} (hm : Sub 2048 m) {s t : State} (h : Chg m s t) (x : List (Nat × Tile))
    (hx : twf Tile.dflt t.tiles = true → twf Tile.dflt x = true) : Chg m s { t with tiles := x } :=
  h.one .tiles hm (fun l hl => by cases l <;> first | rfl | exact absurd rfl hl) fun j => ⟨j.mem, j.regs, j.ctxs, j.parts, j.clusters, hx j.tiles, j.threads, j.table, j.links, j.hosts, j.cyc, j.mark, j.setM⟩

theorem Chg.threads {m : Nat} (hm : Sub 4096 m) {s t : State} (h : Chg m s t) (x : List (Nat × Thread))
    (hx : twf Thread.dflt t.threads = true → twf Thread.dflt x = true) : Chg m s { t with threads := x } :=
  h.one .threads hm (fun l hl => by cases l <;> first | rfl | exact absurd rfl hl) fun j => ⟨j.mem, j.regs, j.ctxs, j.parts, j.clusters, j.tiles, hx j.threads, j.table, j.links, j.hosts, j.cyc, j.mark, j.setM⟩

theorem Chg.table {m : Nat} (hm : Sub 32768 m) {s t : State} (h : Chg m s t) (x : List (Nat × Sample))
    (hx : twf Sample.dflt t.table = true → twf Sample.dflt x = true) : Chg m s { t with table := x } :=
  h.one .table hm (fun l hl => by cases l <;> first | rfl | exact absurd rfl hl) fun j => ⟨j.mem, j.regs, j.ctxs, j.parts, j.clusters, j.tiles, j.threads, hx j.table, j.links, j.hosts, j.cyc, j.mark, j.setM⟩

theorem Chg.links {m : Nat} (hm : Sub 2097152 m) {s t : State} (h : Chg m s t) (x : List (Nat × Link))
    (hx : twf Link.dflt t.links = true → twf Link.dflt x = true) : Chg m s { t with links := x } :=
  h.one .links hm (fun l hl => by cases l <;> first | rfl | exact absurd rfl hl) fun j => ⟨j.mem, j.regs, j.ctxs, j.parts, j.clusters, j.tiles, j.threads, j.table, hx j.links, j.hosts, j.cyc, j.mark, j.setM⟩

theorem Chg.hosts {m : Nat} (hm : Sub 4194304 m) {s t : State} (h : Chg m s t) (x : List (Nat × HostPort))
    (hx : twf HostPort.dflt t.hosts = true → twf HostPort.dflt x = true) : Chg m s { t with hosts := x } :=
  h.one .hosts hm (fun l hl => by cases l <;> first | rfl | exact absurd rfl hl) fun j => ⟨j.mem, j.regs, j.ctxs, j.parts, j.clusters, j.tiles, j.threads, j.table, j.links, hx j.hosts, j.cyc, j.mark, j.setM⟩

/-- The counters of a time base, and a mark that waits, are in range. -/
def TimeBase.Ok (b : TimeBase) : Prop := b.cyc < 1024 ∧ b.mark < 2 ^ 54 ∧ ∀ x ∈ b.setM, x.2.1 < 2 ^ 54

theorem State.Inv.ok {s : State} (h : s.Inv) : s.time.Ok := ⟨h.cyc, h.mark, h.setM⟩

/-- A mark that waits may be dropped. -/
theorem TimeBase.Ok.drop {b : TimeBase} (i : b.Ok) (p : Nat × Nat × Nat → Prop) [DecidablePred p] :
    TimeBase.Ok { b with setM := match b.setM with
      | some e => if p e then none else some e
      | none => none } := by
  refine ⟨i.1, i.2.1, fun x hx => ?_⟩
  dsimp only at hx
  split at hx
  · rename_i heq
    split at hx
    · cases hx
    · cases hx
      exact i.2.2 _ heq
  · cases hx

theorem Chg.timeOf {m : Nat} (hm : Sub 2 m) {s t : State} (h : Chg m s t) (x : TimeBase) (hx : s.Inv → x.Ok) :
    Chg m s { t with time := x } := by
  refine ⟨fun k hk => ?_, fun i => ?_⟩
  · refine Kind.same_trans (h.1 k hk) ?_
    cases k <;> first
      | rfl
      | (rw [hm.bit (by decide)] at hk; cases hk)
  · have j := h.2 i
    exact ⟨j.mem, j.regs, j.ctxs, j.parts, j.clusters, j.tiles, j.threads, j.table, j.links, j.hosts, (hx i).1, (hx i).2.1, (hx i).2.2⟩

theorem Chg.time {m : Nat} (hm : Sub 2 m) {s t : State} (h : Chg m s t) (x : TimeBase) (hx : t.time.Ok → x.Ok) :
    Chg m s { t with time := x } := h.timeOf hm x fun i => hx (h.2 i).ok

/-- An outcome is a next state in which only kinds of `m` have changed, with the invariant kept. -/
def NextChg (m : Nat) (s : State) (o : Host.Outcome State Fault Refusal) : Prop := ∃ u, o = .next u ∧ Chg m s u

theorem NextChg.next {m : Nat} {s u : State} (h : Chg m s u) : NextChg m s (.next u) := ⟨u, rfl, h⟩

theorem NextChg.act {m : Nat} {s u : State} (h : Chg m s u) : NextChg m s (s.act u) :=
  ⟨_, rfl, Chg.ite (Chg.refl m s) h⟩

theorem settled_chg {m : Nat} {s t : State} {o : Host.Outcome State Fault Refusal} (h : Chg m s t) (ho : NextChg m t o) :
    Chg m s (settled t o) := by
  obtain ⟨u, rfl, hu⟩ := ho
  exact h.trans hu

theorem NextChg.actHost {m : Nat} {s u : State} {port fn : Nat} (h : Chg m s u) : NextChg m s (s.actHost port fn u) :=
  NextChg.act (Chg.ite h (Chg.refl m s))

/-! ## Tables -/

theorem regsOk_iff : ∀ {lo : Nat} {t : List (Nat × Word)}, regsOkFrom lo t = true ↔ trising lo t ∧ listed regReset t
  | _, [] => by simp [regsOkFrom, trising, listed]
  | lo, (i, v) :: r => by
    simp only [regsOkFrom, Bool.and_eq_true, Bool.not_eq_true', decide_eq_true_eq, decide_eq_false_iff_not, regsOk_iff,
      trising, listed, List.forall_mem_cons]
    tauto

theorem twf_iff {α : Type} [DecidableEq α] (d : α) (t : List (Nat × α)) :
    twf d t = true ↔ trising 0 t ∧ listed (fun _ => d) t :=
  ⟨fun h => ⟨twfFrom_rising d h, twfFrom_listed d h⟩, fun h => twfFrom_of d h.1 h.2⟩

/-- Values that never become the default keep a table in its form. -/
theorem twf_mapVal {α : Type} [DecidableEq α] (d : α) {t : List (Nat × α)} (f : Nat × α → Nat × α) (hk : ∀ e, (f e).1 = e.1)
    (hv : ∀ e, e.2 ≠ d → (f e).2 ≠ d) (h : twf d t = true) : twf d (t.map f) = true := by
  rw [twf_iff] at h ⊢
  refine ⟨trising_map _ hk h.1, fun e he => ?_⟩
  obtain ⟨a, ha, rfl⟩ := List.mem_map.mp he
  exact hv a (h.2 a ha)

theorem twf_filter {α : Type} [DecidableEq α] (d : α) (p : Nat × α → Bool) {t : List (Nat × α)} (h : twf d t = true) :
    twf d (t.filter p) = true := by
  rw [twf_iff] at h ⊢
  exact ⟨trising_filter p h.1, fun e he => h.2 e (List.mem_filter.mp he).1⟩

/-! ## The updates of Regs.lean and Ops.lean -/

theorem State.setReg_chg {m : Nat} (hm : Sub 4 m) {s t : State} (h : Chg m s t) (o : Nat) (v : Word) : Chg m s (t.setReg o v) :=
  h.regs hm _ fun i => by
    rw [regsOk_iff] at i ⊢
    exact ⟨trising_tset _ o v i.1 (Nat.zero_le _), tset_listed regReset o v i.2⟩

theorem State.setFld_chg {m : Nat} (hm : Sub 4 m) {s t : State} (h : Chg m s t) (f : Fld) (x : Nat) : Chg m s (t.setFld f x) :=
  State.setReg_chg hm h _ _

theorem State.resetRegs_chg {m : Nat} (hm : Sub 4 m) {s t : State} (h : Chg m s t) (o n : Nat) : Chg m s (t.resetRegs o n) :=
  h.regs hm _ fun i => by
    rw [regsOk_iff] at i ⊢
    exact ⟨trising_filter _ i.1, fun e he => i.2 e (List.mem_filter.mp he).1⟩

theorem State.setCtx_chg {m : Nat} (hm : Sub 16 m) {s t : State} (h : Chg m s t) (n : Nat) (x : CtxRun) :
    Chg m s (t.setCtx n x) := h.ctxs hm _ (twf_tset _ n x)
theorem State.setPart_chg {m : Nat} (hm : Sub 512 m) {s t : State} (h : Chg m s t) (n : Nat) (x : Part) :
    Chg m s (t.setPart n x) := h.parts hm _ (twf_tset _ n x)
theorem State.setCluster_chg {m : Nat} (hm : Sub 1024 m) {s t : State} (h : Chg m s t) (n : Nat) (x : Cluster) :
    Chg m s (t.setCluster n x) := h.clusters hm _ (twf_tset _ n x)
theorem State.setTile_chg {m : Nat} (hm : Sub 2048 m) {s t : State} (h : Chg m s t) (n : Nat) (x : Tile) :
    Chg m s (t.setTile n x) := h.tiles hm _ (twf_tset _ n x)
theorem State.setThread_chg {m : Nat} (hm : Sub 4096 m) {s t : State} (h : Chg m s t) (n : Nat) (x : Thread) :
    Chg m s (t.setThread n x) := h.threads hm _ (twf_tset _ n x)
theorem State.setEntry_chg {m : Nat} (hm : Sub 32768 m) {s t : State} (h : Chg m s t) (n : Nat) (x : Sample) :
    Chg m s (t.setEntry n x) := h.table hm _ (twf_tset _ n x)
theorem State.setLink_chg {m : Nat} (hm : Sub 2097152 m) {s t : State} (h : Chg m s t) (n : Nat) (x : Link) :
    Chg m s (t.setLink n x) := h.links hm _ (twf_tset _ n x)
theorem State.setHost_chg {m : Nat} (hm : Sub 4194304 m) {s t : State} (h : Chg m s t) (n : Nat) (x : HostPort) :
    Chg m s (t.setHost n x) := h.hosts hm _ (twf_tset _ n x)
theorem State.modBoard_chg {m : Nat} (hm : Sub 16777216 m) {s t : State} (h : Chg m s t) (f : Board → Board) :
    Chg m s (t.modBoard f) := Chg.mk h
theorem State.writeMem_chg {m : Nat} (hm : Sub 8 m) {s t : State} (h : Chg m s t) (a : Nat) (d : List Byte) :
    Chg m s (t.writeMem a d) := h.mem hm _ (writeN_wf d _ _)

/-- A time base changed by a function that keeps its counters in range. -/
theorem State.modTime_chg {m : Nat} (hm : Sub 2 m) {s t : State} (h : Chg m s t) (f : TimeBase → TimeBase)
    (hf : ∀ b : TimeBase, b.Ok → (f b).Ok) : Chg m s (t.modTime f) := h.time hm _ (hf _)

theorem State.undefMem_chg {m : Nat} (hm : Sub 67108872 m) {s t : State} (h : Chg m s t) (a n : Nat) : Chg m s (t.undefMem a n) := by
  unfold State.undefMem
  split
  · exact h
  · exact Chg.mk (h.mem hm.le _ (undefine_wf t.mem (t.key a) n t.free))

end Sys2Proof.Machine
end

