-- ==== Sys2Proof/Laws/State.lean ====
section
/-!
SUPPORT. State.lean: what each update of State leaves alone, field by field and accessor by accessor; all true by rfl.
-/
namespace Sys2Proof.Machine

/-! ## setReg -/

@[simp] theorem State.setReg_pending (s : State) (o : Nat) (v : Word) : (s.setReg o v).pending = s.pending := rfl
@[simp] theorem State.setReg_time (s : State) (o : Nat) (v : Word) : (s.setReg o v).time = s.time := rfl
@[simp] theorem State.setReg_mem (s : State) (o : Nat) (v : Word) : (s.setReg o v).mem = s.mem := rfl
@[simp] theorem State.setReg_ctxs (s : State) (o : Nat) (v : Word) : (s.setReg o v).ctxs = s.ctxs := rfl
@[simp] theorem State.setReg_cmds (s : State) (o : Nat) (v : Word) : (s.setReg o v).cmds = s.cmds := rfl
@[simp] theorem State.setReg_nextCid (s : State) (o : Nat) (v : Word) : (s.setReg o v).nextCid = s.nextCid := rfl
@[simp] theorem State.setReg_xlat (s : State) (o : Nat) (v : Word) : (s.setReg o v).xlat = s.xlat := rfl
@[simp] theorem State.setReg_loads (s : State) (o : Nat) (v : Word) : (s.setReg o v).loads = s.loads := rfl
@[simp] theorem State.setReg_parts (s : State) (o : Nat) (v : Word) : (s.setReg o v).parts = s.parts := rfl
@[simp] theorem State.setReg_clusters (s : State) (o : Nat) (v : Word) : (s.setReg o v).clusters = s.clusters := rfl
@[simp] theorem State.setReg_tiles (s : State) (o : Nat) (v : Word) : (s.setReg o v).tiles = s.tiles := rfl
@[simp] theorem State.setReg_threads (s : State) (o : Nat) (v : Word) : (s.setReg o v).threads = s.threads := rfl
@[simp] theorem State.setReg_inflight (s : State) (o : Nat) (v : Word) : (s.setReg o v).inflight = s.inflight := rfl
@[simp] theorem State.setReg_nextIf (s : State) (o : Nat) (v : Word) : (s.setReg o v).nextIf = s.nextIf := rfl
@[simp] theorem State.setReg_table (s : State) (o : Nat) (v : Word) : (s.setReg o v).table = s.table := rfl
@[simp] theorem State.setReg_reqs (s : State) (o : Nat) (v : Word) : (s.setReg o v).reqs = s.reqs := rfl
@[simp] theorem State.setReg_steps (s : State) (o : Nat) (v : Word) : (s.setReg o v).steps = s.steps := rfl
@[simp] theorem State.setReg_jobs (s : State) (o : Nat) (v : Word) : (s.setReg o v).jobs = s.jobs := rfl
@[simp] theorem State.setReg_groups (s : State) (o : Nat) (v : Word) : (s.setReg o v).groups = s.groups := rfl
@[simp] theorem State.setReg_colls (s : State) (o : Nat) (v : Word) : (s.setReg o v).colls = s.colls := rfl
@[simp] theorem State.setReg_links (s : State) (o : Nat) (v : Word) : (s.setReg o v).links = s.links := rfl
@[simp] theorem State.setReg_hosts (s : State) (o : Nat) (v : Word) : (s.setReg o v).hosts = s.hosts := rfl
@[simp] theorem State.setReg_soot (s : State) (o : Nat) (v : Word) : (s.setReg o v).soot = s.soot := rfl
@[simp] theorem State.setReg_board (s : State) (o : Nat) (v : Word) : (s.setReg o v).board = s.board := rfl
@[simp] theorem State.setReg_outbox (s : State) (o : Nat) (v : Word) : (s.setReg o v).outbox = s.outbox := rfl
@[simp] theorem State.setReg_free (s : State) (o : Nat) (v : Word) : (s.setReg o v).free = s.free := rfl
@[simp] theorem State.setReg_at_ctx (s : State) (o : Nat) (v : Word) (k : Nat) : (s.setReg o v).ctx k = s.ctx k := rfl
@[simp] theorem State.setReg_at_part (s : State) (o : Nat) (v : Word) (k : Nat) : (s.setReg o v).part k = s.part k := rfl
@[simp] theorem State.setReg_at_cluster (s : State) (o : Nat) (v : Word) (k : Nat) : (s.setReg o v).cluster k = s.cluster k := rfl
@[simp] theorem State.setReg_at_tile (s : State) (o : Nat) (v : Word) (k : Nat) : (s.setReg o v).tile k = s.tile k := rfl
@[simp] theorem State.setReg_at_thread (s : State) (o : Nat) (v : Word) (k : Nat) : (s.setReg o v).thread k = s.thread k := rfl
@[simp] theorem State.setReg_at_entry (s : State) (o : Nat) (v : Word) (k : Nat) : (s.setReg o v).entry k = s.entry k := rfl
@[simp] theorem State.setReg_at_link (s : State) (o : Nat) (v : Word) (k : Nat) : (s.setReg o v).link k = s.link k := rfl
@[simp] theorem State.setReg_at_host (s : State) (o : Nat) (v : Word) (k : Nat) : (s.setReg o v).host k = s.host k := rfl
@[simp] theorem State.setReg_at_now (s : State) (o : Nat) (v : Word) : (s.setReg o v).now = s.now := rfl
@[simp] theorem State.setReg_at_mark (s : State) (o : Nat) (v : Word) : (s.setReg o v).mark = s.mark := rfl
@[simp] theorem State.setReg_at_stamp (s : State) (o : Nat) (v : Word) : (s.setReg o v).stamp = s.stamp := rfl
@[simp] theorem State.setReg_at_cmd (s : State) (o : Nat) (v : Word) (k : Nat) : (s.setReg o v).cmd k = s.cmd k := rfl

/-! ## setFld -/

@[simp] theorem State.setFld_pending (s : State) (f : Fld) (x : Nat) : (s.setFld f x).pending = s.pending := rfl
@[simp] theorem State.setFld_time (s : State) (f : Fld) (x : Nat) : (s.setFld f x).time = s.time := rfl
@[simp] theorem State.setFld_mem (s : State) (f : Fld) (x : Nat) : (s.setFld f x).mem = s.mem := rfl
@[simp] theorem State.setFld_ctxs (s : State) (f : Fld) (x : Nat) : (s.setFld f x).ctxs = s.ctxs := rfl
@[simp] theorem State.setFld_cmds (s : State) (f : Fld) (x : Nat) : (s.setFld f x).cmds = s.cmds := rfl
@[simp] theorem State.setFld_nextCid (s : State) (f : Fld) (x : Nat) : (s.setFld f x).nextCid = s.nextCid := rfl
@[simp] theorem State.setFld_xlat (s : State) (f : Fld) (x : Nat) : (s.setFld f x).xlat = s.xlat := rfl
@[simp] theorem State.setFld_loads (s : State) (f : Fld) (x : Nat) : (s.setFld f x).loads = s.loads := rfl
@[simp] theorem State.setFld_parts (s : State) (f : Fld) (x : Nat) : (s.setFld f x).parts = s.parts := rfl
@[simp] theorem State.setFld_clusters (s : State) (f : Fld) (x : Nat) : (s.setFld f x).clusters = s.clusters := rfl
@[simp] theorem State.setFld_tiles (s : State) (f : Fld) (x : Nat) : (s.setFld f x).tiles = s.tiles := rfl
@[simp] theorem State.setFld_threads (s : State) (f : Fld) (x : Nat) : (s.setFld f x).threads = s.threads := rfl
@[simp] theorem State.setFld_inflight (s : State) (f : Fld) (x : Nat) : (s.setFld f x).inflight = s.inflight := rfl
@[simp] theorem State.setFld_nextIf (s : State) (f : Fld) (x : Nat) : (s.setFld f x).nextIf = s.nextIf := rfl
@[simp] theorem State.setFld_table (s : State) (f : Fld) (x : Nat) : (s.setFld f x).table = s.table := rfl
@[simp] theorem State.setFld_reqs (s : State) (f : Fld) (x : Nat) : (s.setFld f x).reqs = s.reqs := rfl
@[simp] theorem State.setFld_steps (s : State) (f : Fld) (x : Nat) : (s.setFld f x).steps = s.steps := rfl
@[simp] theorem State.setFld_jobs (s : State) (f : Fld) (x : Nat) : (s.setFld f x).jobs = s.jobs := rfl
@[simp] theorem State.setFld_groups (s : State) (f : Fld) (x : Nat) : (s.setFld f x).groups = s.groups := rfl
@[simp] theorem State.setFld_colls (s : State) (f : Fld) (x : Nat) : (s.setFld f x).colls = s.colls := rfl
@[simp] theorem State.setFld_links (s : State) (f : Fld) (x : Nat) : (s.setFld f x).links = s.links := rfl
@[simp] theorem State.setFld_hosts (s : State) (f : Fld) (x : Nat) : (s.setFld f x).hosts = s.hosts := rfl
@[simp] theorem State.setFld_soot (s : State) (f : Fld) (x : Nat) : (s.setFld f x).soot = s.soot := rfl
@[simp] theorem State.setFld_board (s : State) (f : Fld) (x : Nat) : (s.setFld f x).board = s.board := rfl
@[simp] theorem State.setFld_outbox (s : State) (f : Fld) (x : Nat) : (s.setFld f x).outbox = s.outbox := rfl
@[simp] theorem State.setFld_free (s : State) (f : Fld) (x : Nat) : (s.setFld f x).free = s.free := rfl
@[simp] theorem State.setFld_at_ctx (s : State) (f : Fld) (x : Nat) (k : Nat) : (s.setFld f x).ctx k = s.ctx k := rfl
@[simp] theorem State.setFld_at_part (s : State) (f : Fld) (x : Nat) (k : Nat) : (s.setFld f x).part k = s.part k := rfl
@[simp] theorem State.setFld_at_cluster (s : State) (f : Fld) (x : Nat) (k : Nat) : (s.setFld f x).cluster k = s.cluster k := rfl
@[simp] theorem State.setFld_at_tile (s : State) (f : Fld) (x : Nat) (k : Nat) : (s.setFld f x).tile k = s.tile k := rfl
@[simp] theorem State.setFld_at_thread (s : State) (f : Fld) (x : Nat) (k : Nat) : (s.setFld f x).thread k = s.thread k := rfl
@[simp] theorem State.setFld_at_entry (s : State) (f : Fld) (x : Nat) (k : Nat) : (s.setFld f x).entry k = s.entry k := rfl
@[simp] theorem State.setFld_at_link (s : State) (f : Fld) (x : Nat) (k : Nat) : (s.setFld f x).link k = s.link k := rfl
@[simp] theorem State.setFld_at_host (s : State) (f : Fld) (x : Nat) (k : Nat) : (s.setFld f x).host k = s.host k := rfl
@[simp] theorem State.setFld_at_now (s : State) (f : Fld) (x : Nat) : (s.setFld f x).now = s.now := rfl
@[simp] theorem State.setFld_at_mark (s : State) (f : Fld) (x : Nat) : (s.setFld f x).mark = s.mark := rfl
@[simp] theorem State.setFld_at_stamp (s : State) (f : Fld) (x : Nat) : (s.setFld f x).stamp = s.stamp := rfl
@[simp] theorem State.setFld_at_cmd (s : State) (f : Fld) (x : Nat) (k : Nat) : (s.setFld f x).cmd k = s.cmd k := rfl

/-! ## resetRegs -/

@[simp] theorem State.resetRegs_pending (s : State) (o n : Nat) : (s.resetRegs o n).pending = s.pending := rfl
@[simp] theorem State.resetRegs_time (s : State) (o n : Nat) : (s.resetRegs o n).time = s.time := rfl
@[simp] theorem State.resetRegs_mem (s : State) (o n : Nat) : (s.resetRegs o n).mem = s.mem := rfl
@[simp] theorem State.resetRegs_ctxs (s : State) (o n : Nat) : (s.resetRegs o n).ctxs = s.ctxs := rfl
@[simp] theorem State.resetRegs_cmds (s : State) (o n : Nat) : (s.resetRegs o n).cmds = s.cmds := rfl
@[simp] theorem State.resetRegs_nextCid (s : State) (o n : Nat) : (s.resetRegs o n).nextCid = s.nextCid := rfl
@[simp] theorem State.resetRegs_xlat (s : State) (o n : Nat) : (s.resetRegs o n).xlat = s.xlat := rfl
@[simp] theorem State.resetRegs_loads (s : State) (o n : Nat) : (s.resetRegs o n).loads = s.loads := rfl
@[simp] theorem State.resetRegs_parts (s : State) (o n : Nat) : (s.resetRegs o n).parts = s.parts := rfl
@[simp] theorem State.resetRegs_clusters (s : State) (o n : Nat) : (s.resetRegs o n).clusters = s.clusters := rfl
@[simp] theorem State.resetRegs_tiles (s : State) (o n : Nat) : (s.resetRegs o n).tiles = s.tiles := rfl
@[simp] theorem State.resetRegs_threads (s : State) (o n : Nat) : (s.resetRegs o n).threads = s.threads := rfl
@[simp] theorem State.resetRegs_inflight (s : State) (o n : Nat) : (s.resetRegs o n).inflight = s.inflight := rfl
@[simp] theorem State.resetRegs_nextIf (s : State) (o n : Nat) : (s.resetRegs o n).nextIf = s.nextIf := rfl
@[simp] theorem State.resetRegs_table (s : State) (o n : Nat) : (s.resetRegs o n).table = s.table := rfl
@[simp] theorem State.resetRegs_reqs (s : State) (o n : Nat) : (s.resetRegs o n).reqs = s.reqs := rfl
@[simp] theorem State.resetRegs_steps (s : State) (o n : Nat) : (s.resetRegs o n).steps = s.steps := rfl
@[simp] theorem State.resetRegs_jobs (s : State) (o n : Nat) : (s.resetRegs o n).jobs = s.jobs := rfl
@[simp] theorem State.resetRegs_groups (s : State) (o n : Nat) : (s.resetRegs o n).groups = s.groups := rfl
@[simp] theorem State.resetRegs_colls (s : State) (o n : Nat) : (s.resetRegs o n).colls = s.colls := rfl
@[simp] theorem State.resetRegs_links (s : State) (o n : Nat) : (s.resetRegs o n).links = s.links := rfl
@[simp] theorem State.resetRegs_hosts (s : State) (o n : Nat) : (s.resetRegs o n).hosts = s.hosts := rfl
@[simp] theorem State.resetRegs_soot (s : State) (o n : Nat) : (s.resetRegs o n).soot = s.soot := rfl
@[simp] theorem State.resetRegs_board (s : State) (o n : Nat) : (s.resetRegs o n).board = s.board := rfl
@[simp] theorem State.resetRegs_outbox (s : State) (o n : Nat) : (s.resetRegs o n).outbox = s.outbox := rfl
@[simp] theorem State.resetRegs_free (s : State) (o n : Nat) : (s.resetRegs o n).free = s.free := rfl
@[simp] theorem State.resetRegs_at_ctx (s : State) (o n : Nat) (k : Nat) : (s.resetRegs o n).ctx k = s.ctx k := rfl
@[simp] theorem State.resetRegs_at_part (s : State) (o n : Nat) (k : Nat) : (s.resetRegs o n).part k = s.part k := rfl
@[simp] theorem State.resetRegs_at_cluster (s : State) (o n : Nat) (k : Nat) : (s.resetRegs o n).cluster k = s.cluster k := rfl
@[simp] theorem State.resetRegs_at_tile (s : State) (o n : Nat) (k : Nat) : (s.resetRegs o n).tile k = s.tile k := rfl
@[simp] theorem State.resetRegs_at_thread (s : State) (o n : Nat) (k : Nat) : (s.resetRegs o n).thread k = s.thread k := rfl
@[simp] theorem State.resetRegs_at_entry (s : State) (o n : Nat) (k : Nat) : (s.resetRegs o n).entry k = s.entry k := rfl
@[simp] theorem State.resetRegs_at_link (s : State) (o n : Nat) (k : Nat) : (s.resetRegs o n).link k = s.link k := rfl
@[simp] theorem State.resetRegs_at_host (s : State) (o n : Nat) (k : Nat) : (s.resetRegs o n).host k = s.host k := rfl
@[simp] theorem State.resetRegs_at_now (s : State) (o n : Nat) : (s.resetRegs o n).now = s.now := rfl
@[simp] theorem State.resetRegs_at_mark (s : State) (o n : Nat) : (s.resetRegs o n).mark = s.mark := rfl
@[simp] theorem State.resetRegs_at_stamp (s : State) (o n : Nat) : (s.resetRegs o n).stamp = s.stamp := rfl
@[simp] theorem State.resetRegs_at_cmd (s : State) (o n : Nat) (k : Nat) : (s.resetRegs o n).cmd k = s.cmd k := rfl

/-! ## setCtx -/

@[simp] theorem State.setCtx_pending (s : State) (n : Nat) (x : CtxRun) : (s.setCtx n x).pending = s.pending := rfl
@[simp] theorem State.setCtx_time (s : State) (n : Nat) (x : CtxRun) : (s.setCtx n x).time = s.time := rfl
@[simp] theorem State.setCtx_regs (s : State) (n : Nat) (x : CtxRun) : (s.setCtx n x).regs = s.regs := rfl
@[simp] theorem State.setCtx_mem (s : State) (n : Nat) (x : CtxRun) : (s.setCtx n x).mem = s.mem := rfl
@[simp] theorem State.setCtx_cmds (s : State) (n : Nat) (x : CtxRun) : (s.setCtx n x).cmds = s.cmds := rfl
@[simp] theorem State.setCtx_nextCid (s : State) (n : Nat) (x : CtxRun) : (s.setCtx n x).nextCid = s.nextCid := rfl
@[simp] theorem State.setCtx_xlat (s : State) (n : Nat) (x : CtxRun) : (s.setCtx n x).xlat = s.xlat := rfl
@[simp] theorem State.setCtx_loads (s : State) (n : Nat) (x : CtxRun) : (s.setCtx n x).loads = s.loads := rfl
@[simp] theorem State.setCtx_parts (s : State) (n : Nat) (x : CtxRun) : (s.setCtx n x).parts = s.parts := rfl
@[simp] theorem State.setCtx_clusters (s : State) (n : Nat) (x : CtxRun) : (s.setCtx n x).clusters = s.clusters := rfl
@[simp] theorem State.setCtx_tiles (s : State) (n : Nat) (x : CtxRun) : (s.setCtx n x).tiles = s.tiles := rfl
@[simp] theorem State.setCtx_threads (s : State) (n : Nat) (x : CtxRun) : (s.setCtx n x).threads = s.threads := rfl
@[simp] theorem State.setCtx_inflight (s : State) (n : Nat) (x : CtxRun) : (s.setCtx n x).inflight = s.inflight := rfl
@[simp] theorem State.setCtx_nextIf (s : State) (n : Nat) (x : CtxRun) : (s.setCtx n x).nextIf = s.nextIf := rfl
@[simp] theorem State.setCtx_table (s : State) (n : Nat) (x : CtxRun) : (s.setCtx n x).table = s.table := rfl
@[simp] theorem State.setCtx_reqs (s : State) (n : Nat) (x : CtxRun) : (s.setCtx n x).reqs = s.reqs := rfl
@[simp] theorem State.setCtx_steps (s : State) (n : Nat) (x : CtxRun) : (s.setCtx n x).steps = s.steps := rfl
@[simp] theorem State.setCtx_jobs (s : State) (n : Nat) (x : CtxRun) : (s.setCtx n x).jobs = s.jobs := rfl
@[simp] theorem State.setCtx_groups (s : State) (n : Nat) (x : CtxRun) : (s.setCtx n x).groups = s.groups := rfl
@[simp] theorem State.setCtx_colls (s : State) (n : Nat) (x : CtxRun) : (s.setCtx n x).colls = s.colls := rfl
@[simp] theorem State.setCtx_links (s : State) (n : Nat) (x : CtxRun) : (s.setCtx n x).links = s.links := rfl
@[simp] theorem State.setCtx_hosts (s : State) (n : Nat) (x : CtxRun) : (s.setCtx n x).hosts = s.hosts := rfl
@[simp] theorem State.setCtx_soot (s : State) (n : Nat) (x : CtxRun) : (s.setCtx n x).soot = s.soot := rfl
@[simp] theorem State.setCtx_board (s : State) (n : Nat) (x : CtxRun) : (s.setCtx n x).board = s.board := rfl
@[simp] theorem State.setCtx_outbox (s : State) (n : Nat) (x : CtxRun) : (s.setCtx n x).outbox = s.outbox := rfl
@[simp] theorem State.setCtx_free (s : State) (n : Nat) (x : CtxRun) : (s.setCtx n x).free = s.free := rfl
@[simp] theorem State.setCtx_at_reg (s : State) (n : Nat) (x : CtxRun) (k : Nat) : (s.setCtx n x).reg k = s.reg k := rfl
@[simp] theorem State.setCtx_at_fld (s : State) (n : Nat) (x : CtxRun) (k : Fld) : (s.setCtx n x).fld k = s.fld k := rfl
@[simp] theorem State.setCtx_at_flag (s : State) (n : Nat) (x : CtxRun) (k : Fld) : (s.setCtx n x).flag k = s.flag k := rfl
@[simp] theorem State.setCtx_at_role (s : State) (n : Nat) (x : CtxRun) (k : Nat) : (s.setCtx n x).role k = s.role k := rfl
@[simp] theorem State.setCtx_at_part (s : State) (n : Nat) (x : CtxRun) (k : Nat) : (s.setCtx n x).part k = s.part k := rfl
@[simp] theorem State.setCtx_at_cluster (s : State) (n : Nat) (x : CtxRun) (k : Nat) : (s.setCtx n x).cluster k = s.cluster k := rfl
@[simp] theorem State.setCtx_at_tile (s : State) (n : Nat) (x : CtxRun) (k : Nat) : (s.setCtx n x).tile k = s.tile k := rfl
@[simp] theorem State.setCtx_at_thread (s : State) (n : Nat) (x : CtxRun) (k : Nat) : (s.setCtx n x).thread k = s.thread k := rfl
@[simp] theorem State.setCtx_at_entry (s : State) (n : Nat) (x : CtxRun) (k : Nat) : (s.setCtx n x).entry k = s.entry k := rfl
@[simp] theorem State.setCtx_at_link (s : State) (n : Nat) (x : CtxRun) (k : Nat) : (s.setCtx n x).link k = s.link k := rfl
@[simp] theorem State.setCtx_at_host (s : State) (n : Nat) (x : CtxRun) (k : Nat) : (s.setCtx n x).host k = s.host k := rfl
@[simp] theorem State.setCtx_at_now (s : State) (n : Nat) (x : CtxRun) : (s.setCtx n x).now = s.now := rfl
@[simp] theorem State.setCtx_at_mark (s : State) (n : Nat) (x : CtxRun) : (s.setCtx n x).mark = s.mark := rfl
@[simp] theorem State.setCtx_at_stamp (s : State) (n : Nat) (x : CtxRun) : (s.setCtx n x).stamp = s.stamp := rfl
@[simp] theorem State.setCtx_at_cmd (s : State) (n : Nat) (x : CtxRun) (k : Nat) : (s.setCtx n x).cmd k = s.cmd k := rfl

/-! ## setPart -/

@[simp] theorem State.setPart_pending (s : State) (n : Nat) (x : Part) : (s.setPart n x).pending = s.pending := rfl
@[simp] theorem State.setPart_time (s : State) (n : Nat) (x : Part) : (s.setPart n x).time = s.time := rfl
@[simp] theorem State.setPart_regs (s : State) (n : Nat) (x : Part) : (s.setPart n x).regs = s.regs := rfl
@[simp] theorem State.setPart_mem (s : State) (n : Nat) (x : Part) : (s.setPart n x).mem = s.mem := rfl
@[simp] theorem State.setPart_ctxs (s : State) (n : Nat) (x : Part) : (s.setPart n x).ctxs = s.ctxs := rfl
@[simp] theorem State.setPart_cmds (s : State) (n : Nat) (x : Part) : (s.setPart n x).cmds = s.cmds := rfl
@[simp] theorem State.setPart_nextCid (s : State) (n : Nat) (x : Part) : (s.setPart n x).nextCid = s.nextCid := rfl
@[simp] theorem State.setPart_xlat (s : State) (n : Nat) (x : Part) : (s.setPart n x).xlat = s.xlat := rfl
@[simp] theorem State.setPart_loads (s : State) (n : Nat) (x : Part) : (s.setPart n x).loads = s.loads := rfl
@[simp] theorem State.setPart_clusters (s : State) (n : Nat) (x : Part) : (s.setPart n x).clusters = s.clusters := rfl
@[simp] theorem State.setPart_tiles (s : State) (n : Nat) (x : Part) : (s.setPart n x).tiles = s.tiles := rfl
@[simp] theorem State.setPart_threads (s : State) (n : Nat) (x : Part) : (s.setPart n x).threads = s.threads := rfl
@[simp] theorem State.setPart_inflight (s : State) (n : Nat) (x : Part) : (s.setPart n x).inflight = s.inflight := rfl
@[simp] theorem State.setPart_nextIf (s : State) (n : Nat) (x : Part) : (s.setPart n x).nextIf = s.nextIf := rfl
@[simp] theorem State.setPart_table (s : State) (n : Nat) (x : Part) : (s.setPart n x).table = s.table := rfl
@[simp] theorem State.setPart_reqs (s : State) (n : Nat) (x : Part) : (s.setPart n x).reqs = s.reqs := rfl
@[simp] theorem State.setPart_steps (s : State) (n : Nat) (x : Part) : (s.setPart n x).steps = s.steps := rfl
@[simp] theorem State.setPart_jobs (s : State) (n : Nat) (x : Part) : (s.setPart n x).jobs = s.jobs := rfl
@[simp] theorem State.setPart_groups (s : State) (n : Nat) (x : Part) : (s.setPart n x).groups = s.groups := rfl
@[simp] theorem State.setPart_colls (s : State) (n : Nat) (x : Part) : (s.setPart n x).colls = s.colls := rfl
@[simp] theorem State.setPart_links (s : State) (n : Nat) (x : Part) : (s.setPart n x).links = s.links := rfl
@[simp] theorem State.setPart_hosts (s : State) (n : Nat) (x : Part) : (s.setPart n x).hosts = s.hosts := rfl
@[simp] theorem State.setPart_soot (s : State) (n : Nat) (x : Part) : (s.setPart n x).soot = s.soot := rfl
@[simp] theorem State.setPart_board (s : State) (n : Nat) (x : Part) : (s.setPart n x).board = s.board := rfl
@[simp] theorem State.setPart_outbox (s : State) (n : Nat) (x : Part) : (s.setPart n x).outbox = s.outbox := rfl
@[simp] theorem State.setPart_free (s : State) (n : Nat) (x : Part) : (s.setPart n x).free = s.free := rfl
@[simp] theorem State.setPart_at_reg (s : State) (n : Nat) (x : Part) (k : Nat) : (s.setPart n x).reg k = s.reg k := rfl
@[simp] theorem State.setPart_at_fld (s : State) (n : Nat) (x : Part) (k : Fld) : (s.setPart n x).fld k = s.fld k := rfl
@[simp] theorem State.setPart_at_flag (s : State) (n : Nat) (x : Part) (k : Fld) : (s.setPart n x).flag k = s.flag k := rfl
@[simp] theorem State.setPart_at_role (s : State) (n : Nat) (x : Part) (k : Nat) : (s.setPart n x).role k = s.role k := rfl
@[simp] theorem State.setPart_at_ctx (s : State) (n : Nat) (x : Part) (k : Nat) : (s.setPart n x).ctx k = s.ctx k := rfl
@[simp] theorem State.setPart_at_cluster (s : State) (n : Nat) (x : Part) (k : Nat) : (s.setPart n x).cluster k = s.cluster k := rfl
@[simp] theorem State.setPart_at_tile (s : State) (n : Nat) (x : Part) (k : Nat) : (s.setPart n x).tile k = s.tile k := rfl
@[simp] theorem State.setPart_at_thread (s : State) (n : Nat) (x : Part) (k : Nat) : (s.setPart n x).thread k = s.thread k := rfl
@[simp] theorem State.setPart_at_entry (s : State) (n : Nat) (x : Part) (k : Nat) : (s.setPart n x).entry k = s.entry k := rfl
@[simp] theorem State.setPart_at_link (s : State) (n : Nat) (x : Part) (k : Nat) : (s.setPart n x).link k = s.link k := rfl
@[simp] theorem State.setPart_at_host (s : State) (n : Nat) (x : Part) (k : Nat) : (s.setPart n x).host k = s.host k := rfl
@[simp] theorem State.setPart_at_now (s : State) (n : Nat) (x : Part) : (s.setPart n x).now = s.now := rfl
@[simp] theorem State.setPart_at_mark (s : State) (n : Nat) (x : Part) : (s.setPart n x).mark = s.mark := rfl
@[simp] theorem State.setPart_at_stamp (s : State) (n : Nat) (x : Part) : (s.setPart n x).stamp = s.stamp := rfl
@[simp] theorem State.setPart_at_cmd (s : State) (n : Nat) (x : Part) (k : Nat) : (s.setPart n x).cmd k = s.cmd k := rfl

/-! ## setCluster -/

@[simp] theorem State.setCluster_pending (s : State) (n : Nat) (x : Cluster) : (s.setCluster n x).pending = s.pending := rfl
@[simp] theorem State.setCluster_time (s : State) (n : Nat) (x : Cluster) : (s.setCluster n x).time = s.time := rfl
@[simp] theorem State.setCluster_regs (s : State) (n : Nat) (x : Cluster) : (s.setCluster n x).regs = s.regs := rfl
@[simp] theorem State.setCluster_mem (s : State) (n : Nat) (x : Cluster) : (s.setCluster n x).mem = s.mem := rfl
@[simp] theorem State.setCluster_ctxs (s : State) (n : Nat) (x : Cluster) : (s.setCluster n x).ctxs = s.ctxs := rfl
@[simp] theorem State.setCluster_cmds (s : State) (n : Nat) (x : Cluster) : (s.setCluster n x).cmds = s.cmds := rfl
@[simp] theorem State.setCluster_nextCid (s : State) (n : Nat) (x : Cluster) : (s.setCluster n x).nextCid = s.nextCid := rfl
@[simp] theorem State.setCluster_xlat (s : State) (n : Nat) (x : Cluster) : (s.setCluster n x).xlat = s.xlat := rfl
@[simp] theorem State.setCluster_loads (s : State) (n : Nat) (x : Cluster) : (s.setCluster n x).loads = s.loads := rfl
@[simp] theorem State.setCluster_parts (s : State) (n : Nat) (x : Cluster) : (s.setCluster n x).parts = s.parts := rfl
@[simp] theorem State.setCluster_tiles (s : State) (n : Nat) (x : Cluster) : (s.setCluster n x).tiles = s.tiles := rfl
@[simp] theorem State.setCluster_threads (s : State) (n : Nat) (x : Cluster) : (s.setCluster n x).threads = s.threads := rfl
@[simp] theorem State.setCluster_inflight (s : State) (n : Nat) (x : Cluster) : (s.setCluster n x).inflight = s.inflight := rfl
@[simp] theorem State.setCluster_nextIf (s : State) (n : Nat) (x : Cluster) : (s.setCluster n x).nextIf = s.nextIf := rfl
@[simp] theorem State.setCluster_table (s : State) (n : Nat) (x : Cluster) : (s.setCluster n x).table = s.table := rfl
@[simp] theorem State.setCluster_reqs (s : State) (n : Nat) (x : Cluster) : (s.setCluster n x).reqs = s.reqs := rfl
@[simp] theorem State.setCluster_steps (s : State) (n : Nat) (x : Cluster) : (s.setCluster n x).steps = s.steps := rfl
@[simp] theorem State.setCluster_jobs (s : State) (n : Nat) (x : Cluster) : (s.setCluster n x).jobs = s.jobs := rfl
@[simp] theorem State.setCluster_groups (s : State) (n : Nat) (x : Cluster) : (s.setCluster n x).groups = s.groups := rfl
@[simp] theorem State.setCluster_colls (s : State) (n : Nat) (x : Cluster) : (s.setCluster n x).colls = s.colls := rfl
@[simp] theorem State.setCluster_links (s : State) (n : Nat) (x : Cluster) : (s.setCluster n x).links = s.links := rfl
@[simp] theorem State.setCluster_hosts (s : State) (n : Nat) (x : Cluster) : (s.setCluster n x).hosts = s.hosts := rfl
@[simp] theorem State.setCluster_soot (s : State) (n : Nat) (x : Cluster) : (s.setCluster n x).soot = s.soot := rfl
@[simp] theorem State.setCluster_board (s : State) (n : Nat) (x : Cluster) : (s.setCluster n x).board = s.board := rfl
@[simp] theorem State.setCluster_outbox (s : State) (n : Nat) (x : Cluster) : (s.setCluster n x).outbox = s.outbox := rfl
@[simp] theorem State.setCluster_free (s : State) (n : Nat) (x : Cluster) : (s.setCluster n x).free = s.free := rfl
@[simp] theorem State.setCluster_at_reg (s : State) (n : Nat) (x : Cluster) (k : Nat) : (s.setCluster n x).reg k = s.reg k := rfl
@[simp] theorem State.setCluster_at_fld (s : State) (n : Nat) (x : Cluster) (k : Fld) : (s.setCluster n x).fld k = s.fld k := rfl
@[simp] theorem State.setCluster_at_flag (s : State) (n : Nat) (x : Cluster) (k : Fld) : (s.setCluster n x).flag k = s.flag k := rfl
@[simp] theorem State.setCluster_at_role (s : State) (n : Nat) (x : Cluster) (k : Nat) : (s.setCluster n x).role k = s.role k := rfl
@[simp] theorem State.setCluster_at_ctx (s : State) (n : Nat) (x : Cluster) (k : Nat) : (s.setCluster n x).ctx k = s.ctx k := rfl
@[simp] theorem State.setCluster_at_part (s : State) (n : Nat) (x : Cluster) (k : Nat) : (s.setCluster n x).part k = s.part k := rfl
@[simp] theorem State.setCluster_at_tile (s : State) (n : Nat) (x : Cluster) (k : Nat) : (s.setCluster n x).tile k = s.tile k := rfl
@[simp] theorem State.setCluster_at_thread (s : State) (n : Nat) (x : Cluster) (k : Nat) : (s.setCluster n x).thread k = s.thread k := rfl
@[simp] theorem State.setCluster_at_entry (s : State) (n : Nat) (x : Cluster) (k : Nat) : (s.setCluster n x).entry k = s.entry k := rfl
@[simp] theorem State.setCluster_at_link (s : State) (n : Nat) (x : Cluster) (k : Nat) : (s.setCluster n x).link k = s.link k := rfl
@[simp] theorem State.setCluster_at_host (s : State) (n : Nat) (x : Cluster) (k : Nat) : (s.setCluster n x).host k = s.host k := rfl
@[simp] theorem State.setCluster_at_now (s : State) (n : Nat) (x : Cluster) : (s.setCluster n x).now = s.now := rfl
@[simp] theorem State.setCluster_at_mark (s : State) (n : Nat) (x : Cluster) : (s.setCluster n x).mark = s.mark := rfl
@[simp] theorem State.setCluster_at_stamp (s : State) (n : Nat) (x : Cluster) : (s.setCluster n x).stamp = s.stamp := rfl
@[simp] theorem State.setCluster_at_cmd (s : State) (n : Nat) (x : Cluster) (k : Nat) : (s.setCluster n x).cmd k = s.cmd k := rfl

/-! ## setTile -/

@[simp] theorem State.setTile_pending (s : State) (n : Nat) (x : Tile) : (s.setTile n x).pending = s.pending := rfl
@[simp] theorem State.setTile_time (s : State) (n : Nat) (x : Tile) : (s.setTile n x).time = s.time := rfl
@[simp] theorem State.setTile_regs (s : State) (n : Nat) (x : Tile) : (s.setTile n x).regs = s.regs := rfl
@[simp] theorem State.setTile_mem (s : State) (n : Nat) (x : Tile) : (s.setTile n x).mem = s.mem := rfl
@[simp] theorem State.setTile_ctxs (s : State) (n : Nat) (x : Tile) : (s.setTile n x).ctxs = s.ctxs := rfl
@[simp] theorem State.setTile_cmds (s : State) (n : Nat) (x : Tile) : (s.setTile n x).cmds = s.cmds := rfl
@[simp] theorem State.setTile_nextCid (s : State) (n : Nat) (x : Tile) : (s.setTile n x).nextCid = s.nextCid := rfl
@[simp] theorem State.setTile_xlat (s : State) (n : Nat) (x : Tile) : (s.setTile n x).xlat = s.xlat := rfl
@[simp] theorem State.setTile_loads (s : State) (n : Nat) (x : Tile) : (s.setTile n x).loads = s.loads := rfl
@[simp] theorem State.setTile_parts (s : State) (n : Nat) (x : Tile) : (s.setTile n x).parts = s.parts := rfl
@[simp] theorem State.setTile_clusters (s : State) (n : Nat) (x : Tile) : (s.setTile n x).clusters = s.clusters := rfl
@[simp] theorem State.setTile_threads (s : State) (n : Nat) (x : Tile) : (s.setTile n x).threads = s.threads := rfl
@[simp] theorem State.setTile_inflight (s : State) (n : Nat) (x : Tile) : (s.setTile n x).inflight = s.inflight := rfl
@[simp] theorem State.setTile_nextIf (s : State) (n : Nat) (x : Tile) : (s.setTile n x).nextIf = s.nextIf := rfl
@[simp] theorem State.setTile_table (s : State) (n : Nat) (x : Tile) : (s.setTile n x).table = s.table := rfl
@[simp] theorem State.setTile_reqs (s : State) (n : Nat) (x : Tile) : (s.setTile n x).reqs = s.reqs := rfl
@[simp] theorem State.setTile_steps (s : State) (n : Nat) (x : Tile) : (s.setTile n x).steps = s.steps := rfl
@[simp] theorem State.setTile_jobs (s : State) (n : Nat) (x : Tile) : (s.setTile n x).jobs = s.jobs := rfl
@[simp] theorem State.setTile_groups (s : State) (n : Nat) (x : Tile) : (s.setTile n x).groups = s.groups := rfl
@[simp] theorem State.setTile_colls (s : State) (n : Nat) (x : Tile) : (s.setTile n x).colls = s.colls := rfl
@[simp] theorem State.setTile_links (s : State) (n : Nat) (x : Tile) : (s.setTile n x).links = s.links := rfl
@[simp] theorem State.setTile_hosts (s : State) (n : Nat) (x : Tile) : (s.setTile n x).hosts = s.hosts := rfl
@[simp] theorem State.setTile_soot (s : State) (n : Nat) (x : Tile) : (s.setTile n x).soot = s.soot := rfl
@[simp] theorem State.setTile_board (s : State) (n : Nat) (x : Tile) : (s.setTile n x).board = s.board := rfl
@[simp] theorem State.setTile_outbox (s : State) (n : Nat) (x : Tile) : (s.setTile n x).outbox = s.outbox := rfl
@[simp] theorem State.setTile_free (s : State) (n : Nat) (x : Tile) : (s.setTile n x).free = s.free := rfl
@[simp] theorem State.setTile_at_reg (s : State) (n : Nat) (x : Tile) (k : Nat) : (s.setTile n x).reg k = s.reg k := rfl
@[simp] theorem State.setTile_at_fld (s : State) (n : Nat) (x : Tile) (k : Fld) : (s.setTile n x).fld k = s.fld k := rfl
@[simp] theorem State.setTile_at_flag (s : State) (n : Nat) (x : Tile) (k : Fld) : (s.setTile n x).flag k = s.flag k := rfl
@[simp] theorem State.setTile_at_role (s : State) (n : Nat) (x : Tile) (k : Nat) : (s.setTile n x).role k = s.role k := rfl
@[simp] theorem State.setTile_at_ctx (s : State) (n : Nat) (x : Tile) (k : Nat) : (s.setTile n x).ctx k = s.ctx k := rfl
@[simp] theorem State.setTile_at_part (s : State) (n : Nat) (x : Tile) (k : Nat) : (s.setTile n x).part k = s.part k := rfl
@[simp] theorem State.setTile_at_cluster (s : State) (n : Nat) (x : Tile) (k : Nat) : (s.setTile n x).cluster k = s.cluster k := rfl
@[simp] theorem State.setTile_at_thread (s : State) (n : Nat) (x : Tile) (k : Nat) : (s.setTile n x).thread k = s.thread k := rfl
@[simp] theorem State.setTile_at_entry (s : State) (n : Nat) (x : Tile) (k : Nat) : (s.setTile n x).entry k = s.entry k := rfl
@[simp] theorem State.setTile_at_link (s : State) (n : Nat) (x : Tile) (k : Nat) : (s.setTile n x).link k = s.link k := rfl
@[simp] theorem State.setTile_at_host (s : State) (n : Nat) (x : Tile) (k : Nat) : (s.setTile n x).host k = s.host k := rfl
@[simp] theorem State.setTile_at_now (s : State) (n : Nat) (x : Tile) : (s.setTile n x).now = s.now := rfl
@[simp] theorem State.setTile_at_mark (s : State) (n : Nat) (x : Tile) : (s.setTile n x).mark = s.mark := rfl
@[simp] theorem State.setTile_at_stamp (s : State) (n : Nat) (x : Tile) : (s.setTile n x).stamp = s.stamp := rfl
@[simp] theorem State.setTile_at_cmd (s : State) (n : Nat) (x : Tile) (k : Nat) : (s.setTile n x).cmd k = s.cmd k := rfl

/-! ## setThread -/

@[simp] theorem State.setThread_pending (s : State) (n : Nat) (x : Thread) : (s.setThread n x).pending = s.pending := rfl
@[simp] theorem State.setThread_time (s : State) (n : Nat) (x : Thread) : (s.setThread n x).time = s.time := rfl
@[simp] theorem State.setThread_regs (s : State) (n : Nat) (x : Thread) : (s.setThread n x).regs = s.regs := rfl
@[simp] theorem State.setThread_mem (s : State) (n : Nat) (x : Thread) : (s.setThread n x).mem = s.mem := rfl
@[simp] theorem State.setThread_ctxs (s : State) (n : Nat) (x : Thread) : (s.setThread n x).ctxs = s.ctxs := rfl
@[simp] theorem State.setThread_cmds (s : State) (n : Nat) (x : Thread) : (s.setThread n x).cmds = s.cmds := rfl
@[simp] theorem State.setThread_nextCid (s : State) (n : Nat) (x : Thread) : (s.setThread n x).nextCid = s.nextCid := rfl
@[simp] theorem State.setThread_xlat (s : State) (n : Nat) (x : Thread) : (s.setThread n x).xlat = s.xlat := rfl
@[simp] theorem State.setThread_loads (s : State) (n : Nat) (x : Thread) : (s.setThread n x).loads = s.loads := rfl
@[simp] theorem State.setThread_parts (s : State) (n : Nat) (x : Thread) : (s.setThread n x).parts = s.parts := rfl
@[simp] theorem State.setThread_clusters (s : State) (n : Nat) (x : Thread) : (s.setThread n x).clusters = s.clusters := rfl
@[simp] theorem State.setThread_tiles (s : State) (n : Nat) (x : Thread) : (s.setThread n x).tiles = s.tiles := rfl
@[simp] theorem State.setThread_inflight (s : State) (n : Nat) (x : Thread) : (s.setThread n x).inflight = s.inflight := rfl
@[simp] theorem State.setThread_nextIf (s : State) (n : Nat) (x : Thread) : (s.setThread n x).nextIf = s.nextIf := rfl
@[simp] theorem State.setThread_table (s : State) (n : Nat) (x : Thread) : (s.setThread n x).table = s.table := rfl
@[simp] theorem State.setThread_reqs (s : State) (n : Nat) (x : Thread) : (s.setThread n x).reqs = s.reqs := rfl
@[simp] theorem State.setThread_steps (s : State) (n : Nat) (x : Thread) : (s.setThread n x).steps = s.steps := rfl
@[simp] theorem State.setThread_jobs (s : State) (n : Nat) (x : Thread) : (s.setThread n x).jobs = s.jobs := rfl
@[simp] theorem State.setThread_groups (s : State) (n : Nat) (x : Thread) : (s.setThread n x).groups = s.groups := rfl
@[simp] theorem State.setThread_colls (s : State) (n : Nat) (x : Thread) : (s.setThread n x).colls = s.colls := rfl
@[simp] theorem State.setThread_links (s : State) (n : Nat) (x : Thread) : (s.setThread n x).links = s.links := rfl
@[simp] theorem State.setThread_hosts (s : State) (n : Nat) (x : Thread) : (s.setThread n x).hosts = s.hosts := rfl
@[simp] theorem State.setThread_soot (s : State) (n : Nat) (x : Thread) : (s.setThread n x).soot = s.soot := rfl
@[simp] theorem State.setThread_board (s : State) (n : Nat) (x : Thread) : (s.setThread n x).board = s.board := rfl
@[simp] theorem State.setThread_outbox (s : State) (n : Nat) (x : Thread) : (s.setThread n x).outbox = s.outbox := rfl
@[simp] theorem State.setThread_free (s : State) (n : Nat) (x : Thread) : (s.setThread n x).free = s.free := rfl
@[simp] theorem State.setThread_at_reg (s : State) (n : Nat) (x : Thread) (k : Nat) : (s.setThread n x).reg k = s.reg k := rfl
@[simp] theorem State.setThread_at_fld (s : State) (n : Nat) (x : Thread) (k : Fld) : (s.setThread n x).fld k = s.fld k := rfl
@[simp] theorem State.setThread_at_flag (s : State) (n : Nat) (x : Thread) (k : Fld) : (s.setThread n x).flag k = s.flag k := rfl
@[simp] theorem State.setThread_at_role (s : State) (n : Nat) (x : Thread) (k : Nat) : (s.setThread n x).role k = s.role k := rfl
@[simp] theorem State.setThread_at_ctx (s : State) (n : Nat) (x : Thread) (k : Nat) : (s.setThread n x).ctx k = s.ctx k := rfl
@[simp] theorem State.setThread_at_part (s : State) (n : Nat) (x : Thread) (k : Nat) : (s.setThread n x).part k = s.part k := rfl
@[simp] theorem State.setThread_at_cluster (s : State) (n : Nat) (x : Thread) (k : Nat) : (s.setThread n x).cluster k = s.cluster k := rfl
@[simp] theorem State.setThread_at_tile (s : State) (n : Nat) (x : Thread) (k : Nat) : (s.setThread n x).tile k = s.tile k := rfl
@[simp] theorem State.setThread_at_entry (s : State) (n : Nat) (x : Thread) (k : Nat) : (s.setThread n x).entry k = s.entry k := rfl
@[simp] theorem State.setThread_at_link (s : State) (n : Nat) (x : Thread) (k : Nat) : (s.setThread n x).link k = s.link k := rfl
@[simp] theorem State.setThread_at_host (s : State) (n : Nat) (x : Thread) (k : Nat) : (s.setThread n x).host k = s.host k := rfl
@[simp] theorem State.setThread_at_now (s : State) (n : Nat) (x : Thread) : (s.setThread n x).now = s.now := rfl
@[simp] theorem State.setThread_at_mark (s : State) (n : Nat) (x : Thread) : (s.setThread n x).mark = s.mark := rfl
@[simp] theorem State.setThread_at_stamp (s : State) (n : Nat) (x : Thread) : (s.setThread n x).stamp = s.stamp := rfl
@[simp] theorem State.setThread_at_cmd (s : State) (n : Nat) (x : Thread) (k : Nat) : (s.setThread n x).cmd k = s.cmd k := rfl

/-! ## setEntry -/

@[simp] theorem State.setEntry_pending (s : State) (n : Nat) (x : Sample) : (s.setEntry n x).pending = s.pending := rfl
@[simp] theorem State.setEntry_time (s : State) (n : Nat) (x : Sample) : (s.setEntry n x).time = s.time := rfl
@[simp] theorem State.setEntry_regs (s : State) (n : Nat) (x : Sample) : (s.setEntry n x).regs = s.regs := rfl
@[simp] theorem State.setEntry_mem (s : State) (n : Nat) (x : Sample) : (s.setEntry n x).mem = s.mem := rfl
@[simp] theorem State.setEntry_ctxs (s : State) (n : Nat) (x : Sample) : (s.setEntry n x).ctxs = s.ctxs := rfl
@[simp] theorem State.setEntry_cmds (s : State) (n : Nat) (x : Sample) : (s.setEntry n x).cmds = s.cmds := rfl
@[simp] theorem State.setEntry_nextCid (s : State) (n : Nat) (x : Sample) : (s.setEntry n x).nextCid = s.nextCid := rfl
@[simp] theorem State.setEntry_xlat (s : State) (n : Nat) (x : Sample) : (s.setEntry n x).xlat = s.xlat := rfl
@[simp] theorem State.setEntry_loads (s : State) (n : Nat) (x : Sample) : (s.setEntry n x).loads = s.loads := rfl
@[simp] theorem State.setEntry_parts (s : State) (n : Nat) (x : Sample) : (s.setEntry n x).parts = s.parts := rfl
@[simp] theorem State.setEntry_clusters (s : State) (n : Nat) (x : Sample) : (s.setEntry n x).clusters = s.clusters := rfl
@[simp] theorem State.setEntry_tiles (s : State) (n : Nat) (x : Sample) : (s.setEntry n x).tiles = s.tiles := rfl
@[simp] theorem State.setEntry_threads (s : State) (n : Nat) (x : Sample) : (s.setEntry n x).threads = s.threads := rfl
@[simp] theorem State.setEntry_inflight (s : State) (n : Nat) (x : Sample) : (s.setEntry n x).inflight = s.inflight := rfl
@[simp] theorem State.setEntry_nextIf (s : State) (n : Nat) (x : Sample) : (s.setEntry n x).nextIf = s.nextIf := rfl
@[simp] theorem State.setEntry_reqs (s : State) (n : Nat) (x : Sample) : (s.setEntry n x).reqs = s.reqs := rfl
@[simp] theorem State.setEntry_steps (s : State) (n : Nat) (x : Sample) : (s.setEntry n x).steps = s.steps := rfl
@[simp] theorem State.setEntry_jobs (s : State) (n : Nat) (x : Sample) : (s.setEntry n x).jobs = s.jobs := rfl
@[simp] theorem State.setEntry_groups (s : State) (n : Nat) (x : Sample) : (s.setEntry n x).groups = s.groups := rfl
@[simp] theorem State.setEntry_colls (s : State) (n : Nat) (x : Sample) : (s.setEntry n x).colls = s.colls := rfl
@[simp] theorem State.setEntry_links (s : State) (n : Nat) (x : Sample) : (s.setEntry n x).links = s.links := rfl
@[simp] theorem State.setEntry_hosts (s : State) (n : Nat) (x : Sample) : (s.setEntry n x).hosts = s.hosts := rfl
@[simp] theorem State.setEntry_soot (s : State) (n : Nat) (x : Sample) : (s.setEntry n x).soot = s.soot := rfl
@[simp] theorem State.setEntry_board (s : State) (n : Nat) (x : Sample) : (s.setEntry n x).board = s.board := rfl
@[simp] theorem State.setEntry_outbox (s : State) (n : Nat) (x : Sample) : (s.setEntry n x).outbox = s.outbox := rfl
@[simp] theorem State.setEntry_free (s : State) (n : Nat) (x : Sample) : (s.setEntry n x).free = s.free := rfl
@[simp] theorem State.setEntry_at_reg (s : State) (n : Nat) (x : Sample) (k : Nat) : (s.setEntry n x).reg k = s.reg k := rfl
@[simp] theorem State.setEntry_at_fld (s : State) (n : Nat) (x : Sample) (k : Fld) : (s.setEntry n x).fld k = s.fld k := rfl
@[simp] theorem State.setEntry_at_flag (s : State) (n : Nat) (x : Sample) (k : Fld) : (s.setEntry n x).flag k = s.flag k := rfl
@[simp] theorem State.setEntry_at_role (s : State) (n : Nat) (x : Sample) (k : Nat) : (s.setEntry n x).role k = s.role k := rfl
@[simp] theorem State.setEntry_at_ctx (s : State) (n : Nat) (x : Sample) (k : Nat) : (s.setEntry n x).ctx k = s.ctx k := rfl
@[simp] theorem State.setEntry_at_part (s : State) (n : Nat) (x : Sample) (k : Nat) : (s.setEntry n x).part k = s.part k := rfl
@[simp] theorem State.setEntry_at_cluster (s : State) (n : Nat) (x : Sample) (k : Nat) : (s.setEntry n x).cluster k = s.cluster k := rfl
@[simp] theorem State.setEntry_at_tile (s : State) (n : Nat) (x : Sample) (k : Nat) : (s.setEntry n x).tile k = s.tile k := rfl
@[simp] theorem State.setEntry_at_thread (s : State) (n : Nat) (x : Sample) (k : Nat) : (s.setEntry n x).thread k = s.thread k := rfl
@[simp] theorem State.setEntry_at_link (s : State) (n : Nat) (x : Sample) (k : Nat) : (s.setEntry n x).link k = s.link k := rfl
@[simp] theorem State.setEntry_at_host (s : State) (n : Nat) (x : Sample) (k : Nat) : (s.setEntry n x).host k = s.host k := rfl
@[simp] theorem State.setEntry_at_now (s : State) (n : Nat) (x : Sample) : (s.setEntry n x).now = s.now := rfl
@[simp] theorem State.setEntry_at_mark (s : State) (n : Nat) (x : Sample) : (s.setEntry n x).mark = s.mark := rfl
@[simp] theorem State.setEntry_at_stamp (s : State) (n : Nat) (x : Sample) : (s.setEntry n x).stamp = s.stamp := rfl
@[simp] theorem State.setEntry_at_cmd (s : State) (n : Nat) (x : Sample) (k : Nat) : (s.setEntry n x).cmd k = s.cmd k := rfl

/-! ## setLink -/

@[simp] theorem State.setLink_pending (s : State) (n : Nat) (x : Link) : (s.setLink n x).pending = s.pending := rfl
@[simp] theorem State.setLink_time (s : State) (n : Nat) (x : Link) : (s.setLink n x).time = s.time := rfl
@[simp] theorem State.setLink_regs (s : State) (n : Nat) (x : Link) : (s.setLink n x).regs = s.regs := rfl
@[simp] theorem State.setLink_mem (s : State) (n : Nat) (x : Link) : (s.setLink n x).mem = s.mem := rfl
@[simp] theorem State.setLink_ctxs (s : State) (n : Nat) (x : Link) : (s.setLink n x).ctxs = s.ctxs := rfl
@[simp] theorem State.setLink_cmds (s : State) (n : Nat) (x : Link) : (s.setLink n x).cmds = s.cmds := rfl
@[simp] theorem State.setLink_nextCid (s : State) (n : Nat) (x : Link) : (s.setLink n x).nextCid = s.nextCid := rfl
@[simp] theorem State.setLink_xlat (s : State) (n : Nat) (x : Link) : (s.setLink n x).xlat = s.xlat := rfl
@[simp] theorem State.setLink_loads (s : State) (n : Nat) (x : Link) : (s.setLink n x).loads = s.loads := rfl
@[simp] theorem State.setLink_parts (s : State) (n : Nat) (x : Link) : (s.setLink n x).parts = s.parts := rfl
@[simp] theorem State.setLink_clusters (s : State) (n : Nat) (x : Link) : (s.setLink n x).clusters = s.clusters := rfl
@[simp] theorem State.setLink_tiles (s : State) (n : Nat) (x : Link) : (s.setLink n x).tiles = s.tiles := rfl
@[simp] theorem State.setLink_threads (s : State) (n : Nat) (x : Link) : (s.setLink n x).threads = s.threads := rfl
@[simp] theorem State.setLink_inflight (s : State) (n : Nat) (x : Link) : (s.setLink n x).inflight = s.inflight := rfl
@[simp] theorem State.setLink_nextIf (s : State) (n : Nat) (x : Link) : (s.setLink n x).nextIf = s.nextIf := rfl
@[simp] theorem State.setLink_table (s : State) (n : Nat) (x : Link) : (s.setLink n x).table = s.table := rfl
@[simp] theorem State.setLink_reqs (s : State) (n : Nat) (x : Link) : (s.setLink n x).reqs = s.reqs := rfl
@[simp] theorem State.setLink_steps (s : State) (n : Nat) (x : Link) : (s.setLink n x).steps = s.steps := rfl
@[simp] theorem State.setLink_jobs (s : State) (n : Nat) (x : Link) : (s.setLink n x).jobs = s.jobs := rfl
@[simp] theorem State.setLink_groups (s : State) (n : Nat) (x : Link) : (s.setLink n x).groups = s.groups := rfl
@[simp] theorem State.setLink_colls (s : State) (n : Nat) (x : Link) : (s.setLink n x).colls = s.colls := rfl
@[simp] theorem State.setLink_hosts (s : State) (n : Nat) (x : Link) : (s.setLink n x).hosts = s.hosts := rfl
@[simp] theorem State.setLink_soot (s : State) (n : Nat) (x : Link) : (s.setLink n x).soot = s.soot := rfl
@[simp] theorem State.setLink_board (s : State) (n : Nat) (x : Link) : (s.setLink n x).board = s.board := rfl
@[simp] theorem State.setLink_outbox (s : State) (n : Nat) (x : Link) : (s.setLink n x).outbox = s.outbox := rfl
@[simp] theorem State.setLink_free (s : State) (n : Nat) (x : Link) : (s.setLink n x).free = s.free := rfl
@[simp] theorem State.setLink_at_reg (s : State) (n : Nat) (x : Link) (k : Nat) : (s.setLink n x).reg k = s.reg k := rfl
@[simp] theorem State.setLink_at_fld (s : State) (n : Nat) (x : Link) (k : Fld) : (s.setLink n x).fld k = s.fld k := rfl
@[simp] theorem State.setLink_at_flag (s : State) (n : Nat) (x : Link) (k : Fld) : (s.setLink n x).flag k = s.flag k := rfl
@[simp] theorem State.setLink_at_role (s : State) (n : Nat) (x : Link) (k : Nat) : (s.setLink n x).role k = s.role k := rfl
@[simp] theorem State.setLink_at_ctx (s : State) (n : Nat) (x : Link) (k : Nat) : (s.setLink n x).ctx k = s.ctx k := rfl
@[simp] theorem State.setLink_at_part (s : State) (n : Nat) (x : Link) (k : Nat) : (s.setLink n x).part k = s.part k := rfl
@[simp] theorem State.setLink_at_cluster (s : State) (n : Nat) (x : Link) (k : Nat) : (s.setLink n x).cluster k = s.cluster k := rfl
@[simp] theorem State.setLink_at_tile (s : State) (n : Nat) (x : Link) (k : Nat) : (s.setLink n x).tile k = s.tile k := rfl
@[simp] theorem State.setLink_at_thread (s : State) (n : Nat) (x : Link) (k : Nat) : (s.setLink n x).thread k = s.thread k := rfl
@[simp] theorem State.setLink_at_entry (s : State) (n : Nat) (x : Link) (k : Nat) : (s.setLink n x).entry k = s.entry k := rfl
@[simp] theorem State.setLink_at_host (s : State) (n : Nat) (x : Link) (k : Nat) : (s.setLink n x).host k = s.host k := rfl
@[simp] theorem State.setLink_at_now (s : State) (n : Nat) (x : Link) : (s.setLink n x).now = s.now := rfl
@[simp] theorem State.setLink_at_mark (s : State) (n : Nat) (x : Link) : (s.setLink n x).mark = s.mark := rfl
@[simp] theorem State.setLink_at_stamp (s : State) (n : Nat) (x : Link) : (s.setLink n x).stamp = s.stamp := rfl
@[simp] theorem State.setLink_at_cmd (s : State) (n : Nat) (x : Link) (k : Nat) : (s.setLink n x).cmd k = s.cmd k := rfl

/-! ## setHost -/

@[simp] theorem State.setHost_pending (s : State) (n : Nat) (x : HostPort) : (s.setHost n x).pending = s.pending := rfl
@[simp] theorem State.setHost_time (s : State) (n : Nat) (x : HostPort) : (s.setHost n x).time = s.time := rfl
@[simp] theorem State.setHost_regs (s : State) (n : Nat) (x : HostPort) : (s.setHost n x).regs = s.regs := rfl
@[simp] theorem State.setHost_mem (s : State) (n : Nat) (x : HostPort) : (s.setHost n x).mem = s.mem := rfl
@[simp] theorem State.setHost_ctxs (s : State) (n : Nat) (x : HostPort) : (s.setHost n x).ctxs = s.ctxs := rfl
@[simp] theorem State.setHost_cmds (s : State) (n : Nat) (x : HostPort) : (s.setHost n x).cmds = s.cmds := rfl
@[simp] theorem State.setHost_nextCid (s : State) (n : Nat) (x : HostPort) : (s.setHost n x).nextCid = s.nextCid := rfl
@[simp] theorem State.setHost_xlat (s : State) (n : Nat) (x : HostPort) : (s.setHost n x).xlat = s.xlat := rfl
@[simp] theorem State.setHost_loads (s : State) (n : Nat) (x : HostPort) : (s.setHost n x).loads = s.loads := rfl
@[simp] theorem State.setHost_parts (s : State) (n : Nat) (x : HostPort) : (s.setHost n x).parts = s.parts := rfl
@[simp] theorem State.setHost_clusters (s : State) (n : Nat) (x : HostPort) : (s.setHost n x).clusters = s.clusters := rfl
@[simp] theorem State.setHost_tiles (s : State) (n : Nat) (x : HostPort) : (s.setHost n x).tiles = s.tiles := rfl
@[simp] theorem State.setHost_threads (s : State) (n : Nat) (x : HostPort) : (s.setHost n x).threads = s.threads := rfl
@[simp] theorem State.setHost_inflight (s : State) (n : Nat) (x : HostPort) : (s.setHost n x).inflight = s.inflight := rfl
@[simp] theorem State.setHost_nextIf (s : State) (n : Nat) (x : HostPort) : (s.setHost n x).nextIf = s.nextIf := rfl
@[simp] theorem State.setHost_table (s : State) (n : Nat) (x : HostPort) : (s.setHost n x).table = s.table := rfl
@[simp] theorem State.setHost_reqs (s : State) (n : Nat) (x : HostPort) : (s.setHost n x).reqs = s.reqs := rfl
@[simp] theorem State.setHost_steps (s : State) (n : Nat) (x : HostPort) : (s.setHost n x).steps = s.steps := rfl
@[simp] theorem State.setHost_jobs (s : State) (n : Nat) (x : HostPort) : (s.setHost n x).jobs = s.jobs := rfl
@[simp] theorem State.setHost_groups (s : State) (n : Nat) (x : HostPort) : (s.setHost n x).groups = s.groups := rfl
@[simp] theorem State.setHost_colls (s : State) (n : Nat) (x : HostPort) : (s.setHost n x).colls = s.colls := rfl
@[simp] theorem State.setHost_links (s : State) (n : Nat) (x : HostPort) : (s.setHost n x).links = s.links := rfl
@[simp] theorem State.setHost_soot (s : State) (n : Nat) (x : HostPort) : (s.setHost n x).soot = s.soot := rfl
@[simp] theorem State.setHost_board (s : State) (n : Nat) (x : HostPort) : (s.setHost n x).board = s.board := rfl
@[simp] theorem State.setHost_outbox (s : State) (n : Nat) (x : HostPort) : (s.setHost n x).outbox = s.outbox := rfl
@[simp] theorem State.setHost_free (s : State) (n : Nat) (x : HostPort) : (s.setHost n x).free = s.free := rfl
@[simp] theorem State.setHost_at_reg (s : State) (n : Nat) (x : HostPort) (k : Nat) : (s.setHost n x).reg k = s.reg k := rfl
@[simp] theorem State.setHost_at_fld (s : State) (n : Nat) (x : HostPort) (k : Fld) : (s.setHost n x).fld k = s.fld k := rfl
@[simp] theorem State.setHost_at_flag (s : State) (n : Nat) (x : HostPort) (k : Fld) : (s.setHost n x).flag k = s.flag k := rfl
@[simp] theorem State.setHost_at_role (s : State) (n : Nat) (x : HostPort) (k : Nat) : (s.setHost n x).role k = s.role k := rfl
@[simp] theorem State.setHost_at_ctx (s : State) (n : Nat) (x : HostPort) (k : Nat) : (s.setHost n x).ctx k = s.ctx k := rfl
@[simp] theorem State.setHost_at_part (s : State) (n : Nat) (x : HostPort) (k : Nat) : (s.setHost n x).part k = s.part k := rfl
@[simp] theorem State.setHost_at_cluster (s : State) (n : Nat) (x : HostPort) (k : Nat) : (s.setHost n x).cluster k = s.cluster k := rfl
@[simp] theorem State.setHost_at_tile (s : State) (n : Nat) (x : HostPort) (k : Nat) : (s.setHost n x).tile k = s.tile k := rfl
@[simp] theorem State.setHost_at_thread (s : State) (n : Nat) (x : HostPort) (k : Nat) : (s.setHost n x).thread k = s.thread k := rfl
@[simp] theorem State.setHost_at_entry (s : State) (n : Nat) (x : HostPort) (k : Nat) : (s.setHost n x).entry k = s.entry k := rfl
@[simp] theorem State.setHost_at_link (s : State) (n : Nat) (x : HostPort) (k : Nat) : (s.setHost n x).link k = s.link k := rfl
@[simp] theorem State.setHost_at_now (s : State) (n : Nat) (x : HostPort) : (s.setHost n x).now = s.now := rfl
@[simp] theorem State.setHost_at_mark (s : State) (n : Nat) (x : HostPort) : (s.setHost n x).mark = s.mark := rfl
@[simp] theorem State.setHost_at_stamp (s : State) (n : Nat) (x : HostPort) : (s.setHost n x).stamp = s.stamp := rfl
@[simp] theorem State.setHost_at_cmd (s : State) (n : Nat) (x : HostPort) (k : Nat) : (s.setHost n x).cmd k = s.cmd k := rfl

/-! ## emit -/

@[simp] theorem State.emit_pending (s : State) (o : Output) : (s.emit o).pending = s.pending := rfl
@[simp] theorem State.emit_time (s : State) (o : Output) : (s.emit o).time = s.time := rfl
@[simp] theorem State.emit_regs (s : State) (o : Output) : (s.emit o).regs = s.regs := rfl
@[simp] theorem State.emit_mem (s : State) (o : Output) : (s.emit o).mem = s.mem := rfl
@[simp] theorem State.emit_ctxs (s : State) (o : Output) : (s.emit o).ctxs = s.ctxs := rfl
@[simp] theorem State.emit_cmds (s : State) (o : Output) : (s.emit o).cmds = s.cmds := rfl
@[simp] theorem State.emit_nextCid (s : State) (o : Output) : (s.emit o).nextCid = s.nextCid := rfl
@[simp] theorem State.emit_xlat (s : State) (o : Output) : (s.emit o).xlat = s.xlat := rfl
@[simp] theorem State.emit_loads (s : State) (o : Output) : (s.emit o).loads = s.loads := rfl
@[simp] theorem State.emit_parts (s : State) (o : Output) : (s.emit o).parts = s.parts := rfl
@[simp] theorem State.emit_clusters (s : State) (o : Output) : (s.emit o).clusters = s.clusters := rfl
@[simp] theorem State.emit_tiles (s : State) (o : Output) : (s.emit o).tiles = s.tiles := rfl
@[simp] theorem State.emit_threads (s : State) (o : Output) : (s.emit o).threads = s.threads := rfl
@[simp] theorem State.emit_inflight (s : State) (o : Output) : (s.emit o).inflight = s.inflight := rfl
@[simp] theorem State.emit_nextIf (s : State) (o : Output) : (s.emit o).nextIf = s.nextIf := rfl
@[simp] theorem State.emit_table (s : State) (o : Output) : (s.emit o).table = s.table := rfl
@[simp] theorem State.emit_reqs (s : State) (o : Output) : (s.emit o).reqs = s.reqs := rfl
@[simp] theorem State.emit_steps (s : State) (o : Output) : (s.emit o).steps = s.steps := rfl
@[simp] theorem State.emit_jobs (s : State) (o : Output) : (s.emit o).jobs = s.jobs := rfl
@[simp] theorem State.emit_groups (s : State) (o : Output) : (s.emit o).groups = s.groups := rfl
@[simp] theorem State.emit_colls (s : State) (o : Output) : (s.emit o).colls = s.colls := rfl
@[simp] theorem State.emit_links (s : State) (o : Output) : (s.emit o).links = s.links := rfl
@[simp] theorem State.emit_hosts (s : State) (o : Output) : (s.emit o).hosts = s.hosts := rfl
@[simp] theorem State.emit_soot (s : State) (o : Output) : (s.emit o).soot = s.soot := rfl
@[simp] theorem State.emit_board (s : State) (o : Output) : (s.emit o).board = s.board := rfl
@[simp] theorem State.emit_free (s : State) (o : Output) : (s.emit o).free = s.free := rfl
@[simp] theorem State.emit_at_reg (s : State) (o : Output) (k : Nat) : (s.emit o).reg k = s.reg k := rfl
@[simp] theorem State.emit_at_fld (s : State) (o : Output) (k : Fld) : (s.emit o).fld k = s.fld k := rfl
@[simp] theorem State.emit_at_flag (s : State) (o : Output) (k : Fld) : (s.emit o).flag k = s.flag k := rfl
@[simp] theorem State.emit_at_role (s : State) (o : Output) (k : Nat) : (s.emit o).role k = s.role k := rfl
@[simp] theorem State.emit_at_ctx (s : State) (o : Output) (k : Nat) : (s.emit o).ctx k = s.ctx k := rfl
@[simp] theorem State.emit_at_part (s : State) (o : Output) (k : Nat) : (s.emit o).part k = s.part k := rfl
@[simp] theorem State.emit_at_cluster (s : State) (o : Output) (k : Nat) : (s.emit o).cluster k = s.cluster k := rfl
@[simp] theorem State.emit_at_tile (s : State) (o : Output) (k : Nat) : (s.emit o).tile k = s.tile k := rfl
@[simp] theorem State.emit_at_thread (s : State) (o : Output) (k : Nat) : (s.emit o).thread k = s.thread k := rfl
@[simp] theorem State.emit_at_entry (s : State) (o : Output) (k : Nat) : (s.emit o).entry k = s.entry k := rfl
@[simp] theorem State.emit_at_link (s : State) (o : Output) (k : Nat) : (s.emit o).link k = s.link k := rfl
@[simp] theorem State.emit_at_host (s : State) (o : Output) (k : Nat) : (s.emit o).host k = s.host k := rfl
@[simp] theorem State.emit_at_now (s : State) (o : Output) : (s.emit o).now = s.now := rfl
@[simp] theorem State.emit_at_mark (s : State) (o : Output) : (s.emit o).mark = s.mark := rfl
@[simp] theorem State.emit_at_stamp (s : State) (o : Output) : (s.emit o).stamp = s.stamp := rfl
@[simp] theorem State.emit_at_cmd (s : State) (o : Output) (k : Nat) : (s.emit o).cmd k = s.cmd k := rfl

/-! ## drawn -/

@[simp] theorem State.drawn_pending (s : State) : (s.drawn).pending = s.pending := rfl
@[simp] theorem State.drawn_time (s : State) : (s.drawn).time = s.time := rfl
@[simp] theorem State.drawn_regs (s : State) : (s.drawn).regs = s.regs := rfl
@[simp] theorem State.drawn_mem (s : State) : (s.drawn).mem = s.mem := rfl
@[simp] theorem State.drawn_ctxs (s : State) : (s.drawn).ctxs = s.ctxs := rfl
@[simp] theorem State.drawn_cmds (s : State) : (s.drawn).cmds = s.cmds := rfl
@[simp] theorem State.drawn_nextCid (s : State) : (s.drawn).nextCid = s.nextCid := rfl
@[simp] theorem State.drawn_xlat (s : State) : (s.drawn).xlat = s.xlat := rfl
@[simp] theorem State.drawn_loads (s : State) : (s.drawn).loads = s.loads := rfl
@[simp] theorem State.drawn_parts (s : State) : (s.drawn).parts = s.parts := rfl
@[simp] theorem State.drawn_clusters (s : State) : (s.drawn).clusters = s.clusters := rfl
@[simp] theorem State.drawn_tiles (s : State) : (s.drawn).tiles = s.tiles := rfl
@[simp] theorem State.drawn_threads (s : State) : (s.drawn).threads = s.threads := rfl
@[simp] theorem State.drawn_inflight (s : State) : (s.drawn).inflight = s.inflight := rfl
@[simp] theorem State.drawn_nextIf (s : State) : (s.drawn).nextIf = s.nextIf := rfl
@[simp] theorem State.drawn_table (s : State) : (s.drawn).table = s.table := rfl
@[simp] theorem State.drawn_reqs (s : State) : (s.drawn).reqs = s.reqs := rfl
@[simp] theorem State.drawn_steps (s : State) : (s.drawn).steps = s.steps := rfl
@[simp] theorem State.drawn_jobs (s : State) : (s.drawn).jobs = s.jobs := rfl
@[simp] theorem State.drawn_groups (s : State) : (s.drawn).groups = s.groups := rfl
@[simp] theorem State.drawn_colls (s : State) : (s.drawn).colls = s.colls := rfl
@[simp] theorem State.drawn_links (s : State) : (s.drawn).links = s.links := rfl
@[simp] theorem State.drawn_hosts (s : State) : (s.drawn).hosts = s.hosts := rfl
@[simp] theorem State.drawn_soot (s : State) : (s.drawn).soot = s.soot := rfl
@[simp] theorem State.drawn_board (s : State) : (s.drawn).board = s.board := rfl
@[simp] theorem State.drawn_outbox (s : State) : (s.drawn).outbox = s.outbox := rfl
@[simp] theorem State.drawn_at_reg (s : State) (k : Nat) : (s.drawn).reg k = s.reg k := rfl
@[simp] theorem State.drawn_at_fld (s : State) (k : Fld) : (s.drawn).fld k = s.fld k := rfl
@[simp] theorem State.drawn_at_flag (s : State) (k : Fld) : (s.drawn).flag k = s.flag k := rfl
@[simp] theorem State.drawn_at_role (s : State) (k : Nat) : (s.drawn).role k = s.role k := rfl
@[simp] theorem State.drawn_at_ctx (s : State) (k : Nat) : (s.drawn).ctx k = s.ctx k := rfl
@[simp] theorem State.drawn_at_part (s : State) (k : Nat) : (s.drawn).part k = s.part k := rfl
@[simp] theorem State.drawn_at_cluster (s : State) (k : Nat) : (s.drawn).cluster k = s.cluster k := rfl
@[simp] theorem State.drawn_at_tile (s : State) (k : Nat) : (s.drawn).tile k = s.tile k := rfl
@[simp] theorem State.drawn_at_thread (s : State) (k : Nat) : (s.drawn).thread k = s.thread k := rfl
@[simp] theorem State.drawn_at_entry (s : State) (k : Nat) : (s.drawn).entry k = s.entry k := rfl
@[simp] theorem State.drawn_at_link (s : State) (k : Nat) : (s.drawn).link k = s.link k := rfl
@[simp] theorem State.drawn_at_host (s : State) (k : Nat) : (s.drawn).host k = s.host k := rfl
@[simp] theorem State.drawn_at_now (s : State) : (s.drawn).now = s.now := rfl
@[simp] theorem State.drawn_at_mark (s : State) : (s.drawn).mark = s.mark := rfl
@[simp] theorem State.drawn_at_stamp (s : State) : (s.drawn).stamp = s.stamp := rfl
@[simp] theorem State.drawn_at_cmd (s : State) (k : Nat) : (s.drawn).cmd k = s.cmd k := rfl

/-! ## writeMem -/

@[simp] theorem State.writeMem_pending (s : State) (a : Nat) (d : List Byte) : (s.writeMem a d).pending = s.pending := rfl
@[simp] theorem State.writeMem_time (s : State) (a : Nat) (d : List Byte) : (s.writeMem a d).time = s.time := rfl
@[simp] theorem State.writeMem_regs (s : State) (a : Nat) (d : List Byte) : (s.writeMem a d).regs = s.regs := rfl
@[simp] theorem State.writeMem_ctxs (s : State) (a : Nat) (d : List Byte) : (s.writeMem a d).ctxs = s.ctxs := rfl
@[simp] theorem State.writeMem_cmds (s : State) (a : Nat) (d : List Byte) : (s.writeMem a d).cmds = s.cmds := rfl
@[simp] theorem State.writeMem_nextCid (s : State) (a : Nat) (d : List Byte) : (s.writeMem a d).nextCid = s.nextCid := rfl
@[simp] theorem State.writeMem_xlat (s : State) (a : Nat) (d : List Byte) : (s.writeMem a d).xlat = s.xlat := rfl
@[simp] theorem State.writeMem_loads (s : State) (a : Nat) (d : List Byte) : (s.writeMem a d).loads = s.loads := rfl
@[simp] theorem State.writeMem_parts (s : State) (a : Nat) (d : List Byte) : (s.writeMem a d).parts = s.parts := rfl
@[simp] theorem State.writeMem_clusters (s : State) (a : Nat) (d : List Byte) : (s.writeMem a d).clusters = s.clusters := rfl
@[simp] theorem State.writeMem_tiles (s : State) (a : Nat) (d : List Byte) : (s.writeMem a d).tiles = s.tiles := rfl
@[simp] theorem State.writeMem_threads (s : State) (a : Nat) (d : List Byte) : (s.writeMem a d).threads = s.threads := rfl
@[simp] theorem State.writeMem_inflight (s : State) (a : Nat) (d : List Byte) : (s.writeMem a d).inflight = s.inflight := rfl
@[simp] theorem State.writeMem_nextIf (s : State) (a : Nat) (d : List Byte) : (s.writeMem a d).nextIf = s.nextIf := rfl
@[simp] theorem State.writeMem_table (s : State) (a : Nat) (d : List Byte) : (s.writeMem a d).table = s.table := rfl
@[simp] theorem State.writeMem_reqs (s : State) (a : Nat) (d : List Byte) : (s.writeMem a d).reqs = s.reqs := rfl
@[simp] theorem State.writeMem_steps (s : State) (a : Nat) (d : List Byte) : (s.writeMem a d).steps = s.steps := rfl
@[simp] theorem State.writeMem_jobs (s : State) (a : Nat) (d : List Byte) : (s.writeMem a d).jobs = s.jobs := rfl
@[simp] theorem State.writeMem_groups (s : State) (a : Nat) (d : List Byte) : (s.writeMem a d).groups = s.groups := rfl
@[simp] theorem State.writeMem_colls (s : State) (a : Nat) (d : List Byte) : (s.writeMem a d).colls = s.colls := rfl
@[simp] theorem State.writeMem_links (s : State) (a : Nat) (d : List Byte) : (s.writeMem a d).links = s.links := rfl
@[simp] theorem State.writeMem_hosts (s : State) (a : Nat) (d : List Byte) : (s.writeMem a d).hosts = s.hosts := rfl
@[simp] theorem State.writeMem_soot (s : State) (a : Nat) (d : List Byte) : (s.writeMem a d).soot = s.soot := rfl
@[simp] theorem State.writeMem_board (s : State) (a : Nat) (d : List Byte) : (s.writeMem a d).board = s.board := rfl
@[simp] theorem State.writeMem_outbox (s : State) (a : Nat) (d : List Byte) : (s.writeMem a d).outbox = s.outbox := rfl
@[simp] theorem State.writeMem_free (s : State) (a : Nat) (d : List Byte) : (s.writeMem a d).free = s.free := rfl
@[simp] theorem State.writeMem_at_reg (s : State) (a : Nat) (d : List Byte) (k : Nat) : (s.writeMem a d).reg k = s.reg k := rfl
@[simp] theorem State.writeMem_at_fld (s : State) (a : Nat) (d : List Byte) (k : Fld) : (s.writeMem a d).fld k = s.fld k := rfl
@[simp] theorem State.writeMem_at_flag (s : State) (a : Nat) (d : List Byte) (k : Fld) : (s.writeMem a d).flag k = s.flag k := rfl
@[simp] theorem State.writeMem_at_role (s : State) (a : Nat) (d : List Byte) (k : Nat) : (s.writeMem a d).role k = s.role k := rfl
@[simp] theorem State.writeMem_at_ctx (s : State) (a : Nat) (d : List Byte) (k : Nat) : (s.writeMem a d).ctx k = s.ctx k := rfl
@[simp] theorem State.writeMem_at_part (s : State) (a : Nat) (d : List Byte) (k : Nat) : (s.writeMem a d).part k = s.part k := rfl
@[simp] theorem State.writeMem_at_cluster (s : State) (a : Nat) (d : List Byte) (k : Nat) : (s.writeMem a d).cluster k = s.cluster k := rfl
@[simp] theorem State.writeMem_at_tile (s : State) (a : Nat) (d : List Byte) (k : Nat) : (s.writeMem a d).tile k = s.tile k := rfl
@[simp] theorem State.writeMem_at_thread (s : State) (a : Nat) (d : List Byte) (k : Nat) : (s.writeMem a d).thread k = s.thread k := rfl
@[simp] theorem State.writeMem_at_entry (s : State) (a : Nat) (d : List Byte) (k : Nat) : (s.writeMem a d).entry k = s.entry k := rfl
@[simp] theorem State.writeMem_at_link (s : State) (a : Nat) (d : List Byte) (k : Nat) : (s.writeMem a d).link k = s.link k := rfl
@[simp] theorem State.writeMem_at_host (s : State) (a : Nat) (d : List Byte) (k : Nat) : (s.writeMem a d).host k = s.host k := rfl
@[simp] theorem State.writeMem_at_now (s : State) (a : Nat) (d : List Byte) : (s.writeMem a d).now = s.now := rfl
@[simp] theorem State.writeMem_at_mark (s : State) (a : Nat) (d : List Byte) : (s.writeMem a d).mark = s.mark := rfl
@[simp] theorem State.writeMem_at_stamp (s : State) (a : Nat) (d : List Byte) : (s.writeMem a d).stamp = s.stamp := rfl
@[simp] theorem State.writeMem_at_cmd (s : State) (a : Nat) (d : List Byte) (k : Nat) : (s.writeMem a d).cmd k = s.cmd k := rfl

/-! ## modPart -/

@[simp] theorem State.modPart_pending (s : State) (n : Nat) (f : Part → Part) : (s.modPart n f).pending = s.pending := rfl
@[simp] theorem State.modPart_time (s : State) (n : Nat) (f : Part → Part) : (s.modPart n f).time = s.time := rfl
@[simp] theorem State.modPart_regs (s : State) (n : Nat) (f : Part → Part) : (s.modPart n f).regs = s.regs := rfl
@[simp] theorem State.modPart_mem (s : State) (n : Nat) (f : Part → Part) : (s.modPart n f).mem = s.mem := rfl
@[simp] theorem State.modPart_ctxs (s : State) (n : Nat) (f : Part → Part) : (s.modPart n f).ctxs = s.ctxs := rfl
@[simp] theorem State.modPart_cmds (s : State) (n : Nat) (f : Part → Part) : (s.modPart n f).cmds = s.cmds := rfl
@[simp] theorem State.modPart_nextCid (s : State) (n : Nat) (f : Part → Part) : (s.modPart n f).nextCid = s.nextCid := rfl
@[simp] theorem State.modPart_xlat (s : State) (n : Nat) (f : Part → Part) : (s.modPart n f).xlat = s.xlat := rfl
@[simp] theorem State.modPart_loads (s : State) (n : Nat) (f : Part → Part) : (s.modPart n f).loads = s.loads := rfl
@[simp] theorem State.modPart_clusters (s : State) (n : Nat) (f : Part → Part) : (s.modPart n f).clusters = s.clusters := rfl
@[simp] theorem State.modPart_tiles (s : State) (n : Nat) (f : Part → Part) : (s.modPart n f).tiles = s.tiles := rfl
@[simp] theorem State.modPart_threads (s : State) (n : Nat) (f : Part → Part) : (s.modPart n f).threads = s.threads := rfl
@[simp] theorem State.modPart_inflight (s : State) (n : Nat) (f : Part → Part) : (s.modPart n f).inflight = s.inflight := rfl
@[simp] theorem State.modPart_nextIf (s : State) (n : Nat) (f : Part → Part) : (s.modPart n f).nextIf = s.nextIf := rfl
@[simp] theorem State.modPart_table (s : State) (n : Nat) (f : Part → Part) : (s.modPart n f).table = s.table := rfl
@[simp] theorem State.modPart_reqs (s : State) (n : Nat) (f : Part → Part) : (s.modPart n f).reqs = s.reqs := rfl
@[simp] theorem State.modPart_steps (s : State) (n : Nat) (f : Part → Part) : (s.modPart n f).steps = s.steps := rfl
@[simp] theorem State.modPart_jobs (s : State) (n : Nat) (f : Part → Part) : (s.modPart n f).jobs = s.jobs := rfl
@[simp] theorem State.modPart_groups (s : State) (n : Nat) (f : Part → Part) : (s.modPart n f).groups = s.groups := rfl
@[simp] theorem State.modPart_colls (s : State) (n : Nat) (f : Part → Part) : (s.modPart n f).colls = s.colls := rfl
@[simp] theorem State.modPart_links (s : State) (n : Nat) (f : Part → Part) : (s.modPart n f).links = s.links := rfl
@[simp] theorem State.modPart_hosts (s : State) (n : Nat) (f : Part → Part) : (s.modPart n f).hosts = s.hosts := rfl
@[simp] theorem State.modPart_soot (s : State) (n : Nat) (f : Part → Part) : (s.modPart n f).soot = s.soot := rfl
@[simp] theorem State.modPart_board (s : State) (n : Nat) (f : Part → Part) : (s.modPart n f).board = s.board := rfl
@[simp] theorem State.modPart_outbox (s : State) (n : Nat) (f : Part → Part) : (s.modPart n f).outbox = s.outbox := rfl
@[simp] theorem State.modPart_free (s : State) (n : Nat) (f : Part → Part) : (s.modPart n f).free = s.free := rfl
@[simp] theorem State.modPart_at_reg (s : State) (n : Nat) (f : Part → Part) (k : Nat) : (s.modPart n f).reg k = s.reg k := rfl
@[simp] theorem State.modPart_at_fld (s : State) (n : Nat) (f : Part → Part) (k : Fld) : (s.modPart n f).fld k = s.fld k := rfl
@[simp] theorem State.modPart_at_flag (s : State) (n : Nat) (f : Part → Part) (k : Fld) : (s.modPart n f).flag k = s.flag k := rfl
@[simp] theorem State.modPart_at_role (s : State) (n : Nat) (f : Part → Part) (k : Nat) : (s.modPart n f).role k = s.role k := rfl
@[simp] theorem State.modPart_at_ctx (s : State) (n : Nat) (f : Part → Part) (k : Nat) : (s.modPart n f).ctx k = s.ctx k := rfl
@[simp] theorem State.modPart_at_cluster (s : State) (n : Nat) (f : Part → Part) (k : Nat) : (s.modPart n f).cluster k = s.cluster k := rfl
@[simp] theorem State.modPart_at_tile (s : State) (n : Nat) (f : Part → Part) (k : Nat) : (s.modPart n f).tile k = s.tile k := rfl
@[simp] theorem State.modPart_at_thread (s : State) (n : Nat) (f : Part → Part) (k : Nat) : (s.modPart n f).thread k = s.thread k := rfl
@[simp] theorem State.modPart_at_entry (s : State) (n : Nat) (f : Part → Part) (k : Nat) : (s.modPart n f).entry k = s.entry k := rfl
@[simp] theorem State.modPart_at_link (s : State) (n : Nat) (f : Part → Part) (k : Nat) : (s.modPart n f).link k = s.link k := rfl
@[simp] theorem State.modPart_at_host (s : State) (n : Nat) (f : Part → Part) (k : Nat) : (s.modPart n f).host k = s.host k := rfl
@[simp] theorem State.modPart_at_now (s : State) (n : Nat) (f : Part → Part) : (s.modPart n f).now = s.now := rfl
@[simp] theorem State.modPart_at_mark (s : State) (n : Nat) (f : Part → Part) : (s.modPart n f).mark = s.mark := rfl
@[simp] theorem State.modPart_at_stamp (s : State) (n : Nat) (f : Part → Part) : (s.modPart n f).stamp = s.stamp := rfl
@[simp] theorem State.modPart_at_cmd (s : State) (n : Nat) (f : Part → Part) (k : Nat) : (s.modPart n f).cmd k = s.cmd k := rfl

/-! ## modCtx -/

@[simp] theorem State.modCtx_pending (s : State) (n : Nat) (f : CtxRun → CtxRun) : (s.modCtx n f).pending = s.pending := rfl
@[simp] theorem State.modCtx_time (s : State) (n : Nat) (f : CtxRun → CtxRun) : (s.modCtx n f).time = s.time := rfl
@[simp] theorem State.modCtx_regs (s : State) (n : Nat) (f : CtxRun → CtxRun) : (s.modCtx n f).regs = s.regs := rfl
@[simp] theorem State.modCtx_mem (s : State) (n : Nat) (f : CtxRun → CtxRun) : (s.modCtx n f).mem = s.mem := rfl
@[simp] theorem State.modCtx_cmds (s : State) (n : Nat) (f : CtxRun → CtxRun) : (s.modCtx n f).cmds = s.cmds := rfl
@[simp] theorem State.modCtx_nextCid (s : State) (n : Nat) (f : CtxRun → CtxRun) : (s.modCtx n f).nextCid = s.nextCid := rfl
@[simp] theorem State.modCtx_xlat (s : State) (n : Nat) (f : CtxRun → CtxRun) : (s.modCtx n f).xlat = s.xlat := rfl
@[simp] theorem State.modCtx_loads (s : State) (n : Nat) (f : CtxRun → CtxRun) : (s.modCtx n f).loads = s.loads := rfl
@[simp] theorem State.modCtx_parts (s : State) (n : Nat) (f : CtxRun → CtxRun) : (s.modCtx n f).parts = s.parts := rfl
@[simp] theorem State.modCtx_clusters (s : State) (n : Nat) (f : CtxRun → CtxRun) : (s.modCtx n f).clusters = s.clusters := rfl
@[simp] theorem State.modCtx_tiles (s : State) (n : Nat) (f : CtxRun → CtxRun) : (s.modCtx n f).tiles = s.tiles := rfl
@[simp] theorem State.modCtx_threads (s : State) (n : Nat) (f : CtxRun → CtxRun) : (s.modCtx n f).threads = s.threads := rfl
@[simp] theorem State.modCtx_inflight (s : State) (n : Nat) (f : CtxRun → CtxRun) : (s.modCtx n f).inflight = s.inflight := rfl
@[simp] theorem State.modCtx_nextIf (s : State) (n : Nat) (f : CtxRun → CtxRun) : (s.modCtx n f).nextIf = s.nextIf := rfl
@[simp] theorem State.modCtx_table (s : State) (n : Nat) (f : CtxRun → CtxRun) : (s.modCtx n f).table = s.table := rfl
@[simp] theorem State.modCtx_reqs (s : State) (n : Nat) (f : CtxRun → CtxRun) : (s.modCtx n f).reqs = s.reqs := rfl
@[simp] theorem State.modCtx_steps (s : State) (n : Nat) (f : CtxRun → CtxRun) : (s.modCtx n f).steps = s.steps := rfl
@[simp] theorem State.modCtx_jobs (s : State) (n : Nat) (f : CtxRun → CtxRun) : (s.modCtx n f).jobs = s.jobs := rfl
@[simp] theorem State.modCtx_groups (s : State) (n : Nat) (f : CtxRun → CtxRun) : (s.modCtx n f).groups = s.groups := rfl
@[simp] theorem State.modCtx_colls (s : State) (n : Nat) (f : CtxRun → CtxRun) : (s.modCtx n f).colls = s.colls := rfl
@[simp] theorem State.modCtx_links (s : State) (n : Nat) (f : CtxRun → CtxRun) : (s.modCtx n f).links = s.links := rfl
@[simp] theorem State.modCtx_hosts (s : State) (n : Nat) (f : CtxRun → CtxRun) : (s.modCtx n f).hosts = s.hosts := rfl
@[simp] theorem State.modCtx_soot (s : State) (n : Nat) (f : CtxRun → CtxRun) : (s.modCtx n f).soot = s.soot := rfl
@[simp] theorem State.modCtx_board (s : State) (n : Nat) (f : CtxRun → CtxRun) : (s.modCtx n f).board = s.board := rfl
@[simp] theorem State.modCtx_outbox (s : State) (n : Nat) (f : CtxRun → CtxRun) : (s.modCtx n f).outbox = s.outbox := rfl
@[simp] theorem State.modCtx_free (s : State) (n : Nat) (f : CtxRun → CtxRun) : (s.modCtx n f).free = s.free := rfl
@[simp] theorem State.modCtx_at_reg (s : State) (n : Nat) (f : CtxRun → CtxRun) (k : Nat) : (s.modCtx n f).reg k = s.reg k := rfl
@[simp] theorem State.modCtx_at_fld (s : State) (n : Nat) (f : CtxRun → CtxRun) (k : Fld) : (s.modCtx n f).fld k = s.fld k := rfl
@[simp] theorem State.modCtx_at_flag (s : State) (n : Nat) (f : CtxRun → CtxRun) (k : Fld) : (s.modCtx n f).flag k = s.flag k := rfl
@[simp] theorem State.modCtx_at_role (s : State) (n : Nat) (f : CtxRun → CtxRun) (k : Nat) : (s.modCtx n f).role k = s.role k := rfl
@[simp] theorem State.modCtx_at_part (s : State) (n : Nat) (f : CtxRun → CtxRun) (k : Nat) : (s.modCtx n f).part k = s.part k := rfl
@[simp] theorem State.modCtx_at_cluster (s : State) (n : Nat) (f : CtxRun → CtxRun) (k : Nat) : (s.modCtx n f).cluster k = s.cluster k := rfl
@[simp] theorem State.modCtx_at_tile (s : State) (n : Nat) (f : CtxRun → CtxRun) (k : Nat) : (s.modCtx n f).tile k = s.tile k := rfl
@[simp] theorem State.modCtx_at_thread (s : State) (n : Nat) (f : CtxRun → CtxRun) (k : Nat) : (s.modCtx n f).thread k = s.thread k := rfl
@[simp] theorem State.modCtx_at_entry (s : State) (n : Nat) (f : CtxRun → CtxRun) (k : Nat) : (s.modCtx n f).entry k = s.entry k := rfl
@[simp] theorem State.modCtx_at_link (s : State) (n : Nat) (f : CtxRun → CtxRun) (k : Nat) : (s.modCtx n f).link k = s.link k := rfl
@[simp] theorem State.modCtx_at_host (s : State) (n : Nat) (f : CtxRun → CtxRun) (k : Nat) : (s.modCtx n f).host k = s.host k := rfl
@[simp] theorem State.modCtx_at_now (s : State) (n : Nat) (f : CtxRun → CtxRun) : (s.modCtx n f).now = s.now := rfl
@[simp] theorem State.modCtx_at_mark (s : State) (n : Nat) (f : CtxRun → CtxRun) : (s.modCtx n f).mark = s.mark := rfl
@[simp] theorem State.modCtx_at_stamp (s : State) (n : Nat) (f : CtxRun → CtxRun) : (s.modCtx n f).stamp = s.stamp := rfl
@[simp] theorem State.modCtx_at_cmd (s : State) (n : Nat) (f : CtxRun → CtxRun) (k : Nat) : (s.modCtx n f).cmd k = s.cmd k := rfl

/-! ## modThread -/

@[simp] theorem State.modThread_pending (s : State) (n : Nat) (f : Thread → Thread) : (s.modThread n f).pending = s.pending := rfl
@[simp] theorem State.modThread_time (s : State) (n : Nat) (f : Thread → Thread) : (s.modThread n f).time = s.time := rfl
@[simp] theorem State.modThread_regs (s : State) (n : Nat) (f : Thread → Thread) : (s.modThread n f).regs = s.regs := rfl
@[simp] theorem State.modThread_mem (s : State) (n : Nat) (f : Thread → Thread) : (s.modThread n f).mem = s.mem := rfl
@[simp] theorem State.modThread_ctxs (s : State) (n : Nat) (f : Thread → Thread) : (s.modThread n f).ctxs = s.ctxs := rfl
@[simp] theorem State.modThread_cmds (s : State) (n : Nat) (f : Thread → Thread) : (s.modThread n f).cmds = s.cmds := rfl
@[simp] theorem State.modThread_nextCid (s : State) (n : Nat) (f : Thread → Thread) : (s.modThread n f).nextCid = s.nextCid := rfl
@[simp] theorem State.modThread_xlat (s : State) (n : Nat) (f : Thread → Thread) : (s.modThread n f).xlat = s.xlat := rfl
@[simp] theorem State.modThread_loads (s : State) (n : Nat) (f : Thread → Thread) : (s.modThread n f).loads = s.loads := rfl
@[simp] theorem State.modThread_parts (s : State) (n : Nat) (f : Thread → Thread) : (s.modThread n f).parts = s.parts := rfl
@[simp] theorem State.modThread_clusters (s : State) (n : Nat) (f : Thread → Thread) : (s.modThread n f).clusters = s.clusters := rfl
@[simp] theorem State.modThread_tiles (s : State) (n : Nat) (f : Thread → Thread) : (s.modThread n f).tiles = s.tiles := rfl
@[simp] theorem State.modThread_inflight (s : State) (n : Nat) (f : Thread → Thread) : (s.modThread n f).inflight = s.inflight := rfl
@[simp] theorem State.modThread_nextIf (s : State) (n : Nat) (f : Thread → Thread) : (s.modThread n f).nextIf = s.nextIf := rfl
@[simp] theorem State.modThread_table (s : State) (n : Nat) (f : Thread → Thread) : (s.modThread n f).table = s.table := rfl
@[simp] theorem State.modThread_reqs (s : State) (n : Nat) (f : Thread → Thread) : (s.modThread n f).reqs = s.reqs := rfl
@[simp] theorem State.modThread_steps (s : State) (n : Nat) (f : Thread → Thread) : (s.modThread n f).steps = s.steps := rfl
@[simp] theorem State.modThread_jobs (s : State) (n : Nat) (f : Thread → Thread) : (s.modThread n f).jobs = s.jobs := rfl
@[simp] theorem State.modThread_groups (s : State) (n : Nat) (f : Thread → Thread) : (s.modThread n f).groups = s.groups := rfl
@[simp] theorem State.modThread_colls (s : State) (n : Nat) (f : Thread → Thread) : (s.modThread n f).colls = s.colls := rfl
@[simp] theorem State.modThread_links (s : State) (n : Nat) (f : Thread → Thread) : (s.modThread n f).links = s.links := rfl
@[simp] theorem State.modThread_hosts (s : State) (n : Nat) (f : Thread → Thread) : (s.modThread n f).hosts = s.hosts := rfl
@[simp] theorem State.modThread_soot (s : State) (n : Nat) (f : Thread → Thread) : (s.modThread n f).soot = s.soot := rfl
@[simp] theorem State.modThread_board (s : State) (n : Nat) (f : Thread → Thread) : (s.modThread n f).board = s.board := rfl
@[simp] theorem State.modThread_outbox (s : State) (n : Nat) (f : Thread → Thread) : (s.modThread n f).outbox = s.outbox := rfl
@[simp] theorem State.modThread_free (s : State) (n : Nat) (f : Thread → Thread) : (s.modThread n f).free = s.free := rfl
@[simp] theorem State.modThread_at_reg (s : State) (n : Nat) (f : Thread → Thread) (k : Nat) : (s.modThread n f).reg k = s.reg k := rfl
@[simp] theorem State.modThread_at_fld (s : State) (n : Nat) (f : Thread → Thread) (k : Fld) : (s.modThread n f).fld k = s.fld k := rfl
@[simp] theorem State.modThread_at_flag (s : State) (n : Nat) (f : Thread → Thread) (k : Fld) : (s.modThread n f).flag k = s.flag k := rfl
@[simp] theorem State.modThread_at_role (s : State) (n : Nat) (f : Thread → Thread) (k : Nat) : (s.modThread n f).role k = s.role k := rfl
@[simp] theorem State.modThread_at_ctx (s : State) (n : Nat) (f : Thread → Thread) (k : Nat) : (s.modThread n f).ctx k = s.ctx k := rfl
@[simp] theorem State.modThread_at_part (s : State) (n : Nat) (f : Thread → Thread) (k : Nat) : (s.modThread n f).part k = s.part k := rfl
@[simp] theorem State.modThread_at_cluster (s : State) (n : Nat) (f : Thread → Thread) (k : Nat) : (s.modThread n f).cluster k = s.cluster k := rfl
@[simp] theorem State.modThread_at_tile (s : State) (n : Nat) (f : Thread → Thread) (k : Nat) : (s.modThread n f).tile k = s.tile k := rfl
@[simp] theorem State.modThread_at_entry (s : State) (n : Nat) (f : Thread → Thread) (k : Nat) : (s.modThread n f).entry k = s.entry k := rfl
@[simp] theorem State.modThread_at_link (s : State) (n : Nat) (f : Thread → Thread) (k : Nat) : (s.modThread n f).link k = s.link k := rfl
@[simp] theorem State.modThread_at_host (s : State) (n : Nat) (f : Thread → Thread) (k : Nat) : (s.modThread n f).host k = s.host k := rfl
@[simp] theorem State.modThread_at_now (s : State) (n : Nat) (f : Thread → Thread) : (s.modThread n f).now = s.now := rfl
@[simp] theorem State.modThread_at_mark (s : State) (n : Nat) (f : Thread → Thread) : (s.modThread n f).mark = s.mark := rfl
@[simp] theorem State.modThread_at_stamp (s : State) (n : Nat) (f : Thread → Thread) : (s.modThread n f).stamp = s.stamp := rfl
@[simp] theorem State.modThread_at_cmd (s : State) (n : Nat) (f : Thread → Thread) (k : Nat) : (s.modThread n f).cmd k = s.cmd k := rfl

/-! ## modBoard -/

@[simp] theorem State.modBoard_pending (s : State) (f : Board → Board) : (s.modBoard f).pending = s.pending := rfl
@[simp] theorem State.modBoard_time (s : State) (f : Board → Board) : (s.modBoard f).time = s.time := rfl
@[simp] theorem State.modBoard_regs (s : State) (f : Board → Board) : (s.modBoard f).regs = s.regs := rfl
@[simp] theorem State.modBoard_mem (s : State) (f : Board → Board) : (s.modBoard f).mem = s.mem := rfl
@[simp] theorem State.modBoard_ctxs (s : State) (f : Board → Board) : (s.modBoard f).ctxs = s.ctxs := rfl
@[simp] theorem State.modBoard_cmds (s : State) (f : Board → Board) : (s.modBoard f).cmds = s.cmds := rfl
@[simp] theorem State.modBoard_nextCid (s : State) (f : Board → Board) : (s.modBoard f).nextCid = s.nextCid := rfl
@[simp] theorem State.modBoard_xlat (s : State) (f : Board → Board) : (s.modBoard f).xlat = s.xlat := rfl
@[simp] theorem State.modBoard_loads (s : State) (f : Board → Board) : (s.modBoard f).loads = s.loads := rfl
@[simp] theorem State.modBoard_parts (s : State) (f : Board → Board) : (s.modBoard f).parts = s.parts := rfl
@[simp] theorem State.modBoard_clusters (s : State) (f : Board → Board) : (s.modBoard f).clusters = s.clusters := rfl
@[simp] theorem State.modBoard_tiles (s : State) (f : Board → Board) : (s.modBoard f).tiles = s.tiles := rfl
@[simp] theorem State.modBoard_threads (s : State) (f : Board → Board) : (s.modBoard f).threads = s.threads := rfl
@[simp] theorem State.modBoard_inflight (s : State) (f : Board → Board) : (s.modBoard f).inflight = s.inflight := rfl
@[simp] theorem State.modBoard_nextIf (s : State) (f : Board → Board) : (s.modBoard f).nextIf = s.nextIf := rfl
@[simp] theorem State.modBoard_table (s : State) (f : Board → Board) : (s.modBoard f).table = s.table := rfl
@[simp] theorem State.modBoard_reqs (s : State) (f : Board → Board) : (s.modBoard f).reqs = s.reqs := rfl
@[simp] theorem State.modBoard_steps (s : State) (f : Board → Board) : (s.modBoard f).steps = s.steps := rfl
@[simp] theorem State.modBoard_jobs (s : State) (f : Board → Board) : (s.modBoard f).jobs = s.jobs := rfl
@[simp] theorem State.modBoard_groups (s : State) (f : Board → Board) : (s.modBoard f).groups = s.groups := rfl
@[simp] theorem State.modBoard_colls (s : State) (f : Board → Board) : (s.modBoard f).colls = s.colls := rfl
@[simp] theorem State.modBoard_links (s : State) (f : Board → Board) : (s.modBoard f).links = s.links := rfl
@[simp] theorem State.modBoard_hosts (s : State) (f : Board → Board) : (s.modBoard f).hosts = s.hosts := rfl
@[simp] theorem State.modBoard_soot (s : State) (f : Board → Board) : (s.modBoard f).soot = s.soot := rfl
@[simp] theorem State.modBoard_outbox (s : State) (f : Board → Board) : (s.modBoard f).outbox = s.outbox := rfl
@[simp] theorem State.modBoard_free (s : State) (f : Board → Board) : (s.modBoard f).free = s.free := rfl
@[simp] theorem State.modBoard_at_reg (s : State) (f : Board → Board) (k : Nat) : (s.modBoard f).reg k = s.reg k := rfl
@[simp] theorem State.modBoard_at_fld (s : State) (f : Board → Board) (k : Fld) : (s.modBoard f).fld k = s.fld k := rfl
@[simp] theorem State.modBoard_at_flag (s : State) (f : Board → Board) (k : Fld) : (s.modBoard f).flag k = s.flag k := rfl
@[simp] theorem State.modBoard_at_role (s : State) (f : Board → Board) (k : Nat) : (s.modBoard f).role k = s.role k := rfl
@[simp] theorem State.modBoard_at_ctx (s : State) (f : Board → Board) (k : Nat) : (s.modBoard f).ctx k = s.ctx k := rfl
@[simp] theorem State.modBoard_at_part (s : State) (f : Board → Board) (k : Nat) : (s.modBoard f).part k = s.part k := rfl
@[simp] theorem State.modBoard_at_cluster (s : State) (f : Board → Board) (k : Nat) : (s.modBoard f).cluster k = s.cluster k := rfl
@[simp] theorem State.modBoard_at_tile (s : State) (f : Board → Board) (k : Nat) : (s.modBoard f).tile k = s.tile k := rfl
@[simp] theorem State.modBoard_at_thread (s : State) (f : Board → Board) (k : Nat) : (s.modBoard f).thread k = s.thread k := rfl
@[simp] theorem State.modBoard_at_entry (s : State) (f : Board → Board) (k : Nat) : (s.modBoard f).entry k = s.entry k := rfl
@[simp] theorem State.modBoard_at_link (s : State) (f : Board → Board) (k : Nat) : (s.modBoard f).link k = s.link k := rfl
@[simp] theorem State.modBoard_at_host (s : State) (f : Board → Board) (k : Nat) : (s.modBoard f).host k = s.host k := rfl
@[simp] theorem State.modBoard_at_now (s : State) (f : Board → Board) : (s.modBoard f).now = s.now := rfl
@[simp] theorem State.modBoard_at_mark (s : State) (f : Board → Board) : (s.modBoard f).mark = s.mark := rfl
@[simp] theorem State.modBoard_at_stamp (s : State) (f : Board → Board) : (s.modBoard f).stamp = s.stamp := rfl
@[simp] theorem State.modBoard_at_cmd (s : State) (f : Board → Board) (k : Nat) : (s.modBoard f).cmd k = s.cmd k := rfl

/-! ## modTime -/

@[simp] theorem State.modTime_pending (s : State) (f : TimeBase → TimeBase) : (s.modTime f).pending = s.pending := rfl
@[simp] theorem State.modTime_regs (s : State) (f : TimeBase → TimeBase) : (s.modTime f).regs = s.regs := rfl
@[simp] theorem State.modTime_mem (s : State) (f : TimeBase → TimeBase) : (s.modTime f).mem = s.mem := rfl
@[simp] theorem State.modTime_ctxs (s : State) (f : TimeBase → TimeBase) : (s.modTime f).ctxs = s.ctxs := rfl
@[simp] theorem State.modTime_cmds (s : State) (f : TimeBase → TimeBase) : (s.modTime f).cmds = s.cmds := rfl
@[simp] theorem State.modTime_nextCid (s : State) (f : TimeBase → TimeBase) : (s.modTime f).nextCid = s.nextCid := rfl
@[simp] theorem State.modTime_xlat (s : State) (f : TimeBase → TimeBase) : (s.modTime f).xlat = s.xlat := rfl
@[simp] theorem State.modTime_loads (s : State) (f : TimeBase → TimeBase) : (s.modTime f).loads = s.loads := rfl
@[simp] theorem State.modTime_parts (s : State) (f : TimeBase → TimeBase) : (s.modTime f).parts = s.parts := rfl
@[simp] theorem State.modTime_clusters (s : State) (f : TimeBase → TimeBase) : (s.modTime f).clusters = s.clusters := rfl
@[simp] theorem State.modTime_tiles (s : State) (f : TimeBase → TimeBase) : (s.modTime f).tiles = s.tiles := rfl
@[simp] theorem State.modTime_threads (s : State) (f : TimeBase → TimeBase) : (s.modTime f).threads = s.threads := rfl
@[simp] theorem State.modTime_inflight (s : State) (f : TimeBase → TimeBase) : (s.modTime f).inflight = s.inflight := rfl
@[simp] theorem State.modTime_nextIf (s : State) (f : TimeBase → TimeBase) : (s.modTime f).nextIf = s.nextIf := rfl
@[simp] theorem State.modTime_table (s : State) (f : TimeBase → TimeBase) : (s.modTime f).table = s.table := rfl
@[simp] theorem State.modTime_reqs (s : State) (f : TimeBase → TimeBase) : (s.modTime f).reqs = s.reqs := rfl
@[simp] theorem State.modTime_steps (s : State) (f : TimeBase → TimeBase) : (s.modTime f).steps = s.steps := rfl
@[simp] theorem State.modTime_jobs (s : State) (f : TimeBase → TimeBase) : (s.modTime f).jobs = s.jobs := rfl
@[simp] theorem State.modTime_groups (s : State) (f : TimeBase → TimeBase) : (s.modTime f).groups = s.groups := rfl
@[simp] theorem State.modTime_colls (s : State) (f : TimeBase → TimeBase) : (s.modTime f).colls = s.colls := rfl
@[simp] theorem State.modTime_links (s : State) (f : TimeBase → TimeBase) : (s.modTime f).links = s.links := rfl
@[simp] theorem State.modTime_hosts (s : State) (f : TimeBase → TimeBase) : (s.modTime f).hosts = s.hosts := rfl
@[simp] theorem State.modTime_soot (s : State) (f : TimeBase → TimeBase) : (s.modTime f).soot = s.soot := rfl
@[simp] theorem State.modTime_board (s : State) (f : TimeBase → TimeBase) : (s.modTime f).board = s.board := rfl
@[simp] theorem State.modTime_outbox (s : State) (f : TimeBase → TimeBase) : (s.modTime f).outbox = s.outbox := rfl
@[simp] theorem State.modTime_free (s : State) (f : TimeBase → TimeBase) : (s.modTime f).free = s.free := rfl
@[simp] theorem State.modTime_at_reg (s : State) (f : TimeBase → TimeBase) (k : Nat) : (s.modTime f).reg k = s.reg k := rfl
@[simp] theorem State.modTime_at_fld (s : State) (f : TimeBase → TimeBase) (k : Fld) : (s.modTime f).fld k = s.fld k := rfl
@[simp] theorem State.modTime_at_flag (s : State) (f : TimeBase → TimeBase) (k : Fld) : (s.modTime f).flag k = s.flag k := rfl
@[simp] theorem State.modTime_at_role (s : State) (f : TimeBase → TimeBase) (k : Nat) : (s.modTime f).role k = s.role k := rfl
@[simp] theorem State.modTime_at_ctx (s : State) (f : TimeBase → TimeBase) (k : Nat) : (s.modTime f).ctx k = s.ctx k := rfl
@[simp] theorem State.modTime_at_part (s : State) (f : TimeBase → TimeBase) (k : Nat) : (s.modTime f).part k = s.part k := rfl
@[simp] theorem State.modTime_at_cluster (s : State) (f : TimeBase → TimeBase) (k : Nat) : (s.modTime f).cluster k = s.cluster k := rfl
@[simp] theorem State.modTime_at_tile (s : State) (f : TimeBase → TimeBase) (k : Nat) : (s.modTime f).tile k = s.tile k := rfl
@[simp] theorem State.modTime_at_thread (s : State) (f : TimeBase → TimeBase) (k : Nat) : (s.modTime f).thread k = s.thread k := rfl
@[simp] theorem State.modTime_at_entry (s : State) (f : TimeBase → TimeBase) (k : Nat) : (s.modTime f).entry k = s.entry k := rfl
@[simp] theorem State.modTime_at_link (s : State) (f : TimeBase → TimeBase) (k : Nat) : (s.modTime f).link k = s.link k := rfl
@[simp] theorem State.modTime_at_host (s : State) (f : TimeBase → TimeBase) (k : Nat) : (s.modTime f).host k = s.host k := rfl
@[simp] theorem State.modTime_at_cmd (s : State) (f : TimeBase → TimeBase) (k : Nat) : (s.modTime f).cmd k = s.cmd k := rfl

/-! ## modCmd -/

@[simp] theorem State.modCmd_pending (s : State) (n : Nat) (f : Cmd → Cmd) : (s.modCmd n f).pending = s.pending := rfl
@[simp] theorem State.modCmd_time (s : State) (n : Nat) (f : Cmd → Cmd) : (s.modCmd n f).time = s.time := rfl
@[simp] theorem State.modCmd_regs (s : State) (n : Nat) (f : Cmd → Cmd) : (s.modCmd n f).regs = s.regs := rfl
@[simp] theorem State.modCmd_mem (s : State) (n : Nat) (f : Cmd → Cmd) : (s.modCmd n f).mem = s.mem := rfl
@[simp] theorem State.modCmd_ctxs (s : State) (n : Nat) (f : Cmd → Cmd) : (s.modCmd n f).ctxs = s.ctxs := rfl
@[simp] theorem State.modCmd_nextCid (s : State) (n : Nat) (f : Cmd → Cmd) : (s.modCmd n f).nextCid = s.nextCid := rfl
@[simp] theorem State.modCmd_xlat (s : State) (n : Nat) (f : Cmd → Cmd) : (s.modCmd n f).xlat = s.xlat := rfl
@[simp] theorem State.modCmd_loads (s : State) (n : Nat) (f : Cmd → Cmd) : (s.modCmd n f).loads = s.loads := rfl
@[simp] theorem State.modCmd_parts (s : State) (n : Nat) (f : Cmd → Cmd) : (s.modCmd n f).parts = s.parts := rfl
@[simp] theorem State.modCmd_clusters (s : State) (n : Nat) (f : Cmd → Cmd) : (s.modCmd n f).clusters = s.clusters := rfl
@[simp] theorem State.modCmd_tiles (s : State) (n : Nat) (f : Cmd → Cmd) : (s.modCmd n f).tiles = s.tiles := rfl
@[simp] theorem State.modCmd_threads (s : State) (n : Nat) (f : Cmd → Cmd) : (s.modCmd n f).threads = s.threads := rfl
@[simp] theorem State.modCmd_inflight (s : State) (n : Nat) (f : Cmd → Cmd) : (s.modCmd n f).inflight = s.inflight := rfl
@[simp] theorem State.modCmd_nextIf (s : State) (n : Nat) (f : Cmd → Cmd) : (s.modCmd n f).nextIf = s.nextIf := rfl
@[simp] theorem State.modCmd_table (s : State) (n : Nat) (f : Cmd → Cmd) : (s.modCmd n f).table = s.table := rfl
@[simp] theorem State.modCmd_reqs (s : State) (n : Nat) (f : Cmd → Cmd) : (s.modCmd n f).reqs = s.reqs := rfl
@[simp] theorem State.modCmd_steps (s : State) (n : Nat) (f : Cmd → Cmd) : (s.modCmd n f).steps = s.steps := rfl
@[simp] theorem State.modCmd_jobs (s : State) (n : Nat) (f : Cmd → Cmd) : (s.modCmd n f).jobs = s.jobs := rfl
@[simp] theorem State.modCmd_groups (s : State) (n : Nat) (f : Cmd → Cmd) : (s.modCmd n f).groups = s.groups := rfl
@[simp] theorem State.modCmd_colls (s : State) (n : Nat) (f : Cmd → Cmd) : (s.modCmd n f).colls = s.colls := rfl
@[simp] theorem State.modCmd_links (s : State) (n : Nat) (f : Cmd → Cmd) : (s.modCmd n f).links = s.links := rfl
@[simp] theorem State.modCmd_hosts (s : State) (n : Nat) (f : Cmd → Cmd) : (s.modCmd n f).hosts = s.hosts := rfl
@[simp] theorem State.modCmd_soot (s : State) (n : Nat) (f : Cmd → Cmd) : (s.modCmd n f).soot = s.soot := rfl
@[simp] theorem State.modCmd_board (s : State) (n : Nat) (f : Cmd → Cmd) : (s.modCmd n f).board = s.board := rfl
@[simp] theorem State.modCmd_outbox (s : State) (n : Nat) (f : Cmd → Cmd) : (s.modCmd n f).outbox = s.outbox := rfl
@[simp] theorem State.modCmd_free (s : State) (n : Nat) (f : Cmd → Cmd) : (s.modCmd n f).free = s.free := rfl
@[simp] theorem State.modCmd_at_reg (s : State) (n : Nat) (f : Cmd → Cmd) (k : Nat) : (s.modCmd n f).reg k = s.reg k := rfl
@[simp] theorem State.modCmd_at_fld (s : State) (n : Nat) (f : Cmd → Cmd) (k : Fld) : (s.modCmd n f).fld k = s.fld k := rfl
@[simp] theorem State.modCmd_at_flag (s : State) (n : Nat) (f : Cmd → Cmd) (k : Fld) : (s.modCmd n f).flag k = s.flag k := rfl
@[simp] theorem State.modCmd_at_role (s : State) (n : Nat) (f : Cmd → Cmd) (k : Nat) : (s.modCmd n f).role k = s.role k := rfl
@[simp] theorem State.modCmd_at_ctx (s : State) (n : Nat) (f : Cmd → Cmd) (k : Nat) : (s.modCmd n f).ctx k = s.ctx k := rfl
@[simp] theorem State.modCmd_at_part (s : State) (n : Nat) (f : Cmd → Cmd) (k : Nat) : (s.modCmd n f).part k = s.part k := rfl
@[simp] theorem State.modCmd_at_cluster (s : State) (n : Nat) (f : Cmd → Cmd) (k : Nat) : (s.modCmd n f).cluster k = s.cluster k := rfl
@[simp] theorem State.modCmd_at_tile (s : State) (n : Nat) (f : Cmd → Cmd) (k : Nat) : (s.modCmd n f).tile k = s.tile k := rfl
@[simp] theorem State.modCmd_at_thread (s : State) (n : Nat) (f : Cmd → Cmd) (k : Nat) : (s.modCmd n f).thread k = s.thread k := rfl
@[simp] theorem State.modCmd_at_entry (s : State) (n : Nat) (f : Cmd → Cmd) (k : Nat) : (s.modCmd n f).entry k = s.entry k := rfl
@[simp] theorem State.modCmd_at_link (s : State) (n : Nat) (f : Cmd → Cmd) (k : Nat) : (s.modCmd n f).link k = s.link k := rfl
@[simp] theorem State.modCmd_at_host (s : State) (n : Nat) (f : Cmd → Cmd) (k : Nat) : (s.modCmd n f).host k = s.host k := rfl
@[simp] theorem State.modCmd_at_now (s : State) (n : Nat) (f : Cmd → Cmd) : (s.modCmd n f).now = s.now := rfl
@[simp] theorem State.modCmd_at_mark (s : State) (n : Nat) (f : Cmd → Cmd) : (s.modCmd n f).mark = s.mark := rfl
@[simp] theorem State.modCmd_at_stamp (s : State) (n : Nat) (f : Cmd → Cmd) : (s.modCmd n f).stamp = s.stamp := rfl

/-! ## dropCmd -/

@[simp] theorem State.dropCmd_pending (s : State) (n : Nat) : (s.dropCmd n).pending = s.pending := rfl
@[simp] theorem State.dropCmd_time (s : State) (n : Nat) : (s.dropCmd n).time = s.time := rfl
@[simp] theorem State.dropCmd_regs (s : State) (n : Nat) : (s.dropCmd n).regs = s.regs := rfl
@[simp] theorem State.dropCmd_mem (s : State) (n : Nat) : (s.dropCmd n).mem = s.mem := rfl
@[simp] theorem State.dropCmd_ctxs (s : State) (n : Nat) : (s.dropCmd n).ctxs = s.ctxs := rfl
@[simp] theorem State.dropCmd_nextCid (s : State) (n : Nat) : (s.dropCmd n).nextCid = s.nextCid := rfl
@[simp] theorem State.dropCmd_xlat (s : State) (n : Nat) : (s.dropCmd n).xlat = s.xlat := rfl
@[simp] theorem State.dropCmd_loads (s : State) (n : Nat) : (s.dropCmd n).loads = s.loads := rfl
@[simp] theorem State.dropCmd_parts (s : State) (n : Nat) : (s.dropCmd n).parts = s.parts := rfl
@[simp] theorem State.dropCmd_clusters (s : State) (n : Nat) : (s.dropCmd n).clusters = s.clusters := rfl
@[simp] theorem State.dropCmd_tiles (s : State) (n : Nat) : (s.dropCmd n).tiles = s.tiles := rfl
@[simp] theorem State.dropCmd_threads (s : State) (n : Nat) : (s.dropCmd n).threads = s.threads := rfl
@[simp] theorem State.dropCmd_inflight (s : State) (n : Nat) : (s.dropCmd n).inflight = s.inflight := rfl
@[simp] theorem State.dropCmd_nextIf (s : State) (n : Nat) : (s.dropCmd n).nextIf = s.nextIf := rfl
@[simp] theorem State.dropCmd_table (s : State) (n : Nat) : (s.dropCmd n).table = s.table := rfl
@[simp] theorem State.dropCmd_reqs (s : State) (n : Nat) : (s.dropCmd n).reqs = s.reqs := rfl
@[simp] theorem State.dropCmd_steps (s : State) (n : Nat) : (s.dropCmd n).steps = s.steps := rfl
@[simp] theorem State.dropCmd_jobs (s : State) (n : Nat) : (s.dropCmd n).jobs = s.jobs := rfl
@[simp] theorem State.dropCmd_groups (s : State) (n : Nat) : (s.dropCmd n).groups = s.groups := rfl
@[simp] theorem State.dropCmd_colls (s : State) (n : Nat) : (s.dropCmd n).colls = s.colls := rfl
@[simp] theorem State.dropCmd_links (s : State) (n : Nat) : (s.dropCmd n).links = s.links := rfl
@[simp] theorem State.dropCmd_hosts (s : State) (n : Nat) : (s.dropCmd n).hosts = s.hosts := rfl
@[simp] theorem State.dropCmd_soot (s : State) (n : Nat) : (s.dropCmd n).soot = s.soot := rfl
@[simp] theorem State.dropCmd_board (s : State) (n : Nat) : (s.dropCmd n).board = s.board := rfl
@[simp] theorem State.dropCmd_outbox (s : State) (n : Nat) : (s.dropCmd n).outbox = s.outbox := rfl
@[simp] theorem State.dropCmd_free (s : State) (n : Nat) : (s.dropCmd n).free = s.free := rfl
@[simp] theorem State.dropCmd_at_reg (s : State) (n : Nat) (k : Nat) : (s.dropCmd n).reg k = s.reg k := rfl
@[simp] theorem State.dropCmd_at_fld (s : State) (n : Nat) (k : Fld) : (s.dropCmd n).fld k = s.fld k := rfl
@[simp] theorem State.dropCmd_at_flag (s : State) (n : Nat) (k : Fld) : (s.dropCmd n).flag k = s.flag k := rfl
@[simp] theorem State.dropCmd_at_role (s : State) (n : Nat) (k : Nat) : (s.dropCmd n).role k = s.role k := rfl
@[simp] theorem State.dropCmd_at_ctx (s : State) (n : Nat) (k : Nat) : (s.dropCmd n).ctx k = s.ctx k := rfl
@[simp] theorem State.dropCmd_at_part (s : State) (n : Nat) (k : Nat) : (s.dropCmd n).part k = s.part k := rfl
@[simp] theorem State.dropCmd_at_cluster (s : State) (n : Nat) (k : Nat) : (s.dropCmd n).cluster k = s.cluster k := rfl
@[simp] theorem State.dropCmd_at_tile (s : State) (n : Nat) (k : Nat) : (s.dropCmd n).tile k = s.tile k := rfl
@[simp] theorem State.dropCmd_at_thread (s : State) (n : Nat) (k : Nat) : (s.dropCmd n).thread k = s.thread k := rfl
@[simp] theorem State.dropCmd_at_entry (s : State) (n : Nat) (k : Nat) : (s.dropCmd n).entry k = s.entry k := rfl
@[simp] theorem State.dropCmd_at_link (s : State) (n : Nat) (k : Nat) : (s.dropCmd n).link k = s.link k := rfl
@[simp] theorem State.dropCmd_at_host (s : State) (n : Nat) (k : Nat) : (s.dropCmd n).host k = s.host k := rfl
@[simp] theorem State.dropCmd_at_now (s : State) (n : Nat) : (s.dropCmd n).now = s.now := rfl
@[simp] theorem State.dropCmd_at_mark (s : State) (n : Nat) : (s.dropCmd n).mark = s.mark := rfl
@[simp] theorem State.dropCmd_at_stamp (s : State) (n : Nat) : (s.dropCmd n).stamp = s.stamp := rfl

end Sys2Proof.Machine
end

