-- ==== Sys2Proof/Laws/Access.lean ====
section
/-!
SUPPORT. Access.lean: reading what was written, for the register file, its fields, the tables and the memory.
-/
namespace Sys2Proof.Machine
open Sys2Proof.Config

/-! ## Registers -/

theorem State.Inv.rising {s : State} (h : s.Inv) : trising 0 s.regs := (regsOk_iff.mp h.regs).1

theorem State.reg_setReg_same {s : State} (h : s.Inv) (o : Nat) (v : Word) : (s.setReg o v).reg o = v :=
  tget_tset_same _ o v h.rising

theorem State.reg_setReg_ne {s : State} (h : s.Inv) {o k : Nat} (v : Word) (hk : k ≠ o) :
    (s.setReg o v).reg k = s.reg k := tget_tset_ne _ _ v hk h.rising

theorem State.fld_setReg_ne {s : State} (h : s.Inv) {o : Nat} {f : Fld} (v : Word) (hk : f.off ≠ o) :
    (s.setReg o v).fld f = s.fld f := by unfold State.fld; rw [State.reg_setReg_ne h v hk]

theorem State.reg_setFld_same {s : State} (h : s.Inv) (f : Fld) (x : Nat) :
    (s.setFld f x).reg f.off = putBits (s.reg f.off) f.lo f.w x := State.reg_setReg_same h _ _

theorem State.reg_setFld_ne {s : State} (h : s.Inv) {f : Fld} {k : Nat} (x : Nat) (hk : k ≠ f.off) :
    (s.setFld f x).reg k = s.reg k := State.reg_setReg_ne h _ hk

/-- A field of another register keeps its value. -/
theorem State.fld_setFld_ne {s : State} (h : s.Inv) {f g : Fld} (x : Nat) (hk : g.off ≠ f.off) :
    (s.setFld f x).fld g = s.fld g := State.fld_setReg_ne h _ hk

theorem putBits_testBit (v : Word) {lo w : Nat} (x i : Nat) (hw : lo + w ≤ 64) :
    (putBits v lo w x).toNat.testBit i =
      if lo ≤ i ∧ i < lo + w then x.testBit (i - lo) else v.toNat.testBit i := by
  have hm : ∀ j, ((2 ^ w - 1) * 2 ^ lo).testBit j = decide (lo ≤ j ∧ j < lo + w) := by
    intro j
    rw [Nat.testBit_mul_two_pow, Nat.testBit_two_pow_sub_one]
    by_cases h1 : lo ≤ j
    · simp [h1]
      omega
    · simp [h1]
  have hx : ∀ j, (x % 2 ^ w * 2 ^ lo).testBit j = (decide (lo ≤ j ∧ j < lo + w) && x.testBit (j - lo)) := by
    intro j
    rw [Nat.testBit_mul_two_pow, Nat.testBit_mod_two_pow]
    by_cases h1 : lo ≤ j
    · by_cases h2 : j < lo + w
      · have : j - lo < w := by omega
        simp [h1, h2, this]
      · have : ¬ j - lo < w := by omega
        simp [h1, h2, this]
    · simp [h1]
  rw [BitVec.testBit_toNat]
  unfold putBits
  by_cases hi : i < 64
  · simp only [BitVec.getLsbD_or, BitVec.getLsbD_and, BitVec.getLsbD_not, BitVec.getLsbD_ofNat, hm, hx, hi, decide_true,
      Bool.true_and, BitVec.testBit_toNat]
    by_cases hc : lo ≤ i ∧ i < lo + w <;> simp [hc]
  · have hc : ¬ (lo ≤ i ∧ i < lo + w) := by omega
    simp only [BitVec.getLsbD_or, BitVec.getLsbD_and, BitVec.getLsbD_ofNat, hi, decide_false, Bool.false_and, Bool.or_false,
      if_neg hc, BitVec.testBit_toNat]
    have hv : v.getLsbD i = false := BitVec.getLsbD_of_ge _ _ (Nat.le_of_not_lt hi)
    simp [hv]

theorem bits_testBit (v lo w i : Nat) : (bits v lo w).testBit i = (decide (i < w) && v.testBit (lo + i)) := by
  unfold bits
  rw [Nat.testBit_mod_two_pow, Nat.testBit_shiftRight]

/-- A field written reads back modulo its width. -/
theorem State.fld_setFld_same {s : State} (h : s.Inv) (f : Fld) (x : Nat) (hw : f.lo + f.w ≤ 64) :
    (s.setFld f x).fld f = x % 2 ^ f.w := by
  unfold State.fld
  rw [State.reg_setFld_same h]
  apply Nat.eq_of_testBit_eq
  intro i
  rw [bits_testBit, putBits_testBit _ _ _ hw, Nat.testBit_mod_two_pow]
  by_cases hi : i < f.w
  · have h2 : f.lo ≤ f.lo + i ∧ f.lo + i < f.lo + f.w := by omega
    have h3 : f.lo + i - f.lo = i := by omega
    rw [if_pos h2, h3]
  · simp [hi]

/-- A field of the same register at other bits keeps its value. -/
theorem State.fld_setFld_apart {s : State} (h : s.Inv) (f g : Fld) (x : Nat) (hw : f.lo + f.w ≤ 64)
    (hg : g.lo + g.w ≤ f.lo ∨ f.lo + f.w ≤ g.lo) : (s.setFld f x).fld g = s.fld g := by
  by_cases ho : g.off = f.off
  · unfold State.fld
    rw [ho, State.reg_setFld_same h]
    apply Nat.eq_of_testBit_eq
    intro i
    rw [bits_testBit, bits_testBit, putBits_testBit _ _ _ hw]
    by_cases hi : i < g.w
    · rw [if_neg (by omega)]
    · simp [hi]
  · exact State.fld_setFld_ne h x ho

/-! ## Tables -/

theorem tget_tset_twf {α : Type} [DecidableEq α] {d : α} {t : List (Nat × α)} (h : twf d t = true) (k j : Nat) (v : α) :
    tget d (tset d t k v) j = if j = k then v else tget d t j := by
  have hr := twfFrom_rising d h
  by_cases hj : j = k
  · rw [if_pos hj, hj]; exact tget_tset_same d k v hr
  · rw [if_neg hj]; exact tget_tset_ne d d v hj hr

theorem State.ctx_setCtx {s : State} (h : s.Inv) (n k : Nat) (x : CtxRun) :
    (s.setCtx n x).ctx k = if k = n then x else s.ctx k := tget_tset_twf h.ctxs n k x
theorem State.part_setPart {s : State} (h : s.Inv) (n k : Nat) (x : Part) :
    (s.setPart n x).part k = if k = n then x else s.part k := tget_tset_twf h.parts n k x
theorem State.cluster_setCluster {s : State} (h : s.Inv) (n k : Nat) (x : Cluster) :
    (s.setCluster n x).cluster k = if k = n then x else s.cluster k := tget_tset_twf h.clusters n k x
theorem State.tile_setTile {s : State} (h : s.Inv) (n k : Nat) (x : Tile) :
    (s.setTile n x).tile k = if k = n then x else s.tile k := tget_tset_twf h.tiles n k x
theorem State.thread_setThread {s : State} (h : s.Inv) (n k : Nat) (x : Thread) :
    (s.setThread n x).thread k = if k = n then x else s.thread k := tget_tset_twf h.threads n k x
theorem State.entry_setEntry {s : State} (h : s.Inv) (n k : Nat) (x : Sample) :
    (s.setEntry n x).entry k = if k = n then x else s.entry k := tget_tset_twf h.table n k x
theorem State.link_setLink {s : State} (h : s.Inv) (n k : Nat) (x : Link) :
    (s.setLink n x).link k = if k = n then x else s.link k := tget_tset_twf h.links n k x
theorem State.host_setHost {s : State} (h : s.Inv) (n k : Nat) (x : HostPort) :
    (s.setHost n x).host k = if k = n then x else s.host k := tget_tset_twf h.hosts n k x

/-! ## Memory -/

/-- Bytes written to a range are read back. -/
theorem State.readMem_writeMem {s : State} (h : s.Inv) (a : Nat) (d : List Byte) :
    (s.writeMem a d).readMem a d.length = d := readN_writeN d s.mem (s.key a) h.mem

/-- A write leaves the bytes outside it alone. -/
theorem State.read_writeMem_out {s : State} (h : s.Inv) (a j : Nat) (d : List Byte)
    (hj : j < s.key a ∨ s.key a + d.length ≤ j) : (s.writeMem a d).mem.read j = s.mem.read j :=
  read_writeN_out d s.mem (s.key a) j h.mem hj

end Sys2Proof.Machine
end

