-- ==== Sys2Proof/Laws/ChgOps.lean ====
section
/-!
SUPPORT. ChgOps.lean: the kinds of state that each operation of Ops.lean can change; each keeps the invariant.
-/

set_option Elab.async false
namespace Sys2Proof.Machine
open Sys2Proof.Config

theorem firstBad_none {l : List (Nat × Bool)} : firstBad l = none ↔ ∀ e ∈ l, e.2 = false := by
  unfold firstBad
  constructor
  · intro h e he
    split at h
    · rename_i hf
      have := List.filter_eq_nil_iff.mp hf e he
      simpa using this
    · cases h
  · intro h
    have : l.filter (fun e => e.2) = [] := List.filter_eq_nil_iff.mpr fun e he => by simp [h e he]
    rw [this]

/-- What acceptance says of every check of R124. -/
theorem verdict_accept {fmt len : List (Nat × Bool)} {perm zero state time cap : Bool} :
    verdict fmt perm len zero state time cap = .accept ↔
      firstBad fmt = none ∧ perm = true ∧ firstBad len = none ∧ zero = false ∧ state = true ∧ time = true ∧ cap = true := by
  unfold verdict
  cases firstBad fmt <;> cases perm <;> cases firstBad len <;> cases zero <;> cases state <;> cases time <;> cases cap <;>
    simp

theorem State.modPart_chg {m : Nat} (hm : Sub 512 m) {s t : State} (h : Chg m s t) (p : Nat) (f : Part → Part) : Chg m s (State.modPart t p f) := by
  unfold State.modPart
  repeat' first
    | with_reducible exact h
    | with_reducible assumption
    | with_reducible apply State.setPart_chg hm.le

theorem State.modCtx_chg {m : Nat} (hm : Sub 16 m) {s t : State} (h : Chg m s t) (n : Nat) (f : CtxRun → CtxRun) : Chg m s (State.modCtx t n f) := by
  unfold State.modCtx
  repeat' first
    | with_reducible exact h
    | with_reducible assumption
    | with_reducible apply State.setCtx_chg hm.le

theorem State.modThread_chg {m : Nat} (hm : Sub 4096 m) {s t : State} (h : Chg m s t) (t_ : Nat) (f : Thread → Thread) : Chg m s (State.modThread t t_ f) := by
  unfold State.modThread
  repeat' first
    | with_reducible exact h
    | with_reducible assumption
    | with_reducible apply State.setThread_chg hm.le

theorem State.drawn_chg {m : Nat} (hm : Sub 67108864 m) {s t : State} (h : Chg m s t) : Chg m s (State.drawn t) := by
  unfold State.drawn
  repeat' first
    | with_reducible exact h
    | with_reducible assumption
    | with_reducible refine Chg.mk ?_

theorem State.emit_chg {m : Nat} (hm : Sub 33554432 m) {s t : State} (h : Chg m s t) (o : Output) : Chg m s (State.emit t o) := by
  unfold State.emit
  repeat' first
    | with_reducible exact h
    | with_reducible assumption
    | with_reducible refine Chg.mk ?_

theorem State.toHost_chg {m : Nat} (hm : Sub 33554432 m) {s t : State} (h : Chg m s t) (n : Nat) (a : Nat) (d : List Byte) : Chg m s (State.toHost t n a d) := by
  unfold State.toHost
  try dsimp only
  repeat' first
    | with_reducible exact h
    | with_reducible assumption
    | with_reducible apply State.emit_chg hm.le
    | split

theorem State.fromHost_chg {m : Nat} (hm : Sub 33554432 m) {s t : State} (h : Chg m s t) (n : Nat) (a : Nat) (len : Nat) : Chg m s (State.fromHost t n a len) := by
  unfold State.fromHost
  try dsimp only
  repeat' first
    | with_reducible exact h
    | with_reducible assumption
    | with_reducible apply State.emit_chg hm.le
    | split

theorem State.aerErr_chg {m : Nat} (hm : Sub 4194304 m) {s t : State} (h : Chg m s t) (port : Nat) (i : Nat) : Chg m s (State.aerErr t port i) := by
  unfold State.aerErr
  repeat' first
    | with_reducible exact h
    | with_reducible assumption
    | with_reducible apply State.setHost_chg hm.le

theorem State.msix_chg {m : Nat} (hm : Sub 4194304 m) {s t : State} (h : Chg m s t) (port : Nat) (fn : Nat) (v : Nat) : Chg m s (State.msix t port fn v) := by
  unfold State.msix
  repeat' first
    | with_reducible exact h
    | with_reducible assumption
    | with_reducible apply State.setHost_chg hm.le

theorem State.signal_chg {m : Nat} (hm : Sub 37748736 m) {s t : State} (h : Chg m s t) (port : Nat) (fn : Nat) (v : Nat) : Chg m s (State.signal t port fn v) := by
  unfold State.signal
  repeat' first
    | with_reducible exact h
    | with_reducible assumption
    | with_reducible apply State.setHost_chg hm.le
    | with_reducible apply State.emit_chg hm.le
    | with_reducible apply Chg.ite

theorem State.signalPort_chg {m : Nat} (hm : Sub 37748736 m) {s t : State} (h : Chg m s t) (port : Nat) : Chg m s (State.signalPort t port) := by
  unfold State.signalPort
  try dsimp only
  repeat' first
    | with_reducible exact h
    | with_reducible assumption
    | with_reducible apply State.setHost_chg hm.le
    | with_reducible apply State.signal_chg hm.le
    | with_reducible refine Chg.foldl _ ?_ _ ?_
    | with_reducible refine Chg.foldlFst _ ?_ _ ?_
    | intro _ _ _

theorem State.signalDue_chg {m : Nat} (hm : Sub 37748736 m) {s t : State} (h : Chg m s t) : Chg m s (State.signalDue t) := by
  unfold State.signalDue
  repeat' first
    | with_reducible exact h
    | with_reducible assumption
    | with_reducible apply State.signalPort_chg hm.le

theorem State.hwSet_chg {m : Nat} (hm : Sub 4 m) {s t : State} (h : Chg m s t) (f : Fld) : Chg m s (State.hwSet t f) := by
  unfold State.hwSet
  repeat' first
    | with_reducible exact h
    | with_reducible assumption
    | with_reducible apply State.setReg_chg hm.le
    | with_reducible apply State.setFld_chg hm.le

theorem State.raise1_chg {m : Nat} (hm : Sub 4194308 m) {s t : State} (h : Chg m s t) (n : Nat) (v : Nat) : Chg m s (State.raise1 t n v) := by
  unfold State.raise1
  try dsimp only
  repeat' first
    | with_reducible exact h
    | with_reducible assumption
    | with_reducible apply State.msix_chg hm.le
    | with_reducible apply State.hwSet_chg hm.le
    | with_reducible apply Chg.ite

theorem State.raise_chg {m : Nat} (hm : Sub 4194308 m) {s t : State} (h : Chg m s t) (v : Nat) : Chg m s (State.raise t v) := by
  unfold State.raise
  repeat' first
    | with_reducible exact h
    | with_reducible assumption
    | with_reducible apply State.raise1_chg hm.le

theorem State.setEvt_chg {m : Nat} (hm : Sub 4194308 m) {s t : State} (h : Chg m s t) (f : Fld) (v : Nat) : Chg m s (State.setEvt t f v) := by
  unfold State.setEvt
  repeat' first
    | with_reducible exact h
    | with_reducible assumption
    | with_reducible apply State.hwSet_chg hm.le
    | with_reducible apply State.raise_chg hm.le

theorem State.soot1_chg {m : Nat} (hm : Sub 12582916 m) {s t : State} (h : Chg m s t) (kind : Nat) (source : Nat) (eflags : Nat) (ctx : Nat) (unit : Nat) (detail : List Byte) : Chg m s (State.soot1 t kind source eflags ctx unit detail) := by
  unfold State.soot1
  try dsimp only
  repeat' first
    | with_reducible exact h
    | with_reducible assumption
    | with_reducible apply State.setFld_chg hm.le
    | with_reducible apply State.raise_chg hm.le
    | with_reducible apply Chg.ite
    | split
    | with_reducible refine Chg.mk ?_

theorem State.l2Use_chg {m : Nat} (hm : Sub 512 m) {s t : State} (h : Chg m s t) (a : Nat) (n : Nat) : Chg m s (State.l2Use t a n) := by
  unfold State.l2Use
  try dsimp only
  repeat' first
    | with_reducible exact h
    | with_reducible assumption
    | with_reducible apply State.modPart_chg hm.le
    | with_reducible apply Chg.ite
    | split

theorem State.noteAgent_chg {m : Nat} (hm : Sub 512 m) {s t : State} (h : Chg m s t) (a : Nat) : Chg m s (State.noteAgent t a) := by
  unfold State.noteAgent
  try dsimp only
  repeat' first
    | with_reducible exact h
    | with_reducible assumption
    | with_reducible apply State.modPart_chg hm.le
    | split

theorem State.agentWrite_chg {m : Nat} (hm : Sub 520 m) {s t : State} (h : Chg m s t) (a : Nat) (d : List Byte) : Chg m s (State.agentWrite t a d) := by
  unfold State.agentWrite
  repeat' first
    | with_reducible exact h
    | with_reducible assumption
    | with_reducible apply State.writeMem_chg hm.le
    | with_reducible apply State.l2Use_chg hm.le
    | with_reducible apply State.noteAgent_chg hm.le

theorem State.writePieces_chg {m : Nat} (hm : Sub 33554952 m) {s : State} (perf : Option Nat) (flue : Bool) (n : Nat) :
    ∀ (l : List (Nat × Nat)) (d : List Byte) {t : State}, Chg m s t → Chg m s (State.writePieces t perf flue n l d)
  | [], _, _, h => h
  | (va, k) :: r, d, t, h => by
    unfold State.writePieces
    refine State.writePieces_chg hm.le perf flue n r _ ?_
    split
    · exact State.toHost_chg hm.le
        (Chg.ite (State.l2Use_chg hm.le (State.writeMem_chg hm.le h _ _) _ _) (State.agentWrite_chg hm.le h _ _)) _ _ _
    · exact h

theorem State.writeVirt_chg {m : Nat} (hm : Sub 33554952 m) {s t : State} (h : Chg m s t) (perf : Option Nat) (flue : Bool) (n : Nat) (va : Nat) (d : List Byte) : Chg m s (State.writeVirt t perf flue n va d) := by
  unfold State.writeVirt
  repeat' first
    | with_reducible exact h
    | with_reducible assumption
    | with_reducible apply State.writePieces_chg hm.le

theorem State.askHosts_chg {m : Nat} (hm : Sub 33554432 m) {s t : State} (h : Chg m s t) (perf : Option Nat) (flue : Bool) (n : Nat) (va : Nat) (len : Nat) : Chg m s (State.askHosts t perf flue n va len) := by
  unfold State.askHosts
  try dsimp only
  repeat' first
    | with_reducible exact h
    | with_reducible assumption
    | with_reducible apply State.fromHost_chg hm.le
    | with_reducible refine Chg.foldl _ ?_ _ ?_
    | with_reducible refine Chg.foldlFst _ ?_ _ ?_
    | split
    | intro _ _ _

theorem State.setCstate_chg {m : Nat} (hm : Sub 4 m) {s t : State} (h : Chg m s t) (n : Nat) (st : Nat) : Chg m s (State.setCstate t n st) := by
  unfold State.setCstate
  repeat' first
    | with_reducible exact h
    | with_reducible assumption
    | with_reducible apply State.setFld_chg hm.le

theorem State.releaseQueue_chg {m : Nat} (hm : Sub 48 m) {s t : State} (h : Chg m s t) (n : Nat) : Chg m s (State.releaseQueue t n) := by
  unfold State.releaseQueue
  try dsimp only
  repeat' first
    | with_reducible exact h
    | with_reducible assumption
    | with_reducible apply State.modCtx_chg hm.le
    | with_reducible refine Chg.mk ?_

theorem State.faultCtx_chg {m : Nat} (hm : Sub 4194356 m) {s t : State} (h : Chg m s t) (n : Nat) (st : Nat) : Chg m s (State.faultCtx t n st) := by
  unfold State.faultCtx
  repeat' first
    | with_reducible exact h
    | with_reducible assumption
    | with_reducible apply State.setFld_chg hm.le
    | with_reducible apply State.raise_chg hm.le
    | with_reducible apply State.setCstate_chg hm.le
    | with_reducible apply State.releaseQueue_chg hm.le
    | with_reducible apply Chg.ite

theorem State.ringWrite_chg {m : Nat} (hm : Sub 37749308 m) {s t : State} (h : Chg m s t) (n : Nat) (a : Nat) (d : List Byte) : Chg m s (State.ringWrite t n a d) := by
  unfold State.ringWrite
  try dsimp only
  repeat' first
    | with_reducible exact h
    | with_reducible assumption
    | with_reducible apply State.modCtx_chg hm.le
    | with_reducible apply State.toHost_chg hm.le
    | with_reducible apply State.writeMem_chg hm.le
    | with_reducible apply State.agentWrite_chg hm.le
    | with_reducible apply State.faultCtx_chg hm.le
    | with_reducible apply Chg.ite
    | split

theorem State.modCmd_chg {m : Nat} (hm : Sub 32 m) {s t : State} (h : Chg m s t) (cid : Nat) (f : Cmd → Cmd) : Chg m s (State.modCmd t cid f) := by
  unfold State.modCmd
  try dsimp only
  repeat' first
    | with_reducible exact h
    | with_reducible assumption
    | with_reducible refine Chg.mk ?_

theorem State.dropCmd_chg {m : Nat} (hm : Sub 32 m) {s t : State} (h : Chg m s t) (cid : Nat) : Chg m s (State.dropCmd t cid) := by
  unfold State.dropCmd
  try dsimp only
  repeat' first
    | with_reducible exact h
    | with_reducible assumption
    | with_reducible refine Chg.mk ?_

theorem State.postOne_chg {m : Nat} (hm : Sub 37749308 m) {s t : State} (h : Chg m s t) (c : Cmd) : Chg m s (State.postOne t c) := by
  unfold State.postOne
  try dsimp only
  repeat' first
    | with_reducible exact h
    | with_reducible assumption
    | with_reducible apply State.modCtx_chg hm.le
    | with_reducible apply State.msix_chg hm.le
    | with_reducible apply State.faultCtx_chg hm.le
    | with_reducible apply State.ringWrite_chg hm.le
    | with_reducible apply State.dropCmd_chg hm.le
    | with_reducible apply Chg.ite

theorem State.postUpTo_chg {m : Nat} (hm : Sub 37749308 m) {s : State} (n : Nat) : ∀ (k : Nat) {t : State}, Chg m s t → Chg m s (t.postUpTo n k)
  | 0, _, h => h
  | k + 1, t, h => by
    unfold State.postUpTo
    split
    · split
      · exact State.postUpTo_chg hm.le n k (State.postOne_chg hm.le h _)
      · exact h
    · exact h

theorem State.postReady_chg {m : Nat} (hm : Sub 37749308 m) {s t : State} (h : Chg m s t) (n : Nat) : Chg m s (State.postReady t n) := by
  unfold State.postReady
  repeat' first
    | with_reducible exact h
    | with_reducible assumption
    | with_reducible apply State.postUpTo_chg hm.le

theorem State.fenceDone_chg {m : Nat} (hm : Sub 32 m) {s t : State} (h : Chg m s t) (f : Cmd) : Chg m s (State.fenceDone t f) := by
  unfold State.fenceDone
  try dsimp only
  repeat' first
    | with_reducible exact h
    | with_reducible assumption
    | with_reducible apply State.modCmd_chg hm.le
    | with_reducible apply Chg.ite

theorem State.fencesDone_chg {m : Nat} (hm : Sub 32 m) {s t : State} (h : Chg m s t) (n : Nat) : Chg m s (State.fencesDone t n) := by
  unfold State.fencesDone
  try dsimp only
  repeat' first
    | with_reducible exact h
    | with_reducible assumption
    | with_reducible apply State.fenceDone_chg hm.le
    | with_reducible refine Chg.foldl _ ?_ _ ?_
    | with_reducible refine Chg.foldlFst _ ?_ _ ?_
    | intro _ _ _

theorem State.endCmd_chg {m : Nat} (hm : Sub 32 m) {s t : State} (h : Chg m s t) (cid : Nat) (status : Nat) (result : List Byte) (late : Bool) : Chg m s (State.endCmd t cid status result late) := by
  unfold State.endCmd
  try dsimp only
  repeat' first
    | with_reducible exact h
    | with_reducible assumption
    | with_reducible apply State.modCmd_chg hm.le

theorem State.postDone_chg {m : Nat} (hm : Sub 37749308 m) {s t : State} (h : Chg m s t) (n : Nat) : Chg m s (State.postDone t n) := by
  unfold State.postDone
  repeat' first
    | with_reducible exact h
    | with_reducible assumption
    | with_reducible apply State.postReady_chg hm.le
    | with_reducible apply State.fencesDone_chg hm.le

theorem State.finish_chg {m : Nat} (hm : Sub 37749308 m) {s t : State} (h : Chg m s t) (cid : Nat) (status : Nat) (result : List Byte) (late : Bool) : Chg m s (State.finish t cid status result late) := by
  unfold State.finish
  try dsimp only
  repeat' first
    | with_reducible exact h
    | with_reducible assumption
    | with_reducible apply State.endCmd_chg hm.le
    | with_reducible apply State.postDone_chg hm.le
    | with_reducible apply Chg.ite
    | split

theorem State.finishAll_chg {m : Nat} (hm : Sub 37749308 m) {s t : State} (h : Chg m s t) (status : Nat) (l : List Nat) : Chg m s (State.finishAll t status l) := by
  unfold State.finishAll
  try dsimp only
  repeat' first
    | with_reducible exact h
    | with_reducible assumption
    | with_reducible apply State.endCmd_chg hm.le
    | with_reducible apply State.postDone_chg hm.le
    | with_reducible refine Chg.foldl _ ?_ _ ?_
    | with_reducible refine Chg.foldlFst _ ?_ _ ?_
    | intro _ _ _

theorem State.waitLate_chg {m : Nat} (hm : Sub 32 m) {s t : State} (h : Chg m s t) (cid : Nat) (late : Nat) : Chg m s (State.waitLate t cid late) := by
  unfold State.waitLate
  try dsimp only
  repeat' first
    | with_reducible exact h
    | with_reducible assumption
    | with_reducible apply State.modCmd_chg hm.le
    | with_reducible apply Chg.ite

theorem State.rejectCmd_chg {m : Nat} (hm : Sub 32 m) {s t : State} (h : Chg m s t) (cid : Nat) (st : Nat) (off : Nat) : Chg m s (State.rejectCmd t cid st off) := by
  unfold State.rejectCmd
  try dsimp only
  repeat' first
    | with_reducible exact h
    | with_reducible assumption
    | with_reducible apply State.modCmd_chg hm.le

theorem State.waitCmd_chg {m : Nat} (hm : Sub 32 m) {s t : State} (h : Chg m s t) (cid : Nat) (status : Nat) (result : List Byte) : Chg m s (State.waitCmd t cid status result) := by
  unfold State.waitCmd
  try dsimp only
  repeat' first
    | with_reducible exact h
    | with_reducible assumption
    | with_reducible apply State.modCmd_chg hm.le

theorem State.settle_chg {m : Nat} (hm : Sub 32 m) {s t : State} (h : Chg m s t) (c : Cmd) (v : Verdict)
    (act : State → State) (ha : v = .accept → Chg m s (act t)) : Chg m s (State.settle t c v act) := by
  unfold State.settle
  split
  · exact State.rejectCmd_chg hm.le h _ _ _
  · exact State.waitCmd_chg hm.le h _ _ _
  · exact ha rfl

theorem State.triggerReset_chg {m : Nat} (hm : Sub 512 m) {s t : State} (h : Chg m s t) (p : Nat) (cause : Nat) : Chg m s (State.triggerReset t p cause) := by
  unfold State.triggerReset
  try dsimp only
  repeat' first
    | with_reducible exact h
    | with_reducible assumption
    | with_reducible apply State.setPart_chg hm.le
    | with_reducible apply Chg.ite

theorem State.triggerChip_chg {m : Nat} (hm : Sub 16777216 m) {s t : State} (h : Chg m s t) : Chg m s (State.triggerChip t) := by
  unfold State.triggerChip
  try dsimp only
  repeat' first
    | with_reducible exact h
    | with_reducible assumption
    | with_reducible apply State.modBoard_chg hm.le
    | with_reducible apply Chg.ite

theorem State.chipFault_chg {m : Nat} (hm : Sub 16777216 m) {s t : State} (h : Chg m s t) (deaf : Bool) : Chg m s (State.chipFault t deaf) := by
  unfold State.chipFault
  try dsimp only
  repeat' first
    | with_reducible exact h
    | with_reducible assumption
    | with_reducible apply State.modBoard_chg hm.le
    | with_reducible apply Chg.ite

end Sys2Proof.Machine
end

