-- ==== Sys2Proof/Laws/ChgAttestation.lean ====
section
/-!
SUPPORT. ChgAttestation.lean: the kinds of state that each operation of Attestation.lean can change; each keeps the invariant.
-/

set_option Elab.async false
namespace Sys2Proof.Machine
open Sys2Proof.Config

theorem State.answer_chg {m : Nat} (hm : Sub 4194304 m) {s t : State} (h : Chg m s t) (port : Nat) (marks : Nat) (msg : List Byte) : Chg m s (State.answer t port marks msg) := by
  unfold State.answer
  repeat' first
    | with_reducible exact h
    | with_reducible assumption
    | with_reducible apply State.setHost_chg hm.le

theorem execDoeDiscovery_chg {m : Nat} (hm : Sub 4194304 m) (s : State) (port : Nat) (index : Nat) : NextChg m s (execDoeDiscovery port index s) := by
  unfold execDoeDiscovery
  try dsimp only
  repeat' first
    | with_reducible exact Chg.refl _ _
    | with_reducible assumption
    | with_reducible refine NextChg.actHost ?_
    | with_reducible refine NextChg.act ?_
    | with_reducible refine NextChg.next ?_
    | with_reducible apply State.answer_chg hm.le
    | with_reducible apply Chg.ite

theorem State.spdmReq_chg {m : Nat} (hm : Sub 4194304 m) {s t : State} (h : Chg m s t) (port : Nat) (need : Nat) (f : State → Nat × List Byte × Nat) : Chg m s (State.spdmReq t port need f) := by
  unfold State.spdmReq
  try dsimp only
  repeat' first
    | with_reducible exact h
    | with_reducible assumption
    | with_reducible apply State.setHost_chg hm.le
    | with_reducible apply State.answer_chg hm.le
    | with_reducible apply Chg.ite

theorem execGetVersion_chg {m : Nat} (hm : Sub 4194304 m) (s : State) (port : Nat) : NextChg m s (execGetVersion port s) := by
  unfold execGetVersion
  try dsimp only
  repeat' first
    | with_reducible exact Chg.refl _ _
    | with_reducible assumption
    | with_reducible refine NextChg.actHost ?_
    | with_reducible refine NextChg.act ?_
    | with_reducible refine NextChg.next ?_
    | with_reducible apply State.spdmReq_chg hm.le

theorem execGetCapabilities_chg {m : Nat} (hm : Sub 4194304 m) (s : State) (port : Nat) : NextChg m s (execGetCapabilities port s) := by
  unfold execGetCapabilities
  try dsimp only
  repeat' first
    | with_reducible exact Chg.refl _ _
    | with_reducible assumption
    | with_reducible refine NextChg.actHost ?_
    | with_reducible refine NextChg.act ?_
    | with_reducible refine NextChg.next ?_
    | with_reducible apply State.spdmReq_chg hm.le

theorem execNegotiateAlgorithms_chg {m : Nat} (hm : Sub 4194304 m) (s : State) (port : Nat) : NextChg m s (execNegotiateAlgorithms port s) := by
  unfold execNegotiateAlgorithms
  try dsimp only
  repeat' first
    | with_reducible exact Chg.refl _ _
    | with_reducible assumption
    | with_reducible refine NextChg.actHost ?_
    | with_reducible refine NextChg.act ?_
    | with_reducible refine NextChg.next ?_
    | with_reducible apply State.spdmReq_chg hm.le

theorem execGetDigests_chg {m : Nat} (hm : Sub 4194304 m) (s : State) (port : Nat) : NextChg m s (execGetDigests port s) := by
  unfold execGetDigests
  try dsimp only
  repeat' first
    | with_reducible exact Chg.refl _ _
    | with_reducible assumption
    | with_reducible refine NextChg.actHost ?_
    | with_reducible refine NextChg.act ?_
    | with_reducible refine NextChg.next ?_
    | with_reducible apply State.spdmReq_chg hm.le

theorem execGetCertificate_chg {m : Nat} (hm : Sub 4194304 m) (s : State) (port : Nat) (slot : Nat) (off : Nat) (len : Nat) : NextChg m s (execGetCertificate port slot off len s) := by
  unfold execGetCertificate
  try dsimp only
  repeat' first
    | with_reducible exact Chg.refl _ _
    | with_reducible assumption
    | with_reducible refine NextChg.actHost ?_
    | with_reducible refine NextChg.act ?_
    | with_reducible refine NextChg.next ?_
    | with_reducible apply State.spdmReq_chg hm.le

theorem State.signedOnce_chg {m : Nat} (hm : Sub 16777216 m) {s t : State} (h : Chg m s t) : Chg m s (State.signedOnce t) := by
  unfold State.signedOnce
  try dsimp only
  repeat' first
    | with_reducible exact h
    | with_reducible assumption
    | with_reducible apply State.modBoard_chg hm.le

theorem execChallenge_chg {m : Nat} (hm : Sub 20971520 m) (s : State) (port : Nat) (slot : Nat) (_nonce : List Byte) : NextChg m s (execChallenge port slot _nonce s) := by
  unfold execChallenge
  try dsimp only
  repeat' first
    | with_reducible exact Chg.refl _ _
    | with_reducible assumption
    | with_reducible refine NextChg.actHost ?_
    | with_reducible refine NextChg.act ?_
    | with_reducible refine NextChg.next ?_
    | with_reducible apply State.spdmReq_chg hm.le
    | with_reducible apply State.signedOnce_chg hm.le
    | with_reducible apply Chg.ite

theorem execGetMeasurements_chg {m : Nat} (hm : Sub 20971520 m) (s : State) (port : Nat) (index : Nat) (slot : Nat) (signed : Bool) (_nonce : List Byte) : NextChg m s (execGetMeasurements port index slot signed _nonce s) := by
  unfold execGetMeasurements
  try dsimp only
  repeat' first
    | with_reducible exact Chg.refl _ _
    | with_reducible assumption
    | with_reducible refine NextChg.actHost ?_
    | with_reducible refine NextChg.act ?_
    | with_reducible refine NextChg.next ?_
    | with_reducible apply State.spdmReq_chg hm.le
    | with_reducible apply State.signedOnce_chg hm.le
    | with_reducible apply Chg.ite

theorem execDoeResponse_chg {m : Nat} (hm : Sub 37748736 m) (s : State) (port : Nat) : NextChg m s (execDoeResponse port s) := by
  unfold execDoeResponse
  try dsimp only
  repeat' first
    | with_reducible exact Chg.refl _ _
    | with_reducible assumption
    | with_reducible refine NextChg.actHost ?_
    | with_reducible refine NextChg.act ?_
    | with_reducible refine NextChg.next ?_
    | with_reducible apply State.setHost_chg hm.le
    | with_reducible apply State.emit_chg hm.le
    | with_reducible apply Chg.ite
    | split

theorem execDoeAbort_chg {m : Nat} (hm : Sub 4194304 m) (s : State) (port : Nat) : NextChg m s (execDoeAbort port s) := by
  unfold execDoeAbort
  repeat' first
    | with_reducible exact Chg.refl _ _
    | with_reducible assumption
    | with_reducible refine NextChg.actHost ?_
    | with_reducible refine NextChg.act ?_
    | with_reducible refine NextChg.next ?_
    | with_reducible apply State.setHost_chg hm.le

theorem State.doePush_chg {m : Nat} (hm : Sub 4194304 m) {s t : State} (h : Chg m s t) (port : Nat) (v : Word32) : Chg m s (State.doePush t port v) := by
  unfold State.doePush
  repeat' first
    | with_reducible exact h
    | with_reducible assumption
    | with_reducible apply State.setHost_chg hm.le

theorem State.spdmCode_chg {m : Nat} (hm : Sub 20971520 m) {s t : State} (h : Chg m s t) (port : Nat) (b : List Byte) :
    Chg m s (State.spdmCode t port b) :=
  Chg.ite (settled_chg h (execGetVersion_chg hm.le t port)) <|
  Chg.ite (settled_chg h (execGetCapabilities_chg hm.le t port)) <|
  Chg.ite (settled_chg h (execNegotiateAlgorithms_chg hm.le t port)) <|
  Chg.ite (settled_chg h (execGetDigests_chg hm.le t port)) <|
  Chg.ite (settled_chg h (execGetCertificate_chg hm.le t port _ _ _)) <|
  Chg.ite (settled_chg h (execChallenge_chg hm.le t port _ _)) <|
  Chg.ite (settled_chg h (execGetMeasurements_chg hm.le t port _ _ _ _)) <|
  Chg.ite (State.answer_chg hm.le h _ _ _) h

theorem State.doeBack_chg {m : Nat} (hm : Sub 4194304 m) {s t : State} (h : Chg m s t) (port : Nat) (d : Nat) : Chg m s (State.doeBack t port d) := by
  unfold State.doeBack
  try dsimp only
  repeat' first
    | with_reducible exact h
    | with_reducible assumption
    | with_reducible apply State.setHost_chg hm.le

theorem State.doeGo_chg {m : Nat} (hm : Sub 20971520 m) {s t : State} (h : Chg m s t) (port : Nat) : Chg m s (State.doeGo t port) := by
  unfold State.doeGo
  extract_lets b hp u w
  have hu : Chg m s u := State.setHost_chg hm.le h _ _
  clear_value u
  have hw : Chg m s w := Chg.ite (settled_chg hu (execDoeDiscovery_chg hm.le u port _)) (Chg.ite (State.spdmCode_chg hm.le hu _ _) hu)
  exact Chg.ite hu (State.doeBack_chg hm.le hw _ _)

end Sys2Proof.Machine
end

