-- ==== Sys2Proof/Laws/ChgFabric.lean ====
section
/-!
SUPPORT. ChgFabric.lean: the kinds of state that each operation of Fabric.lean can change; each keeps the invariant.
-/

set_option Elab.async false
namespace Sys2Proof.Machine
open Sys2Proof.Config

theorem State.keepWheel_chg {m : Nat} (hm : Sub 512 m) {s t : State} (h : Chg m s t) (p : Nat) : Chg m s (State.keepWheel t p) := by
  unfold State.keepWheel
  try dsimp only
  repeat' first
    | with_reducible exact h
    | with_reducible assumption
    | with_reducible apply State.modPart_chg hm.le

theorem State.tenantEnter_chg {m : Nat} (hm : Sub 512 m) {s t : State} (h : Chg m s t) (p : Nat) (ch : Nat) (key : Nat) (who : Waiter) : Chg m s (State.tenantEnter t p ch key who) := by
  unfold State.tenantEnter
  try dsimp only
  repeat' first
    | with_reducible exact h
    | with_reducible assumption
    | with_reducible apply State.modPart_chg hm.le

theorem State.cxlEnter_chg {m : Nat} (hm : Sub 512 m) {s t : State} (h : Chg m s t) (p : Nat) (q : Nat) (rd : Bool) (key : Nat) (lines : Nat) (who : Waiter) : Chg m s (State.cxlEnter t p q rd key lines who) := by
  unfold State.cxlEnter
  try dsimp only
  repeat' first
    | with_reducible exact h
    | with_reducible assumption
    | with_reducible apply State.modPart_chg hm.le

theorem State.cxlAgent_chg {m : Nat} (hm : Sub 512 m) {s t : State} (h : Chg m s t) (perf : Option Nat) (l : List (Nat × Nat)) (rd : Bool) : Chg m s (State.cxlAgent t perf l rd) := by
  unfold State.cxlAgent
  try dsimp only
  repeat' first
    | with_reducible exact h
    | with_reducible assumption
    | with_reducible apply State.cxlEnter_chg hm.le
    | with_reducible refine Chg.foldl _ ?_ _ ?_
    | with_reducible refine Chg.foldlFst _ ?_ _ ?_
    | split
    | intro _ _ _

theorem State.hostSlow_chg {m : Nat} (hm : Sub 12582916 m) {s t : State} (h : Chg m s t) (k : Nat) (who : Nat) (late : Nat) : Chg m s (State.hostSlow t k who late) := by
  unfold State.hostSlow
  repeat' first
    | with_reducible exact h
    | with_reducible assumption
    | with_reducible apply State.soot1_chg hm.le

theorem State.hostError_chg {m : Nat} (hm : Sub 12582916 m) {s t : State} (h : Chg m s t) (k : Nat) (n : Nat) (who : Nat) (status : Nat) : Chg m s (State.hostError t k n who status) := by
  unfold State.hostError
  repeat' first
    | with_reducible exact h
    | with_reducible assumption
    | with_reducible apply State.aerErr_chg hm.le
    | with_reducible apply State.hwSet_chg hm.le
    | with_reducible apply State.soot1_chg hm.le
    | with_reducible apply Chg.ite

theorem State.cxlSlowEvt_chg {m : Nat} (hm : Sub 12582916 m) {s t : State} (h : Chg m s t) (q : Nat) (late : Nat) : Chg m s (State.cxlSlowEvt t q late) := by
  unfold State.cxlSlowEvt
  repeat' first
    | with_reducible exact h
    | with_reducible assumption
    | with_reducible apply State.hwSet_chg hm.le
    | with_reducible apply State.raise_chg hm.le
    | with_reducible apply State.soot1_chg hm.le

theorem State.cxlMediaEvt_chg {m : Nat} (hm : Sub 12582916 m) {s t : State} (h : Chg m s t) (q : Nat) (pa : Nat) : Chg m s (State.cxlMediaEvt t q pa) := by
  unfold State.cxlMediaEvt
  repeat' first
    | with_reducible exact h
    | with_reducible assumption
    | with_reducible apply State.hwSet_chg hm.le
    | with_reducible apply State.raise_chg hm.le
    | with_reducible apply State.soot1_chg hm.le

theorem State.edcEvt_chg {m : Nat} (hm : Sub 4194308 m) {s t : State} (h : Chg m s t) (p : Nat) : Chg m s (State.edcEvt t p) := by
  unfold State.edcEvt
  repeat' first
    | with_reducible exact h
    | with_reducible assumption
    | with_reducible apply State.hwSet_chg hm.le
    | with_reducible apply State.raise_chg hm.le

theorem State.retryEvt_chg {m : Nat} (hm : Sub 4 m) {s t : State} (h : Chg m s t) (p : Nat) (k : Nat) : Chg m s (State.retryEvt t p k) := by
  unfold State.retryEvt
  repeat' first
    | with_reducible exact h
    | with_reducible assumption
    | with_reducible apply State.setFld_chg hm.le
    | with_reducible apply Chg.ite

theorem State.serveAgents_chg {m : Nat} (hm : Sub 67109380 m) {s t : State} (h : Chg m s t) : Chg m s (State.serveAgents t) := by
  unfold State.serveAgents
  try dsimp only
  repeat' first
    | with_reducible exact h
    | with_reducible assumption
    | with_reducible apply State.modPart_chg hm.le
    | with_reducible apply State.drawn_chg hm.le
    | with_reducible apply State.retryEvt_chg hm.le
    | with_reducible refine Chg.foldl _ ?_ _ ?_
    | with_reducible refine Chg.foldlFst _ ?_ _ ?_
    | with_reducible apply Chg.ite
    | split
    | intro _ _ _

theorem State.memUe_chg {m : Nat} (hm : Sub 12583428 m) {s t : State} (h : Chg m s t) (p : Nat) (off : Nat) : Chg m s (State.memUe t p off) := by
  unfold State.memUe
  try dsimp only
  repeat' first
    | with_reducible exact h
    | with_reducible assumption
    | with_reducible apply State.soot1_chg hm.le
    | with_reducible apply State.triggerReset_chg hm.le

theorem State.memLate_chg {m : Nat} (hm : Sub 12582916 m) {s t : State} (h : Chg m s t) (q : Nat) (ch : Nat) (wait : Nat) : Chg m s (State.memLate t q ch wait) := by
  unfold State.memLate
  repeat' first
    | with_reducible exact h
    | with_reducible assumption
    | with_reducible apply State.hwSet_chg hm.le
    | with_reducible apply State.raise_chg hm.le
    | with_reducible apply State.soot1_chg hm.le
    | with_reducible apply Chg.ite

theorem State.readError_chg {m : Nat} (hm : Sub 12583428 m) {s t : State} (h : Chg m s t) (n : Nat) (who : Nat) (a : Nat) (status : Nat) : Chg m s (State.readError t n who a status) := by
  unfold State.readError
  try dsimp only
  repeat' first
    | with_reducible exact h
    | with_reducible assumption
    | with_reducible apply State.hostError_chg hm.le
    | with_reducible apply State.cxlSlowEvt_chg hm.le
    | with_reducible apply State.cxlMediaEvt_chg hm.le
    | with_reducible apply State.edcEvt_chg hm.le
    | with_reducible apply State.memUe_chg hm.le
    | with_reducible apply Chg.ite
    | split

theorem State.lateEvt_chg {m : Nat} (hm : Sub 12582916 m) {s t : State} (h : Chg m s t) (pas : List Nat) (late : Nat) : Chg m s (State.lateEvt t pas late) := by
  unfold State.lateEvt
  try dsimp only
  repeat' first
    | with_reducible exact h
    | with_reducible assumption
    | with_reducible apply State.hostSlow_chg hm.le
    | with_reducible apply State.cxlSlowEvt_chg hm.le
    | split

theorem State.readFail_chg {m : Nat} (hm : Sub 12583428 m) {s t : State} (h : Chg m s t) (perf : Option Nat) (flue : Bool) (n : Nat) (va : Nat) (len : Nat) (who : Nat) (err : Option Nat) : Chg m s (State.readFail t perf flue n va len who err) := by
  unfold State.readFail
  try dsimp only
  repeat' first
    | with_reducible exact h
    | with_reducible assumption
    | with_reducible apply State.readError_chg hm.le
    | split

theorem State.edcAt_chg {m : Nat} (hm : Sub 4194308 m) {s t : State} (h : Chg m s t) (pas : List Nat) (edc : Bool) : Chg m s (State.edcAt t pas edc) := by
  unfold State.edcAt
  try dsimp only
  repeat' first
    | with_reducible exact h
    | with_reducible assumption
    | with_reducible apply State.edcEvt_chg hm.le
    | split

theorem State.readMeets_chg {m : Nat} (hm : Sub 46137860 m) {s t : State} (h : Chg m s t) (perf : Option Nat) (flue : Bool) (n : Nat) (va : Nat) (len : Nat) (m_ : Meet) : Chg m s (State.readMeets t perf flue n va len m_) := by
  unfold State.readMeets
  try dsimp only
  repeat' first
    | with_reducible exact h
    | with_reducible assumption
    | with_reducible apply State.l2Use_chg hm.le
    | with_reducible apply State.askHosts_chg hm.le
    | with_reducible apply State.cxlAgent_chg hm.le
    | with_reducible apply State.lateEvt_chg hm.le
    | with_reducible apply State.readFail_chg hm.le
    | with_reducible apply State.edcAt_chg hm.le
    | with_reducible refine Chg.foldl _ ?_ _ ?_
    | with_reducible refine Chg.foldlFst _ ?_ _ ?_
    | intro _ _ _

theorem State.writeMeets_chg {m : Nat} (hm : Sub 12583428 m) {s t : State} (h : Chg m s t) (perf : Option Nat) (l : List (Nat × Nat)) (m_ : Meet) : Chg m s (State.writeMeets t perf l m_) := by
  unfold State.writeMeets
  try dsimp only
  repeat' first
    | with_reducible exact h
    | with_reducible assumption
    | with_reducible apply State.cxlAgent_chg hm.le
    | with_reducible apply State.cxlMediaEvt_chg hm.le
    | with_reducible apply State.retryEvt_chg hm.le
    | with_reducible apply State.lateEvt_chg hm.le
    | split

theorem State.physMeets_chg {m : Nat} (hm : Sub 46137860 m) {s t : State} (h : Chg m s t) (n : Nat) (a : Nat) (len : Nat) (m_ : Meet) : Chg m s (State.physMeets t n a len m_) := by
  unfold State.physMeets
  try dsimp only
  repeat' first
    | with_reducible exact h
    | with_reducible assumption
    | with_reducible apply State.fromHost_chg hm.le
    | with_reducible apply State.l2Use_chg hm.le
    | with_reducible apply State.cxlAgent_chg hm.le
    | with_reducible apply State.readError_chg hm.le
    | with_reducible apply State.lateEvt_chg hm.le
    | with_reducible apply State.edcAt_chg hm.le
    | split

theorem State.l2Access_chg {m : Nat} (hm : Sub 512 m) {s t : State} (h : Chg m s t) (p : Nat) (off : Nat) (n : Nat) : Chg m s (State.l2Access t p off n) := by
  unfold State.l2Access
  try dsimp only
  repeat' first
    | with_reducible exact h
    | with_reducible assumption
    | with_reducible apply State.modPart_chg hm.le

theorem State.l2Line_chg {m : Nat} (hm : Sub 512 m) {s t : State} (h : Chg m s t) (a : Nat) (n : Nat) : Chg m s (State.l2Line t a n) := by
  unfold State.l2Line
  try dsimp only
  repeat' first
    | with_reducible exact h
    | with_reducible assumption
    | with_reducible apply State.l2Access_chg hm.le
    | split

end Sys2Proof.Machine
end

