-- ==== Sys2Proof/Laws/ChgLinks.lean ====
section
/-!
SUPPORT. ChgLinks.lean: the kinds of state that each operation of Links.lean can change; each keeps the invariant.
-/

set_option Elab.async false
namespace Sys2Proof.Machine
open Sys2Proof.Config

theorem State.freeBuffers_chg {m : Nat} (hm : Sub 2097152 m) {s t : State} (h : Chg m s t) (k : Nat) (v : Nat) (n : Nat) : Chg m s (State.freeBuffers t k v n) := by
  unfold State.freeBuffers
  try dsimp only
  repeat' first
    | with_reducible exact h
    | with_reducible assumption
    | with_reducible apply State.setLink_chg hm.le
    | with_reducible apply Chg.ite

theorem State.sendFlit_chg {m : Nat} (hm : Sub 35651584 m) {s t : State} (h : Chg m s t) (k : Nat) (m_ : TxMsg) : Chg m s (State.sendFlit t k m_) := by
  unfold State.sendFlit
  try dsimp only
  repeat' first
    | with_reducible exact h
    | with_reducible assumption
    | with_reducible apply State.setLink_chg hm.le
    | with_reducible apply State.emit_chg hm.le
    | with_reducible apply State.freeBuffers_chg hm.le
    | with_reducible apply Chg.ite
    | split

theorem State.sendIdle_chg {m : Nat} (hm : Sub 35651584 m) {s t : State} (h : Chg m s t) (k : Nat) : Chg m s (State.sendIdle t k) := by
  unfold State.sendIdle
  try dsimp only
  repeat' first
    | with_reducible exact h
    | with_reducible assumption
    | with_reducible apply State.setLink_chg hm.le
    | with_reducible apply State.emit_chg hm.le

theorem State.idleFlits_chg {m : Nat} (hm : Sub 35651584 m) {s t : State} (h : Chg m s t) : Chg m s (State.idleFlits t) := by
  unfold State.idleFlits
  try dsimp only
  repeat' first
    | with_reducible exact h
    | with_reducible assumption
    | with_reducible apply State.sendIdle_chg hm.le
    | with_reducible refine Chg.foldl _ ?_ _ ?_
    | with_reducible refine Chg.foldlFst _ ?_ _ ?_
    | with_reducible apply Chg.ite
    | split
    | intro _ _ _

theorem State.sendDatagrams_chg {m : Nat} (hm : Sub 35651584 m) {s t : State} (h : Chg m s t) (k : Nat) (m_ : TxMsg) : Chg m s (State.sendDatagrams t k m_) := by
  unfold State.sendDatagrams
  try dsimp only
  repeat' first
    | with_reducible exact h
    | with_reducible assumption
    | with_reducible apply State.setLink_chg hm.le
    | with_reducible apply State.emit_chg hm.le
    | with_reducible apply State.freeBuffers_chg hm.le
    | with_reducible refine Chg.foldl _ ?_ _ ?_
    | with_reducible refine Chg.foldlFst _ ?_ _ ?_
    | with_reducible apply Chg.ite
    | split
    | intro _ _ _

theorem State.pumpN_chg {m : Nat} (hm : Sub 35651584 m) {s : State} (k : Nat) : ∀ (n : Nat) {t : State}, Chg m s t → Chg m s (State.pumpN t k n)
  | 0, _, h => h
  | n + 1, t, h => by
    unfold State.pumpN
    split
    · exact State.pumpN_chg hm.le k n (Chg.ite (State.sendDatagrams_chg hm.le h _ _) (State.sendFlit_chg hm.le h _ _))
    · exact h

theorem State.pump_chg {m : Nat} (hm : Sub 35651584 m) {s t : State} (h : Chg m s t) (k : Nat) : Chg m s (State.pump t k) := by
  unfold State.pump
  try dsimp only
  repeat' first
    | with_reducible exact h
    | with_reducible assumption
    | with_reducible apply State.pumpN_chg hm.le

theorem State.queueMsg_chg {m : Nat} (hm : Sub 35651584 m) {s t : State} (h : Chg m s t) (k : Nat) (m_ : TxMsg) : Chg m s (State.queueMsg t k m_) := by
  unfold State.queueMsg
  repeat' first
    | with_reducible exact h
    | with_reducible assumption
    | with_reducible apply State.setLink_chg hm.le
    | with_reducible apply State.pump_chg hm.le

theorem State.noRoute_chg {m : Nat} (hm : Sub 12582916 m) {s t : State} (h : Chg m s t) (dev : Nat) : Chg m s (State.noRoute t dev) := by
  unfold State.noRoute
  try dsimp only
  repeat' first
    | with_reducible exact h
    | with_reducible assumption
    | with_reducible apply State.soot1_chg hm.le

theorem State.routeMsg_chg {m : Nat} (hm : Sub 48234500 m) {s t : State} (h : Chg m s t) (origin : Nat) (dev : Nat) (dp : Nat) (v : Nat) (m_ : List Byte) : Chg m s (State.routeMsg t origin dev dp v m_) := by
  unfold State.routeMsg
  try dsimp only
  repeat' first
    | with_reducible exact h
    | with_reducible assumption
    | with_reducible apply State.emit_chg hm.le
    | with_reducible apply State.queueMsg_chg hm.le
    | with_reducible apply State.noRoute_chg hm.le
    | with_reducible apply Chg.ite
    | split

end Sys2Proof.Machine
end

