-- ==== Sys2Proof/Laws/ChgPorts.lean ====
section
/-!
SUPPORT. ChgPorts.lean: the kinds of state that each operation of Ports.lean can change; each keeps the invariant.
-/

set_option Elab.async false
namespace Sys2Proof.Machine
open Sys2Proof.Config

theorem State.hostLinkDown_chg {m : Nat} (hm : Sub 4194308 m) {s t : State} (h : Chg m s t) (n : Nat) : Chg m s (State.hostLinkDown t n) := by
  unfold State.hostLinkDown
  try dsimp only
  repeat' first
    | with_reducible exact h
    | with_reducible assumption
    | with_reducible apply State.setFld_chg hm.le
    | with_reducible apply State.raise_chg hm.le
    | with_reducible apply Chg.ite

theorem State.portReset_chg {m : Nat} (hm : Sub 4194308 m) {s t : State} (h : Chg m s t) (port : Nat) : Chg m s (State.portReset t port) := by
  unfold State.portReset
  try dsimp only
  repeat' first
    | with_reducible exact h
    | with_reducible assumption
    | with_reducible apply State.setFld_chg hm.le
    | with_reducible apply State.setHost_chg hm.le
    | with_reducible apply State.hostLinkDown_chg hm.le

theorem execHostPortReset_chg {m : Nat} (hm : Sub 4194308 m) (s : State) (port : Nat) (perst : Bool) : NextChg m s (execHostPortReset port perst s) := by
  unfold execHostPortReset
  repeat' first
    | with_reducible exact Chg.refl _ _
    | with_reducible assumption
    | with_reducible refine NextChg.actHost ?_
    | with_reducible refine NextChg.act ?_
    | with_reducible refine NextChg.next ?_
    | with_reducible apply State.setFld_chg hm.le
    | with_reducible apply State.portReset_chg hm.le

theorem execHostLinkUp_chg {m : Nat} (hm : Sub 4194308 m) (s : State) (port : Nat) (rate : Nat) (width : Nat) (vfs : Nat) (flit : Bool) : NextChg m s (execHostLinkUp port rate width vfs flit s) := by
  unfold execHostLinkUp
  try dsimp only
  repeat' first
    | with_reducible exact Chg.refl _ _
    | with_reducible assumption
    | with_reducible refine NextChg.actHost ?_
    | with_reducible refine NextChg.act ?_
    | with_reducible refine NextChg.next ?_
    | with_reducible apply State.setFld_chg hm.le
    | with_reducible apply State.raise_chg hm.le
    | with_reducible apply Chg.ite

theorem State.configDoe_chg {m : Nat} (hm : Sub 20971520 m) {s t : State} (h : Chg m s t) (port : Nat) (o : Nat) (v : Word32) : Chg m s (State.configDoe t port o v) := by
  unfold State.configDoe
  repeat' first
    | with_reducible exact h
    | with_reducible assumption
    | with_reducible apply State.setHost_chg hm.le
    | with_reducible refine settled_chg ?_ (execDoeAbort_chg hm.le _ _)
    | with_reducible apply State.doePush_chg hm.le
    | with_reducible apply State.doeGo_chg hm.le
    | with_reducible apply Chg.ite

theorem State.configWrite_chg {m : Nat} (hm : Sub 20971524 m) {s t : State} (h : Chg m s t) (port : Nat) (fn : Nat) (o : Nat) (v : Word32) : Chg m s (State.configWrite t port fn o v) := by
  unfold State.configWrite
  try dsimp only
  repeat' first
    | with_reducible exact h
    | with_reducible assumption
    | with_reducible apply State.setFld_chg hm.le
    | with_reducible apply State.setHost_chg hm.le
    | with_reducible apply State.configDoe_chg hm.le
    | with_reducible apply Chg.ite

theorem execPcieConfigRequest_chg {m : Nat} (hm : Sub 54525956 m) (s : State) (port : Nat) (fn : Nat) (off : Nat) (wr : Bool) (v : Word32) : NextChg m s (execPcieConfigRequest port fn off wr v s) := by
  unfold execPcieConfigRequest
  repeat' first
    | with_reducible exact Chg.refl _ _
    | with_reducible assumption
    | with_reducible refine NextChg.actHost ?_
    | with_reducible refine NextChg.act ?_
    | with_reducible refine NextChg.next ?_
    | with_reducible apply State.emit_chg hm.le
    | with_reducible apply State.aerErr_chg hm.le
    | with_reducible apply State.configWrite_chg hm.le
    | with_reducible apply Chg.ite

theorem State.bar4Meets_chg {m : Nat} (hm : Sub 46137860 m) {s t : State} (h : Chg m s t) (a : Nat) (len : Nat) (m_ : Meet) : Chg m s (State.bar4Meets t a len m_) := by
  unfold State.bar4Meets
  repeat' first
    | with_reducible exact h
    | with_reducible assumption
    | with_reducible apply State.physMeets_chg hm.le

theorem State.bar4Bad_chg {m : Nat} (hm : Sub 4194308 m) {s t : State} (h : Chg m s t) (port : Nat) : Chg m s (State.bar4Bad t port) := by
  unfold State.bar4Bad
  repeat' first
    | with_reducible exact h
    | with_reducible assumption
    | with_reducible apply State.aerErr_chg hm.le
    | with_reducible apply State.hwSet_chg hm.le
    | with_reducible apply Chg.ite

theorem execBar4Read_chg {m : Nat} (hm : Sub 46137860 m) (s : State) (port : Nat) (off : Nat) (len : Nat) (m_ : Meet) : NextChg m s (execBar4Read port off len m_ s) := by
  unfold execBar4Read
  try dsimp only
  repeat' first
    | with_reducible exact Chg.refl _ _
    | with_reducible assumption
    | with_reducible refine NextChg.actHost ?_
    | with_reducible refine NextChg.act ?_
    | with_reducible refine NextChg.next ?_
    | with_reducible apply State.emit_chg hm.le
    | with_reducible apply State.bar4Meets_chg hm.le
    | with_reducible apply State.bar4Bad_chg hm.le
    | with_reducible apply Chg.ite

theorem execBar4Write_chg {m : Nat} (hm : Sub 12583436 m) (s : State) (port : Nat) (off : Nat) (data : List Byte) (m_ : Meet) : NextChg m s (execBar4Write port off data m_ s) := by
  unfold execBar4Write
  try dsimp only
  repeat' first
    | with_reducible exact Chg.refl _ _
    | with_reducible assumption
    | with_reducible refine NextChg.actHost ?_
    | with_reducible refine NextChg.act ?_
    | with_reducible refine NextChg.next ?_
    | with_reducible apply State.writeMem_chg hm.le
    | with_reducible apply State.l2Use_chg hm.le
    | with_reducible apply State.writeMeets_chg hm.le
    | with_reducible apply State.bar4Bad_chg hm.le
    | with_reducible apply Chg.ite

theorem State.cutForward_chg {m : Nat} (hm : Sub 2097152 m) {s t : State} (h : Chg m s t) (k : Nat) (v : Nat) : Chg m s (State.cutForward t k v) := by
  unfold State.cutForward
  try dsimp only
  repeat' first
    | with_reducible exact h
    | with_reducible assumption
    | with_reducible apply State.setLink_chg hm.le
    | with_reducible apply State.freeBuffers_chg hm.le
    | with_reducible apply Chg.ite
    | split

theorem State.loseMsg_chg {m : Nat} (hm : Sub 14680068 m) {s t : State} (h : Chg m s t) (k : Nat) (v : Nat) (gap : Nat) : Chg m s (State.loseMsg t k v gap) := by
  unfold State.loseMsg
  try dsimp only
  repeat' first
    | with_reducible exact h
    | with_reducible assumption
    | with_reducible apply State.setLink_chg hm.le
    | with_reducible apply State.soot1_chg hm.le
    | with_reducible apply State.cutForward_chg hm.le

theorem State.deliver_chg {m : Nat} (hm : Sub 48234500 m) {s t : State} (h : Chg m s t) (v : Nat) (dev : Nat) (dp : Nat) (msg : List Byte) : Chg m s (State.deliver t v dev dp msg) := by
  unfold State.deliver
  repeat' first
    | with_reducible exact h
    | with_reducible assumption
    | with_reducible apply State.routeMsg_chg hm.le
    | with_reducible apply Chg.ite

theorem State.forward_chg {m : Nat} (hm : Sub 35651584 m) {s t : State} (h : Chg m s t) (k : Nat) (v : Nat) (e : Nat) (dev : Nat) (dp : Nat) (som : Bool) (eom : Bool) (d : List Byte) : Chg m s (State.forward t k v e dev dp som eom d) := by
  unfold State.forward
  try dsimp only
  repeat' first
    | with_reducible exact h
    | with_reducible assumption
    | with_reducible apply State.setLink_chg hm.le
    | with_reducible apply State.freeBuffers_chg hm.le
    | with_reducible apply State.pump_chg hm.le
    | with_reducible apply State.queueMsg_chg hm.le
    | with_reducible apply Chg.ite

theorem State.takePayload_chg {m : Nat} (hm : Sub 48234500 m) {s t : State} (h : Chg m s t) (k : Nat) (v : Nat) (dev : Nat) (dp : Nat) (routed : Bool) (som : Bool) (eom : Bool) (d : List Byte) : Chg m s (State.takePayload t k v dev dp routed som eom d) := by
  unfold State.takePayload
  try dsimp only
  repeat' first
    | with_reducible exact h
    | with_reducible assumption
    | with_reducible apply State.setLink_chg hm.le
    | with_reducible apply State.emit_chg hm.le
    | with_reducible apply State.freeBuffers_chg hm.le
    | with_reducible apply State.noRoute_chg hm.le
    | with_reducible apply State.cutForward_chg hm.le
    | with_reducible apply State.forward_chg hm.le
    | with_reducible apply Chg.ite
    | split

theorem State.takeCredit_chg {m : Nat} (hm : Sub 35651584 m) {s t : State} (h : Chg m s t) (k : Nat) (rv : Nat) (count : Nat) : Chg m s (State.takeCredit t k rv count) := by
  unfold State.takeCredit
  repeat' first
    | with_reducible exact h
    | with_reducible assumption
    | with_reducible apply State.setLink_chg hm.le
    | with_reducible apply State.pump_chg hm.le
    | with_reducible apply Chg.ite

theorem State.takeWords_chg {m : Nat} (hm : Sub 2097156 m) {s t : State} (h : Chg m s t) (k : Nat) (ws : List (Nat × Bool)) : Chg m s (State.takeWords t k ws) := by
  unfold State.takeWords
  try dsimp only
  repeat' first
    | with_reducible exact h
    | with_reducible assumption
    | with_reducible apply State.setFld_chg hm.le
    | with_reducible apply State.setLink_chg hm.le
    | with_reducible refine Chg.foldl _ ?_ _ ?_
    | with_reducible refine Chg.foldlFst _ ?_ _ ?_
    | with_reducible apply Chg.ite
    | split
    | intro _ _ _

theorem execFlitReceive_chg {m : Nat} (hm : Sub 48234500 m) (s : State) (k : Nat) (flit : List Byte) (words : List (Nat × Bool)) : NextChg m s (execFlitReceive k flit words s) := by
  unfold execFlitReceive
  try dsimp only
  repeat' first
    | with_reducible exact Chg.refl _ _
    | with_reducible assumption
    | with_reducible refine NextChg.actHost ?_
    | with_reducible refine NextChg.act ?_
    | with_reducible refine NextChg.next ?_
    | with_reducible apply State.setLink_chg hm.le
    | with_reducible apply State.hwSet_chg hm.le
    | with_reducible apply State.freeBuffers_chg hm.le
    | with_reducible apply State.loseMsg_chg hm.le
    | with_reducible apply State.takePayload_chg hm.le
    | with_reducible apply State.takeCredit_chg hm.le
    | with_reducible apply State.takeWords_chg hm.le
    | with_reducible apply Chg.ite

theorem State.loseDatagram_chg {m : Nat} (hm : Sub 14680068 m) {s t : State} (h : Chg m s t) (k : Nat) (src : Nat) (v : Nat) (seq : Nat) (gap : Nat) : Chg m s (State.loseDatagram t k src v seq gap) := by
  unfold State.loseDatagram
  repeat' first
    | with_reducible exact h
    | with_reducible assumption
    | with_reducible apply State.setLink_chg hm.le
    | with_reducible apply State.soot1_chg hm.le

theorem State.takeSegment_chg {m : Nat} (hm : Sub 48234500 m) {s t : State} (h : Chg m s t) (k : Nat) (src : Nat) (v : Nat) (seq : Nat) (len : Nat) (dev : Nat) (dp : Nat) (eom : Bool) (m_ : List Byte) : Chg m s (State.takeSegment t k src v seq len dev dp eom m_) := by
  unfold State.takeSegment
  try dsimp only
  repeat' first
    | with_reducible exact h
    | with_reducible assumption
    | with_reducible apply State.setLink_chg hm.le
    | with_reducible apply State.deliver_chg hm.le
    | with_reducible apply State.loseDatagram_chg hm.le
    | with_reducible apply Chg.ite

theorem execDatagramReceive_chg {m : Nat} (hm : Sub 48234500 m) (s : State) (k : Nat) (header : List Byte) (payload : List Byte) (words : List (Nat × Bool)) : NextChg m s (execDatagramReceive k header payload words s) := by
  unfold execDatagramReceive
  try dsimp only
  repeat' first
    | with_reducible exact Chg.refl _ _
    | with_reducible assumption
    | with_reducible refine NextChg.actHost ?_
    | with_reducible refine NextChg.act ?_
    | with_reducible refine NextChg.next ?_
    | with_reducible apply State.takeWords_chg hm.le
    | with_reducible apply State.loseDatagram_chg hm.le
    | with_reducible apply State.takeSegment_chg hm.le
    | with_reducible apply Chg.ite
    | split

theorem execPriorityFlowControl_chg {m : Nat} (hm : Sub 35651584 m) (s : State) (k : Nat) (half : Nat) (prio : Nat) (pause : Bool) : NextChg m s (execPriorityFlowControl k half prio pause s) := by
  unfold execPriorityFlowControl
  try dsimp only
  repeat' first
    | with_reducible exact Chg.refl _ _
    | with_reducible assumption
    | with_reducible refine NextChg.actHost ?_
    | with_reducible refine NextChg.act ?_
    | with_reducible refine NextChg.next ?_
    | with_reducible apply State.setLink_chg hm.le
    | with_reducible apply State.pump_chg hm.le
    | with_reducible apply Chg.ite

theorem State.setLinkState_chg {m : Nat} (hm : Sub 4 m) {s t : State} (h : Chg m s t) (k : Nat) (st : Nat) (mask_ : Nat) : Chg m s (State.setLinkState t k st mask_) := by
  unfold State.setLinkState
  try dsimp only
  repeat' first
    | with_reducible exact h
    | with_reducible assumption
    | with_reducible apply State.setFld_chg hm.le
    | with_reducible refine Chg.foldl _ ?_ _ ?_
    | with_reducible refine Chg.foldlFst _ ?_ _ ?_
    | with_reducible apply Chg.ite
    | split
    | intro _ _ _

theorem State.dropTraffic_chg {m : Nat} (hm : Sub 14680068 m) {s t : State} (h : Chg m s t) (k : Nat) : Chg m s (State.dropTraffic t k) := by
  unfold State.dropTraffic
  try dsimp only
  repeat' first
    | with_reducible exact h
    | with_reducible assumption
    | with_reducible apply State.setLink_chg hm.le
    | with_reducible apply State.freeBuffers_chg hm.le
    | with_reducible apply State.loseMsg_chg hm.le
    | with_reducible refine Chg.foldl _ ?_ _ ?_
    | with_reducible refine Chg.foldlFst _ ?_ _ ?_
    | with_reducible apply Chg.ite
    | split
    | intro _ _ _

theorem State.planRetrain_chg {m : Nat} (hm : Sub 2097152 m) {s t : State} (h : Chg m s t) (k : Nat) (m_ : Nat) (byWrite : Bool) : Chg m s (State.planRetrain t k m_ byWrite) := by
  unfold State.planRetrain
  repeat' first
    | with_reducible exact h
    | with_reducible assumption
    | with_reducible apply State.setLink_chg hm.le
    | with_reducible apply Chg.ite

theorem execLaneLockLoss_chg {m : Nat} (hm : Sub 2097156 m) (s : State) (lane : Nat) (lost : Bool) (words : List (Nat × Bool)) : NextChg m s (execLaneLockLoss lane lost words s) := by
  unfold execLaneLockLoss
  try dsimp only
  repeat' first
    | with_reducible exact Chg.refl _ _
    | with_reducible assumption
    | with_reducible refine NextChg.actHost ?_
    | with_reducible refine NextChg.act ?_
    | with_reducible refine NextChg.next ?_
    | with_reducible apply State.setFld_chg hm.le
    | with_reducible apply State.setLink_chg hm.le
    | with_reducible apply State.takeWords_chg hm.le
    | with_reducible apply State.planRetrain_chg hm.le
    | with_reducible apply Chg.ite

theorem State.downEvt_chg {m : Nat} (hm : Sub 12582916 m) {s t : State} (h : Chg m s t) (k : Nat) (lanes : Nat) : Chg m s (State.downEvt t k lanes) := by
  unfold State.downEvt
  repeat' first
    | with_reducible exact h
    | with_reducible assumption
    | with_reducible apply State.setEvt_chg hm.le
    | with_reducible apply State.soot1_chg hm.le

theorem execLinkRetrainStart_chg {m : Nat} (hm : Sub 14680068 m) (s : State) (k : Nat) : NextChg m s (execLinkRetrainStart k s) := by
  unfold execLinkRetrainStart
  try dsimp only
  repeat' first
    | with_reducible exact Chg.refl _ _
    | with_reducible assumption
    | with_reducible refine NextChg.actHost ?_
    | with_reducible refine NextChg.act ?_
    | with_reducible refine NextChg.next ?_
    | with_reducible apply State.setLink_chg hm.le
    | with_reducible apply State.setLinkState_chg hm.le
    | with_reducible apply State.dropTraffic_chg hm.le
    | with_reducible apply State.downEvt_chg hm.le
    | with_reducible apply Chg.ite
    | split

theorem execRetrain_chg {m : Nat} (hm : Sub 2097152 m) (s : State) (port : Nat) (k : Nat) : NextChg m s (execRetrain port k s) := by
  unfold execRetrain
  repeat' first
    | with_reducible exact Chg.refl _ _
    | with_reducible assumption
    | with_reducible refine NextChg.actHost ?_
    | with_reducible refine NextChg.act ?_
    | with_reducible refine NextChg.next ?_
    | with_reducible apply State.planRetrain_chg hm.le
    | with_reducible apply Chg.ite

theorem execLinkEnable_chg {m : Nat} (hm : Sub 14680068 m) (s : State) (port : Nat) (k : Nat) (v : Word32) : NextChg m s (execLinkEnable port k v s) := by
  unfold execLinkEnable
  try dsimp only
  repeat' first
    | with_reducible exact Chg.refl _ _
    | with_reducible assumption
    | with_reducible refine NextChg.actHost ?_
    | with_reducible refine NextChg.act ?_
    | with_reducible refine NextChg.next ?_
    | with_reducible apply State.setFld_chg hm.le
    | with_reducible apply State.setLink_chg hm.le
    | with_reducible apply State.setLinkState_chg hm.le
    | with_reducible apply State.dropTraffic_chg hm.le
    | with_reducible apply State.planRetrain_chg hm.le
    | with_reducible apply Chg.ite

theorem execLinkRetrainEnd_chg {m : Nat} (hm : Sub 48234500 m) (s : State) (k : Nat) (locked : BitVec 8) : NextChg m s (execLinkRetrainEnd k locked s) := by
  unfold execLinkRetrainEnd
  try dsimp only
  repeat' first
    | with_reducible exact Chg.refl _ _
    | with_reducible assumption
    | with_reducible refine NextChg.actHost ?_
    | with_reducible refine NextChg.act ?_
    | with_reducible refine NextChg.next ?_
    | with_reducible apply State.setFld_chg hm.le
    | with_reducible apply State.setLink_chg hm.le
    | with_reducible apply State.setEvt_chg hm.le
    | with_reducible apply State.soot1_chg hm.le
    | with_reducible apply State.pump_chg hm.le
    | with_reducible apply State.setLinkState_chg hm.le
    | with_reducible apply State.downEvt_chg hm.le
    | with_reducible refine Chg.foldl _ ?_ _ ?_
    | with_reducible refine Chg.foldlFst _ ?_ _ ?_
    | with_reducible apply Chg.ite
    | split
    | intro _ _ _

end Sys2Proof.Machine
end

