-- ==== Sys2Proof/Laws/ChgDescriptors.lean ====
section
/-!
SUPPORT. ChgDescriptors.lean: the kinds of state that each operation of Descriptors.lean can change; each keeps the invariant.
-/

set_option Elab.async false
namespace Sys2Proof.Machine
open Sys2Proof.Config

theorem State.dmaLine_chg {m : Nat} (hm : Sub 512 m) {s t : State} (h : Chg m s t) (p : Nat) (n : Nat) (a : Nat) (rd : Bool) (r : DmaRun) : Chg m s (State.dmaLine t p n a rd r).1 := by
  unfold State.dmaLine
  try dsimp only
  repeat' first
    | with_reducible exact h
    | with_reducible assumption
    | with_reducible apply State.tenantEnter_chg hm.le
    | with_reducible apply State.cxlEnter_chg hm.le
    | with_reducible apply State.l2Access_chg hm.le
    | with_reducible apply Chg.ite
    | split

theorem State.moveRead_chg {m : Nat} (hm : Sub 46137860 m) {s t : State} (h : Chg m s t) (p : Nat) (n : Nat) (who : Nat) (h_ : Hap) (r : DmaRun) (m_ : DmaMove) (va : Nat) : Chg m s (State.moveRead t p n who h_ r m_ va).1 := by
  unfold State.moveRead
  try dsimp only
  repeat' first
    | with_reducible exact h
    | with_reducible assumption
    | with_reducible apply State.fromHost_chg hm.le
    | with_reducible apply State.edcEvt_chg hm.le
    | with_reducible apply State.readError_chg hm.le
    | with_reducible apply State.dmaLine_chg hm.le
    | with_reducible apply Chg.ite
    | split

theorem State.moveWrite_chg {m : Nat} (hm : Sub 33554956 m) {s t : State} (h : Chg m s t) (p : Nat) (n : Nat) (h_ : Hap) (r : DmaRun) (b : List Byte) (l : List Nat) : Chg m s (State.moveWrite t p n h_ r b l).1 := by
  unfold State.moveWrite
  try dsimp only
  repeat' first
    | with_reducible exact h
    | with_reducible assumption
    | with_reducible apply State.toHost_chg hm.le
    | with_reducible apply State.writeMem_chg hm.le
    | with_reducible apply State.retryEvt_chg hm.le
    | with_reducible apply State.dmaLine_chg hm.le
    | with_reducible refine Chg.foldl _ ?_ _ ?_
    | with_reducible refine Chg.foldlFst _ ?_ _ ?_
    | with_reducible apply Chg.ite
    | split
    | intro _ _ _

theorem State.dmaMove_chg {m : Nat} (hm : Sub 46137868 m) {s t : State} (h : Chg m s t) (p : Nat) (n : Nat) (who : Nat) (h_ : Hap) (r : DmaRun) (m_ : DmaMove) : Chg m s (State.dmaMove t p n who h_ r m_).1 := by
  unfold State.dmaMove
  try dsimp only
  repeat' first
    | with_reducible exact h
    | with_reducible assumption
    | with_reducible apply State.moveRead_chg hm.le
    | with_reducible apply State.moveWrite_chg hm.le
    | with_reducible apply Chg.ite
    | split

theorem State.dmaStep_chg {m : Nat} (hm : Sub 46137868 m) {s t : State} (h : Chg m s t) (p : Nat) (n : Nat) (who : Nat) (h_ : Hap) (per : Nat) (moves : DmaRun → Nat → List DmaMove) (r : DmaRun) : Chg m s (State.dmaStep t p n who h_ per moves r).1 := by
  unfold State.dmaStep
  try dsimp only
  repeat' first
    | with_reducible exact h
    | with_reducible assumption
    | with_reducible apply State.dmaMove_chg hm.le
    | with_reducible refine Chg.foldl _ ?_ _ ?_
    | with_reducible refine Chg.foldlFst _ ?_ _ ?_
    | with_reducible apply Chg.ite
    | split
    | intro _ _ _

theorem State.lateTransfer_chg {m : Nat} (hm : Sub 12582916 m) {s t : State} (h : Chg m s t) (p : Nat) (n : Nat) (h_ : Hap) (l : List (Nat × Nat)) : Chg m s (State.lateTransfer t p n h_ l) := by
  unfold State.lateTransfer
  try dsimp only
  repeat' first
    | with_reducible exact h
    | with_reducible assumption
    | with_reducible apply State.hostSlow_chg hm.le
    | with_reducible apply State.cxlSlowEvt_chg hm.le
    | split

theorem State.badWrite_chg {m : Nat} (hm : Sub 12582916 m) {s t : State} (h : Chg m s t) (p : Nat) (n : Nat) (h_ : Hap) (l : List (Nat × Nat)) : Chg m s (State.badWrite t p n h_ l).1 := by
  unfold State.badWrite
  try dsimp only
  repeat' first
    | with_reducible exact h
    | with_reducible assumption
    | with_reducible apply State.cxlMediaEvt_chg hm.le
    | with_reducible apply Chg.ite
    | split

theorem State.setChannel_chg {m : Nat} (hm : Sub 1024 m) {s t : State} (h : Chg m s t) (cl : Nat) (ch : Nat) (l : List Desc) : Chg m s (State.setChannel t cl ch l) := by
  unfold State.setChannel
  repeat' first
    | with_reducible exact h
    | with_reducible assumption
    | with_reducible apply State.setCluster_chg hm.le

theorem State.descStep_chg {m : Nat} (hm : Sub 46138892 m) {s t : State} (h : Chg m s t) (cl : Nat) (ch : Nat) : Chg m s (State.descStep t cl ch) := by
  unfold State.descStep
  try dsimp only
  repeat' first
    | with_reducible exact h
    | with_reducible assumption
    | with_reducible apply State.dmaStep_chg hm.le
    | with_reducible apply State.setChannel_chg hm.le
    | with_reducible apply Chg.ite
    | split

theorem State.clusterStep_chg {m : Nat} (hm : Sub 46138892 m) {s t : State} (h : Chg m s t) (cl : Nat) : Chg m s (State.clusterStep t cl) := by
  unfold State.clusterStep
  try dsimp only
  repeat' first
    | with_reducible exact h
    | with_reducible assumption
    | with_reducible apply State.setCluster_chg hm.le
    | with_reducible apply State.descStep_chg hm.le
    | split

theorem State.jobStep_chg {m : Nat} (hm : Sub 46137868 m) {s t : State} (h : Chg m s t) (p : Nat) : Chg m s (State.jobStep t p) := by
  unfold State.jobStep
  try dsimp only
  repeat' first
    | with_reducible exact h
    | with_reducible assumption
    | with_reducible apply State.modPart_chg hm.le
    | with_reducible apply State.dmaStep_chg hm.le
    | split

theorem State.jobCycle_chg {m : Nat} (hm : Sub 46137868 m) {s t : State} (h : Chg m s t) (p : Nat) : Chg m s (State.jobCycle t p) := by
  unfold State.jobCycle
  try dsimp only
  repeat' first
    | with_reducible exact h
    | with_reducible assumption
    | with_reducible apply State.jobStep_chg hm.le
    | with_reducible refine Chg.foldl _ ?_ _ ?_
    | with_reducible refine Chg.foldlFst _ ?_ _ ?_
    | with_reducible apply Chg.ite
    | split
    | intro _ _ _

theorem State.dmaCycle_chg {m : Nat} (hm : Sub 46138892 m) {s t : State} (h : Chg m s t) : Chg m s (State.dmaCycle t) := by
  unfold State.dmaCycle
  try dsimp only
  repeat' first
    | with_reducible exact h
    | with_reducible assumption
    | with_reducible apply State.clusterStep_chg hm.le
    | with_reducible apply State.jobCycle_chg hm.le
    | with_reducible refine Chg.foldl _ ?_ _ ?_
    | with_reducible refine Chg.foldlFst _ ?_ _ ?_
    | intro _ _ _

theorem State.delay_chg {m : Nat} (hm : Sub 9728 m) {s t : State} (h : Chg m s t) (who : Waiter) (e : Nat) : Chg m s (State.delay t who e) := by
  unfold State.delay
  try dsimp only
  repeat' first
    | with_reducible exact h
    | with_reducible assumption
    | with_reducible apply State.modPart_chg hm.le
    | with_reducible apply State.setChannel_chg hm.le
    | with_reducible apply Chg.ite
    | split
    | with_reducible refine Chg.mk ?_

theorem State.delayAll_chg {m : Nat} (hm : Sub 9728 m) {s t : State} (h : Chg m s t) (l : List MemReq) : Chg m s (State.delayAll t l) := by
  unfold State.delayAll
  try dsimp only
  repeat' first
    | with_reducible exact h
    | with_reducible assumption
    | with_reducible apply State.delay_chg hm.le
    | with_reducible refine Chg.foldl _ ?_ _ ?_
    | with_reducible refine Chg.foldlFst _ ?_ _ ?_
    | with_reducible apply Chg.ite
    | split
    | intro _ _ _

theorem State.serveTenant_chg {m : Nat} (hm : Sub 79701508 m) {s t : State} (h : Chg m s t) (p : Nat) : Chg m s (State.serveTenant t p) := by
  unfold State.serveTenant
  try dsimp only
  repeat' first
    | with_reducible exact h
    | with_reducible assumption
    | with_reducible apply State.modPart_chg hm.le
    | with_reducible apply State.drawn_chg hm.le
    | with_reducible apply State.memLate_chg hm.le
    | with_reducible apply State.delayAll_chg hm.le
    | with_reducible refine Chg.foldl _ ?_ _ ?_
    | with_reducible refine Chg.foldlFst _ ?_ _ ?_
    | with_reducible apply Chg.ite
    | split
    | intro _ _ _

theorem State.serveCxl_chg {m : Nat} (hm : Sub 12592644 m) {s t : State} (h : Chg m s t) (p : Nat) : Chg m s (State.serveCxl t p) := by
  unfold State.serveCxl
  try dsimp only
  repeat' first
    | with_reducible exact h
    | with_reducible assumption
    | with_reducible apply State.modPart_chg hm.le
    | with_reducible apply State.cxlSlowEvt_chg hm.le
    | with_reducible apply State.delayAll_chg hm.le
    | with_reducible refine Chg.foldl _ ?_ _ ?_
    | with_reducible refine Chg.foldlFst _ ?_ _ ?_
    | with_reducible apply Chg.ite
    | split
    | intro _ _ _

theorem State.serveQueues_chg {m : Nat} (hm : Sub 79701508 m) {s t : State} (h : Chg m s t) : Chg m s (State.serveQueues t) := by
  unfold State.serveQueues
  try dsimp only
  repeat' first
    | with_reducible exact h
    | with_reducible assumption
    | with_reducible apply State.serveTenant_chg hm.le
    | with_reducible apply State.serveCxl_chg hm.le
    | with_reducible refine Chg.foldl _ ?_ _ ?_
    | with_reducible refine Chg.foldlFst _ ?_ _ ?_
    | intro _ _ _

theorem State.undefDesc_chg {m : Nat} (hm : Sub 67108872 m) {s t : State} (h : Chg m s t) (p : Nat) (n : Nat) (d : List Byte) : Chg m s (State.undefDesc t p n d) := by
  unfold State.undefDesc
  try dsimp only
  repeat' first
    | with_reducible exact h
    | with_reducible assumption
    | with_reducible apply State.undefMem_chg hm.le
    | with_reducible refine Chg.foldl _ ?_ _ ?_
    | with_reducible refine Chg.foldlFst _ ?_ _ ?_
    | with_reducible apply Chg.ite
    | split
    | intro _ _ _

end Sys2Proof.Machine
end

