-- ==== Sys2Proof/Laws/ChgDamper.lean ====
section
/-!
SUPPORT. ChgDamper.lean: the kinds of state that each operation of Damper.lean can change; each keeps the invariant.
-/

set_option Elab.async false
namespace Sys2Proof.Machine
open Sys2Proof.Config

theorem State.setHistory_chg {m : Nat} (hm : Sub 512 m) {s t : State} (h : Chg m s t) (p : Nat) (sl : Nat) (h_ : List Int) : Chg m s (State.setHistory t p sl h_) := by
  unfold State.setHistory
  try dsimp only
  repeat' first
    | with_reducible exact h
    | with_reducible assumption
    | with_reducible apply State.modPart_chg hm.le

theorem State.clearSlot_chg {m : Nat} (hm : Sub 516 m) {s t : State} (h : Chg m s t) (p : Nat) (sl : Nat) : Chg m s (State.clearSlot t p sl) := by
  unfold State.clearSlot
  repeat' first
    | with_reducible exact h
    | with_reducible assumption
    | with_reducible apply State.resetRegs_chg hm.le
    | with_reducible apply State.setHistory_chg hm.le

theorem State.clearSlots_chg {m : Nat} (hm : Sub 516 m) {s t : State} (h : Chg m s t) (p : Nat) (sel : Nat → Bool) : Chg m s (State.clearSlots t p sel) := by
  unfold State.clearSlots
  try dsimp only
  repeat' first
    | with_reducible exact h
    | with_reducible assumption
    | with_reducible apply State.clearSlot_chg hm.le
    | with_reducible refine Chg.foldl _ ?_ _ ?_
    | with_reducible refine Chg.foldlFst _ ?_ _ ?_
    | intro _ _ _

theorem State.damperReport_chg {m : Nat} (hm : Sub 4 m) {s t : State} (h : Chg m s t) (p : Nat) (sl : Nat) (max : Nat) (nf : Bool) : Chg m s (State.damperReport t p sl max nf) := by
  unfold State.damperReport
  try dsimp only
  repeat' first
    | with_reducible exact h
    | with_reducible assumption
    | with_reducible apply State.setFld_chg hm.le
    | with_reducible apply Chg.ite

theorem State.damperUpdate_chg {m : Nat} (hm : Sub 67109380 m) {s t : State} (h : Chg m s t) (p : Nat) (sl : Nat) (abandon : Bool) : Chg m s (State.damperUpdate t p sl abandon) := by
  unfold State.damperUpdate
  try dsimp only
  repeat' first
    | with_reducible exact h
    | with_reducible assumption
    | with_reducible apply State.setFld_chg hm.le
    | with_reducible apply State.drawn_chg hm.le
    | with_reducible apply State.setHistory_chg hm.le
    | with_reducible refine Chg.foldl _ ?_ _ ?_
    | with_reducible refine Chg.foldlFst _ ?_ _ ?_
    | with_reducible apply Chg.ite

theorem State.damperAuto_chg {m : Nat} (hm : Sub 67109380 m) {s t : State} (h : Chg m s t) (p : Nat) (ctxs : List Nat) (abandon : Bool) : Chg m s (State.damperAuto t p ctxs abandon) := by
  unfold State.damperAuto
  try dsimp only
  repeat' first
    | with_reducible exact h
    | with_reducible assumption
    | with_reducible apply State.damperUpdate_chg hm.le
    | with_reducible refine Chg.foldl _ ?_ _ ?_
    | with_reducible refine Chg.foldlFst _ ?_ _ ?_
    | intro _ _ _

end Sys2Proof.Machine
end

