-- ==== Sys2Proof/Laws/ChgFlags.lean ====
section
/-!
SUPPORT. ChgFlags.lean: the kinds of state that each operation of Flags.lean can change; each keeps the invariant.
-/

set_option Elab.async false
namespace Sys2Proof.Machine
open Sys2Proof.Config

theorem State.modStep_chg {m : Nat} (hm : Sub 131072 m) {s t : State} (h : Chg m s t) (cid : Nat) (f : Step → Step) : Chg m s (State.modStep t cid f) := by
  unfold State.modStep
  try dsimp only
  repeat' first
    | with_reducible exact h
    | with_reducible assumption
    | with_reducible refine Chg.mk ?_

theorem State.mirror_chg {m : Nat} (hm : Sub 33554952 m) {s t : State} (h : Chg m s t) (t_ : Step) (p : Nat) (extra : Nat) : Chg m s (State.mirror t t_ p extra) := by
  unfold State.mirror
  repeat' first
    | with_reducible exact h
    | with_reducible assumption
    | with_reducible apply State.writeVirt_chg hm.le
    | with_reducible apply Chg.ite

theorem State.setStepFlag_chg {m : Nat} (hm : Sub 33554956 m) {s t : State} (h : Chg m s t) (t_ : Step) (p : Nat) (f : Fld) : Chg m s (State.setStepFlag t t_ p f) := by
  unfold State.setStepFlag
  repeat' first
    | with_reducible exact h
    | with_reducible assumption
    | with_reducible apply State.setFld_chg hm.le
    | with_reducible apply State.mirror_chg hm.le
    | with_reducible apply Chg.ite

theorem State.pollOne_chg {m : Nat} (hm : Sub 33554956 m) {s t : State} (h : Chg m s t) (t_ : Step) (p : Nat) : Chg m s (State.pollOne t t_ p) := by
  unfold State.pollOne
  try dsimp only
  repeat' first
    | with_reducible exact h
    | with_reducible assumption
    | with_reducible apply State.setStepFlag_chg hm.le
    | with_reducible apply Chg.ite

theorem State.pollSteps_chg {m : Nat} (hm : Sub 33554956 m) {s t : State} (h : Chg m s t) : Chg m s (State.pollSteps t) := by
  unfold State.pollSteps
  try dsimp only
  repeat' first
    | with_reducible exact h
    | with_reducible assumption
    | with_reducible apply State.pollOne_chg hm.le
    | with_reducible refine Chg.foldl _ ?_ _ ?_
    | with_reducible refine Chg.foldlFst _ ?_ _ ?_
    | intro _ _ _

theorem State.stopThread_chg {m : Nat} (hm : Sub 33690124 m) {s t : State} (h : Chg m s t) (t_ : Nat) : Chg m s (State.stopThread t t_) := by
  unfold State.stopThread
  try dsimp only
  repeat' first
    | with_reducible exact h
    | with_reducible assumption
    | with_reducible apply State.setThread_chg hm.le
    | with_reducible apply State.modStep_chg hm.le
    | with_reducible apply State.setStepFlag_chg hm.le
    | with_reducible apply Chg.ite
    | split

theorem State.loseCarried_chg {m : Nat} (hm : Sub 512 m) {s t : State} (h : Chg m s t) (p : Nat) (es : List Nat) (fctx : Option Nat) : Chg m s (State.loseCarried t p es fctx) := by
  unfold State.loseCarried
  try dsimp only
  repeat' first
    | with_reducible exact h
    | with_reducible assumption
    | with_reducible apply State.modPart_chg hm.le

theorem State.faultThread_chg {m : Nat} (hm : Sub 46273084 m) {s t : State} (h : Chg m s t) (t_ : Nat) (fctx : Nat) : Chg m s (State.faultThread t t_ fctx) := by
  unfold State.faultThread
  try dsimp only
  repeat' first
    | with_reducible exact h
    | with_reducible assumption
    | with_reducible apply State.setEvt_chg hm.le
    | with_reducible apply State.soot1_chg hm.le
    | with_reducible apply State.faultCtx_chg hm.le
    | with_reducible apply State.stopThread_chg hm.le
    | with_reducible apply State.loseCarried_chg hm.le
    | with_reducible apply Chg.ite
    | split

theorem State.illegalThread_chg {m : Nat} (hm : Sub 46273084 m) {s t : State} (h : Chg m s t) (t_ : Nat) (pc : Nat) (cond : Nat) : Chg m s (State.illegalThread t t_ pc cond) := by
  unfold State.illegalThread
  try dsimp only
  repeat' first
    | with_reducible exact h
    | with_reducible assumption
    | with_reducible apply State.soot1_chg hm.le
    | with_reducible apply State.faultThread_chg hm.le

theorem State.freeFaulted_chg {m : Nat} (hm : Sub 4096 m) {s t : State} (h : Chg m s t) (t_ : Nat) : Chg m s (State.freeFaulted t t_) := by
  unfold State.freeFaulted
  try dsimp only
  repeat' first
    | with_reducible exact h
    | with_reducible assumption
    | with_reducible apply State.setThread_chg hm.le
    | with_reducible apply Chg.ite

theorem State.freeStopped_chg {m : Nat} (hm : Sub 4096 m) {s t : State} (h : Chg m s t) : Chg m s (State.freeStopped t) := by
  unfold State.freeStopped
  try dsimp only
  repeat' first
    | with_reducible exact h
    | with_reducible assumption
    | with_reducible apply State.freeFaulted_chg hm.le
    | with_reducible refine Chg.foldl _ ?_ _ ?_
    | with_reducible refine Chg.foldlFst _ ?_ _ ?_
    | intro _ _ _

theorem State.freeEnded_chg {m : Nat} (hm : Sub 4096 m) {s t : State} (h : Chg m s t) (n : Nat) : Chg m s (State.freeEnded t n) := by
  unfold State.freeEnded
  dsimp only
  refine State.freeStopped_chg hm.le (h.threads hm.le _ ?_)
  refine twf_mapVal _ _ (fun e => by split <;> rfl) fun e he => ?_
  split
  · rename_i hc
    have hs : e.2.state = .faulted := by simpa using (Bool.and_eq_true_iff.mp hc).1
    intro hd
    have := congrArg Thread.state hd
    dsimp only at this
    split at this <;> exact absurd (hs.symm.trans this) (by decide)
  · exact he

theorem State.stopContext_chg {m : Nat} (hm : Sub 33690124 m) {s t : State} (h : Chg m s t) (n : Nat) : Chg m s (State.stopContext t n) := by
  unfold State.stopContext
  try dsimp only
  repeat' first
    | with_reducible exact h
    | with_reducible assumption
    | with_reducible apply State.stopThread_chg hm.le
    | with_reducible refine Chg.foldl _ ?_ _ ?_
    | with_reducible refine Chg.foldlFst _ ?_ _ ?_
    | intro _ _ _

end Sys2Proof.Machine
end

