-- ==== Sys2Proof/Laws/ChgSnuffer.lean ====
section
/-!
SUPPORT. ChgSnuffer.lean: the kinds of state that each operation of Snuffer.lean can change; each keeps the invariant.
-/

set_option Elab.async false
namespace Sys2Proof.Machine
open Sys2Proof.Config

theorem State.writeSample_chg {m : Nat} (hm : Sub 524 m) {s t : State} (h : Chg m s t) (cl : Nat) (cause : Nat) : Chg m s (State.writeSample t cl cause) := by
  unfold State.writeSample
  try dsimp only
  repeat' first
    | with_reducible exact h
    | with_reducible assumption
    | with_reducible apply State.setFld_chg hm.le
    | with_reducible apply State.agentWrite_chg hm.le
    | with_reducible refine Chg.foldl _ ?_ _ ?_
    | with_reducible refine Chg.foldlFst _ ?_ _ ?_
    | with_reducible apply Chg.ite
    | split
    | intro _ _ _

theorem State.dropDescs_chg {m : Nat} (hm : Sub 9216 m) {s t : State} (h : Chg m s t) (cl : Nat) (sel : Desc → Bool) : Chg m s (State.dropDescs t cl sel) := by
  unfold State.dropDescs
  try dsimp only
  repeat' first
    | with_reducible exact h
    | with_reducible assumption
    | with_reducible apply State.setChannel_chg hm.le
    | with_reducible refine Chg.foldl _ ?_ _ ?_
    | with_reducible refine Chg.foldlFst _ ?_ _ ?_
    | intro _ _ _
    | with_reducible refine Chg.mk ?_

theorem State.freeThreads_chg {m : Nat} (hm : Sub 4096 m) {s t : State} (h : Chg m s t) (l : List Nat) : Chg m s (State.freeThreads t l) := by
  unfold State.freeThreads
  try dsimp only
  repeat' first
    | with_reducible exact h
    | with_reducible assumption
    | with_reducible apply State.setThread_chg hm.le
    | with_reducible refine Chg.foldl _ ?_ _ ?_
    | with_reducible refine Chg.foldlFst _ ?_ _ ?_
    | intro _ _ _

theorem State.loseFrame_chg {m : Nat} (hm : Sub 512 m) {s t : State} (h : Chg m s t) (p : Nat) : Chg m s (State.loseFrame t p) := by
  unfold State.loseFrame
  try dsimp only
  repeat' first
    | with_reducible exact h
    | with_reducible assumption
    | with_reducible apply State.modPart_chg hm.le

theorem State.endSamples_chg {m : Nat} (hm : Sub 32768 m) {s t : State} (h : Chg m s t) (p n st : Nat) :
    Chg m s (State.endSamples t p n st) := by
  unfold State.endSamples
  refine h.table hm.le _ (twf_mapVal _ _ (fun e => by split <;> rfl) fun e he => ?_)
  split
  · exact fun hd => by cases congrArg Sample.endAs hd
  · exact he

theorem State.freezeLantern_chg {m : Nat} (hm : Sub 12584452 m) {s t : State} (h : Chg m s t) (cl : Nat) (repair : Bool) : Chg m s (State.freezeLantern t cl repair) := by
  unfold State.freezeLantern
  try dsimp only
  repeat' first
    | with_reducible exact h
    | with_reducible assumption
    | with_reducible apply State.setFld_chg hm.le
    | with_reducible apply State.setCluster_chg hm.le
    | with_reducible apply State.modPart_chg hm.le
    | with_reducible apply State.soot1_chg hm.le
    | with_reducible apply State.loseFrame_chg hm.le
    | with_reducible apply Chg.ite
    | split

theorem State.faultSuspect_chg {m : Nat} (hm : Sub 46273036 m) {s t : State} (h : Chg m s t) (cl : Nat) (n : Nat) : Chg m s (State.faultSuspect t cl n) := by
  unfold State.faultSuspect
  try dsimp only
  repeat' first
    | with_reducible exact h
    | with_reducible assumption
    | with_reducible apply State.soot1_chg hm.le
    | with_reducible apply State.stopThread_chg hm.le
    | with_reducible refine Chg.foldl _ ?_ _ ?_
    | with_reducible refine Chg.foldlFst _ ?_ _ ?_
    | intro _ _ _

theorem State.freezeHearth_chg {m : Nat} (hm : Sub 46282252 m) {s t : State} (h : Chg m s t) (cl : Nat) (repair : Bool) : Chg m s (State.freezeHearth t cl repair) := by
  unfold State.freezeHearth
  try dsimp only
  repeat' first
    | with_reducible exact h
    | with_reducible assumption
    | with_reducible apply State.setCluster_chg hm.le
    | with_reducible apply State.dropDescs_chg hm.le
    | with_reducible apply State.faultSuspect_chg hm.le
    | with_reducible apply Chg.ite
    | split

theorem State.freeze_chg {m : Nat} (hm : Sub 46282252 m) {s t : State} (h : Chg m s t) (cl : Nat) (cause : Nat) (repair : Bool) : Chg m s (State.freeze t cl cause repair) := by
  unfold State.freeze
  try dsimp only
  repeat' first
    | with_reducible exact h
    | with_reducible assumption
    | with_reducible apply State.setFld_chg hm.le
    | with_reducible apply State.setCluster_chg hm.le
    | with_reducible apply State.hwSet_chg hm.le
    | with_reducible apply State.raise_chg hm.le
    | with_reducible apply State.triggerReset_chg hm.le
    | with_reducible apply State.writeSample_chg hm.le
    | with_reducible apply State.dropDescs_chg hm.le
    | with_reducible apply State.freezeLantern_chg hm.le
    | with_reducible apply State.freezeHearth_chg hm.le
    | with_reducible apply Chg.ite
    | split
    | with_reducible refine Chg.mk ?_

theorem State.hang_chg {m : Nat} (hm : Sub 46282252 m) {s t : State} (h : Chg m s t) (cl : Nat) (cause : Nat) (thread : Nat) (detail : Nat) (deadline : Nat) : Chg m s (State.hang t cl cause thread detail deadline) := by
  unfold State.hang
  try dsimp only
  repeat' first
    | with_reducible exact h
    | with_reducible assumption
    | with_reducible apply State.soot1_chg hm.le
    | with_reducible apply State.freeze_chg hm.le
    | with_reducible apply Chg.ite

theorem State.tileOut_chg {m : Nat} (hm : Sub 46282252 m) {s t : State} (h : Chg m s t) (tile : Nat) (pass : Nat) : Chg m s (State.tileOut t tile pass) := by
  unfold State.tileOut
  try dsimp only
  repeat' first
    | with_reducible exact h
    | with_reducible assumption
    | with_reducible apply State.setFld_chg hm.le
    | with_reducible apply State.setCluster_chg hm.le
    | with_reducible apply State.soot1_chg hm.le
    | with_reducible apply State.freeze_chg hm.le

end Sys2Proof.Machine
end

