-- ==== Sys2Proof/Laws/ChgThreads.lean ====
section
/-!
SUPPORT. ChgThreads.lean: the kinds of state that each operation of Threads.lean can change; each keeps the invariant.
-/

set_option Elab.async false
namespace Sys2Proof.Machine
open Sys2Proof.Config

theorem State.startThread_chg {m : Nat} (hm : Sub 4096 m) {s t : State} (h : Chg m s t) (r : List Byte) (owner : Owner) (index : Nat) (start : Nat) (carries : List Nat) : Chg m s (State.startThread t r owner index start carries) := by
  unfold State.startThread
  try dsimp only
  repeat' first
    | with_reducible exact h
    | with_reducible assumption
    | with_reducible apply State.setThread_chg hm.le

theorem State.launchRefused_chg {m : Nat} (hm : Sub 12582916 m) {s t : State} (h : Chg m s t) (p : Nat) (index : Nat) (r : List Byte) : Chg m s (State.launchRefused t p index r) := by
  unfold State.launchRefused
  repeat' first
    | with_reducible exact h
    | with_reducible assumption
    | with_reducible apply State.soot1_chg hm.le

theorem execThreadLaunch_chg {m : Nat} (hm : Sub 46273036 m) (s : State) (p : Nat) (index : Nat) (record : List Byte) (startCycle : Nat) : NextChg m s (execThreadLaunch p index record startCycle s) := by
  unfold execThreadLaunch
  try dsimp only
  repeat' first
    | with_reducible exact Chg.refl _ _
    | with_reducible assumption
    | with_reducible refine NextChg.actHost ?_
    | with_reducible refine NextChg.act ?_
    | with_reducible refine NextChg.next ?_
    | with_reducible apply State.modStep_chg hm.le
    | with_reducible apply State.setStepFlag_chg hm.le
    | with_reducible apply State.loseCarried_chg hm.le
    | with_reducible apply State.startThread_chg hm.le
    | with_reducible apply State.launchRefused_chg hm.le
    | with_reducible apply Chg.ite
    | split

theorem State.setNf_chg {m : Nat} (hm : Sub 2048 m) {s t : State} (h : Chg m s t) (tile : Nat) (b : Nat) (v : Bool) : Chg m s (State.setNf t tile b v) := by
  unfold State.setNf
  try dsimp only
  repeat' first
    | with_reducible exact h
    | with_reducible assumption
    | with_reducible apply State.setTile_chg hm.le

theorem State.accumulate_chg {m : Nat} (hm : Sub 2056 m) {s t : State} (h : Chg m s t) (pa : Nat) (wide : Bool) (init : Bool) (c : ColSum) : Chg m s (State.accumulate t pa wide init c) := by
  unfold State.accumulate
  try dsimp only
  repeat' first
    | with_reducible exact h
    | with_reducible assumption
    | with_reducible apply State.writeMem_chg hm.le
    | with_reducible apply State.setNf_chg hm.le
    | with_reducible apply Chg.ite
    | split

theorem State.effect_chg {m : Nat} (hm : Sub 113393212 m) {s t : State} (h : Chg m s t) (t_ : Nat) (e : Effect) : Chg m s (State.effect t t_ e) := by
  unfold State.effect
  try dsimp only
  repeat' first
    | with_reducible exact h
    | with_reducible assumption
    | with_reducible apply State.setFld_chg hm.le
    | with_reducible apply State.setTile_chg hm.le
    | with_reducible apply State.setThread_chg hm.le
    | with_reducible apply State.toHost_chg hm.le
    | with_reducible apply State.writeMem_chg hm.le
    | with_reducible apply State.undefMem_chg hm.le
    | with_reducible apply State.soot1_chg hm.le
    | with_reducible apply State.faultThread_chg hm.le
    | with_reducible apply State.setHistory_chg hm.le
    | with_reducible apply State.damperReport_chg hm.le
    | with_reducible apply State.damperUpdate_chg hm.le
    | with_reducible apply State.memUe_chg hm.le
    | with_reducible apply State.tileOut_chg hm.le
    | with_reducible apply Chg.ite
    | split

theorem State.effects_chg {m : Nat} (hm : Sub 113393212 m) {s t : State} (h : Chg m s t) (t_ : Nat) (l : List Effect) : Chg m s (State.effects t t_ l) := by
  unfold State.effects
  try dsimp only
  repeat' first
    | with_reducible exact h
    | with_reducible assumption
    | with_reducible apply State.effect_chg hm.le
    | with_reducible refine Chg.foldl _ ?_ _ ?_
    | with_reducible refine Chg.foldlFst _ ?_ _ ?_
    | intro _ _ _

theorem State.markReplayed_chg {m : Nat} (hm : Sub 32 m) {s t : State} (h : Chg m s t) (n : Nat) (frozen : Nat) : Chg m s (State.markReplayed t n frozen) := by
  unfold State.markReplayed
  try dsimp only
  repeat' first
    | with_reducible exact h
    | with_reducible assumption
    | with_reducible apply Chg.ite
    | split
    | with_reducible refine Chg.mk ?_

theorem State.endSuspect_chg {m : Nat} (hm : Sub 12583940 m) {s t : State} (h : Chg m s t) (cl : Nat) (n : Nat) (result : Nat) (m_ : Nat) : Chg m s (State.endSuspect t cl n result m_) := by
  unfold State.endSuspect
  try dsimp only
  repeat' first
    | with_reducible exact h
    | with_reducible assumption
    | with_reducible apply State.setFld_chg hm.le
    | with_reducible apply State.setCluster_chg hm.le
    | with_reducible apply State.soot1_chg hm.le
    | with_reducible apply Chg.ite

theorem State.replayCheck_chg {m : Nat} (hm : Sub 12583940 m) {s t : State} (h : Chg m s t) (cl : Nat) : Chg m s (State.replayCheck t cl) := by
  unfold State.replayCheck
  try dsimp only
  repeat' first
    | with_reducible exact h
    | with_reducible assumption
    | with_reducible apply State.endSuspect_chg hm.le
    | with_reducible apply Chg.ite
    | split

theorem State.dueReplays_chg {m : Nat} (hm : Sub 12583940 m) {s t : State} (h : Chg m s t) : Chg m s (State.dueReplays t) := by
  unfold State.dueReplays
  try dsimp only
  repeat' first
    | with_reducible exact h
    | with_reducible assumption
    | with_reducible apply State.replayCheck_chg hm.le
    | with_reducible refine Chg.foldl _ ?_ _ ?_
    | with_reducible refine Chg.foldlFst _ ?_ _ ?_
    | intro _ _ _

theorem State.dropFlight_chg {m : Nat} (hm : Sub 8192 m) {s t : State} (h : Chg m s t) (id : Nat) : Chg m s (State.dropFlight t id) := by
  unfold State.dropFlight
  try dsimp only
  repeat' first
    | with_reducible exact h
    | with_reducible assumption
    | with_reducible refine Chg.mk ?_

theorem State.serveLoads_chg {m : Nat} (hm : Sub 8192 m) {s t : State} (h : Chg m s t) (f : InFlight) : Chg m s (State.serveLoads t f) := by
  unfold State.serveLoads
  try dsimp only
  repeat' first
    | with_reducible exact h
    | with_reducible assumption
    | with_reducible apply Chg.ite
    | split
    | with_reducible refine Chg.mk ?_

theorem State.complete_chg {m : Nat} (hm : Sub 113393212 m) {s t : State} (h : Chg m s t) (f : InFlight) : Chg m s (State.complete t f) := by
  unfold State.complete
  try dsimp only
  repeat' first
    | with_reducible exact h
    | with_reducible assumption
    | with_reducible apply State.setThread_chg hm.le
    | with_reducible apply State.pollSteps_chg hm.le
    | with_reducible apply State.freeFaulted_chg hm.le
    | with_reducible apply State.effects_chg hm.le
    | with_reducible apply State.replayCheck_chg hm.le
    | with_reducible apply State.dropFlight_chg hm.le
    | with_reducible apply State.serveLoads_chg hm.le
    | with_reducible apply Chg.ite

theorem State.completeNow_chg {m : Nat} (hm : Sub 113393212 m) {s t : State} (h : Chg m s t) (id : Nat) : Chg m s (State.completeNow t id) := by
  unfold State.completeNow
  try dsimp only
  repeat' first
    | with_reducible exact h
    | with_reducible assumption
    | with_reducible apply State.complete_chg hm.le
    | with_reducible apply Chg.ite
    | split

theorem State.completeBelow_chg {m : Nat} (hm : Sub 113393212 m) {s t : State} (h : Chg m s t) (k : Nat) : Chg m s (State.completeBelow t k) := by
  unfold State.completeBelow
  try dsimp only
  repeat' first
    | with_reducible exact h
    | with_reducible assumption
    | with_reducible apply State.completeNow_chg hm.le
    | with_reducible refine Chg.foldl _ ?_ _ ?_
    | with_reducible refine Chg.foldlFst _ ?_ _ ?_
    | intro _ _ _

theorem State.signalDesc_chg {m : Nat} (hm : Sub 4104 m) {s t : State} (h : Chg m s t) (d : Desc) : Chg m s (State.signalDesc t d) := by
  unfold State.signalDesc
  try dsimp only
  repeat' first
    | with_reducible exact h
    | with_reducible assumption
    | with_reducible apply State.modThread_chg hm.le
    | with_reducible apply State.writeMem_chg hm.le
    | with_reducible apply Chg.ite
    | split

theorem State.endDesc_chg {m : Nat} (hm : Sub 113393212 m) {s t : State} (h : Chg m s t) (cl : Nat) (ch : Nat) (d : Desc) (r : List Desc) : Chg m s (State.endDesc t cl ch d r) := by
  unfold State.endDesc
  try dsimp only
  repeat' first
    | with_reducible exact h
    | with_reducible assumption
    | with_reducible apply State.pollSteps_chg hm.le
    | with_reducible apply State.faultThread_chg hm.le
    | with_reducible apply State.lateTransfer_chg hm.le
    | with_reducible apply State.badWrite_chg hm.le
    | with_reducible apply State.setChannel_chg hm.le
    | with_reducible apply State.complete_chg hm.le
    | with_reducible apply State.signalDesc_chg hm.le
    | with_reducible apply Chg.ite
    | split

theorem State.endDue_chg {m : Nat} (hm : Sub 113393212 m) {s t : State} (h : Chg m s t) (cl : Nat) (ch : Nat) : Chg m s (State.endDue t cl ch) := by
  unfold State.endDue
  try dsimp only
  repeat' first
    | with_reducible exact h
    | with_reducible assumption
    | with_reducible apply State.endDesc_chg hm.le
    | with_reducible apply Chg.ite
    | split

theorem State.endDescs_chg {m : Nat} (hm : Sub 113393212 m) {s t : State} (h : Chg m s t) : Chg m s (State.endDescs t) := by
  unfold State.endDescs
  try dsimp only
  repeat' first
    | with_reducible exact h
    | with_reducible assumption
    | with_reducible apply State.endDue_chg hm.le
    | with_reducible refine Chg.foldl _ ?_ _ ?_
    | with_reducible refine Chg.foldlFst _ ?_ _ ?_
    | intro _ _ _

theorem State.settleSteps_chg {m : Nat} (hm : Sub 113393212 m) {s t : State} (h : Chg m s t) : Chg m s (State.settleSteps t) := by
  unfold State.settleSteps
  repeat' first
    | with_reducible exact h
    | with_reducible assumption
    | with_reducible apply State.dmaCycle_chg hm.le
    | with_reducible apply State.completeBelow_chg hm.le

theorem State.settleWrites_chg {m : Nat} (hm : Sub 113393212 m) {s t : State} (h : Chg m s t) : Chg m s (State.settleWrites t) := by
  unfold State.settleWrites
  repeat' first
    | with_reducible exact h
    | with_reducible assumption
    | with_reducible apply State.endDescs_chg hm.le
    | with_reducible apply State.settleSteps_chg hm.le

theorem State.lateWrite_chg {m : Nat} (hm : Sub 12582916 m) {s t : State} (h : Chg m s t) (f : InFlight) : Chg m s (State.lateWrite t f) := by
  unfold State.lateWrite
  try dsimp only
  repeat' first
    | with_reducible exact h
    | with_reducible assumption
    | with_reducible apply State.hostSlow_chg hm.le
    | with_reducible apply Chg.ite
    | split

theorem execInstructionComplete_chg {m : Nat} (hm : Sub 113393212 m) (s : State) (t_ : Nat) (id : Nat) : NextChg m s (execInstructionComplete t_ id s) := by
  unfold execInstructionComplete
  try dsimp only
  repeat' first
    | with_reducible exact Chg.refl _ _
    | with_reducible assumption
    | with_reducible refine NextChg.actHost ?_
    | with_reducible refine NextChg.act ?_
    | with_reducible refine NextChg.next ?_
    | with_reducible apply State.complete_chg hm.le
    | with_reducible apply State.completeBelow_chg hm.le
    | with_reducible apply State.settleWrites_chg hm.le
    | with_reducible apply State.lateWrite_chg hm.le
    | with_reducible apply Chg.ite
    | split

theorem State.answered_chg {m : Nat} (hm : Sub 8192 m) {s t : State} (h : Chg m s t) (f : InFlight) (due : Nat) (effects : List Effect) : Chg m s (State.answered t f due effects) := by
  unfold State.answered
  try dsimp only
  repeat' first
    | with_reducible exact h
    | with_reducible assumption
    | with_reducible refine Chg.mk ?_

theorem execHostCompletionArrive_chg {m : Nat} (hm : Sub 12591116 m) (s : State) (t_ : Nat) (id : Nat) (status : Nat) (data : List Byte) : NextChg m s (execHostCompletionArrive t_ id status data s) := by
  unfold execHostCompletionArrive
  try dsimp only
  repeat' first
    | with_reducible exact Chg.refl _ _
    | with_reducible assumption
    | with_reducible refine NextChg.actHost ?_
    | with_reducible refine NextChg.act ?_
    | with_reducible refine NextChg.next ?_
    | with_reducible apply State.writeMem_chg hm.le
    | with_reducible apply State.hostSlow_chg hm.le
    | with_reducible apply State.hostError_chg hm.le
    | with_reducible apply State.answered_chg hm.le
    | with_reducible apply Chg.ite
    | split

theorem execCxlResponseArrive_chg {m : Nat} (hm : Sub 12591108 m) (s : State) (t_ : Nat) (id : Nat) (late : Nat) (err : Bool) : NextChg m s (execCxlResponseArrive t_ id late err s) := by
  unfold execCxlResponseArrive
  try dsimp only
  repeat' first
    | with_reducible exact Chg.refl _ _
    | with_reducible assumption
    | with_reducible refine NextChg.actHost ?_
    | with_reducible refine NextChg.act ?_
    | with_reducible refine NextChg.next ?_
    | with_reducible apply State.cxlSlowEvt_chg hm.le
    | with_reducible apply State.cxlMediaEvt_chg hm.le
    | with_reducible apply State.answered_chg hm.le
    | with_reducible apply Chg.ite
    | split

theorem execReadTimeout_chg {m : Nat} (hm : Sub 12591108 m) (s : State) (t_ : Nat) (id : Nat) : NextChg m s (execReadTimeout t_ id s) := by
  unfold execReadTimeout
  try dsimp only
  repeat' first
    | with_reducible exact Chg.refl _ _
    | with_reducible assumption
    | with_reducible refine NextChg.actHost ?_
    | with_reducible refine NextChg.act ?_
    | with_reducible refine NextChg.next ?_
    | with_reducible apply State.hostError_chg hm.le
    | with_reducible apply State.cxlSlowEvt_chg hm.le
    | with_reducible apply State.answered_chg hm.le
    | with_reducible apply Chg.ite
    | split

theorem State.startDesc_chg {m : Nat} (hm : Sub 1024 m) {s t : State} (h : Chg m s t) (cl : Nat) (ch : Nat) (k : Nat) (h_ : Hap) : Chg m s (State.startDesc t cl ch k h_) := by
  unfold State.startDesc
  try dsimp only
  repeat' first
    | with_reducible exact h
    | with_reducible assumption
    | with_reducible apply State.setChannel_chg hm.le
    | with_reducible apply Chg.ite
    | split

theorem execCopy_chg {m : Nat} (hm : Sub 1024 m) (s : State) (cl : Nat) (ch : Nat) (h_ : Hap) : NextChg m s (execCopy cl ch h_ s) := by
  unfold execCopy
  repeat' first
    | with_reducible exact Chg.refl _ _
    | with_reducible assumption
    | with_reducible refine NextChg.actHost ?_
    | with_reducible refine NextChg.act ?_
    | with_reducible refine NextChg.next ?_
    | with_reducible apply State.startDesc_chg hm.le

theorem execStrided_chg {m : Nat} (hm : Sub 1024 m) (s : State) (cl : Nat) (ch : Nat) (h_ : Hap) : NextChg m s (execStrided cl ch h_ s) := by
  unfold execStrided
  repeat' first
    | with_reducible exact Chg.refl _ _
    | with_reducible assumption
    | with_reducible refine NextChg.actHost ?_
    | with_reducible refine NextChg.act ?_
    | with_reducible refine NextChg.next ?_
    | with_reducible apply State.startDesc_chg hm.le

theorem execTranspose_chg {m : Nat} (hm : Sub 1024 m) (s : State) (cl : Nat) (ch : Nat) (h_ : Hap) : NextChg m s (execTranspose cl ch h_ s) := by
  unfold execTranspose
  repeat' first
    | with_reducible exact Chg.refl _ _
    | with_reducible assumption
    | with_reducible refine NextChg.actHost ?_
    | with_reducible refine NextChg.act ?_
    | with_reducible refine NextChg.next ?_
    | with_reducible apply State.startDesc_chg hm.le

theorem execPageWalk_chg {m : Nat} (hm : Sub 1024 m) (s : State) (cl : Nat) (ch : Nat) (h_ : Hap) : NextChg m s (execPageWalk cl ch h_ s) := by
  unfold execPageWalk
  repeat' first
    | with_reducible exact Chg.refl _ _
    | with_reducible assumption
    | with_reducible refine NextChg.actHost ?_
    | with_reducible refine NextChg.act ?_
    | with_reducible refine NextChg.next ?_
    | with_reducible apply State.startDesc_chg hm.le

theorem execMulticast_chg {m : Nat} (hm : Sub 1024 m) (s : State) (cl : Nat) (ch : Nat) (h_ : Hap) : NextChg m s (execMulticast cl ch h_ s) := by
  unfold execMulticast
  repeat' first
    | with_reducible exact Chg.refl _ _
    | with_reducible assumption
    | with_reducible refine NextChg.actHost ?_
    | with_reducible refine NextChg.act ?_
    | with_reducible refine NextChg.next ?_
    | with_reducible apply State.startDesc_chg hm.le

theorem execFill_chg {m : Nat} (hm : Sub 1024 m) (s : State) (cl : Nat) (ch : Nat) (h_ : Hap) : NextChg m s (execFill cl ch h_ s) := by
  unfold execFill
  repeat' first
    | with_reducible exact Chg.refl _ _
    | with_reducible assumption
    | with_reducible refine NextChg.actHost ?_
    | with_reducible refine NextChg.act ?_
    | with_reducible refine NextChg.next ?_
    | with_reducible apply State.startDesc_chg hm.le

theorem execDmaDescriptorEnd_chg {m : Nat} (hm : Sub 113393212 m) (s : State) (cl : Nat) (ch : Nat) : NextChg m s (execDmaDescriptorEnd cl ch s) := by
  unfold execDmaDescriptorEnd
  try dsimp only
  repeat' first
    | with_reducible exact Chg.refl _ _
    | with_reducible assumption
    | with_reducible refine NextChg.actHost ?_
    | with_reducible refine NextChg.act ?_
    | with_reducible refine NextChg.next ?_
    | with_reducible apply State.endDesc_chg hm.le
    | with_reducible apply State.settleSteps_chg hm.le
    | with_reducible apply Chg.ite
    | split

theorem State.stopDescs_chg {m : Nat} (hm : Sub 9216 m) {s t : State} (h : Chg m s t) (n : Nat) : Chg m s (State.stopDescs t n) := by
  unfold State.stopDescs
  try dsimp only
  repeat' first
    | with_reducible exact h
    | with_reducible assumption
    | with_reducible apply State.setChannel_chg hm.le
    | with_reducible refine Chg.foldl _ ?_ _ ?_
    | with_reducible refine Chg.foldlFst _ ?_ _ ?_
    | intro _ _ _
    | with_reducible refine Chg.mk ?_

end Sys2Proof.Machine
end

