-- ==== Sys2Proof/Laws/ChgCommandDma.lean ====
section
/-!
SUPPORT. ChgCommandDma.lean: the kinds of state that each operation of CommandDma.lean can change; each keeps the invariant.
-/

set_option Elab.async false
namespace Sys2Proof.Machine
open Sys2Proof.Config

theorem State.queueJob_chg {m : Nat} (hm : Sub 512 m) {s t : State} (h : Chg m s t) (p : Nat) (j : DmaJob) : Chg m s (State.queueJob t p j) := by
  unfold State.queueJob
  try dsimp only
  repeat' first
    | with_reducible exact h
    | with_reducible assumption
    | with_reducible apply State.modPart_chg hm.le

theorem State.undefJob_chg {m : Nat} (hm : Sub 67108872 m) {s t : State} (h : Chg m s t) (p : Nat) (j : DmaJob) : Chg m s (State.undefJob t p j) := by
  unfold State.undefJob
  repeat' first
    | with_reducible exact h
    | with_reducible assumption
    | with_reducible apply State.undefMem_chg hm.le
    | with_reducible apply State.undefDesc_chg hm.le
    | with_reducible apply Chg.ite

theorem State.dropJobs_chg {m : Nat} (hm : Sub 67109384 m) {s t : State} (h : Chg m s t) (sel : Nat → DmaJob → Bool) : Chg m s (State.dropJobs t sel) := by
  unfold State.dropJobs
  try dsimp only
  repeat' first
    | with_reducible exact h
    | with_reducible assumption
    | with_reducible apply State.modPart_chg hm.le
    | with_reducible apply State.undefJob_chg hm.le
    | with_reducible refine Chg.foldl _ ?_ _ ?_
    | with_reducible refine Chg.foldlFst _ ?_ _ ?_
    | intro _ _ _

theorem State.stopJobs_chg {m : Nat} (hm : Sub 67109384 m) {s t : State} (h : Chg m s t) (n : Nat) : Chg m s (State.stopJobs t n) := by
  unfold State.stopJobs
  try dsimp only
  repeat' first
    | with_reducible exact h
    | with_reducible assumption
    | with_reducible apply State.dropJobs_chg hm.le

theorem State.dropInstall_chg {m : Nat} (hm : Sub 67109384 m) {s t : State} (h : Chg m s t) (c : Cmd) : Chg m s (State.dropInstall t c) := by
  unfold State.dropInstall
  try dsimp only
  repeat' first
    | with_reducible exact h
    | with_reducible assumption
    | with_reducible apply State.modPart_chg hm.le
    | with_reducible apply State.dropJobs_chg hm.le
    | with_reducible refine Chg.foldl _ ?_ _ ?_
    | with_reducible refine Chg.foldlFst _ ?_ _ ?_
    | intro _ _ _

theorem State.abortChannel_chg {m : Nat} (hm : Sub 104858172 m) {s t : State} (h : Chg m s t) (p : Nat) (st : Nat) : Chg m s (State.abortChannel t p st) := by
  unfold State.abortChannel
  try dsimp only
  repeat' first
    | with_reducible exact h
    | with_reducible assumption
    | with_reducible apply State.finish_chg hm.le
    | with_reducible apply State.dropJobs_chg hm.le
    | with_reducible apply State.dropInstall_chg hm.le
    | with_reducible refine Chg.foldl _ ?_ _ ?_
    | with_reducible refine Chg.foldlFst _ ?_ _ ?_
    | with_reducible apply Chg.ite
    | split
    | intro _ _ _

theorem State.startDma_chg {m : Nat} (hm : Sub 544 m) {s t : State} (h : Chg m s t) (c : Cmd) (fill : Bool) : Chg m s (State.startDma t c fill) := by
  unfold State.startDma
  try dsimp only
  repeat' first
    | with_reducible exact h
    | with_reducible assumption
    | with_reducible apply State.modCmd_chg hm.le
    | with_reducible apply State.queueJob_chg hm.le
    | with_reducible apply Chg.ite
    | split

theorem execDmaFill_chg {m : Nat} (hm : Sub 544 m) (s : State) (n : Nat) : NextChg m s (execDmaFill n s) := by
  unfold execDmaFill
  try dsimp only
  repeat' first
    | with_reducible exact Chg.refl _ _
    | with_reducible assumption
    | with_reducible refine NextChg.actHost ?_
    | with_reducible refine NextChg.act ?_
    | with_reducible refine NextChg.next ?_
    | with_reducible apply State.settle_chg hm.le
    | with_reducible apply State.startDma_chg hm.le
    | split
    | intro _

theorem execDmaCopy_chg {m : Nat} (hm : Sub 544 m) (s : State) (n : Nat) : NextChg m s (execDmaCopy n s) := by
  unfold execDmaCopy
  try dsimp only
  repeat' first
    | with_reducible exact Chg.refl _ _
    | with_reducible assumption
    | with_reducible refine NextChg.actHost ?_
    | with_reducible refine NextChg.act ?_
    | with_reducible refine NextChg.next ?_
    | with_reducible apply State.settle_chg hm.le
    | with_reducible apply State.startDma_chg hm.le
    | split
    | intro _

theorem State.countJob_chg {m : Nat} (hm : Sub 32 m) {s t : State} (h : Chg m s t) (cid : Nat) (e : Nat) : Chg m s (State.countJob t cid e) := by
  unfold State.countJob
  try dsimp only
  repeat' first
    | with_reducible exact h
    | with_reducible assumption
    | with_reducible apply State.modCmd_chg hm.le

theorem execDmaCommandStart_chg {m : Nat} (hm : Sub 544 m) (s : State) (p : Nat) (h_ : Hap) : NextChg m s (execDmaCommandStart p h_ s) := by
  unfold execDmaCommandStart
  try dsimp only
  repeat' first
    | with_reducible exact Chg.refl _ _
    | with_reducible assumption
    | with_reducible refine NextChg.actHost ?_
    | with_reducible refine NextChg.act ?_
    | with_reducible refine NextChg.next ?_
    | with_reducible apply State.modPart_chg hm.le
    | with_reducible apply State.countJob_chg hm.le
    | with_reducible apply Chg.ite
    | split

theorem State.endJob_chg {m : Nat} (hm : Sub 113246780 m) {s t : State} (h : Chg m s t) (p : Nat) (j : DmaJob) : Chg m s (State.endJob t p j) := by
  unfold State.endJob
  try dsimp only
  repeat' first
    | with_reducible exact h
    | with_reducible assumption
    | with_reducible apply State.modPart_chg hm.le
    | with_reducible apply State.modCmd_chg hm.le
    | with_reducible apply State.finish_chg hm.le
    | with_reducible apply State.lateTransfer_chg hm.le
    | with_reducible apply State.badWrite_chg hm.le
    | with_reducible apply State.undefJob_chg hm.le
    | with_reducible apply Chg.ite

theorem execDmaCommandEnd_chg {m : Nat} (hm : Sub 113393212 m) (s : State) (p : Nat) : NextChg m s (execDmaCommandEnd p s) := by
  unfold execDmaCommandEnd
  try dsimp only
  repeat' first
    | with_reducible exact Chg.refl _ _
    | with_reducible assumption
    | with_reducible refine NextChg.actHost ?_
    | with_reducible refine NextChg.act ?_
    | with_reducible refine NextChg.next ?_
    | with_reducible apply State.settleWrites_chg hm.le
    | with_reducible apply State.endJob_chg hm.le
    | with_reducible apply Chg.ite
    | split

end Sys2Proof.Machine
end

