-- ==== Sys2Proof/Laws/Ranges.lean ====
section
/-!
SUPPORT. Ranges.lean: zeroing and copying a range keep the canonical form of the memory.
-/
namespace Sys2Proof.Machine
open Sys2Proof.Config

/-- The first of two lists of fills that covers an address decides. -/
theorem undefAt_append (a : Nat) (y : List (Nat × Nat × Fill)) : ∀ (x : List (Nat × Nat × Fill)),
    undefAt (x ++ y) a = (undefAt x a).or (undefAt y a)
  | [] => by simp [undefAt]
  | (b, n, ev) :: r => by
    simp only [List.cons_append, undefAt]
    split
    · rfl
    · exact undefAt_append a y r

/-- A list of fills cut into pieces covers an address as the list did, if each fill does. -/
theorem undefAt_flatMap (f : Nat × Nat × Fill → List (Nat × Nat × Fill)) (a : Nat)
    (hf : ∀ e, undefAt (f e) a = undefAt [e] a) : ∀ (u : List (Nat × Nat × Fill)), undefAt (u.flatMap f) a = undefAt u a
  | [] => rfl
  | e :: r => by
    rw [List.flatMap_cons, undefAt_append, hf, undefAt_flatMap f a hf r, ← undefAt_append]
    rfl

/-- No fill covers an address that none of the list covers. -/
theorem undefAt_none (a : Nat) : ∀ (u : List (Nat × Nat × Fill)), (∀ e ∈ u, ¬ (e.1 ≤ a ∧ a < e.1 + e.2.1)) → undefAt u a = none
  | [], _ => rfl
  | (b, n, ev) :: r, h => by
    simp only [undefAt]
    rw [if_neg (h _ (List.mem_cons_self ..)), undefAt_none a r fun e he => h e (List.mem_cons_of_mem _ he)]

/-- Outside a zeroed range the fills are as they were. -/
theorem undefAt_zeroRange (m : Memory) (base n a : Nat) (ha : ¬ (base ≤ a ∧ a < base + n)) :
    undefAt (m.zeroRange base n).undef a = undefAt m.undef a := by
  refine undefAt_flatMap _ a ?_ m.undef
  rintro ⟨b, k, ev⟩
  dsimp only
  have hmx : Nat.max b base = max b base := rfl
  have hmn : Nat.min (b + k) (base + n) = min (b + k) (base + n) := rfl
  rw [hmx, hmn]
  by_cases h1 : max b base < min (b + k) (base + n)
  · rw [if_pos h1]
    by_cases h2 : b < max b base <;> by_cases h3 : min (b + k) (base + n) < b + k <;>
      simp only [h2, h3, if_true, if_false, List.nil_append, List.append_nil, List.cons_append, undefAt] <;>
      (repeat' split) <;> first | rfl | omega
  · rw [if_neg h1]

theorem zeroRange_wf (m : Memory) (base n : Nat) (h : m.wf = true) : (m.zeroRange base n).wf = true := by
  refine cellsOk_filter _ ?_ h
  intro c b hc hb
  simp only [Bool.not_eq_true', decide_eq_false_iff_not] at hc
  unfold blankOf at hb ⊢
  rw [undefAt_zeroRange m base n c.1 hc] at hb
  exact hb

theorem foldl_write_wf (f : Host.Cell → Nat) (l : List Host.Cell) (m : Memory) (h : m.wf = true) :
    (l.foldl (fun a c => a.write (f c) c.2) m).wf = true := by
  induction l generalizing m with
  | nil => exact h
  | cons c r ih => exact ih _ (write_wf m _ _ h)

/-- A zeroed range holds no cell. -/
theorem zeroRange_out {m : Memory} {base n : Nat} {c : Host.Cell} (hc : c ∈ (m.zeroRange base n).cells) :
    ¬ (base ≤ c.1 ∧ c.1 < base + n) := by
  have h := (List.mem_filter.mp hc).2
  simp only [Bool.not_eq_true', decide_eq_false_iff_not] at h
  exact h

/-- Fills put before the others keep the canonical form where they cover no listed address. -/
theorem cellsOk_prepend (x u : List (Nat × Nat × Fill)) : ∀ {lo : Nat} {c : List Host.Cell},
    (∀ e ∈ c, undefAt x e.1 = none) → cellsOk u lo c = true → cellsOk (x ++ u) lo c = true
  | _, [], _, _ => rfl
  | lo, (k, b) :: r, hx, h => by
    simp only [cellsOk, Bool.and_eq_true] at h ⊢
    refine ⟨⟨h.1.1, ?_⟩, cellsOk_prepend x u (fun e he => hx e (List.mem_cons_of_mem _ he)) h.2⟩
    have h1 : blankOf (x ++ u) k = blankOf u k := by
      unfold blankOf
      rw [undefAt_append, hx (k, b) (List.mem_cons_self ..)]
      rfl
    rw [h1]
    exact h.1.2

theorem copyRange_wf (m : Memory) (src dst n : Nat) (h : m.wf = true) : (m.copyRange src dst n).wf = true := by
  refine foldl_write_wf (fun c => dst + (c.1 - src)) _ _ ?_
  refine cellsOk_prepend _ _ ?_ (zeroRange_wf m dst n h)
  intro c hc
  have hout := zeroRange_out hc
  refine undefAt_none c.1 _ ?_
  intro e he hcov
  rw [List.mem_filterMap] at he
  obtain ⟨u, _, hu⟩ := he
  dsimp only at hu
  split at hu
  · cases hu
    have hmx : Nat.max u.1 src = max u.1 src := rfl
    have hmn : Nat.min (u.1 + u.2.1) (src + n) = min (u.1 + u.2.1) (src + n) := rfl
    dsimp only at hcov
    rw [hmx, hmn] at hcov
    omega
  · cases hu

end Sys2Proof.Machine
end

