-- ==== Sys2Proof/Laws/ChgKv.lean ====
section
/-!
SUPPORT. ChgKv.lean: the kinds of state that each operation of Kv.lean can change; each keeps the invariant.
-/

set_option Elab.async false
namespace Sys2Proof.Machine
open Sys2Proof.Config

theorem State.setPg_chg {m : Nat} (hm : Sub 520 m) {s t : State} (h : Chg m s t) (p : Nat) (k : Nat) (g : Page) : Chg m s (State.setPg t p k g) := by
  unfold State.setPg
  try dsimp only
  repeat' first
    | with_reducible exact h
    | with_reducible assumption
    | with_reducible apply State.modPart_chg hm.le
    | with_reducible apply State.agentWrite_chg hm.le

theorem State.setList_chg {m : Nat} (hm : Sub 520 m) {s t : State} (h : Chg m s t) (p : Nat) (i : Nat) (l : List Nat) : Chg m s (State.setList t p i l) := by
  unfold State.setList
  try dsimp only
  repeat' first
    | with_reducible exact h
    | with_reducible assumption
    | with_reducible apply State.modPart_chg hm.le
    | with_reducible apply State.agentWrite_chg hm.le

theorem State.syncKv_chg {m : Nat} (hm : Sub 4 m) {s t : State} (h : Chg m s t) (p : Nat) : Chg m s (State.syncKv t p) := by
  unfold State.syncKv
  repeat' first
    | with_reducible exact h
    | with_reducible assumption
    | with_reducible apply State.setFld_chg hm.le
    | with_reducible apply Chg.ite

theorem State.enterArena_chg {m : Nat} (hm : Sub 524 m) {s t : State} (h : Chg m s t) (p : Nat) :
    Chg m s (State.enterArena t p) :=
  State.syncKv_chg hm.le (State.modPart_chg hm.le (h.mem hm.le _ fun i => fill_wf _ _ _ _ (zeroRange_wf _ _ _ i)) _ _) _

theorem State.leaveArena_chg {m : Nat} (hm : Sub 516 m) {s t : State} (h : Chg m s t) (p : Nat) : Chg m s (State.leaveArena t p) := by
  unfold State.leaveArena
  try dsimp only
  repeat' first
    | with_reducible exact h
    | with_reducible assumption
    | with_reducible apply State.modPart_chg hm.le
    | with_reducible apply State.syncKv_chg hm.le

theorem State.setBucket_chg {m : Nat} (hm : Sub 520 m) {s t : State} (h : Chg m s t) (p : Nat) (b : Nat) (l : List (Nat × Nat × Nat)) : Chg m s (State.setBucket t p b l) := by
  unfold State.setBucket
  try dsimp only
  repeat' first
    | with_reducible exact h
    | with_reducible assumption
    | with_reducible apply State.modPart_chg hm.le
    | with_reducible apply State.agentWrite_chg hm.le

theorem State.unhash_chg {m : Nat} (hm : Sub 520 m) {s t : State} (h : Chg m s t) (p : Nat) (k : Nat) : Chg m s (State.unhash t p k) := by
  unfold State.unhash
  try dsimp only
  repeat' first
    | with_reducible exact h
    | with_reducible assumption
    | with_reducible apply State.setPg_chg hm.le
    | with_reducible apply State.setBucket_chg hm.le
    | with_reducible apply Chg.ite

theorem State.register_chg {m : Nat} (hm : Sub 524 m) {s t : State} (h : Chg m s t) (p : Nat) (k : Nat) (h_ : Nat) (prev : Nat) : Chg m s (State.register t p k h_ prev) := by
  unfold State.register
  try dsimp only
  repeat' first
    | with_reducible exact h
    | with_reducible assumption
    | with_reducible apply State.hwSet_chg hm.le
    | with_reducible apply State.setPg_chg hm.le
    | with_reducible apply State.setBucket_chg hm.le
    | with_reducible apply State.unhash_chg hm.le
    | split

theorem State.freePage_chg {m : Nat} (hm : Sub 520 m) {s t : State} (h : Chg m s t) (p : Nat) (k : Nat) : Chg m s (State.freePage t p k) := by
  unfold State.freePage
  repeat' first
    | with_reducible exact h
    | with_reducible assumption
    | with_reducible apply State.setPg_chg hm.le

theorem State.returnPage_chg {m : Nat} (hm : Sub 32768 m) {s t : State} (h : Chg m s t) (e : Nat) : Chg m s (State.returnPage t e) := by
  unfold State.returnPage
  repeat' first
    | with_reducible exact h
    | with_reducible assumption
    | with_reducible apply State.setEntry_chg hm.le
    | with_reducible apply Chg.ite

theorem State.chargePage_chg {m : Nat} (hm : Sub 32768 m) {s t : State} (h : Chg m s t) (e : Nat) : Chg m s (State.chargePage t e) := by
  unfold State.chargePage
  repeat' first
    | with_reducible exact h
    | with_reducible assumption
    | with_reducible apply State.setEntry_chg hm.le
    | with_reducible apply Chg.ite

theorem State.modReq_chg {m : Nat} (hm : Sub 65536 m) {s t : State} (h : Chg m s t) (i : Nat) (f : Request → Request) : Chg m s (State.modReq t i f) := by
  unfold State.modReq
  try dsimp only
  repeat' first
    | with_reducible exact h
    | with_reducible assumption
    | with_reducible apply Chg.ite
    | split
    | with_reducible refine Chg.mk ?_

theorem State.chargeUnit_chg {m : Nat} (hm : Sub 65536 m) {s t : State} (h : Chg m s t) (e : Nat) : Chg m s (State.chargeUnit t e) := by
  unfold State.chargeUnit
  try dsimp only
  repeat' first
    | with_reducible exact h
    | with_reducible assumption
    | with_reducible apply State.modReq_chg hm.le
    | with_reducible apply Chg.ite

theorem State.returnUnit_chg {m : Nat} (hm : Sub 65536 m) {s t : State} (h : Chg m s t) (e : Nat) : Chg m s (State.returnUnit t e) := by
  unfold State.returnUnit
  try dsimp only
  repeat' first
    | with_reducible exact h
    | with_reducible assumption
    | with_reducible apply State.modReq_chg hm.le
    | with_reducible apply Chg.ite

theorem State.takePage_chg {m : Nat} (hm : Sub 520 m) {s t : State} (h : Chg m s t) {e b pv : Nat} {r : Nat × State}
    (hr : State.takePage t e b pv = some r) : Chg m s r.2 := by
  unfold State.takePage at hr
  dsimp only at hr
  split at hr
  · cases hr
    exact State.setPg_chg hm.le (State.unhash_chg hm.le h _ _) _ _ _
  · cases hr

theorem State.allocPage_chg {m : Nat} (hm : Sub 33288 m) {s t : State} (h : Chg m s t) {e b pv : Nat} {r : Nat × State}
    (hr : State.allocPage t e b pv = some r) : Chg m s r.2 :=
  State.takePage_chg hm.le (State.chargePage_chg hm.le h _) hr

theorem State.listPage_chg {m : Nat} (hm : Sub 520 m) {s t : State} (h : Chg m s t) (e : Nat) (k : Nat) : Chg m s (State.listPage t e k) := by
  unfold State.listPage
  repeat' first
    | with_reducible exact h
    | with_reducible assumption
    | with_reducible apply State.setList_chg hm.le

theorem State.obtainUnit_chg {m : Nat} (hm : Sub 66056 m) {s : State} (es : List Nat) (pv : Nat) : ∀ (l : List Nat) {t : State}, Chg m s t →
    Chg m s (State.obtainUnit t es pv l)
  | [], _, h => h
  | b :: r, t, h => by
    unfold State.obtainUnit
    split
    · exact h
    · refine State.obtainUnit_chg hm.le _ pv r ?_
      split
      · rename_i heq
        have h1 := State.takePage_chg hm.le (State.chargeUnit_chg hm.le h _) heq
        refine Chg.foldl _ ?_ _ (State.setPg_chg hm.le h1 _ _ _)
        intro a x ha
        exact State.listPage_chg hm.le ha _ _
      · exact h

theorem State.copyPage_chg {m : Nat} (hm : Sub 33288 m) {s t : State} (h : Chg m s t) {e i k pv : Nat} {r : Nat × State}
    (hr : State.copyPage t e i k pv = some r) : Chg m s r.2 := by
  unfold State.copyPage at hr
  dsimp only at hr
  split at hr
  · rename_i heq
    have h1 := State.allocPage_chg hm.le h heq
    cases hr
    exact State.setList_chg hm.le (State.setPg_chg hm.le (State.setPg_chg hm.le h1 _ _ _) _ _ _) _ _ _
  · cases hr

theorem State.undoCopy_chg {m : Nat} (hm : Sub 33288 m) {s t : State} (h : Chg m s t) (e : Nat) (i : Nat) (k : Nat) (n : Nat) : Chg m s (State.undoCopy t e i k n) := by
  unfold State.undoCopy
  try dsimp only
  repeat' first
    | with_reducible exact h
    | with_reducible assumption
    | with_reducible apply State.setPg_chg hm.le
    | with_reducible apply State.setList_chg hm.le
    | with_reducible apply State.freePage_chg hm.le
    | with_reducible apply State.returnPage_chg hm.le

theorem State.dropRefs_chg {m : Nat} (hm : Sub 520 m) {s t : State} (h : Chg m s t) (p : Nat) (k : Nat) (n : Nat) : Chg m s (State.dropRefs t p k n) := by
  unfold State.dropRefs
  try dsimp only
  repeat' first
    | with_reducible exact h
    | with_reducible assumption
    | with_reducible apply State.setPg_chg hm.le
    | with_reducible apply State.freePage_chg hm.le
    | with_reducible apply Chg.ite

theorem State.evictOne_chg {m : Nat} (hm : Sub 33288 m) {s t : State} (h : Chg m s t) (e : Nat) (c : Cand) : Chg m s (State.evictOne t e c).1 := by
  unfold State.evictOne
  try dsimp only
  repeat' first
    | with_reducible exact h
    | with_reducible assumption
    | with_reducible apply State.setPg_chg hm.le
    | with_reducible apply State.setList_chg hm.le
    | with_reducible apply State.unhash_chg hm.le
    | with_reducible apply State.freePage_chg hm.le
    | with_reducible apply State.returnPage_chg hm.le
    | with_reducible apply Chg.ite
    | split

theorem State.evictLoop_chg {m : Nat} (hm : Sub 33288 m) {s : State} (e want limit : Nat) : ∀ (k : Nat) (l : List Cand) {t : State}, Chg m s t →
    Chg m s (State.evictLoop t e want limit k l)
  | _, [], _, h => h
  | k, c :: r, t, h => by
    unfold State.evictLoop
    dsimp only
    refine Chg.ite h (Chg.ite h ?_)
    exact State.evictLoop_chg hm.le e want limit _ r (State.evictOne_chg hm.le h e c)

theorem State.evict_chg {m : Nat} (hm : Sub 33288 m) {s t : State} (h : Chg m s t) (e : Nat) (want : Nat) (limit : Nat) : Chg m s (State.evict t e want limit).1 := by
  unfold State.evict
  try dsimp only
  repeat' first
    | with_reducible exact h
    | with_reducible assumption
    | with_reducible apply State.evictLoop_chg hm.le
    | with_reducible apply Chg.ite
    | split

theorem State.liveAt_chg {m : Nat} (hm : Sub 520 m) {s t : State} (h : Chg m s t) (e : Nat) (q : Nat) (tok : Nat) : Chg m s (State.liveAt t e q tok) := by
  unfold State.liveAt
  try dsimp only
  repeat' first
    | with_reducible exact h
    | with_reducible assumption
    | with_reducible apply State.setPg_chg hm.le
    | split

theorem State.markMixed_chg {m : Nat} (hm : Sub 520 m) {s t : State} (h : Chg m s t) (e : Nat) (q : Nat) (pv : Nat) : Chg m s (State.markMixed t e q pv) := by
  unfold State.markMixed
  try dsimp only
  repeat' first
    | with_reducible exact h
    | with_reducible assumption
    | with_reducible apply State.setPg_chg hm.le
    | with_reducible apply Chg.ite
    | split

theorem State.commitPos_chg {m : Nat} (hm : Sub 520 m) {s : State} (e bound pv : Nat) : ∀ (l : List (Nat × Nat)) {t : State}, Chg m s t →
    Chg m s (State.commitPos t e bound pv l)
  | [], _, h => h
  | (q, tok) :: r, t, h => by
    unfold State.commitPos
    dsimp only
    refine State.commitPos_chg hm.le e bound pv r ?_
    exact Chg.ite (State.liveAt_chg hm.le (State.markMixed_chg hm.le h _ _ _) _ _ _) (State.markMixed_chg hm.le h _ _ _)

theorem State.dropPages_chg {m : Nat} (hm : Sub 33288 m) {s t : State} (h : Chg m s t) (e : Nat) (bound : Nat) : Chg m s (State.dropPages t e bound) := by
  unfold State.dropPages
  try dsimp only
  repeat' first
    | with_reducible exact h
    | with_reducible assumption
    | with_reducible apply State.setList_chg hm.le
    | with_reducible apply State.returnPage_chg hm.le
    | with_reducible apply State.dropRefs_chg hm.le
    | with_reducible refine Chg.foldl _ ?_ _ ?_
    | with_reducible refine Chg.foldlFst _ ?_ _ ?_
    | with_reducible apply Chg.ite
    | split
    | intro _ _ _

theorem State.dropShared_chg {m : Nat} (hm : Sub 66056 m) {s t : State} (h : Chg m s t) (es : List Nat) (bound : Nat) : Chg m s (State.dropShared t es bound) := by
  unfold State.dropShared
  try dsimp only
  repeat' first
    | with_reducible exact h
    | with_reducible assumption
    | with_reducible apply State.setList_chg hm.le
    | with_reducible apply State.returnUnit_chg hm.le
    | with_reducible apply State.dropRefs_chg hm.le
    | with_reducible refine Chg.foldl _ ?_ _ ?_
    | with_reducible refine Chg.foldlFst _ ?_ _ ?_
    | with_reducible apply Chg.ite
    | split
    | intro _ _ _

theorem State.setFill_chg {m : Nat} (hm : Sub 520 m) {s t : State} (h : Chg m s t) (e : Nat) (bound : Nat) : Chg m s (State.setFill t e bound) := by
  unfold State.setFill
  try dsimp only
  repeat' first
    | with_reducible exact h
    | with_reducible assumption
    | with_reducible apply State.setPg_chg hm.le
    | split

theorem State.fillFull_chg {m : Nat} (hm : Sub 520 m) {s t : State} (h : Chg m s t) (e : Nat) (bound : Nat) (first : Nat) : Chg m s (State.fillFull t e bound first) := by
  unfold State.fillFull
  try dsimp only
  repeat' first
    | with_reducible exact h
    | with_reducible assumption
    | with_reducible apply State.setPg_chg hm.le
    | with_reducible refine Chg.foldl _ ?_ _ ?_
    | with_reducible refine Chg.foldlFst _ ?_ _ ?_
    | with_reducible apply Chg.ite
    | split
    | intro _ _ _

theorem State.commitFill_chg {m : Nat} (hm : Sub 520 m) {s t : State} (h : Chg m s t) (e : Nat) (bound : Nat) (pv : Nat) (written : List (Nat × Nat)) : Chg m s (State.commitFill t e bound pv written) := by
  unfold State.commitFill
  try dsimp only
  repeat' first
    | with_reducible exact h
    | with_reducible assumption
    | with_reducible apply State.commitPos_chg hm.le
    | with_reducible apply State.setFill_chg hm.le
    | with_reducible apply State.fillFull_chg hm.le

theorem State.rollback_chg {m : Nat} (hm : Sub 33288 m) {s t : State} (h : Chg m s t) (e : Nat) (bound : Nat) (pv : Nat) (written : List (Nat × Nat)) : Chg m s (State.rollback t e bound pv written) := by
  unfold State.rollback
  repeat' first
    | with_reducible exact h
    | with_reducible assumption
    | with_reducible apply State.dropPages_chg hm.le
    | with_reducible apply State.commitFill_chg hm.le

theorem State.foldPage_chg {m : Nat} (hm : Sub 520 m) {s t : State} (h : Chg m s t) (p : Nat) (masses : List (Nat × Nat × Word32)) (k : Nat) : Chg m s (State.foldPage t p masses k) := by
  unfold State.foldPage
  try dsimp only
  repeat' first
    | with_reducible exact h
    | with_reducible assumption
    | with_reducible apply State.setPg_chg hm.le

theorem State.registerFrom_chg {m : Nat} (hm : Sub 524 m) {s : State} (e : Nat) : ∀ (k hh prev : Nat) (l : List Nat) {t : State}, Chg m s t →
    Chg m s (State.registerFrom t e k hh prev l)
  | _, _, _, [], _, h => h
  | k, hh, prev, pgNo :: r, t, h => by
    unfold State.registerFrom
    dsimp only
    refine Chg.ite (State.registerFrom_chg hm.le e _ _ _ r h) (Chg.ite ?_ h)
    have h1 := State.register_chg hm.le h (t.entry e).part pgNo
    exact Chg.ite (State.registerFrom_chg hm.le e _ _ _ r (h1 _ _)) (h1 _ _)

theorem State.registerAll_chg {m : Nat} (hm : Sub 524 m) {s t : State} (h : Chg m s t) (e : Nat) : Chg m s (State.registerAll t e) := by
  unfold State.registerAll
  repeat' first
    | with_reducible exact h
    | with_reducible assumption
    | with_reducible apply State.registerFrom_chg hm.le
    | with_reducible apply Chg.ite

theorem State.takeMatch_chg {m : Nat} (hm : Sub 66056 m) {s t : State} (h : Chg m s t) (es : List Nat) (k : Nat) : Chg m s (State.takeMatch t es k) := by
  unfold State.takeMatch
  try dsimp only
  repeat' first
    | with_reducible exact h
    | with_reducible assumption
    | with_reducible apply State.setPg_chg hm.le
    | with_reducible apply State.chargeUnit_chg hm.le
    | with_reducible apply State.listPage_chg hm.le
    | with_reducible refine Chg.foldl _ ?_ _ ?_
    | with_reducible refine Chg.foldlFst _ ?_ _ ?_
    | with_reducible apply Chg.ite
    | split
    | intro _ _ _

theorem State.matchFrom_chg {m : Nat} (hm : Sub 66056 m) {s : State} (es : List Nat) : ∀ (b hh prev : Nat) (l : List (List Nat)) {t : State},
    Chg m s t → Chg m s (State.matchFrom t es b hh prev l).2
  | _, _, _, [], _, h => h
  | b, hh, prev, toks :: r, t, h => by
    unfold State.matchFrom
    dsimp only
    split
    · exact h
    · split
      · exact State.matchFrom_chg hm.le _ _ _ _ r (State.takeMatch_chg hm.le h _ _)
      · exact h

theorem State.releasePages_chg {m : Nat} (hm : Sub 33292 m) {s t : State} (h : Chg m s t) (e : Nat) : Chg m s (State.releasePages t e) := by
  unfold State.releasePages
  try dsimp only
  repeat' first
    | with_reducible exact h
    | with_reducible assumption
    | with_reducible apply State.setEntry_chg hm.le
    | with_reducible apply State.setList_chg hm.le
    | with_reducible apply State.syncKv_chg hm.le
    | with_reducible apply State.dropRefs_chg hm.le
    | with_reducible refine Chg.foldl _ ?_ _ ?_
    | with_reducible refine Chg.foldlFst _ ?_ _ ?_
    | intro _ _ _

theorem State.unhashCtx_chg {m : Nat} (hm : Sub 520 m) {s t : State} (h : Chg m s t) (p : Nat) (n : Nat) : Chg m s (State.unhashCtx t p n) := by
  unfold State.unhashCtx
  try dsimp only
  repeat' first
    | with_reducible exact h
    | with_reducible assumption
    | with_reducible apply State.unhash_chg hm.le
    | with_reducible refine Chg.foldl _ ?_ _ ?_
    | with_reducible refine Chg.foldlFst _ ?_ _ ?_
    | intro _ _ _

theorem State.quarantinePages_chg {m : Nat} (hm : Sub 524 m) {s t : State} (h : Chg m s t) (p : Nat) (was : List Nat) : Chg m s (State.quarantinePages t p was) := by
  unfold State.quarantinePages
  try dsimp only
  repeat' first
    | with_reducible exact h
    | with_reducible assumption
    | with_reducible apply State.setPg_chg hm.le
    | with_reducible apply State.syncKv_chg hm.le
    | with_reducible apply State.unhash_chg hm.le
    | with_reducible refine Chg.foldl _ ?_ _ ?_
    | with_reducible refine Chg.foldlFst _ ?_ _ ?_
    | intro _ _ _

theorem State.endQuarantine_chg {m : Nat} (hm : Sub 524 m) {s t : State} (h : Chg m s t) (p : Nat) (n : Nat) (t_ : Nat) : Chg m s (State.endQuarantine t p n t_) := by
  unfold State.endQuarantine
  try dsimp only
  repeat' first
    | with_reducible exact h
    | with_reducible assumption
    | with_reducible apply State.syncKv_chg hm.le
    | with_reducible apply State.freePage_chg hm.le
    | with_reducible refine Chg.foldl _ ?_ _ ?_
    | with_reducible refine Chg.foldlFst _ ?_ _ ?_
    | intro _ _ _

end Sys2Proof.Machine
end

