-- ==== Sys2Proof/Laws/ChgSlots.lean ====
section
/-!
SUPPORT. ChgSlots.lean: the kinds of state that each operation of Slots.lean can change; each keeps the invariant.
-/

set_option Elab.async false
namespace Sys2Proof.Machine
open Sys2Proof.Config

theorem State.emptySlot_chg {m : Nat} (hm : Sub 4 m) {s t : State} (h : Chg m s t) (p : Nat) (i : Nat) : Chg m s (State.emptySlot t p i) := by
  unfold State.emptySlot
  repeat' first
    | with_reducible exact h
    | with_reducible assumption
    | with_reducible apply State.setReg_chg hm.le

theorem State.emptySlots_chg {m : Nat} (hm : Sub 4 m) {s t : State} (h : Chg m s t) (p : Nat) : Chg m s (State.emptySlots t p) := by
  unfold State.emptySlots
  try dsimp only
  repeat' first
    | with_reducible exact h
    | with_reducible assumption
    | with_reducible apply State.emptySlot_chg hm.le
    | with_reducible refine Chg.foldl _ ?_ _ ?_
    | with_reducible refine Chg.foldlFst _ ?_ _ ?_
    | intro _ _ _

theorem State.sweepSlot_chg {m : Nat} (hm : Sub 4 m) {s t : State} (h : Chg m s t) (p : Nat) (i : Nat) : Chg m s (State.sweepSlot t p i) := by
  unfold State.sweepSlot
  try dsimp only
  repeat' first
    | with_reducible exact h
    | with_reducible assumption
    | with_reducible apply State.setFld_chg hm.le
    | with_reducible apply State.emptySlot_chg hm.le
    | with_reducible apply Chg.ite

theorem State.sweepSlots_chg {m : Nat} (hm : Sub 4 m) {s t : State} (h : Chg m s t) (p : Nat) : Chg m s (State.sweepSlots t p) := by
  unfold State.sweepSlots
  try dsimp only
  repeat' first
    | with_reducible exact h
    | with_reducible assumption
    | with_reducible apply State.sweepSlot_chg hm.le
    | with_reducible refine Chg.foldl _ ?_ _ ?_
    | with_reducible refine Chg.foldlFst _ ?_ _ ?_
    | intro _ _ _

theorem State.pinSlot_chg {m : Nat} (hm : Sub 4 m) {s t : State} (h : Chg m s t) (p : Nat) (i : Nat) : Chg m s (State.pinSlot t p i) := by
  unfold State.pinSlot
  repeat' first
    | with_reducible exact h
    | with_reducible assumption
    | with_reducible apply State.setFld_chg hm.le

theorem State.unpinSlot_chg {m : Nat} (hm : Sub 4 m) {s t : State} (h : Chg m s t) (p : Nat) (i : Nat) : Chg m s (State.unpinSlot t p i) := by
  unfold State.unpinSlot
  repeat' first
    | with_reducible exact h
    | with_reducible assumption
    | with_reducible apply State.setFld_chg hm.le
    | with_reducible apply State.sweepSlot_chg hm.le

theorem State.switchSlot_chg {m : Nat} (hm : Sub 4 m) {s t : State} (h : Chg m s t) (p : Nat) (j : Nat) : Chg m s (State.switchSlot t p j) := by
  unfold State.switchSlot
  try dsimp only
  repeat' first
    | with_reducible exact h
    | with_reducible assumption
    | with_reducible apply State.setFld_chg hm.le
    | with_reducible apply State.sweepSlot_chg hm.le
    | with_reducible apply Chg.ite
    | split

theorem State.dropSlot_chg {m : Nat} (hm : Sub 4 m) {s t : State} (h : Chg m s t) (p : Nat) (i : Nat) : Chg m s (State.dropSlot t p i) := by
  unfold State.dropSlot
  repeat' first
    | with_reducible exact h
    | with_reducible assumption
    | with_reducible apply State.setFld_chg hm.le
    | with_reducible apply State.emptySlot_chg hm.le
    | with_reducible apply Chg.ite

theorem State.moveReference_chg {m : Nat} (hm : Sub 4 m) {s t : State} (h : Chg m s t) (p : Nat) (v : Nat) : Chg m s (State.moveReference t p v) := by
  unfold State.moveReference
  try dsimp only
  repeat' first
    | with_reducible exact h
    | with_reducible assumption
    | with_reducible apply State.setFld_chg hm.le
    | with_reducible apply State.sweepSlots_chg hm.le
    | with_reducible refine Chg.foldl _ ?_ _ ?_
    | with_reducible refine Chg.foldlFst _ ?_ _ ?_
    | with_reducible apply Chg.ite
    | split
    | intro _ _ _

theorem State.clearReserved_chg {m : Nat} (hm : Sub 4 m) {s t : State} (h : Chg m s t) (c : Cmd) : Chg m s (State.clearReserved t c) := by
  unfold State.clearReserved
  try dsimp only
  repeat' first
    | with_reducible exact h
    | with_reducible assumption
    | with_reducible apply State.setFld_chg hm.le
    | with_reducible refine Chg.foldl _ ?_ _ ?_
    | with_reducible refine Chg.foldlFst _ ?_ _ ?_
    | intro _ _ _

theorem State.refAdapter_chg {m : Nat} (hm : Sub 512 m) {s t : State} (h : Chg m s t) (p : Nat) (block : Nat) : Chg m s (State.refAdapter t p block) := by
  unfold State.refAdapter
  try dsimp only
  repeat' first
    | with_reducible exact h
    | with_reducible assumption
    | with_reducible apply State.modPart_chg hm.le

theorem State.unrefAdapter_chg {m : Nat} (hm : Sub 512 m) {s t : State} (h : Chg m s t) (p : Nat) (block : Option Nat) : Chg m s (State.unrefAdapter t p block) := by
  unfold State.unrefAdapter
  try dsimp only
  repeat' first
    | with_reducible exact h
    | with_reducible assumption
    | with_reducible apply State.modPart_chg hm.le
    | with_reducible apply Chg.ite
    | split

end Sys2Proof.Machine
end

