-- ==== Sys2Proof/Laws/ChgEmbers.lean ====
section
/-!
SUPPORT. ChgEmbers.lean: the kinds of state that each operation of Embers.lean can change; each keeps the invariant.
-/

set_option Elab.async false
namespace Sys2Proof.Machine
open Sys2Proof.Config

theorem State.reserveEm_chg {m : Nat} (hm : Sub 16 m) {s t : State} (h : Chg m s t) (n : Nat) (k : Nat) : Chg m s (State.reserveEm t n k) := by
  unfold State.reserveEm
  try dsimp only
  repeat' first
    | with_reducible exact h
    | with_reducible assumption
    | with_reducible apply State.modCtx_chg hm.le

theorem State.releaseEm_chg {m : Nat} (hm : Sub 16 m) {s t : State} (h : Chg m s t) (n : Nat) (k : Nat) : Chg m s (State.releaseEm t n k) := by
  unfold State.releaseEm
  try dsimp only
  repeat' first
    | with_reducible exact h
    | with_reducible assumption
    | with_reducible apply State.modCtx_chg hm.le

theorem State.postEmber_chg {m : Nat} (hm : Sub 37749308 m) {s t : State} (h : Chg m s t) (n : Nat) (bytes : Bool → List Byte) : Chg m s (State.postEmber t n bytes) := by
  unfold State.postEmber
  try dsimp only
  repeat' first
    | with_reducible exact h
    | with_reducible assumption
    | with_reducible apply State.modCtx_chg hm.le
    | with_reducible apply State.ringWrite_chg hm.le

theorem State.dropFromWork_chg {m : Nat} (hm : Sub 512 m) {s t : State} (h : Chg m s t) (e : Nat) : Chg m s (State.dropFromWork t e) := by
  unfold State.dropFromWork
  try dsimp only
  repeat' first
    | with_reducible exact h
    | with_reducible assumption
    | with_reducible apply State.modPart_chg hm.le

theorem State.passCarried_chg {m : Nat} (hm : Sub 4096 m) {s t : State} (h : Chg m s t) (e : Nat) : Chg m s (State.passCarried t e) := by
  unfold State.passCarried
  dsimp only
  refine h.threads hm.le _ ?_
  refine twf_mapVal _ _ (fun e => by split <;> rfl) fun x hx => ?_
  split
  · rename_i hc
    intro hd
    have hs := congrArg Thread.state hd
    dsimp only at hs
    rw [hs] at hc
    exact absurd (Bool.and_eq_true_iff.mp hc).1 (by decide)
  · exact hx

theorem State.leaveWork_chg {m : Nat} (hm : Sub 4608 m) {s t : State} (h : Chg m s t) (e : Nat) : Chg m s (State.leaveWork t e) := by
  unfold State.leaveWork
  repeat' first
    | with_reducible exact h
    | with_reducible assumption
    | with_reducible apply State.dropFromWork_chg hm.le
    | with_reducible apply State.passCarried_chg hm.le

theorem State.noteEnd_chg {m : Nat} (hm : Sub 32 m) {s t : State} (h : Chg m s t) (e : Nat) (gen : Nat) (length : Nat) : Chg m s (State.noteEnd t e gen length) := by
  unfold State.noteEnd
  try dsimp only
  repeat' first
    | with_reducible exact h
    | with_reducible assumption
    | with_reducible apply Chg.ite
    | split
    | with_reducible refine Chg.mk ?_

theorem State.sampleDone_chg {m : Nat} (hm : Sub 37851708 m) {s t : State} (h : Chg m s t) (e : Nat) (st : Nat) (at_ : Nat) (cancelled : Bool) : Chg m s (State.sampleDone t e st at_ cancelled) := by
  unfold State.sampleDone
  try dsimp only
  repeat' first
    | with_reducible exact h
    | with_reducible assumption
    | with_reducible apply State.setEntry_chg hm.le
    | with_reducible apply State.finish_chg hm.le
    | with_reducible apply State.unpinSlot_chg hm.le
    | with_reducible apply State.unrefAdapter_chg hm.le
    | with_reducible apply State.modReq_chg hm.le
    | with_reducible apply State.releasePages_chg hm.le
    | with_reducible apply State.releaseEm_chg hm.le
    | with_reducible apply State.postEmber_chg hm.le
    | with_reducible apply State.leaveWork_chg hm.le
    | with_reducible apply State.noteEnd_chg hm.le
    | with_reducible apply Chg.ite
    | split

theorem State.drainSample_chg {m : Nat} (hm : Sub 37376 m) {s t : State} (h : Chg m s t) (e : Nat) : Chg m s (State.drainSample t e) := by
  unfold State.drainSample
  repeat' first
    | with_reducible exact h
    | with_reducible assumption
    | with_reducible apply State.setEntry_chg hm.le
    | with_reducible apply State.leaveWork_chg hm.le

theorem State.postToken_chg {m : Nat} (hm : Sub 37782076 m) {s t : State} (h : Chg m s t) (b : Nat) (late : Bool) (g : Staged) : Chg m s (State.postToken t b late g) := by
  unfold State.postToken
  try dsimp only
  repeat' first
    | with_reducible exact h
    | with_reducible assumption
    | with_reducible apply State.setEntry_chg hm.le
    | with_reducible apply State.postEmber_chg hm.le

end Sys2Proof.Machine
end

