-- ==== Sys2Proof/Laws/ChgStoker.lean ====
section
/-!
SUPPORT. ChgStoker.lean: the kinds of state that each operation of Stoker.lean can change; each keeps the invariant.
-/

set_option Elab.async false
namespace Sys2Proof.Machine
open Sys2Proof.Config

theorem Chg.foldlBuild {α : Type} {m : Nat} {s : State} (f : Build → α → Build) (hf : ∀ a x, Chg m s a.st → Chg m s (f a x).st) :
    ∀ (l : List α) {b : Build}, Chg m s b.st → Chg m s (l.foldl f b).st
  | [], _, h => h
  | x :: l, _, h => Chg.foldlBuild f hf l (hf _ x h)

theorem Chg.iteBuild {m : Nat} {s : State} {a b : Build} {c : Prop} [Decidable c] (h1 : Chg m s a.st) (h2 : Chg m s b.st) :
    Chg m s (if c then a else b).st := by split <;> assumption

theorem State.replaceIn_chg {m : Nat} (hm : Sub 65536 m) {s t : State} (h : Chg m s t) (i : Nat) (first : Nat) (frames : List Nat) : Chg m s (State.replaceIn t i first frames) := by
  unfold State.replaceIn
  try dsimp only
  repeat' first
    | with_reducible exact h
    | with_reducible assumption
    | with_reducible apply State.modReq_chg hm.le
    | split

theorem State.replaceChunks_chg {m : Nat} (hm : Sub 65536 m) {s t : State} (h : Chg m s t) (i : Nat) (first : Nat) (lo : Nat) : Chg m s (State.replaceChunks t i first lo) := by
  unfold State.replaceChunks
  try dsimp only
  repeat' first
    | with_reducible exact h
    | with_reducible assumption
    | with_reducible apply State.replaceIn_chg hm.le
    | split

theorem State.dropFrameSet_chg {m : Nat} (hm : Sub 66048 m) {s t : State} (h : Chg m s t) (p : Nat) (cid : Nat) : Chg m s (State.dropFrameSet t p cid) := by
  unfold State.dropFrameSet
  try dsimp only
  repeat' first
    | with_reducible exact h
    | with_reducible assumption
    | with_reducible apply State.modPart_chg hm.le
    | with_reducible apply State.replaceIn_chg hm.le
    | with_reducible refine Chg.foldl _ ?_ _ ?_
    | with_reducible refine Chg.foldlFst _ ?_ _ ?_
    | split
    | intro _ _ _

theorem State.placeWaiting_chg {m : Nat} (hm : Sub 65536 m) {s t : State} (h : Chg m s t) (p : Nat) (lo : Nat) : Chg m s (State.placeWaiting t p lo) := by
  unfold State.placeWaiting
  try dsimp only
  repeat' first
    | with_reducible exact h
    | with_reducible assumption
    | with_reducible apply State.modReq_chg hm.le
    | with_reducible refine Chg.foldl _ ?_ _ ?_
    | with_reducible refine Chg.foldlFst _ ?_ _ ?_
    | intro _ _ _

theorem State.skipSample_chg {m : Nat} (hm : Sub 32768 m) {s t : State} (h : Chg m s t) (e : Nat) : Chg m s (State.skipSample t e) := by
  unfold State.skipSample
  try dsimp only
  repeat' first
    | with_reducible exact h
    | with_reducible assumption
    | with_reducible apply State.setEntry_chg hm.le
    | with_reducible apply Chg.ite

theorem State.reserveFrame_chg {m : Nat} (hm : Sub 32784 m) {s t : State} (h : Chg m s t) (e : Nat) (n : Nat) : Chg m s (State.reserveFrame t e n) := by
  unfold State.reserveFrame
  repeat' first
    | with_reducible exact h
    | with_reducible assumption
    | with_reducible apply State.setEntry_chg hm.le
    | with_reducible apply State.reserveEm_chg hm.le

theorem State.canObtain_chg {m : Nat} (hm : Sub 33288 m) {s t : State} (h : Chg m s t) (e : Nat) (need : Nat) : Chg m s (State.canObtain t e need).1 := by
  unfold State.canObtain
  try dsimp only
  repeat' first
    | with_reducible exact h
    | with_reducible assumption
    | with_reducible apply State.evict_chg hm.le
    | with_reducible apply Chg.ite
    | split

theorem State.starved_chg {m : Nat} (hm : Sub 32768 m) {s t : State} (h : Chg m s t) (e : Nat) : Chg m s (State.starved t e) := by
  unfold State.starved
  repeat' first
    | with_reducible exact h
    | with_reducible assumption
    | with_reducible apply State.setEntry_chg hm.le

theorem State.takePages_chg {m : Nat} (hm : Sub 33288 m) {s t : State} (h : Chg m s t) (e pv first count : Nat) (cp : Option (Nat × Nat)) :
    Chg m s (State.takePages t e pv first count cp).1 := by
  unfold State.takePages
  dsimp only
  refine Chg.foldl _ ?_ _ ?_
  · intro a b ha
    split
    · rename_i heq
      exact State.listPage_chg hm.le (State.allocPage_chg hm.le ha heq) _ _
    · exact ha
  · split
    · split
      · rename_i heq
        exact State.copyPage_chg hm.le h heq
      · exact h
    · exact h

theorem Build.addDecode_chg {m : Nat} (hm : Sub 33304 m) {s : State} {b : Build} (h : Chg m s b.st) (f : FrameCtx) (e : Nat) (cost : Bud)
    (cp : Option (Nat × Nat)) : Chg m s (b.addDecode f e cost cp).st :=
  State.reserveFrame_chg hm.le (State.takePages_chg hm.le h _ _ _ _ _) _ _

theorem Build.decode_chg {m : Nat} (hm : Sub 33304 m) {s : State} {b : Build} (h : Chg m s b.st) (f : FrameCtx) (e : Nat) :
    Chg m s (b.decode f e).st := by
  unfold Build.decode
  extract_lets st x first count cp need cost room
  have hc : ∀ n, Chg m s (st.canObtain e n).1 := State.canObtain_chg hm.le h e
  refine Chg.iteBuild (Chg.iteBuild ?_ ?_) (Chg.iteBuild h (Chg.iteBuild ?_ (Chg.iteBuild ?_ ?_)))
  · exact Build.addDecode_chg hm.le h _ _ _ _
  · exact State.skipSample_chg hm.le h _
  · exact State.starved_chg hm.le (hc _) _
  · exact State.skipSample_chg hm.le (hc _) _
  · exact Build.addDecode_chg hm.le (hc _) _ _ _ _

theorem Build.addUnit_chg {m : Nat} (hm : Sub 98840 m) {s : State} {b : Build} (h : Chg m s b.st) (f : FrameCtx) (i : Nat) (es : List Nat)
    (first count : Nat) (cost : Bud) : Chg m s (b.addUnit f i es first count cost).st := by
  unfold Build.addUnit
  split
  · exact h
  · refine Chg.foldl _ ?_ _ (State.obtainUnit_chg hm.le _ _ _ h)
    intro a x ha
    exact State.reserveFrame_chg hm.le ha _ _

theorem Build.unit_chg {m : Nat} (hm : Sub 98840 m) {s : State} {b : Build} (h : Chg m s b.st) (f : FrameCtx) (e : Nat) :
    Chg m s (b.unit f e).st := by
  have skip : ∀ (l : List Nat) {t : State}, Chg m s t → Chg m s (l.foldl (fun (a : State) k => a.skipSample k) t) :=
    fun l _ ht => Chg.foldl _ (fun a x ha => State.skipSample_chg hm.le ha _) l ht
  have starve : ∀ (l : List Nat) {t : State}, Chg m s t → Chg m s (l.foldl (fun (a : State) k => a.starved k) t) :=
    fun l _ ht => Chg.foldl _ (fun a x ha => State.starved_chg hm.le ha _) l ht
  unfold Build.unit
  dsimp only
  split
  · exact h
  · refine Chg.iteBuild h (Chg.iteBuild ?_ ?_)
    · split
      · exact Chg.iteBuild h (Chg.iteBuild (Build.addUnit_chg hm.le h _ _ _ _ _ _) (skip _ h))
      · exact h
    · split
      · exact Chg.foldl _ (fun a x ha => State.setEntry_chg hm.le ha _ _) _ h
      · have hc := State.canObtain_chg hm.le h e
        refine Chg.iteBuild h (Chg.iteBuild (starve _ (hc _)) (Chg.iteBuild (skip _ (hc _)) ?_))
        exact Build.addUnit_chg hm.le (hc _) _ _ _ _ _ _

theorem Build.visit_chg {m : Nat} (hm : Sub 98840 m) {s : State} {b : Build} (h : Chg m s b.st) (f : FrameCtx) (e : Nat) :
    Chg m s (b.visit f e).st := by
  unfold Build.visit
  split
  · exact Build.unit_chg hm.le h f e
  · exact Build.decode_chg hm.le h f e

theorem State.build_chg {m : Nat} (hm : Sub 98840 m) {s t : State} (h : Chg m s t) (f : FrameCtx) : Chg m s (State.build t f).st :=
  Chg.foldlBuild _ (fun _ _ ha => Build.visit_chg hm.le ha _ _) _
    (Chg.foldlBuild _ (fun _ _ ha => Build.visit_chg hm.le ha _ _) _ h)

theorem State.buildFix_chg {m : Nat} (hm : Sub 98840 m) {s : State} : ∀ (k : Nat) (f : FrameCtx) {t : State}, Chg m s t →
    Chg m s (State.buildFix t f k).st
  | 0, f, _, h => State.build_chg hm.le h f
  | k + 1, f, t, h => by
    unfold State.buildFix
    dsimp only
    split
    · exact State.build_chg hm.le h f
    · exact State.buildFix_chg hm.le k _ h

theorem State.matchReq_chg {m : Nat} (hm : Sub 33653256 m) {s t : State} (h : Chg m s t) (i : Nat) (r : Request) : Chg m s (State.matchReq t i r) := by
  unfold State.matchReq
  try dsimp only
  repeat' first
    | with_reducible exact h
    | with_reducible assumption
    | with_reducible apply State.setEntry_chg hm.le
    | with_reducible apply State.askHosts_chg hm.le
    | with_reducible apply State.modReq_chg hm.le
    | with_reducible apply State.matchFrom_chg hm.le
    | with_reducible refine Chg.foldl _ ?_ _ ?_
    | with_reducible refine Chg.foldlFst _ ?_ _ ?_
    | split
    | intro _ _ _

theorem State.unmatch_chg {m : Nat} (hm : Sub 98824 m) {s t : State} (h : Chg m s t) (i : Nat) : Chg m s (State.unmatch t i) := by
  unfold State.unmatch
  try dsimp only
  repeat' first
    | with_reducible exact h
    | with_reducible assumption
    | with_reducible apply State.setEntry_chg hm.le
    | with_reducible apply State.setPg_chg hm.le
    | with_reducible apply State.setList_chg hm.le
    | with_reducible apply State.modReq_chg hm.le
    | with_reducible apply State.returnUnit_chg hm.le
    | with_reducible refine Chg.foldl _ ?_ _ ?_
    | with_reducible refine Chg.foldlFst _ ?_ _ ?_
    | with_reducible apply Chg.ite
    | split
    | intro _ _ _

theorem State.moveChunks_chg {m : Nat} (hm : Sub 65536 m) {s t : State} (h : Chg m s t) (p : Nat) (b : Nat) (ran : List Nat) : Chg m s (State.moveChunks t p b ran) := by
  unfold State.moveChunks
  try dsimp only
  repeat' first
    | with_reducible exact h
    | with_reducible assumption
    | with_reducible apply State.replaceChunks_chg hm.le
    | with_reducible refine Chg.foldl _ ?_ _ ?_
    | with_reducible refine Chg.foldlFst _ ?_ _ ?_
    | with_reducible apply Chg.ite
    | split
    | intro _ _ _

theorem State.skipOthers_chg {m : Nat} (hm : Sub 32768 m) {s t : State} (h : Chg m s t) (p : Nat) (b : Nat) (ws : List Work) : Chg m s (State.skipOthers t p b ws) := by
  unfold State.skipOthers
  try dsimp only
  repeat' first
    | with_reducible exact h
    | with_reducible assumption
    | with_reducible apply State.skipSample_chg hm.le
    | with_reducible refine Chg.foldl _ ?_ _ ?_
    | with_reducible refine Chg.foldlFst _ ?_ _ ?_
    | with_reducible apply Chg.ite
    | split
    | intro _ _ _

theorem State.endReplay_chg {m : Nat} (hm : Sub 12582916 m) {s t : State} (h : Chg m s t) (p : Nat) (n : Nat) (result : Nat) : Chg m s (State.endReplay t p n result) := by
  unfold State.endReplay
  try dsimp only
  repeat' first
    | with_reducible exact h
    | with_reducible assumption
    | with_reducible apply State.soot1_chg hm.le

theorem State.settleReplay_chg {m : Nat} (hm : Sub 4 m) {s t : State} (h : Chg m s t) (p : Nat) : Chg m s (State.settleReplay t p) := by
  unfold State.settleReplay
  repeat' first
    | with_reducible exact h
    | with_reducible assumption
    | with_reducible apply State.setFld_chg hm.le
    | with_reducible apply Chg.ite

theorem State.sealList_chg {m : Nat} (hm : Sub 33653272 m) {s t : State} (h : Chg m s t) (f : FrameCtx) : Chg m s (State.sealList t f).1 := by
  unfold State.sealList
  try dsimp only
  repeat' first
    | with_reducible exact h
    | with_reducible assumption
    | with_reducible apply State.buildFix_chg hm.le
    | with_reducible apply State.matchReq_chg hm.le
    | with_reducible apply State.unmatch_chg hm.le
    | with_reducible apply State.moveChunks_chg hm.le
    | with_reducible refine Chg.foldl _ ?_ _ ?_
    | with_reducible refine Chg.foldlFst _ ?_ _ ?_
    | with_reducible apply Chg.ite
    | split
    | intro _ _ _

theorem State.promptRead_chg {m : Nat} (hm : Sub 46137860 m) {s t : State} (h : Chg m s t) (w : Work) (meets : List (Nat × Meet)) : Chg m s (State.promptRead t w meets) := by
  unfold State.promptRead
  try dsimp only
  repeat' first
    | with_reducible exact h
    | with_reducible assumption
    | with_reducible apply State.readMeets_chg hm.le
    | split

theorem State.sealFrame_chg {m : Nat} (hm : Sub 113345052 m) {s t : State} (h : Chg m s t) (p : Nat) (b : Nat) (meets : List (Nat × Meet)) : Chg m s (State.sealFrame t p b meets) := by
  unfold State.sealFrame
  try dsimp only
  repeat' first
    | with_reducible exact h
    | with_reducible assumption
    | with_reducible apply State.modPart_chg hm.le
    | with_reducible apply State.drawn_chg hm.le
    | with_reducible apply State.syncKv_chg hm.le
    | with_reducible apply State.placeWaiting_chg hm.le
    | with_reducible apply State.moveChunks_chg hm.le
    | with_reducible apply State.skipOthers_chg hm.le
    | with_reducible apply State.endReplay_chg hm.le
    | with_reducible apply State.settleReplay_chg hm.le
    | with_reducible apply State.sealList_chg hm.le
    | with_reducible apply State.promptRead_chg hm.le
    | with_reducible refine Chg.foldl _ ?_ _ ?_
    | with_reducible refine Chg.foldlFst _ ?_ _ ?_
    | with_reducible apply Chg.ite
    | split
    | intro _ _ _

end Sys2Proof.Machine
end

