-- ==== Sys2Proof/Laws/ChgFrames.lean ====
section
/-!
SUPPORT. ChgFrames.lean: the kinds of state that each operation of Frames.lean can change; each keeps the invariant.
-/

set_option Elab.async false
namespace Sys2Proof.Machine
open Sys2Proof.Config

theorem State.loseSample_chg {m : Nat} (hm : Sub 32768 m) {s t : State} (h : Chg m s t) (e : Nat) (fctxs : List Nat) : Chg m s (State.loseSample t e fctxs) := by
  unfold State.loseSample
  try dsimp only
  repeat' first
    | with_reducible exact h
    | with_reducible assumption
    | with_reducible apply State.setEntry_chg hm.le

theorem State.loseWork_chg {m : Nat} (hm : Sub 98824 m) {s t : State} (h : Chg m s t) (w : Work) (es : List Nat) (fctxs : List Nat) (lo : Nat) : Chg m s (State.loseWork t w es fctxs lo) := by
  unfold State.loseWork
  try dsimp only
  repeat' first
    | with_reducible exact h
    | with_reducible assumption
    | with_reducible apply State.undoCopy_chg hm.le
    | with_reducible apply State.dropShared_chg hm.le
    | with_reducible apply State.rollback_chg hm.le
    | with_reducible apply State.replaceChunks_chg hm.le
    | with_reducible apply State.loseSample_chg hm.le
    | with_reducible refine Chg.foldl _ ?_ _ ?_
    | with_reducible refine Chg.foldlFst _ ?_ _ ?_
    | with_reducible apply Chg.ite
    | split
    | intro _ _ _

theorem State.verify_chg {m : Nat} (hm : Sub 33280 m) {s t : State} (h : Chg m s t) (p : Nat) (e : Nat) (pv : Nat) (r : Request) (o : KernelOut) : Chg m s (State.verify t p e pv r o) := by
  unfold State.verify
  try dsimp only
  repeat' first
    | with_reducible exact h
    | with_reducible assumption
    | with_reducible apply State.setEntry_chg hm.le
    | with_reducible apply State.modPart_chg hm.le
    | with_reducible apply Chg.ite
    | split

theorem State.rollbackUnit_chg {m : Nat} (hm : Sub 98824 m) {s t : State} (h : Chg m s t) (e0 : Nat) (es : List Nat) (len : Nat) (pv : Nat) (written : List (Nat × Nat)) : Chg m s (State.rollbackUnit t e0 es len pv written) := by
  unfold State.rollbackUnit
  try dsimp only
  repeat' first
    | with_reducible exact h
    | with_reducible assumption
    | with_reducible apply State.dropShared_chg hm.le
    | with_reducible apply State.commitFill_chg hm.le
    | with_reducible apply State.rollback_chg hm.le
    | with_reducible apply Chg.ite

theorem State.passA_chg {m : Nat} (hm : Sub 98824 m) {s t : State} (h : Chg m s t) (p : Nat) (lo : Nat) (outs : List KernelOut) (w : Work) : Chg m s (State.passA t p lo outs w) := by
  unfold State.passA
  try dsimp only
  repeat' first
    | with_reducible exact h
    | with_reducible assumption
    | with_reducible apply State.setEntry_chg hm.le
    | with_reducible apply State.modReq_chg hm.le
    | with_reducible apply State.rollback_chg hm.le
    | with_reducible apply State.loseWork_chg hm.le
    | with_reducible apply State.verify_chg hm.le
    | with_reducible apply State.rollbackUnit_chg hm.le
    | with_reducible refine Chg.foldl _ ?_ _ ?_
    | with_reducible refine Chg.foldlFst _ ?_ _ ?_
    | with_reducible apply Chg.ite
    | split
    | intro _ _ _

theorem State.passC_chg {m : Nat} (hm : Sub 33292 m) {s t : State} (h : Chg m s t) (e : Nat) : Chg m s (State.passC t e) := by
  unfold State.passC
  try dsimp only
  repeat' first
    | with_reducible exact h
    | with_reducible assumption
    | with_reducible apply State.evict_chg hm.le
    | with_reducible apply State.registerAll_chg hm.le
    | with_reducible apply Chg.ite

theorem State.finalise_chg {m : Nat} (hm : Sub 98828 m) {s t : State} (h : Chg m s t) (p : Nat) (outs : List KernelOut) : Chg m s (State.finalise t p outs) := by
  unfold State.finalise
  try dsimp only
  repeat' first
    | with_reducible exact h
    | with_reducible assumption
    | with_reducible apply State.modPart_chg hm.le
    | with_reducible apply State.syncKv_chg hm.le
    | with_reducible apply State.foldPage_chg hm.le
    | with_reducible apply State.passA_chg hm.le
    | with_reducible apply State.passC_chg hm.le
    | with_reducible refine Chg.foldl _ ?_ _ ?_
    | with_reducible refine Chg.foldlFst _ ?_ _ ?_
    | with_reducible apply Chg.ite
    | split
    | intro _ _ _

theorem execFrameFinalise_chg {m : Nat} (hm : Sub 12681740 m) (s : State) (p : Nat) (outs : List KernelOut) : NextChg m s (execFrameFinalise p outs s) := by
  unfold execFrameFinalise
  try dsimp only
  repeat' first
    | with_reducible exact Chg.refl _ _
    | with_reducible assumption
    | with_reducible refine NextChg.actHost ?_
    | with_reducible refine NextChg.act ?_
    | with_reducible refine NextChg.next ?_
    | with_reducible apply State.modPart_chg hm.le
    | with_reducible apply State.setEvt_chg hm.le
    | with_reducible apply State.soot1_chg hm.le
    | with_reducible apply State.finalise_chg hm.le
    | with_reducible apply Chg.ite
    | split

theorem execLateFinalisation_chg {m : Nat} (hm : Sub 98828 m) (s : State) (p : Nat) (outs : List KernelOut) : NextChg m s (execLateFinalisation p outs s) := by
  unfold execLateFinalisation
  try dsimp only
  repeat' first
    | with_reducible exact Chg.refl _ _
    | with_reducible assumption
    | with_reducible refine NextChg.actHost ?_
    | with_reducible refine NextChg.act ?_
    | with_reducible refine NextChg.next ?_
    | with_reducible apply State.finalise_chg hm.le
    | with_reducible apply Chg.ite

theorem State.drainFor_chg {m : Nat} (hm : Sub 37408 m) {s t : State} (h : Chg m s t) (e : Nat) (cid : Nat) : Chg m s (State.drainFor t e cid) := by
  unfold State.drainFor
  try dsimp only
  repeat' first
    | with_reducible exact h
    | with_reducible assumption
    | with_reducible apply State.setEntry_chg hm.le
    | with_reducible apply State.modCmd_chg hm.le
    | with_reducible apply State.drainSample_chg hm.le

theorem State.freeCancel_chg {m : Nat} (hm : Sub 37786172 m) {s t : State} (h : Chg m s t) (c : Cmd) : Chg m s (State.freeCancel t c) := by
  unfold State.freeCancel
  repeat' first
    | with_reducible exact h
    | with_reducible assumption
    | with_reducible apply State.finish_chg hm.le
    | with_reducible apply State.drainFor_chg hm.le
    | with_reducible apply Chg.ite

theorem State.dueCancels_chg {m : Nat} (hm : Sub 37786172 m) {s t : State} (h : Chg m s t) : Chg m s (State.dueCancels t) := by
  unfold State.dueCancels
  try dsimp only
  repeat' first
    | with_reducible exact h
    | with_reducible assumption
    | with_reducible apply State.freeCancel_chg hm.le
    | with_reducible refine Chg.foldl _ ?_ _ ?_
    | with_reducible refine Chg.foldlFst _ ?_ _ ?_
    | intro _ _ _

theorem State.boundarySample_chg {m : Nat} (hm : Sub 37851708 m) {s t : State} (h : Chg m s t) (p : Nat) (b : Nat) (post : Bool) (new : List Work) (e : Nat) : Chg m s (State.boundarySample t p b post new e) := by
  unfold State.boundarySample
  try dsimp only
  repeat' first
    | with_reducible exact h
    | with_reducible assumption
    | with_reducible apply State.setEntry_chg hm.le
    | with_reducible apply State.sampleDone_chg hm.le
    | with_reducible apply State.postToken_chg hm.le
    | with_reducible refine Chg.foldl _ ?_ _ ?_
    | with_reducible refine Chg.foldlFst _ ?_ _ ?_
    | with_reducible apply Chg.ite
    | split
    | intro _ _ _

theorem State.trimSlots_chg {m : Nat} (hm : Sub 32784 m) {s t : State} (h : Chg m s t) (new : List Work) (e : Nat) : Chg m s (State.trimSlots t new e) := by
  unfold State.trimSlots
  try dsimp only
  repeat' first
    | with_reducible exact h
    | with_reducible assumption
    | with_reducible apply State.setEntry_chg hm.le
    | with_reducible apply State.releaseEm_chg hm.le

theorem State.discardWork_chg {m : Nat} (hm : Sub 98824 m) {s t : State} (h : Chg m s t) (w : Work) : Chg m s (State.discardWork t w) := by
  unfold State.discardWork
  try dsimp only
  repeat' first
    | with_reducible exact h
    | with_reducible assumption
    | with_reducible apply State.undoCopy_chg hm.le
    | with_reducible apply State.dropShared_chg hm.le
    | with_reducible apply State.rollback_chg hm.le
    | with_reducible apply Chg.ite
    | split

theorem State.countWaits_chg {m : Nat} (hm : Sub 33280 m) {s t : State} (h : Chg m s t) (p : Nat) (new : List Work) : Chg m s (State.countWaits t p new) := by
  unfold State.countWaits
  try dsimp only
  repeat' first
    | with_reducible exact h
    | with_reducible assumption
    | with_reducible apply State.setEntry_chg hm.le
    | with_reducible apply State.modPart_chg hm.le
    | with_reducible refine Chg.foldl _ ?_ _ ?_
    | with_reducible refine Chg.foldlFst _ ?_ _ ?_
    | with_reducible apply Chg.ite
    | split
    | intro _ _ _

theorem State.showEff_chg {m : Nat} (hm : Sub 4 m) {s t : State} (h : Chg m s t) (p : Nat) (b : Nat) : Chg m s (State.showEff t p b) := by
  unfold State.showEff
  try dsimp only
  repeat' first
    | with_reducible exact h
    | with_reducible assumption
    | with_reducible apply State.setFld_chg hm.le

theorem State.switchAt_chg {m : Nat} (hm : Sub 36 m) {s t : State} (h : Chg m s t) (p : Nat) (b : Nat) : Chg m s (State.switchAt t p b) := by
  unfold State.switchAt
  try dsimp only
  repeat' first
    | with_reducible exact h
    | with_reducible assumption
    | with_reducible apply State.modCmd_chg hm.le
    | with_reducible apply State.switchSlot_chg hm.le
    | with_reducible apply State.dropSlot_chg hm.le
    | with_reducible refine Chg.foldl _ ?_ _ ?_
    | with_reducible refine Chg.foldlFst _ ?_ _ ?_
    | with_reducible apply Chg.ite
    | split
    | intro _ _ _

theorem State.turnFrame_chg {m : Nat} (hm : Sub 512 m) {s t : State} (h : Chg m s t) (p : Nat) (k : Nat) (b : Nat) (sc : Sched) (switching : Bool) (post : Bool) (live : List Work) : Chg m s (State.turnFrame t p k b sc switching post live) := by
  unfold State.turnFrame
  try dsimp only
  repeat' first
    | with_reducible exact h
    | with_reducible assumption
    | with_reducible apply State.modPart_chg hm.le

theorem State.beginWork_chg {m : Nat} (hm : Sub 520 m) {s t : State} (h : Chg m s t) (w : Work) : Chg m s (State.beginWork t w).1 := by
  unfold State.beginWork
  try dsimp only
  repeat' first
    | with_reducible exact h
    | with_reducible assumption
    | with_reducible apply State.setPg_chg hm.le
    | with_reducible refine Chg.foldl _ ?_ _ ?_
    | with_reducible refine Chg.foldlFst _ ?_ _ ?_
    | with_reducible apply Chg.ite
    | split
    | intro _ _ _

theorem State.beginWorks_chg {m : Nat} (hm : Sub 520 m) {s : State} : ∀ (l : List Work) {t : State}, Chg m s t →
    Chg m s (State.beginWorks t l).1
  | [], _, h => h
  | w :: r, _, h => State.beginWorks_chg hm.le r (State.beginWork_chg hm.le h w)

theorem State.unbroken_chg {m : Nat} (hm : Sub 32768 m) {s t : State} (h : Chg m s t) (p : Nat) (worked : List Nat) (missed : Bool) : Chg m s (State.unbroken t p worked missed) := by
  unfold State.unbroken
  try dsimp only
  repeat' first
    | with_reducible exact h
    | with_reducible assumption
    | with_reducible apply State.setEntry_chg hm.le
    | with_reducible refine Chg.foldl _ ?_ _ ?_
    | with_reducible refine Chg.foldlFst _ ?_ _ ?_
    | with_reducible apply Chg.ite
    | split
    | intro _ _ _

theorem State.frameBoundaryAt_chg {m : Nat} (hm : Sub 37851708 m) {s t : State} (h : Chg m s t) (p : Nat) (k : Nat) (b : Nat) (sc : Sched) (switching : Option Nat) : Chg m s (State.frameBoundaryAt t p k b sc switching) := by
  unfold State.frameBoundaryAt
  try dsimp only
  repeat' first
    | with_reducible exact h
    | with_reducible assumption
    | with_reducible apply State.modPart_chg hm.le
    | with_reducible apply State.finishAll_chg hm.le
    | with_reducible apply State.syncKv_chg hm.le
    | with_reducible apply State.moveChunks_chg hm.le
    | with_reducible apply State.boundarySample_chg hm.le
    | with_reducible apply State.trimSlots_chg hm.le
    | with_reducible apply State.discardWork_chg hm.le
    | with_reducible apply State.countWaits_chg hm.le
    | with_reducible apply State.showEff_chg hm.le
    | with_reducible apply State.switchAt_chg hm.le
    | with_reducible apply State.turnFrame_chg hm.le
    | with_reducible apply State.beginWorks_chg hm.le
    | with_reducible apply State.unbroken_chg hm.le
    | with_reducible refine Chg.foldl _ ?_ _ ?_
    | with_reducible refine Chg.foldlFst _ ?_ _ ?_
    | with_reducible apply Chg.ite
    | split
    | intro _ _ _

theorem State.variantReady_chg {m : Nat} (hm : Sub 4 m) {s t : State} (h : Chg m s t) (c : Cmd) : Chg m s (State.variantReady t c) := by
  unfold State.variantReady
  try dsimp only
  repeat' first
    | with_reducible exact h
    | with_reducible assumption
    | with_reducible apply State.setFld_chg hm.le
    | with_reducible apply Chg.ite
    | split

theorem State.settlePublish_chg {m : Nat} (hm : Sub 37749308 m) {s t : State} (h : Chg m s t) (c : Cmd) : Chg m s (State.settlePublish t c) := by
  unfold State.settlePublish
  try dsimp only
  repeat' first
    | with_reducible exact h
    | with_reducible assumption
    | with_reducible apply State.finish_chg hm.le
    | with_reducible apply State.dropSlot_chg hm.le
    | with_reducible apply State.variantReady_chg hm.le
    | with_reducible refine Chg.foldl _ ?_ _ ?_
    | with_reducible refine Chg.foldlFst _ ?_ _ ?_
    | with_reducible apply Chg.ite
    | split
    | intro _ _ _

theorem State.settleReference_chg {m : Nat} (hm : Sub 37749308 m) {s t : State} (h : Chg m s t) (c : Cmd) : Chg m s (State.settleReference t c) := by
  unfold State.settleReference
  try dsimp only
  repeat' first
    | with_reducible exact h
    | with_reducible assumption
    | with_reducible apply State.finish_chg hm.le
    | with_reducible apply State.sweepSlots_chg hm.le
    | with_reducible apply State.moveReference_chg hm.le
    | with_reducible apply State.clearReserved_chg hm.le
    | with_reducible refine Chg.foldl _ ?_ _ ?_
    | with_reducible refine Chg.foldlFst _ ?_ _ ?_
    | with_reducible apply Chg.ite
    | split
    | intro _ _ _

theorem State.settleMarks_chg {m : Nat} (hm : Sub 37749308 m) {s t : State} (h : Chg m s t) : Chg m s (State.settleMarks t) := by
  unfold State.settleMarks
  try dsimp only
  repeat' first
    | with_reducible exact h
    | with_reducible assumption
    | with_reducible apply State.settlePublish_chg hm.le
    | with_reducible apply State.settleReference_chg hm.le
    | with_reducible refine Chg.foldl _ ?_ _ ?_
    | with_reducible refine Chg.foldlFst _ ?_ _ ?_
    | split
    | intro _ _ _

theorem State.takeBoundary_chg {m : Nat} (hm : Sub 37851708 m) {s t : State} (h : Chg m s t) (p : Nat) (b : Nat) : Chg m s (State.takeBoundary t p b) := by
  unfold State.takeBoundary
  try dsimp only
  repeat' first
    | with_reducible exact h
    | with_reducible assumption
    | with_reducible apply State.frameBoundaryAt_chg hm.le
    | split

theorem State.missFrameSets_chg {m : Nat} (hm : Sub 37814844 m) {s t : State} (h : Chg m s t) (p : Nat) : Chg m s (State.missFrameSets t p) := by
  unfold State.missFrameSets
  try dsimp only
  repeat' first
    | with_reducible exact h
    | with_reducible assumption
    | with_reducible apply State.finishAll_chg hm.le
    | with_reducible apply State.dropFrameSet_chg hm.le
    | with_reducible refine Chg.foldl _ ?_ _ ?_
    | with_reducible refine Chg.foldlFst _ ?_ _ ?_
    | intro _ _ _

theorem execFrameBoundary_chg {m : Nat} (hm : Sub 37851708 m) (s : State) (p : Nat) : NextChg m s (execFrameBoundary p s) := by
  unfold execFrameBoundary
  try dsimp only
  repeat' first
    | with_reducible exact Chg.refl _ _
    | with_reducible assumption
    | with_reducible refine NextChg.actHost ?_
    | with_reducible refine NextChg.act ?_
    | with_reducible refine NextChg.next ?_
    | with_reducible apply State.dueCancels_chg hm.le
    | with_reducible apply State.settleMarks_chg hm.le
    | with_reducible apply State.takeBoundary_chg hm.le
    | with_reducible apply State.missFrameSets_chg hm.le
    | split

theorem execFrameSeal_chg {m : Nat} (hm : Sub 113345052 m) (s : State) (p : Nat) (meets : List (Nat × Meet)) : NextChg m s (execFrameSeal p meets s) := by
  unfold execFrameSeal
  try dsimp only
  repeat' first
    | with_reducible exact Chg.refl _ _
    | with_reducible assumption
    | with_reducible refine NextChg.actHost ?_
    | with_reducible refine NextChg.act ?_
    | with_reducible refine NextChg.next ?_
    | with_reducible apply State.sealFrame_chg hm.le
    | with_reducible apply Chg.ite
    | split

theorem State.kernelLaunch_chg {m : Nat} (hm : Sub 46141964 m) {s t : State} (h : Chg m s t) (p : Nat) (k : Nat) (r : List Byte × Nat) : Chg m s (State.kernelLaunch t p k r) := by
  unfold State.kernelLaunch
  try dsimp only
  repeat' first
    | with_reducible exact h
    | with_reducible assumption
    | with_reducible apply State.writeVirt_chg hm.le
    | with_reducible apply State.loseCarried_chg hm.le
    | with_reducible apply State.startThread_chg hm.le
    | with_reducible apply State.launchRefused_chg hm.le
    | with_reducible apply Chg.ite

theorem execFrameKernelStart_chg {m : Nat} (hm : Sub 46141964 m) (s : State) (p : Nat) (records : List (List Byte)) : NextChg m s (execFrameKernelStart p records s) := by
  unfold execFrameKernelStart
  try dsimp only
  repeat' first
    | with_reducible exact Chg.refl _ _
    | with_reducible assumption
    | with_reducible refine NextChg.actHost ?_
    | with_reducible refine NextChg.act ?_
    | with_reducible refine NextChg.next ?_
    | with_reducible apply State.modPart_chg hm.le
    | with_reducible apply State.kernelLaunch_chg hm.le
    | with_reducible refine Chg.foldl _ ?_ _ ?_
    | with_reducible refine Chg.foldlFst _ ?_ _ ?_
    | with_reducible apply Chg.ite
    | split
    | intro _ _ _

theorem execSeqEntryFree_chg {m : Nat} (hm : Sub 98304 m) (s : State) (e : Nat) : NextChg m s (execSeqEntryFree e s) := by
  unfold execSeqEntryFree
  try dsimp only
  repeat' first
    | with_reducible exact Chg.refl _ _
    | with_reducible assumption
    | with_reducible refine NextChg.actHost ?_
    | with_reducible refine NextChg.act ?_
    | with_reducible refine NextChg.next ?_
    | with_reducible apply State.setEntry_chg hm.le
    | with_reducible apply Chg.ite
    | split
    | with_reducible refine Chg.mk ?_

end Sys2Proof.Machine
end

