-- ==== Sys2Proof/Laws/ChgSequences.lean ====
section
/-!
SUPPORT. ChgSequences.lean: the kinds of state that each operation of Sequences.lean can change; each keeps the invariant.
-/

set_option Elab.async false
namespace Sys2Proof.Machine
open Sys2Proof.Config

theorem State.addSamples_chg {m : Nat} (hm : Sub 33300 m) {s : State} (c : Cmd) (rec_ promise : Nat) : ∀ (k : Nat) (l : List (Nat × Nat)) {t : State},
    Chg m s t → Chg m s (State.addSamples t c rec_ promise k l)
  | _, [], _, h => h
  | k, (e, l) :: r, t, h => by
    unfold State.addSamples
    extract_lets x s1 s2 s3
    have h1 : Chg m s s1 := State.reserveEm_chg hm.le (State.setEntry_chg hm.le h _ _) _ _
    clear_value s1
    have h2 : Chg m s s2 := by
      show Chg m s (match x.slot with
        | some j => s1.pinSlot x.part j
        | none => s1)
      split
      · exact State.pinSlot_chg hm.le h1 _ _
      · exact h1
    clear_value s2
    have h3 : Chg m s s3 := by
      show Chg m s (match x.adBlock with
        | some b => s2.refAdapter x.part b
        | none => s2)
      split
      · exact State.refAdapter_chg hm.le h2 _ _
      · exact h2
    exact State.addSamples_chg hm.le c rec_ promise _ r h3

theorem State.undefVirt_chg {m : Nat} (hm : Sub 67108872 m) {s t : State} (h : Chg m s t) (perf : Option Nat) (n : Nat) (va : Nat) (len : Nat) : Chg m s (State.undefVirt t perf n va len) := by
  unfold State.undefVirt
  try dsimp only
  repeat' first
    | with_reducible exact h
    | with_reducible assumption
    | with_reducible apply State.undefMem_chg hm.le
    | with_reducible refine Chg.foldl _ ?_ _ ?_
    | with_reducible refine Chg.foldlFst _ ?_ _ ?_
    | split
    | intro _ _ _

theorem State.copyOut_chg {m : Nat} (hm : Sub 113246764 m) {s t : State} (h : Chg m s t) (c : Cmd) (p : Nat) (va : Nat) (d : List Byte) (res : List Byte) (resBad : List Byte) (m_ : Meet) : Chg m s (State.copyOut t c p va d res resBad m_) := by
  unfold State.copyOut
  try dsimp only
  repeat' first
    | with_reducible exact h
    | with_reducible assumption
    | with_reducible apply State.writeVirt_chg hm.le
    | with_reducible apply State.waitLate_chg hm.le
    | with_reducible apply State.waitCmd_chg hm.le
    | with_reducible apply State.writeMeets_chg hm.le
    | with_reducible apply State.undefVirt_chg hm.le
    | with_reducible apply Chg.ite

theorem State.submit_chg {m : Nat} (hm : Sub 113345084 m) {s t : State} (h : Chg m s t) (c : Cmd) (m_ : Meet) : Chg m s (State.submit t c m_) := by
  unfold State.submit
  try dsimp only
  repeat' first
    | with_reducible exact h
    | with_reducible assumption
    | with_reducible apply State.waitCmd_chg hm.le
    | with_reducible apply State.addSamples_chg hm.le
    | with_reducible apply State.copyOut_chg hm.le
    | with_reducible apply Chg.ite
    | split
    | with_reducible refine Chg.mk ?_

theorem execSeqSubmit_chg {m : Nat} (hm : Sub 113345084 m) (s : State) (n : Nat) (m_ : Meet) : NextChg m s (execSeqSubmit n m_ s) := by
  unfold execSeqSubmit
  try dsimp only
  repeat' first
    | with_reducible exact Chg.refl _ _
    | with_reducible assumption
    | with_reducible refine NextChg.actHost ?_
    | with_reducible refine NextChg.act ?_
    | with_reducible refine NextChg.next ?_
    | with_reducible apply State.settle_chg hm.le
    | with_reducible apply State.submit_chg hm.le
    | split
    | intro _

theorem State.cancel_chg {m : Nat} (hm : Sub 37408 m) {s t : State} (h : Chg m s t) (c : Cmd) : Chg m s (State.cancel t c) := by
  unfold State.cancel
  try dsimp only
  repeat' first
    | with_reducible exact h
    | with_reducible assumption
    | with_reducible apply State.modCmd_chg hm.le
    | with_reducible apply State.drainFor_chg hm.le
    | with_reducible apply Chg.ite

theorem execSeqCancel_chg {m : Nat} (hm : Sub 37408 m) (s : State) (n : Nat) : NextChg m s (execSeqCancel n s) := by
  unfold execSeqCancel
  try dsimp only
  repeat' first
    | with_reducible exact Chg.refl _ _
    | with_reducible assumption
    | with_reducible refine NextChg.actHost ?_
    | with_reducible refine NextChg.act ?_
    | with_reducible refine NextChg.next ?_
    | with_reducible apply State.settle_chg hm.le
    | with_reducible apply State.cancel_chg hm.le
    | split
    | intro _

theorem execSeqReward_chg {m : Nat} (hm : Sub 48 m) (s : State) (n : Nat) : NextChg m s (execSeqReward n s) := by
  unfold execSeqReward
  try dsimp only
  repeat' first
    | with_reducible exact Chg.refl _ _
    | with_reducible assumption
    | with_reducible refine NextChg.actHost ?_
    | with_reducible refine NextChg.act ?_
    | with_reducible refine NextChg.next ?_
    | with_reducible apply State.modCmd_chg hm.le
    | with_reducible apply State.waitCmd_chg hm.le
    | with_reducible apply State.settle_chg hm.le
    | with_reducible apply State.reserveEm_chg hm.le
    | split
    | intro _

theorem execRewardEmberWrite_chg {m : Nat} (hm : Sub 37749308 m) (s : State) (cid : Nat) : NextChg m s (execRewardEmberWrite cid s) := by
  unfold execRewardEmberWrite
  try dsimp only
  repeat' first
    | with_reducible exact Chg.refl _ _
    | with_reducible assumption
    | with_reducible refine NextChg.actHost ?_
    | with_reducible refine NextChg.act ?_
    | with_reducible refine NextChg.next ?_
    | with_reducible apply State.modCmd_chg hm.le
    | with_reducible apply State.postEmber_chg hm.le
    | with_reducible apply Chg.ite
    | split

theorem execSeqQuery_chg {m : Nat} (hm : Sub 32 m) (s : State) (n : Nat) : NextChg m s (execSeqQuery n s) := by
  unfold execSeqQuery
  try dsimp only
  repeat' first
    | with_reducible exact Chg.refl _ _
    | with_reducible assumption
    | with_reducible refine NextChg.actHost ?_
    | with_reducible refine NextChg.act ?_
    | with_reducible refine NextChg.next ?_
    | with_reducible apply State.modCmd_chg hm.le
    | with_reducible apply State.settle_chg hm.le
    | split
    | intro _

theorem State.queryEffect_chg {m : Nat} (hm : Sub 113246764 m) {s t : State} (h : Chg m s t) (c : Cmd) (m_ : Meet) : Chg m s (State.queryEffect t c m_) := by
  unfold State.queryEffect
  try dsimp only
  repeat' first
    | with_reducible exact h
    | with_reducible assumption
    | with_reducible apply State.copyOut_chg hm.le

end Sys2Proof.Machine
end

