-- ==== Sys2Proof/Laws/ChgSteps.lean ====
section
/-!
SUPPORT. ChgSteps.lean: the kinds of state that each operation of Steps.lean can change; each keeps the invariant.
-/

set_option Elab.async false
namespace Sys2Proof.Machine
open Sys2Proof.Config

theorem State.launchStep_chg {m : Nat} (hm : Sub 131620 m) {s t : State} (h : Chg m s t) (c : Cmd) : Chg m s (State.launchStep t c) := by
  unfold State.launchStep
  try dsimp only
  repeat' first
    | with_reducible exact h
    | with_reducible assumption
    | with_reducible apply State.setFld_chg hm.le
    | with_reducible apply State.modPart_chg hm.le
    | with_reducible apply State.modCmd_chg hm.le
    | with_reducible refine Chg.foldl _ ?_ _ ?_
    | with_reducible refine Chg.foldlFst _ ?_ _ ?_
    | intro _ _ _
    | with_reducible refine Chg.mk ?_

theorem execStepLaunch_chg {m : Nat} (hm : Sub 131620 m) (s : State) (n : Nat) : NextChg m s (execStepLaunch n s) := by
  unfold execStepLaunch
  try dsimp only
  repeat' first
    | with_reducible exact Chg.refl _ _
    | with_reducible assumption
    | with_reducible refine NextChg.actHost ?_
    | with_reducible refine NextChg.act ?_
    | with_reducible refine NextChg.next ?_
    | with_reducible apply State.settle_chg hm.le
    | with_reducible apply State.launchStep_chg hm.le
    | split
    | intro _

theorem State.tabReads_chg {m : Nat} (hm : Sub 46137860 m) {s t : State} (h : Chg m s t) (n : Nat) (p : Nat) (v : StepView) (m_ : Meet) : Chg m s (State.tabReads t n p v m_) := by
  unfold State.tabReads
  try dsimp only
  repeat' first
    | with_reducible exact h
    | with_reducible assumption
    | with_reducible apply State.readMeets_chg hm.le
    | with_reducible refine Chg.foldl _ ?_ _ ?_
    | with_reducible refine Chg.foldlFst _ ?_ _ ?_
    | split
    | intro _ _ _

theorem State.stepReads_chg {m : Nat} (hm : Sub 46137860 m) {s t : State} (h : Chg m s t) (n : Nat) (p : Nat) (prog : Nat) (v : StepView) (m_ : Meet) : Chg m s (State.stepReads t n p prog v m_) := by
  unfold State.stepReads
  repeat' first
    | with_reducible exact h
    | with_reducible assumption
    | with_reducible apply State.readMeets_chg hm.le
    | with_reducible apply State.tabReads_chg hm.le

theorem State.spoilCheckpoints_chg {m : Nat} (hm : Sub 32 m) {s t : State} (h : Chg m s t) (p : Nat) : Chg m s (State.spoilCheckpoints t p) := by
  unfold State.spoilCheckpoints
  try dsimp only
  repeat' first
    | with_reducible exact h
    | with_reducible assumption
    | with_reducible apply State.modCmd_chg hm.le
    | with_reducible refine Chg.foldl _ ?_ _ ?_
    | with_reducible refine Chg.foldlFst _ ?_ _ ?_
    | intro _ _ _

theorem State.startOn_chg {m : Nat} (hm : Sub 46268972 m) {s t : State} (h : Chg m s t) (t_ : Step) (c : Cmd) (p : Nat) (m_ : Meet) : Chg m s (State.startOn t t_ c p m_) := by
  unfold State.startOn
  try dsimp only
  repeat' first
    | with_reducible exact h
    | with_reducible assumption
    | with_reducible apply State.setFld_chg hm.le
    | with_reducible apply State.writeVirt_chg hm.le
    | with_reducible apply State.modStep_chg hm.le
    | with_reducible apply State.setStepFlag_chg hm.le
    | with_reducible apply State.stepReads_chg hm.le
    | with_reducible apply State.spoilCheckpoints_chg hm.le
    | with_reducible apply Chg.ite

theorem execStepStart_chg {m : Nat} (hm : Sub 46268972 m) (s : State) (cid : Nat) (meets : List (Nat × Meet)) : NextChg m s (execStepStart cid meets s) := by
  unfold execStepStart
  try dsimp only
  repeat' first
    | with_reducible exact Chg.refl _ _
    | with_reducible assumption
    | with_reducible refine NextChg.actHost ?_
    | with_reducible refine NextChg.act ?_
    | with_reducible refine NextChg.next ?_
    | with_reducible apply State.modStep_chg hm.le
    | with_reducible apply State.startOn_chg hm.le
    | with_reducible refine Chg.foldl _ ?_ _ ?_
    | with_reducible refine Chg.foldlFst _ ?_ _ ?_
    | with_reducible apply Chg.ite
    | split
    | intro _ _ _

theorem State.launchOne_chg {m : Nat} (hm : Sub 33690124 m) {s t : State} (h : Chg m s t) (t_ : Step) (p : Nat) (r : List Byte) (index : Nat) : Chg m s (State.launchOne t t_ p r index) := by
  unfold State.launchOne
  repeat' first
    | with_reducible exact h
    | with_reducible assumption
    | with_reducible apply State.modStep_chg hm.le
    | with_reducible apply State.setStepFlag_chg hm.le
    | with_reducible apply State.startThread_chg hm.le
    | with_reducible apply Chg.ite

theorem State.launchTable_chg {m : Nat} (hm : Sub 33690124 m) {s t : State} (h : Chg m s t) (t_ : Step) (p : Nat) (tab : List (List Byte)) : Chg m s (State.launchTable t t_ p tab) := by
  unfold State.launchTable
  try dsimp only
  repeat' first
    | with_reducible exact h
    | with_reducible assumption
    | with_reducible apply State.launchOne_chg hm.le
    | with_reducible refine Chg.foldl _ ?_ _ ?_
    | with_reducible refine Chg.foldlFst _ ?_ _ ?_
    | intro _ _ _

theorem execMainLaunch_chg {m : Nat} (hm : Sub 33690124 m) (s : State) (cid : Nat) : NextChg m s (execMainLaunch cid s) := by
  unfold execMainLaunch
  try dsimp only
  repeat' first
    | with_reducible exact Chg.refl _ _
    | with_reducible assumption
    | with_reducible refine NextChg.actHost ?_
    | with_reducible refine NextChg.act ?_
    | with_reducible refine NextChg.next ?_
    | with_reducible apply State.modStep_chg hm.le
    | with_reducible apply State.setStepFlag_chg hm.le
    | with_reducible apply State.launchTable_chg hm.le
    | with_reducible refine Chg.foldl _ ?_ _ ?_
    | with_reducible refine Chg.foldlFst _ ?_ _ ?_
    | with_reducible apply Chg.ite
    | split
    | intro _ _ _

theorem State.gradLate_chg {m : Nat} (hm : Sub 46268940 m) {s t : State} (h : Chg m s t) (t_ : Step) (p : Nat) (id : Nat) (w : Nat) (target : Nat) : Chg m s (State.gradLate t t_ p id w target) := by
  unfold State.gradLate
  try dsimp only
  repeat' first
    | with_reducible exact h
    | with_reducible assumption
    | with_reducible apply State.soot1_chg hm.le
    | with_reducible apply State.modStep_chg hm.le
    | with_reducible apply State.setStepFlag_chg hm.le

theorem State.readyCheck_chg {m : Nat} (hm : Sub 46268940 m) {s t : State} (h : Chg m s t) (p : Nat) (id : Nat) (m_ : Meet) : Chg m s (State.readyCheck t p id m_) := by
  unfold State.readyCheck
  try dsimp only
  repeat' first
    | with_reducible exact h
    | with_reducible assumption
    | with_reducible apply State.modStep_chg hm.le
    | with_reducible apply State.setStepFlag_chg hm.le
    | with_reducible apply State.readMeets_chg hm.le
    | with_reducible apply State.gradLate_chg hm.le
    | with_reducible apply Chg.ite
    | split

theorem State.voteStart_chg {m : Nat} (hm : Sub 33554956 m) {s t : State} (h : Chg m s t) (p : Nat) (co : Coll) : Chg m s (State.voteStart t p co) := by
  unfold State.voteStart
  try dsimp only
  repeat' first
    | with_reducible exact h
    | with_reducible assumption
    | with_reducible apply State.setFld_chg hm.le
    | with_reducible apply State.writeVirt_chg hm.le
    | with_reducible apply State.setStepFlag_chg hm.le
    | with_reducible apply Chg.ite
    | split

theorem State.stepOutcome_chg {m : Nat} (hm : Sub 33686028 m) {s t : State} (h : Chg m s t) (p : Nat) (co : Coll) (st : Nat) : Chg m s (State.stepOutcome t p co st) := by
  unfold State.stepOutcome
  try dsimp only
  repeat' first
    | with_reducible exact h
    | with_reducible assumption
    | with_reducible apply State.modStep_chg hm.le
    | with_reducible apply State.setStepFlag_chg hm.le
    | with_reducible apply Chg.ite
    | split

theorem State.gateOn_chg {m : Nat} (hm : Sub 33686028 m) {s t : State} (h : Chg m s t) (t_ : Step) (p : Nat) : Chg m s (State.gateOn t t_ p) := by
  unfold State.gateOn
  try dsimp only
  repeat' first
    | with_reducible exact h
    | with_reducible assumption
    | with_reducible apply State.setFld_chg hm.le
    | with_reducible apply State.modStep_chg hm.le
    | with_reducible apply State.setStepFlag_chg hm.le
    | with_reducible apply Chg.ite

theorem execUpdateGate_chg {m : Nat} (hm : Sub 33686028 m) (s : State) (cid : Nat) : NextChg m s (execUpdateGate cid s) := by
  unfold execUpdateGate
  try dsimp only
  repeat' first
    | with_reducible exact Chg.refl _ _
    | with_reducible assumption
    | with_reducible refine NextChg.actHost ?_
    | with_reducible refine NextChg.act ?_
    | with_reducible refine NextChg.next ?_
    | with_reducible apply State.modStep_chg hm.le
    | with_reducible apply State.gateOn_chg hm.le
    | with_reducible refine Chg.foldl _ ?_ _ ?_
    | with_reducible refine Chg.foldlFst _ ?_ _ ?_
    | with_reducible apply Chg.ite
    | split
    | intro _ _ _

theorem execUpdateLaunch_chg {m : Nat} (hm : Sub 33690124 m) (s : State) (cid : Nat) : NextChg m s (execUpdateLaunch cid s) := by
  unfold execUpdateLaunch
  try dsimp only
  repeat' first
    | with_reducible exact Chg.refl _ _
    | with_reducible assumption
    | with_reducible refine NextChg.actHost ?_
    | with_reducible refine NextChg.act ?_
    | with_reducible refine NextChg.next ?_
    | with_reducible apply State.modStep_chg hm.le
    | with_reducible apply State.launchTable_chg hm.le
    | with_reducible refine Chg.foldl _ ?_ _ ?_
    | with_reducible refine Chg.foldlFst _ ?_ _ ?_
    | with_reducible apply Chg.ite
    | split
    | intro _ _ _

theorem execSelfTestCheckMark_chg {m : Nat} (hm : Sub 33554956 m) (s : State) (cid : Nat) : NextChg m s (execSelfTestCheckMark cid s) := by
  unfold execSelfTestCheckMark
  try dsimp only
  repeat' first
    | with_reducible exact Chg.refl _ _
    | with_reducible assumption
    | with_reducible refine NextChg.actHost ?_
    | with_reducible refine NextChg.act ?_
    | with_reducible refine NextChg.next ?_
    | with_reducible apply State.setStepFlag_chg hm.le
    | with_reducible refine Chg.foldl _ ?_ _ ?_
    | with_reducible refine Chg.foldlFst _ ?_ _ ?_
    | with_reducible apply Chg.ite
    | split
    | intro _ _ _

theorem State.noteCommit_chg {m : Nat} (hm : Sub 512 m) {s t : State} (h : Chg m s t) (p : Nat) : Chg m s (State.noteCommit t p) := by
  unfold State.noteCommit
  try dsimp only
  repeat' first
    | with_reducible exact h
    | with_reducible assumption
    | with_reducible apply State.modPart_chg hm.le

theorem State.flipHalves_chg {m : Nat} (hm : Sub 4 m) {s t : State} (h : Chg m s t) (p : Nat) : Chg m s (State.flipHalves t p) := by
  unfold State.flipHalves
  try dsimp only
  repeat' first
    | with_reducible exact h
    | with_reducible assumption
    | with_reducible apply State.setFld_chg hm.le
    | with_reducible refine Chg.foldl _ ?_ _ ?_
    | with_reducible refine Chg.foldlFst _ ?_ _ ?_
    | intro _ _ _

theorem State.commitOn_chg {m : Nat} (hm : Sub 516 m) {s t : State} (h : Chg m s t) (t_ : Step) (p : Nat) : Chg m s (State.commitOn t t_ p) := by
  unfold State.commitOn
  try dsimp only
  repeat' first
    | with_reducible exact h
    | with_reducible assumption
    | with_reducible apply State.setFld_chg hm.le
    | with_reducible apply State.noteCommit_chg hm.le
    | with_reducible apply State.flipHalves_chg hm.le

theorem State.spoilShadows_chg {m : Nat} (hm : Sub 67108872 m) {s t : State} (h : Chg m s t) (t_ : Step) (p : Nat) (st : Nat) : Chg m s (State.spoilShadows t t_ p st) := by
  unfold State.spoilShadows
  try dsimp only
  repeat' first
    | with_reducible exact h
    | with_reducible assumption
    | with_reducible apply State.undefMem_chg hm.le
    | with_reducible refine Chg.foldl _ ?_ _ ?_
    | with_reducible refine Chg.foldlFst _ ?_ _ ?_
    | with_reducible apply Chg.ite
    | split
    | intro _ _ _

theorem State.leaveStep_chg {m : Nat} (hm : Sub 100663820 m) {s t : State} (h : Chg m s t) (t_ : Step) (p : Nat) (st : Nat) (committed : Bool) : Chg m s (State.leaveStep t t_ p st committed) := by
  unfold State.leaveStep
  try dsimp only
  repeat' first
    | with_reducible exact h
    | with_reducible assumption
    | with_reducible apply State.setFld_chg hm.le
    | with_reducible apply State.modPart_chg hm.le
    | with_reducible apply State.writeVirt_chg hm.le
    | with_reducible apply State.mirror_chg hm.le
    | with_reducible apply State.spoilShadows_chg hm.le
    | with_reducible apply Chg.ite

theorem State.decideOn_chg {m : Nat} (hm : Sub 100663820 m) {s t : State} (h : Chg m s t) (t_ : Step) (p : Nat) (st : Nat) : Chg m s (State.decideOn t t_ p st) := by
  unfold State.decideOn
  try dsimp only
  repeat' first
    | with_reducible exact h
    | with_reducible assumption
    | with_reducible apply State.damperAuto_chg hm.le
    | with_reducible apply State.commitOn_chg hm.le
    | with_reducible apply State.leaveStep_chg hm.le
    | with_reducible apply Chg.ite

theorem State.removeStep_chg {m : Nat} (hm : Sub 46273036 m) {s t : State} (h : Chg m s t) (t_ : Step) : Chg m s (State.removeStep t t_) := by
  unfold State.removeStep
  try dsimp only
  repeat' first
    | with_reducible exact h
    | with_reducible assumption
    | with_reducible apply State.soot1_chg hm.le
    | with_reducible apply State.stopThread_chg hm.le
    | with_reducible apply State.freeStopped_chg hm.le
    | with_reducible refine Chg.foldl _ ?_ _ ?_
    | with_reducible refine Chg.foldlFst _ ?_ _ ?_
    | intro _ _ _
    | with_reducible refine Chg.mk ?_

theorem State.abortStep_chg {m : Nat} (hm : Sub 113381900 m) {s t : State} (h : Chg m s t) (cid : Nat) (st : Nat) : Chg m s (State.abortStep t cid st) := by
  unfold State.abortStep
  try dsimp only
  repeat' first
    | with_reducible exact h
    | with_reducible assumption
    | with_reducible apply State.leaveStep_chg hm.le
    | with_reducible apply State.removeStep_chg hm.le
    | with_reducible refine Chg.foldl _ ?_ _ ?_
    | with_reducible refine Chg.foldlFst _ ?_ _ ?_
    | split
    | intro _ _ _

theorem State.abortWith_chg {m : Nat} (hm : Sub 113381948 m) {s t : State} (h : Chg m s t) (cid : Nat) (st : Nat) : Chg m s (State.abortWith t cid st) := by
  unfold State.abortWith
  try dsimp only
  repeat' first
    | with_reducible exact h
    | with_reducible assumption
    | with_reducible apply State.finish_chg hm.le
    | with_reducible apply State.abortStep_chg hm.le
    | split

theorem execStepCommit_chg {m : Nat} (hm : Sub 113381948 m) (s : State) (cid : Nat) : NextChg m s (execStepCommit cid s) := by
  unfold execStepCommit
  try dsimp only
  repeat' first
    | with_reducible exact Chg.refl _ _
    | with_reducible assumption
    | with_reducible refine NextChg.actHost ?_
    | with_reducible refine NextChg.act ?_
    | with_reducible refine NextChg.next ?_
    | with_reducible apply State.finish_chg hm.le
    | with_reducible apply State.decideOn_chg hm.le
    | with_reducible apply State.removeStep_chg hm.le
    | with_reducible refine Chg.foldl _ ?_ _ ?_
    | with_reducible refine Chg.foldlFst _ ?_ _ ?_
    | with_reducible apply Chg.ite
    | split
    | intro _ _ _

theorem State.poisonColls_chg {m : Nat} (hm : Sub 1049088 m) {s t : State} (h : Chg m s t) (t_ : Step) : Chg m s (State.poisonColls t t_) := by
  unfold State.poisonColls
  try dsimp only
  repeat' first
    | with_reducible exact h
    | with_reducible assumption
    | with_reducible apply State.modPart_chg hm.le
    | with_reducible refine Chg.foldl _ ?_ _ ?_
    | with_reducible refine Chg.foldlFst _ ?_ _ ?_
    | with_reducible apply Chg.ite
    | split
    | intro _ _ _
    | with_reducible refine Chg.mk ?_

theorem State.restartNeeded_chg {m : Nat} (hm : Sub 114430524 m) {s t : State} (h : Chg m s t) (cid : Nat) : Chg m s (State.restartNeeded t cid) := by
  unfold State.restartNeeded
  try dsimp only
  repeat' first
    | with_reducible exact h
    | with_reducible assumption
    | with_reducible apply State.abortWith_chg hm.le
    | with_reducible apply State.poisonColls_chg hm.le
    | split

theorem execRevert_chg {m : Nat} (hm : Sub 4194820 m) (s : State) (port : Nat) (p : Nat) : NextChg m s (execRevert port p s) := by
  unfold execRevert
  try dsimp only
  repeat' first
    | with_reducible exact Chg.refl _ _
    | with_reducible assumption
    | with_reducible refine NextChg.actHost ?_
    | with_reducible refine NextChg.act ?_
    | with_reducible refine NextChg.next ?_
    | with_reducible apply State.setReg_chg hm.le
    | with_reducible apply State.setFld_chg hm.le
    | with_reducible apply State.setEvt_chg hm.le
    | with_reducible apply State.noteCommit_chg hm.le
    | with_reducible apply State.flipHalves_chg hm.le
    | with_reducible apply Chg.ite

end Sys2Proof.Machine
end

