-- ==== Sys2Proof/Laws/ChgFlue.lean ====
section
/-!
SUPPORT. ChgFlue.lean: the kinds of state that each operation of Flue.lean can change; each keeps the invariant.
-/

set_option Elab.async false
namespace Sys2Proof.Machine
open Sys2Proof.Config

theorem State.defineGroup_chg {m : Nat} (hm : Sub 524292 m) {s t : State} (h : Chg m s t) (c : Cmd) : Chg m s (State.defineGroup t c) := by
  unfold State.defineGroup
  try dsimp only
  repeat' first
    | with_reducible exact h
    | with_reducible assumption
    | with_reducible apply State.setFld_chg hm.le
    | with_reducible refine Chg.mk ?_

theorem State.tryDefine_chg {m : Nat} (hm : Sub 46662180 m) {s t : State} (h : Chg m s t) (c : Cmd) (m_ : Meet) : Chg m s (State.tryDefine t c m_) := by
  unfold State.tryDefine
  try dsimp only
  repeat' first
    | with_reducible exact h
    | with_reducible assumption
    | with_reducible apply State.waitLate_chg hm.le
    | with_reducible apply State.waitCmd_chg hm.le
    | with_reducible apply State.readMeets_chg hm.le
    | with_reducible apply State.defineGroup_chg hm.le
    | with_reducible apply Chg.ite

theorem execFlueGroupDefine_chg {m : Nat} (hm : Sub 46662180 m) (s : State) (n : Nat) (m_ : Meet) : NextChg m s (execFlueGroupDefine n m_ s) := by
  unfold execFlueGroupDefine
  try dsimp only
  repeat' first
    | with_reducible exact Chg.refl _ _
    | with_reducible assumption
    | with_reducible refine NextChg.actHost ?_
    | with_reducible refine NextChg.act ?_
    | with_reducible refine NextChg.next ?_
    | with_reducible apply State.modCmd_chg hm.le
    | with_reducible apply State.settle_chg hm.le
    | with_reducible apply State.tryDefine_chg hm.le
    | with_reducible apply Chg.ite
    | split
    | intro _

theorem execFlueGroupDrop_chg {m : Nat} (hm : Sub 4718596 m) (s : State) (port : Nat) (v : Word32) : NextChg m s (execFlueGroupDrop port v s) := by
  unfold execFlueGroupDrop
  try dsimp only
  repeat' first
    | with_reducible exact Chg.refl _ _
    | with_reducible assumption
    | with_reducible refine NextChg.actHost ?_
    | with_reducible refine NextChg.act ?_
    | with_reducible refine NextChg.next ?_
    | with_reducible apply State.setFld_chg hm.le
    | with_reducible apply State.setEvt_chg hm.le
    | with_reducible apply Chg.ite
    | split
    | with_reducible refine Chg.mk ?_

theorem State.acceptColl_chg {m : Nat} (hm : Sub 1049120 m) {s t : State} (h : Chg m s t) (c : Cmd) (g : Group) : Chg m s (State.acceptColl t c g) := by
  unfold State.acceptColl
  try dsimp only
  repeat' first
    | with_reducible exact h
    | with_reducible assumption
    | with_reducible apply State.modPart_chg hm.le
    | with_reducible apply State.modCmd_chg hm.le
    | with_reducible refine Chg.foldl _ ?_ _ ?_
    | with_reducible refine Chg.foldlFst _ ?_ _ ?_
    | with_reducible apply Chg.ite
    | split
    | intro _ _ _
    | with_reducible refine Chg.mk ?_

theorem execFlueCollective_chg {m : Nat} (hm : Sub 1049120 m) (s : State) (n : Nat) : NextChg m s (execFlueCollective n s) := by
  unfold execFlueCollective
  try dsimp only
  repeat' first
    | with_reducible exact Chg.refl _ _
    | with_reducible assumption
    | with_reducible refine NextChg.actHost ?_
    | with_reducible refine NextChg.act ?_
    | with_reducible refine NextChg.next ?_
    | with_reducible apply State.settle_chg hm.le
    | with_reducible apply State.acceptColl_chg hm.le
    | split
    | intro _

theorem State.modColl_chg {m : Nat} (hm : Sub 1048576 m) {s t : State} (h : Chg m s t) (cid : Nat) (f : Coll → Coll) : Chg m s (State.modColl t cid f) := by
  unfold State.modColl
  try dsimp only
  repeat' first
    | with_reducible exact h
    | with_reducible assumption
    | with_reducible refine Chg.mk ?_

theorem State.modMember_chg {m : Nat} (hm : Sub 1048576 m) {s t : State} (h : Chg m s t) (cid : Nat) (p : Nat) (f : Member → Member) : Chg m s (State.modMember t cid p f) := by
  unfold State.modMember
  try dsimp only
  repeat' first
    | with_reducible exact h
    | with_reducible assumption
    | with_reducible apply State.modColl_chg hm.le

theorem State.endMember_chg {m : Nat} (hm : Sub 68157448 m) {s t : State} (h : Chg m s t) (co : Coll) (p : Nat) (st : Nat) (m_ : Option Nat) (named : Option Nat) : Chg m s (State.endMember t co p st m_ named) := by
  unfold State.endMember
  try dsimp only
  repeat' first
    | with_reducible exact h
    | with_reducible assumption
    | with_reducible apply State.undefVirt_chg hm.le
    | with_reducible apply State.modMember_chg hm.le
    | with_reducible apply Chg.ite
    | split

theorem State.faultMember_chg {m : Nat} (hm : Sub 68157448 m) {s t : State} (h : Chg m s t) (co : Coll) (p : Nat) : Chg m s (State.faultMember t co p) := by
  unfold State.faultMember
  repeat' first
    | with_reducible exact h
    | with_reducible assumption
    | with_reducible apply State.endMember_chg hm.le

theorem State.toMember_chg {m : Nat} (hm : Sub 48234500 m) {s t : State} (h : Chg m s t) (co : Coll) (x_ : Member) (k : Nat) (v : Nat) (msg : List Byte) : Chg m s (State.toMember t co x_ k v msg) := by
  unfold State.toMember
  try dsimp only
  repeat' first
    | with_reducible exact h
    | with_reducible assumption
    | with_reducible apply State.routeMsg_chg hm.le

theorem State.toMembers_chg {m : Nat} (hm : Sub 48234500 m) {s t : State} (h : Chg m s t) (co : Coll) (x_ : Member) (ts : List Nat) (v : Nat) (msg : List Byte) : Chg m s (State.toMembers t co x_ ts v msg) := by
  unfold State.toMembers
  try dsimp only
  repeat' first
    | with_reducible exact h
    | with_reducible assumption
    | with_reducible apply State.toMember_chg hm.le
    | with_reducible refine Chg.foldl _ ?_ _ ?_
    | with_reducible refine Chg.foldlFst _ ?_ _ ?_
    | intro _ _ _

theorem State.clearLag_chg {m : Nat} (hm : Sub 4 m) {s t : State} (h : Chg m s t) (p : Nat) : Chg m s (State.clearLag t p) := by
  unfold State.clearLag
  try dsimp only
  repeat' first
    | with_reducible exact h
    | with_reducible assumption
    | with_reducible apply State.setReg_chg hm.le
    | with_reducible refine Chg.foldl _ ?_ _ ?_
    | with_reducible refine Chg.foldlFst _ ?_ _ ?_
    | intro _ _ _

theorem State.viewMeets_chg {m : Nat} (hm : Sub 46137860 m) {s t : State} (h : Chg m s t) (co : Coll) (x_ : Member) (m_ : Meet) : Chg m s (State.viewMeets t co x_ m_) := by
  unfold State.viewMeets
  try dsimp only
  repeat' first
    | with_reducible exact h
    | with_reducible assumption
    | with_reducible apply State.readMeets_chg hm.le
    | split

theorem State.beginMember_chg {m : Nat} (hm : Sub 114426380 m) {s t : State} (h : Chg m s t) (co : Coll) (x_ : Member) (meets : List (Nat × Meet)) : Chg m s (State.beginMember t co x_ meets) := by
  unfold State.beginMember
  try dsimp only
  repeat' first
    | with_reducible exact h
    | with_reducible assumption
    | with_reducible apply State.agentWrite_chg hm.le
    | with_reducible apply State.readyCheck_chg hm.le
    | with_reducible apply State.voteStart_chg hm.le
    | with_reducible apply State.modMember_chg hm.le
    | with_reducible apply State.endMember_chg hm.le
    | with_reducible apply State.faultMember_chg hm.le
    | with_reducible apply State.clearLag_chg hm.le
    | with_reducible apply State.viewMeets_chg hm.le
    | with_reducible apply Chg.ite
    | split

theorem execCollectiveStart_chg {m : Nat} (hm : Sub 114426412 m) (s : State) (cid : Nat) (meets : List (Nat × Meet)) : NextChg m s (execCollectiveStart cid meets s) := by
  unfold execCollectiveStart
  try dsimp only
  repeat' first
    | with_reducible exact Chg.refl _ _
    | with_reducible assumption
    | with_reducible refine NextChg.actHost ?_
    | with_reducible refine NextChg.act ?_
    | with_reducible refine NextChg.next ?_
    | with_reducible apply State.modCmd_chg hm.le
    | with_reducible apply State.modColl_chg hm.le
    | with_reducible apply State.beginMember_chg hm.le
    | with_reducible refine Chg.foldl _ ?_ _ ?_
    | with_reducible refine Chg.foldlFst _ ?_ _ ?_
    | with_reducible apply Chg.ite
    | split
    | intro _ _ _

theorem State.readSource_chg {m : Nat} (hm : Sub 46137860 m) {s t : State} (h : Chg m s t) (co : Coll) (x_ : Member) (src : Bool) (l : List (Nat × Nat)) (m_ : Meet) : Chg m s (State.readSource t co x_ src l m_) := by
  unfold State.readSource
  try dsimp only
  repeat' first
    | with_reducible exact h
    | with_reducible assumption
    | with_reducible apply State.readMeets_chg hm.le
    | with_reducible refine Chg.foldl _ ?_ _ ?_
    | with_reducible refine Chg.foldlFst _ ?_ _ ?_
    | split
    | intro _ _ _

theorem State.latchFlue_chg {m : Nat} (hm : Sub 1048576 m) {s t : State} (h : Chg m s t) : Chg m s (State.latchFlue t) := by
  unfold State.latchFlue
  try dsimp only
  repeat' first
    | with_reducible exact h
    | with_reducible assumption
    | with_reducible apply State.modMember_chg hm.le
    | with_reducible refine Chg.foldl _ ?_ _ ?_
    | with_reducible refine Chg.foldlFst _ ?_ _ ?_
    | with_reducible apply Chg.ite
    | split
    | intro _ _ _

theorem execChunkSend_chg {m : Nat} (hm : Sub 116392460 m) (s : State) (cid : Nat) (p : Nat) (m_ : Meet) : NextChg m s (execChunkSend cid p m_ s) := by
  unfold execChunkSend
  try dsimp only
  repeat' first
    | with_reducible exact Chg.refl _ _
    | with_reducible assumption
    | with_reducible refine NextChg.actHost ?_
    | with_reducible refine NextChg.act ?_
    | with_reducible refine NextChg.next ?_
    | with_reducible apply State.modMember_chg hm.le
    | with_reducible apply State.faultMember_chg hm.le
    | with_reducible apply State.toMember_chg hm.le
    | with_reducible apply State.readSource_chg hm.le
    | split

theorem execStallNoticeSend_chg {m : Nat} (hm : Sub 49283076 m) (s : State) (cid : Nat) (p : Nat) : NextChg m s (execStallNoticeSend cid p s) := by
  unfold execStallNoticeSend
  try dsimp only
  repeat' first
    | with_reducible exact Chg.refl _ _
    | with_reducible assumption
    | with_reducible refine NextChg.actHost ?_
    | with_reducible refine NextChg.act ?_
    | with_reducible refine NextChg.next ?_
    | with_reducible apply State.modMember_chg hm.le
    | with_reducible apply State.toMember_chg hm.le
    | split

theorem State.showLag_chg {m : Nat} (hm : Sub 4 m) {s t : State} (h : Chg m s t) (p : Nat) (lag : List (Nat × Nat)) : Chg m s (State.showLag t p lag) := by
  unfold State.showLag
  try dsimp only
  repeat' first
    | with_reducible exact h
    | with_reducible assumption
    | with_reducible apply State.setReg_chg hm.le
    | with_reducible refine Chg.foldl _ ?_ _ ?_
    | with_reducible refine Chg.foldlFst _ ?_ _ ?_
    | split
    | intro _ _ _

theorem State.poisonMember_chg {m : Nat} (hm : Sub 49283076 m) {s t : State} (h : Chg m s t) (co : Coll) (x_ : Member) (msg : List Byte) : Chg m s (State.poisonMember t co x_ msg) := by
  unfold State.poisonMember
  try dsimp only
  repeat' first
    | with_reducible exact h
    | with_reducible assumption
    | with_reducible apply State.modMember_chg hm.le
    | with_reducible apply State.toMembers_chg hm.le
    | with_reducible apply Chg.ite

theorem flueStray_chg {m : Nat} (hm : Sub 12582916 m) {s t : State} (h : Chg m s t) (p : Nat) (id : Nat) (sender : Nat) : Chg m s (flueStray t p id sender) := by
  unfold flueStray
  repeat' first
    | with_reducible exact h
    | with_reducible assumption
    | with_reducible apply State.soot1_chg hm.le

theorem State.takeChunk_chg {m : Nat} (hm : Sub 1048580 m) {s t : State} (h : Chg m s t) (co : Coll) (x_ : Member) (ch : Chunk) (h_ : List Byte) (payload : List Byte) : Chg m s (State.takeChunk t co x_ ch h_ payload) := by
  unfold State.takeChunk
  try dsimp only
  repeat' first
    | with_reducible exact h
    | with_reducible assumption
    | with_reducible apply State.modMember_chg hm.le
    | with_reducible apply State.showLag_chg hm.le

theorem execChunkReceive_chg {m : Nat} (hm : Sub 116391948 m) (s : State) (p : Nat) (from_ : Nat) (header : List Byte) (payload : List Byte) : NextChg m s (execChunkReceive p from_ header payload s) := by
  unfold execChunkReceive
  try dsimp only
  repeat' first
    | with_reducible exact Chg.refl _ _
    | with_reducible assumption
    | with_reducible refine NextChg.actHost ?_
    | with_reducible refine NextChg.act ?_
    | with_reducible refine NextChg.next ?_
    | with_reducible apply State.faultMember_chg hm.le
    | with_reducible apply State.toMembers_chg hm.le
    | with_reducible apply flueStray_chg hm.le
    | with_reducible apply State.takeChunk_chg hm.le
    | with_reducible apply Chg.ite
    | split

theorem execStall_chg {m : Nat} (hm : Sub 1048576 m) (s : State) (p : Nat) (coll : Nat) (sender : Nat) (blamed : Nat) (chunk : Nat) : NextChg m s (execStall p coll sender blamed chunk s) := by
  unfold execStall
  try dsimp only
  repeat' first
    | with_reducible exact Chg.refl _ _
    | with_reducible assumption
    | with_reducible refine NextChg.actHost ?_
    | with_reducible refine NextChg.act ?_
    | with_reducible refine NextChg.next ?_
    | with_reducible apply State.modMember_chg hm.le
    | split

theorem State.latePoison_chg {m : Nat} (hm : Sub 46137868 m) {s t : State} (h : Chg m s t) (p : Nat) (coll : Nat) (origin : Nat) : Chg m s (State.latePoison t p coll origin) := by
  unfold State.latePoison
  try dsimp only
  repeat' first
    | with_reducible exact h
    | with_reducible assumption
    | with_reducible apply State.setEvt_chg hm.le
    | with_reducible apply State.soot1_chg hm.le
    | with_reducible apply State.setStepFlag_chg hm.le
    | with_reducible apply Chg.ite
    | split

theorem execPoison_chg {m : Nat} (hm : Sub 49283596 m) (s : State) (p : Nat) (coll : Nat) (origin : Nat) : NextChg m s (execPoison p coll origin s) := by
  unfold execPoison
  try dsimp only
  repeat' first
    | with_reducible exact Chg.refl _ _
    | with_reducible assumption
    | with_reducible refine NextChg.actHost ?_
    | with_reducible refine NextChg.act ?_
    | with_reducible refine NextChg.next ?_
    | with_reducible apply State.poisonMember_chg hm.le
    | with_reducible apply State.latePoison_chg hm.le
    | split

theorem execTombstone_chg {m : Nat} (hm : Sub 116392460 m) (s : State) (p : Nat) (coll : Nat) (sender : Nat) : NextChg m s (execTombstone p coll sender s) := by
  unfold execTombstone
  try dsimp only
  repeat' first
    | with_reducible exact Chg.refl _ _
    | with_reducible assumption
    | with_reducible refine NextChg.actHost ?_
    | with_reducible refine NextChg.act ?_
    | with_reducible refine NextChg.next ?_
    | with_reducible apply State.modMember_chg hm.le
    | with_reducible apply State.endMember_chg hm.le
    | with_reducible apply State.toMembers_chg hm.le
    | with_reducible apply State.latePoison_chg hm.le
    | with_reducible apply Chg.ite
    | split

theorem State.putResult_chg {m : Nat} (hm : Sub 33554952 m) {s t : State} (h : Chg m s t) (co : Coll) (x_ : Member) (o : Nat) (d : List Byte) : Chg m s (State.putResult t co x_ o d) := by
  unfold State.putResult
  try dsimp only
  repeat' first
    | with_reducible exact h
    | with_reducible assumption
    | with_reducible apply State.writeVirt_chg hm.le

theorem State.putSegsAt_chg {m : Nat} (hm : Sub 33554952 m) {s : State} (co : Coll) (x : Member) : ∀ (l : List (Nat × Nat)) (d : List Byte)
    {t : State}, Chg m s t → Chg m s (State.putSegsAt t co x l d)
  | [], _, _, h => h
  | (_, _) :: r, _, _, h => State.putSegsAt_chg hm.le co x r _ (State.putResult_chg hm.le h _ _ _ _)

theorem State.writeResult_chg {m : Nat} (hm : Sub 47186444 m) {s t : State} (h : Chg m s t) (co : Coll) (x_ : Member) (l : List (Nat × Nat)) (m_ : Meet) : Chg m s (State.writeResult t co x_ l m_).1 := by
  unfold State.writeResult
  try dsimp only
  repeat' first
    | with_reducible exact h
    | with_reducible assumption
    | with_reducible apply State.writeMeets_chg hm.le
    | with_reducible apply State.modMember_chg hm.le
    | with_reducible apply State.readSource_chg hm.le
    | with_reducible apply State.putSegsAt_chg hm.le
    | with_reducible apply Chg.ite
    | split

theorem execArrivalAdd_chg {m : Nat} (hm : Sub 114295308 m) (s : State) (cid : Nat) (p : Nat) (meets : List (Nat × Meet)) : NextChg m s (execArrivalAdd cid p meets s) := by
  unfold execArrivalAdd
  try dsimp only
  repeat' first
    | with_reducible exact Chg.refl _ _
    | with_reducible assumption
    | with_reducible refine NextChg.actHost ?_
    | with_reducible refine NextChg.act ?_
    | with_reducible refine NextChg.next ?_
    | with_reducible apply State.agentWrite_chg hm.le
    | with_reducible apply State.modMember_chg hm.le
    | with_reducible apply State.faultMember_chg hm.le
    | with_reducible apply State.writeResult_chg hm.le
    | with_reducible apply Chg.ite
    | split

theorem State.finishMember_chg {m : Nat} (hm : Sub 114295308 m) {s t : State} (h : Chg m s t) (co : Coll) (x_ : Member) (m_ : Meet) : Chg m s (State.finishMember t co x_ m_) := by
  unfold State.finishMember
  try dsimp only
  repeat' first
    | with_reducible exact h
    | with_reducible assumption
    | with_reducible apply State.modMember_chg hm.le
    | with_reducible apply State.endMember_chg hm.le
    | with_reducible apply State.writeResult_chg hm.le
    | with_reducible apply Chg.ite

theorem State.recordMember_chg {m : Nat} (hm : Sub 34734604 m) {s t : State} (h : Chg m s t) (co : Coll) (x_ : Member) : Chg m s (State.recordMember t co x_) := by
  unfold State.recordMember
  try dsimp only
  repeat' first
    | with_reducible exact h
    | with_reducible assumption
    | with_reducible apply State.setFld_chg hm.le
    | with_reducible apply State.modPart_chg hm.le
    | with_reducible apply State.stepOutcome_chg hm.le
    | with_reducible apply State.modMember_chg hm.le

theorem State.flueLate_chg {m : Nat} (hm : Sub 12582916 m) {s t : State} (h : Chg m s t) (co : Coll) : Chg m s (State.flueLate t co) := by
  unfold State.flueLate
  try dsimp only
  repeat' first
    | with_reducible exact h
    | with_reducible assumption
    | with_reducible apply State.soot1_chg hm.le
    | with_reducible apply Chg.ite
    | split

theorem State.postColl_chg {m : Nat} (hm : Sub 47186492 m) {s t : State} (h : Chg m s t) (co : Coll) : Chg m s (State.postColl t co) := by
  unfold State.postColl
  try dsimp only
  repeat' first
    | with_reducible exact h
    | with_reducible assumption
    | with_reducible apply State.finish_chg hm.le
    | with_reducible apply State.flueLate_chg hm.le
    | with_reducible apply Chg.ite
    | split
    | with_reducible refine Chg.mk ?_

theorem State.settleColl_chg {m : Nat} (hm : Sub 114426428 m) {s t : State} (h : Chg m s t) (cid : Nat) (meets : List (Nat × Meet)) : Chg m s (State.settleColl t cid meets) := by
  unfold State.settleColl
  try dsimp only
  repeat' first
    | with_reducible exact h
    | with_reducible assumption
    | with_reducible apply State.finishMember_chg hm.le
    | with_reducible apply State.recordMember_chg hm.le
    | with_reducible apply State.postColl_chg hm.le
    | with_reducible refine Chg.foldl _ ?_ _ ?_
    | with_reducible refine Chg.foldlFst _ ?_ _ ?_
    | with_reducible apply Chg.ite
    | split
    | intro _ _ _

theorem execCollectiveComplete_chg {m : Nat} (hm : Sub 114426428 m) (s : State) (cid : Nat) (meets : List (Nat × Meet)) : NextChg m s (execCollectiveComplete cid meets s) := by
  unfold execCollectiveComplete
  repeat' first
    | with_reducible exact Chg.refl _ _
    | with_reducible assumption
    | with_reducible refine NextChg.actHost ?_
    | with_reducible refine NextChg.act ?_
    | with_reducible refine NextChg.next ?_
    | with_reducible apply State.settleColl_chg hm.le

theorem execCollectiveLateComplete_chg {m : Nat} (hm : Sub 114426428 m) (s : State) (cid : Nat) (meets : List (Nat × Meet)) : NextChg m s (execCollectiveLateComplete cid meets s) := by
  unfold execCollectiveLateComplete
  try dsimp only
  repeat' first
    | with_reducible exact Chg.refl _ _
    | with_reducible assumption
    | with_reducible refine NextChg.actHost ?_
    | with_reducible refine NextChg.act ?_
    | with_reducible refine NextChg.next ?_
    | with_reducible apply State.settleColl_chg hm.le
    | with_reducible apply Chg.ite
    | split

theorem State.deadMember_chg {m : Nat} (hm : Sub 68157448 m) {s t : State} (h : Chg m s t) (co : Coll) (x_ : Member) : Chg m s (State.deadMember t co x_) := by
  unfold State.deadMember
  try dsimp only
  repeat' first
    | with_reducible exact h
    | with_reducible assumption
    | with_reducible apply State.modMember_chg hm.le
    | with_reducible apply State.endMember_chg hm.le
    | with_reducible apply Chg.ite

theorem execCollectiveDeadline_chg {m : Nat} (hm : Sub 114426428 m) (s : State) (cid : Nat) (meets : List (Nat × Meet)) : NextChg m s (execCollectiveDeadline cid meets s) := by
  unfold execCollectiveDeadline
  try dsimp only
  repeat' first
    | with_reducible exact Chg.refl _ _
    | with_reducible assumption
    | with_reducible refine NextChg.actHost ?_
    | with_reducible refine NextChg.act ?_
    | with_reducible refine NextChg.next ?_
    | with_reducible apply State.settleColl_chg hm.le
    | with_reducible apply State.deadMember_chg hm.le
    | with_reducible refine Chg.foldl _ ?_ _ ?_
    | with_reducible refine Chg.foldlFst _ ?_ _ ?_
    | with_reducible apply Chg.ite
    | split
    | intro _ _ _

theorem State.stopMembers_chg {m : Nat} (hm : Sub 68157448 m) {s t : State} (h : Chg m s t) (sel : Coll → Member → Bool) (st : Nat) : Chg m s (State.stopMembers t sel st) := by
  unfold State.stopMembers
  try dsimp only
  repeat' first
    | with_reducible exact h
    | with_reducible assumption
    | with_reducible apply State.endMember_chg hm.le
    | with_reducible refine Chg.foldl _ ?_ _ ?_
    | with_reducible refine Chg.foldlFst _ ?_ _ ?_
    | with_reducible apply Chg.ite
    | split
    | intro _ _ _

theorem State.releaseMembers_chg {m : Nat} (hm : Sub 114426428 m) {s t : State} (h : Chg m s t) (sel : Coll → Member → Bool) : Chg m s (State.releaseMembers t sel) := by
  unfold State.releaseMembers
  try dsimp only
  repeat' first
    | with_reducible exact h
    | with_reducible assumption
    | with_reducible apply State.modMember_chg hm.le
    | with_reducible apply State.settleColl_chg hm.le
    | with_reducible refine Chg.foldl _ ?_ _ ?_
    | with_reducible refine Chg.foldlFst _ ?_ _ ?_
    | with_reducible apply Chg.ite
    | split
    | intro _ _ _

theorem State.sendTombstones_chg {m : Nat} (hm : Sub 116391948 m) {s t : State} (h : Chg m s t) (n : Nat) : Chg m s (State.sendTombstones t n) := by
  unfold State.sendTombstones
  try dsimp only
  repeat' first
    | with_reducible exact h
    | with_reducible assumption
    | with_reducible apply State.endMember_chg hm.le
    | with_reducible apply State.toMembers_chg hm.le
    | with_reducible refine Chg.foldl _ ?_ _ ?_
    | with_reducible refine Chg.foldlFst _ ?_ _ ?_
    | with_reducible apply Chg.ite
    | split
    | intro _ _ _

theorem State.endTombstones_chg {m : Nat} (hm : Sub 114426428 m) {s t : State} (h : Chg m s t) (n : Nat) : Chg m s (State.endTombstones t n) := by
  unfold State.endTombstones
  try dsimp only
  repeat' first
    | with_reducible exact h
    | with_reducible assumption
    | with_reducible apply State.releaseMembers_chg hm.le

theorem State.dropColl_chg {m : Nat} (hm : Sub 101843468 m) {s t : State} (h : Chg m s t) (cid : Nat) (st : Nat) : Chg m s (State.dropColl t cid st) := by
  unfold State.dropColl
  try dsimp only
  repeat' first
    | with_reducible exact h
    | with_reducible assumption
    | with_reducible apply State.endMember_chg hm.le
    | with_reducible apply State.recordMember_chg hm.le
    | with_reducible refine Chg.foldl _ ?_ _ ?_
    | with_reducible refine Chg.foldlFst _ ?_ _ ?_
    | with_reducible apply Chg.ite
    | split
    | intro _ _ _

end Sys2Proof.Machine
end

