-- ==== Sys2Proof/Laws/ChgLamplighter.lean ====
section
/-!
SUPPORT. ChgLamplighter.lean: the kinds of state that each operation of Lamplighter.lean can change; each keeps the invariant.
-/

set_option Elab.async false
namespace Sys2Proof.Machine
open Sys2Proof.Config

theorem State.copyExtents_chg {m : Nat} (hm : Sub 520 m) {s : State} : ∀ (dst : Nat) (l : List (Nat × Nat)) {t : State},
    Chg m s t → Chg m s (State.copyExtents t dst l)
  | _, [], _, h => h
  | _, (_, _) :: r, _, h => State.copyExtents_chg hm.le _ r
      (State.l2Use_chg hm.le (State.l2Use_chg hm.le (h.mem hm.le _ (copyRange_wf _ _ _ _)) _ _) _ _)

theorem State.publish_chg {m : Nat} (hm : Sub 262180 m) {s t : State} (h : Chg m s t) (c : Cmd) : Chg m s (State.publish t c) := by
  unfold State.publish
  try dsimp only
  repeat' first
    | with_reducible exact h
    | with_reducible assumption
    | with_reducible apply State.setFld_chg hm.le
    | with_reducible apply State.modCmd_chg hm.le
    | with_reducible refine Chg.foldl _ ?_ _ ?_
    | with_reducible refine Chg.foldlFst _ ?_ _ ?_
    | with_reducible apply Chg.ite
    | split
    | intro _ _ _
    | with_reducible refine Chg.mk ?_

theorem execPublish_chg {m : Nat} (hm : Sub 262180 m) (s : State) (n : Nat) : NextChg m s (execPublish n s) := by
  unfold execPublish
  try dsimp only
  repeat' first
    | with_reducible exact Chg.refl _ _
    | with_reducible assumption
    | with_reducible refine NextChg.actHost ?_
    | with_reducible refine NextChg.act ?_
    | with_reducible refine NextChg.next ?_
    | with_reducible apply State.settle_chg hm.le
    | with_reducible apply State.publish_chg hm.le
    | split
    | intro _

theorem State.showCopy_chg {m : Nat} (hm : Sub 4 m) {s t : State} (h : Chg m s t) : Chg m s (State.showCopy t) := by
  unfold State.showCopy
  try dsimp only
  repeat' first
    | with_reducible exact h
    | with_reducible assumption
    | with_reducible apply State.setFld_chg hm.le

theorem State.dropJob_chg {m : Nat} (hm : Sub 262148 m) {s t : State} (h : Chg m s t) (cid : Nat) : Chg m s (State.dropJob t cid) := by
  unfold State.dropJob
  try dsimp only
  repeat' first
    | with_reducible exact h
    | with_reducible assumption
    | with_reducible apply State.showCopy_chg hm.le
    | with_reducible refine Chg.mk ?_

theorem State.abandon_chg {m : Nat} (hm : Sub 262180 m) {s t : State} (h : Chg m s t) (cid : Nat) (fault : Bool) : Chg m s (State.abandon t cid fault) := by
  unfold State.abandon
  try dsimp only
  repeat' first
    | with_reducible exact h
    | with_reducible assumption
    | with_reducible apply State.modCmd_chg hm.le
    | with_reducible apply State.dropJob_chg hm.le

theorem execPublishCopyStart_chg {m : Nat} (hm : Sub 262180 m) (s : State) (cid : Nat) : NextChg m s (execPublishCopyStart cid s) := by
  unfold execPublishCopyStart
  try dsimp only
  repeat' first
    | with_reducible exact Chg.refl _ _
    | with_reducible assumption
    | with_reducible refine NextChg.actHost ?_
    | with_reducible refine NextChg.act ?_
    | with_reducible refine NextChg.next ?_
    | with_reducible apply State.modCmd_chg hm.le
    | with_reducible apply State.showCopy_chg hm.le
    | with_reducible apply State.abandon_chg hm.le
    | with_reducible apply Chg.ite
    | split

theorem State.copyMeets_chg {m : Nat} (hm : Sub 12583428 m) {s t : State} (h : Chg m s t) (n : Nat) (h_ : Hap) (src : List Nat) (dst : List Nat) : Chg m s (State.copyMeets t n h_ src dst) := by
  unfold State.copyMeets
  try dsimp only
  repeat' first
    | with_reducible exact h
    | with_reducible assumption
    | with_reducible apply State.cxlSlowEvt_chg hm.le
    | with_reducible apply State.cxlMediaEvt_chg hm.le
    | with_reducible apply State.edcEvt_chg hm.le
    | with_reducible apply State.retryEvt_chg hm.le
    | with_reducible apply State.readError_chg hm.le
    | split

theorem execPublishCopyEnd_chg {m : Nat} (hm : Sub 12845612 m) (s : State) (cid : Nat) (h_ : Hap) : NextChg m s (execPublishCopyEnd cid h_ s) := by
  unfold execPublishCopyEnd
  try dsimp only
  repeat' first
    | with_reducible exact Chg.refl _ _
    | with_reducible assumption
    | with_reducible refine NextChg.actHost ?_
    | with_reducible refine NextChg.act ?_
    | with_reducible refine NextChg.next ?_
    | with_reducible apply State.setFld_chg hm.le
    | with_reducible apply State.copyExtents_chg hm.le
    | with_reducible apply State.dropJob_chg hm.le
    | with_reducible apply State.abandon_chg hm.le
    | with_reducible apply State.copyMeets_chg hm.le
    | with_reducible refine Chg.foldl _ ?_ _ ?_
    | with_reducible refine Chg.foldlFst _ ?_ _ ?_
    | with_reducible apply Chg.ite
    | split
    | intro _ _ _

theorem State.loadVariant_chg {m : Nat} (hm : Sub 4 m) {s t : State} (h : Chg m s t) (c : Cmd) : Chg m s (State.loadVariant t c) := by
  unfold State.loadVariant
  try dsimp only
  repeat' first
    | with_reducible exact h
    | with_reducible assumption
    | with_reducible apply State.setFld_chg hm.le
    | split

theorem State.effectNow_chg {m : Nat} (hm : Sub 32 m) {s t : State} (h : Chg m s t) (c : Cmd)
    (act : State → State) (ha : Chg m s (act t)) : Chg m s (State.effectNow t c act) := by
  unfold State.effectNow
  exact Chg.ite (State.modCmd_chg hm.le h _ _) (State.waitCmd_chg hm.le ha _ _ _)

theorem execVariantLoad_chg {m : Nat} (hm : Sub 36 m) (s : State) (n : Nat) : NextChg m s (execVariantLoad n s) := by
  unfold execVariantLoad
  try dsimp only
  repeat' first
    | with_reducible exact Chg.refl _ _
    | with_reducible assumption
    | with_reducible refine NextChg.actHost ?_
    | with_reducible refine NextChg.act ?_
    | with_reducible refine NextChg.next ?_
    | with_reducible apply State.settle_chg hm.le
    | with_reducible apply State.loadVariant_chg hm.le
    | with_reducible apply State.effectNow_chg hm.le
    | split
    | intro _

theorem execVariantDrop_chg {m : Nat} (hm : Sub 4194308 m) (s : State) (port : Nat) (v : Nat) : NextChg m s (execVariantDrop port v s) := by
  unfold execVariantDrop
  repeat' first
    | with_reducible exact Chg.refl _ _
    | with_reducible assumption
    | with_reducible refine NextChg.actHost ?_
    | with_reducible refine NextChg.act ?_
    | with_reducible refine NextChg.next ?_
    | with_reducible apply State.setReg_chg hm.le
    | with_reducible apply State.setFld_chg hm.le
    | with_reducible apply State.setEvt_chg hm.le
    | with_reducible apply Chg.ite

theorem State.reserveReference_chg {m : Nat} (hm : Sub 36 m) {s t : State} (h : Chg m s t) (c : Cmd) : Chg m s (State.reserveReference t c) := by
  unfold State.reserveReference
  try dsimp only
  repeat' first
    | with_reducible exact h
    | with_reducible assumption
    | with_reducible apply State.setFld_chg hm.le
    | with_reducible apply State.modCmd_chg hm.le
    | with_reducible refine Chg.foldl _ ?_ _ ?_
    | with_reducible refine Chg.foldlFst _ ?_ _ ?_
    | with_reducible apply Chg.ite
    | split
    | intro _ _ _

theorem execReferenceSet_chg {m : Nat} (hm : Sub 36 m) (s : State) (n : Nat) : NextChg m s (execReferenceSet n s) := by
  unfold execReferenceSet
  try dsimp only
  repeat' first
    | with_reducible exact Chg.refl _ _
    | with_reducible assumption
    | with_reducible refine NextChg.actHost ?_
    | with_reducible refine NextChg.act ?_
    | with_reducible refine NextChg.next ?_
    | with_reducible apply State.settle_chg hm.le
    | with_reducible apply State.reserveReference_chg hm.le
    | split
    | intro _

theorem State.install_chg {m : Nat} (hm : Sub 67109416 m) {s t : State} (h : Chg m s t) (c : Cmd) : Chg m s (State.install t c) := by
  unfold State.install
  try dsimp only
  repeat' first
    | with_reducible exact h
    | with_reducible assumption
    | with_reducible apply State.modPart_chg hm.le
    | with_reducible apply State.undefMem_chg hm.le
    | with_reducible apply State.modCmd_chg hm.le
    | with_reducible apply State.queueJob_chg hm.le
    | with_reducible refine Chg.foldl _ ?_ _ ?_
    | with_reducible refine Chg.foldlFst _ ?_ _ ?_
    | split
    | intro _ _ _

theorem execAdapterInstall_chg {m : Nat} (hm : Sub 67109416 m) (s : State) (n : Nat) : NextChg m s (execAdapterInstall n s) := by
  unfold execAdapterInstall
  try dsimp only
  repeat' first
    | with_reducible exact Chg.refl _ _
    | with_reducible assumption
    | with_reducible refine NextChg.actHost ?_
    | with_reducible refine NextChg.act ?_
    | with_reducible refine NextChg.next ?_
    | with_reducible apply State.settle_chg hm.le
    | with_reducible apply State.install_chg hm.le
    | split
    | intro _

theorem execAdapterReplace_chg {m : Nat} (hm : Sub 67109416 m) (s : State) (n : Nat) : NextChg m s (execAdapterReplace n s) := by
  unfold execAdapterReplace
  try dsimp only
  repeat' first
    | with_reducible exact Chg.refl _ _
    | with_reducible assumption
    | with_reducible refine NextChg.actHost ?_
    | with_reducible refine NextChg.act ?_
    | with_reducible refine NextChg.next ?_
    | with_reducible apply State.settle_chg hm.le
    | with_reducible apply State.install_chg hm.le
    | split
    | intro _

theorem State.activateAdapter_chg {m : Nat} (hm : Sub 512 m) {s t : State} (h : Chg m s t) (p : Nat) (id : Nat) (ver : Nat) : Chg m s (State.activateAdapter t p id ver) := by
  unfold State.activateAdapter
  try dsimp only
  repeat' first
    | with_reducible exact h
    | with_reducible assumption
    | with_reducible apply State.modPart_chg hm.le

theorem execAdapterCopyEnd_chg {m : Nat} (hm : Sub 104858172 m) (s : State) (cid : Nat) : NextChg m s (execAdapterCopyEnd cid s) := by
  unfold execAdapterCopyEnd
  try dsimp only
  repeat' first
    | with_reducible exact Chg.refl _ _
    | with_reducible assumption
    | with_reducible refine NextChg.actHost ?_
    | with_reducible refine NextChg.act ?_
    | with_reducible refine NextChg.next ?_
    | with_reducible apply State.finish_chg hm.le
    | with_reducible apply State.dropInstall_chg hm.le
    | with_reducible apply State.activateAdapter_chg hm.le
    | with_reducible refine Chg.foldl _ ?_ _ ?_
    | with_reducible refine Chg.foldlFst _ ?_ _ ?_
    | with_reducible apply Chg.ite
    | split
    | intro _ _ _

theorem State.removeAdapter_chg {m : Nat} (hm : Sub 512 m) {s t : State} (h : Chg m s t) (c : Cmd) : Chg m s (State.removeAdapter t c) := by
  unfold State.removeAdapter
  try dsimp only
  repeat' first
    | with_reducible exact h
    | with_reducible assumption
    | with_reducible apply State.activateAdapter_chg hm.le
    | with_reducible refine Chg.foldl _ ?_ _ ?_
    | with_reducible refine Chg.foldlFst _ ?_ _ ?_
    | intro _ _ _

theorem execAdapterRemove_chg {m : Nat} (hm : Sub 544 m) (s : State) (n : Nat) : NextChg m s (execAdapterRemove n s) := by
  unfold execAdapterRemove
  try dsimp only
  repeat' first
    | with_reducible exact Chg.refl _ _
    | with_reducible assumption
    | with_reducible refine NextChg.actHost ?_
    | with_reducible refine NextChg.act ?_
    | with_reducible refine NextChg.next ?_
    | with_reducible apply State.settle_chg hm.le
    | with_reducible apply State.effectNow_chg hm.le
    | with_reducible apply State.removeAdapter_chg hm.le
    | split
    | intro _

end Sys2Proof.Machine
end

