-- ==== Sys2Proof/Laws/ChgContexts.lean ====
section
/-!
SUPPORT. ChgContexts.lean: the kinds of state that each operation of Contexts.lean can change; each keeps the invariant.
-/

set_option Elab.async false
namespace Sys2Proof.Machine
open Sys2Proof.Config

theorem State.configErr_chg {m : Nat} (hm : Sub 4194308 m) {s t : State} (h : Chg m s t) (n : Nat) : Chg m s (State.configErr t n) := by
  unfold State.configErr
  repeat' first
    | with_reducible exact h
    | with_reducible assumption
    | with_reducible apply State.setEvt_chg hm.le

theorem State.claim_chg {m : Nat} (hm : Sub 4 m) {s t : State} (h : Chg m s t) (port : Nat) (n : Nat) (fn : Nat) : Chg m s (State.claim t port n fn) := by
  unfold State.claim
  repeat' first
    | with_reducible exact h
    | with_reducible assumption
    | with_reducible apply State.setFld_chg hm.le

theorem execCtxOwnerWrite_chg {m : Nat} (hm : Sub 4194308 m) (s : State) (port : Nat) (n : Nat) (v : Word32) : NextChg m s (execCtxOwnerWrite port n v s) := by
  unfold execCtxOwnerWrite
  try dsimp only
  repeat' first
    | with_reducible exact Chg.refl _ _
    | with_reducible assumption
    | with_reducible refine NextChg.actHost ?_
    | with_reducible refine NextChg.act ?_
    | with_reducible refine NextChg.next ?_
    | with_reducible apply State.setFld_chg hm.le
    | with_reducible apply State.configErr_chg hm.le
    | with_reducible apply State.claim_chg hm.le
    | with_reducible apply Chg.ite

theorem execStart_chg {m : Nat} (hm : Sub 4194356 m) (s : State) (port : Nat) (n : Nat) : NextChg m s (execStart port n s) := by
  unfold execStart
  try dsimp only
  repeat' first
    | with_reducible exact Chg.refl _ _
    | with_reducible assumption
    | with_reducible refine NextChg.actHost ?_
    | with_reducible refine NextChg.act ?_
    | with_reducible refine NextChg.next ?_
    | with_reducible apply State.modCtx_chg hm.le
    | with_reducible apply State.setCstate_chg hm.le
    | with_reducible apply State.modCmd_chg hm.le
    | with_reducible apply State.configErr_chg hm.le
    | with_reducible refine Chg.foldl _ ?_ _ ?_
    | with_reducible refine Chg.foldlFst _ ?_ _ ?_
    | with_reducible apply Chg.ite
    | split
    | intro _ _ _

theorem execStop_chg {m : Nat} (hm : Sub 52 m) (s : State) (port : Nat) (n : Nat) : NextChg m s (execStop port n s) := by
  unfold execStop
  repeat' first
    | with_reducible exact Chg.refl _ _
    | with_reducible assumption
    | with_reducible refine NextChg.actHost ?_
    | with_reducible refine NextChg.act ?_
    | with_reducible refine NextChg.next ?_
    | with_reducible apply State.setCstate_chg hm.le
    | with_reducible apply State.releaseQueue_chg hm.le
    | with_reducible apply Chg.ite

theorem State.bellErr_chg {m : Nat} (hm : Sub 16 m) {s t : State} (h : Chg m s t) (n : Nat) : Chg m s (State.bellErr t n) := by
  unfold State.bellErr
  try dsimp only
  repeat' first
    | with_reducible exact h
    | with_reducible assumption
    | with_reducible apply State.modCtx_chg hm.le

theorem execSqTail_chg {m : Nat} (hm : Sub 16 m) (s : State) (port : Nat) (fn : Nat) (n : Nat) (size : Nat) (v : Word32) : NextChg m s (execSqTail port fn n size v s) := by
  unfold execSqTail
  try dsimp only
  repeat' first
    | with_reducible exact Chg.refl _ _
    | with_reducible assumption
    | with_reducible refine NextChg.actHost ?_
    | with_reducible refine NextChg.act ?_
    | with_reducible refine NextChg.next ?_
    | with_reducible apply State.modCtx_chg hm.le
    | with_reducible apply State.bellErr_chg hm.le
    | with_reducible apply Chg.ite

theorem execCqHead_chg {m : Nat} (hm : Sub 16 m) (s : State) (port : Nat) (fn : Nat) (n : Nat) (size : Nat) (v : Word32) : NextChg m s (execCqHead port fn n size v s) := by
  unfold execCqHead
  try dsimp only
  repeat' first
    | with_reducible exact Chg.refl _ _
    | with_reducible assumption
    | with_reducible refine NextChg.actHost ?_
    | with_reducible refine NextChg.act ?_
    | with_reducible refine NextChg.next ?_
    | with_reducible apply State.modCtx_chg hm.le
    | with_reducible apply State.bellErr_chg hm.le
    | with_reducible apply Chg.ite

theorem execEmberHead_chg {m : Nat} (hm : Sub 16 m) (s : State) (port : Nat) (fn : Nat) (n : Nat) (size : Nat) (v : Word32) : NextChg m s (execEmberHead port fn n size v s) := by
  unfold execEmberHead
  try dsimp only
  repeat' first
    | with_reducible exact Chg.refl _ _
    | with_reducible assumption
    | with_reducible refine NextChg.actHost ?_
    | with_reducible refine NextChg.act ?_
    | with_reducible refine NextChg.next ?_
    | with_reducible apply State.modCtx_chg hm.le
    | with_reducible apply State.bellErr_chg hm.le
    | with_reducible apply Chg.ite

theorem execEntryPresent_chg {m : Nat} (hm : Sub 46137972 m) (s : State) (n : Nat) (m_ : Meet) : NextChg m s (execEntryPresent n m_ s) := by
  unfold execEntryPresent
  try dsimp only
  repeat' first
    | with_reducible exact Chg.refl _ _
    | with_reducible assumption
    | with_reducible refine NextChg.actHost ?_
    | with_reducible refine NextChg.act ?_
    | with_reducible refine NextChg.next ?_
    | with_reducible apply State.modCtx_chg hm.le
    | with_reducible apply State.faultCtx_chg hm.le
    | with_reducible apply State.physMeets_chg hm.le
    | with_reducible apply Chg.ite
    | split
    | with_reducible refine Chg.mk ?_

theorem State.admitOne_chg {m : Nat} (hm : Sub 48 m) {s t : State} (h : Chg m s t) (c : Cmd) : Chg m s (State.admitOne t c) := by
  unfold State.admitOne
  try dsimp only
  repeat' first
    | with_reducible exact h
    | with_reducible assumption
    | with_reducible apply State.modCtx_chg hm.le
    | with_reducible apply State.modCmd_chg hm.le
    | with_reducible apply State.rejectCmd_chg hm.le
    | with_reducible apply Chg.ite

theorem State.capture_chg {m : Nat} (hm : Sub 544 m) {s t : State} (h : Chg m s t) (c : Cmd) : Chg m s (State.capture t c) := by
  unfold State.capture
  try dsimp only
  repeat' first
    | with_reducible exact h
    | with_reducible assumption
    | with_reducible apply State.modPart_chg hm.le
    | with_reducible apply State.modCmd_chg hm.le
    | with_reducible refine Chg.foldl _ ?_ _ ?_
    | with_reducible refine Chg.foldlFst _ ?_ _ ?_
    | intro _ _ _

theorem State.dueCaptures_chg {m : Nat} (hm : Sub 544 m) {s t : State} (h : Chg m s t) : Chg m s (State.dueCaptures t) := by
  unfold State.dueCaptures
  try dsimp only
  repeat' first
    | with_reducible exact h
    | with_reducible assumption
    | with_reducible apply State.capture_chg hm.le
    | with_reducible refine Chg.foldl _ ?_ _ ?_
    | with_reducible refine Chg.foldlFst _ ?_ _ ?_
    | intro _ _ _

theorem State.undefImage_chg {m : Nat} (hm : Sub 67108872 m) {s t : State} (h : Chg m s t) (c : Cmd) : Chg m s (State.undefImage t c) := by
  unfold State.undefImage
  try dsimp only
  repeat' first
    | with_reducible exact h
    | with_reducible assumption
    | with_reducible apply State.undefMem_chg hm.le
    | with_reducible apply State.undefVirt_chg hm.le
    | with_reducible refine Chg.foldl _ ?_ _ ?_
    | with_reducible refine Chg.foldlFst _ ?_ _ ?_
    | intro _ _ _

theorem State.watchCheckpoints_chg {m : Nat} (hm : Sub 32 m) {s t : State} (h : Chg m s t) (n : Nat) : Chg m s (State.watchCheckpoints t n) := by
  unfold State.watchCheckpoints
  try dsimp only
  repeat' first
    | with_reducible exact h
    | with_reducible assumption
    | with_reducible apply State.modCmd_chg hm.le
    | with_reducible refine Chg.foldl _ ?_ _ ?_
    | with_reducible refine Chg.foldlFst _ ?_ _ ?_
    | intro _ _ _

theorem State.cleanup_chg {m : Nat} (hm : Sub 131535406 m) {s t : State} (h : Chg m s t) (c : Cmd) (st : Nat) : Chg m s (State.cleanup t c st) := by
  unfold State.cleanup
  try dsimp only
  repeat' first
    | with_reducible exact h
    | with_reducible assumption
    | with_reducible apply State.modPart_chg hm.le
    | with_reducible apply State.modBoard_chg hm.le
    | with_reducible apply State.modTime_chg hm.le
    | with_reducible apply State.drawn_chg hm.le
    | with_reducible apply State.abortStep_chg hm.le
    | with_reducible apply State.sweepSlots_chg hm.le
    | with_reducible apply State.dropSlot_chg hm.le
    | with_reducible apply State.clearReserved_chg hm.le
    | with_reducible apply State.dropFrameSet_chg hm.le
    | with_reducible apply State.variantReady_chg hm.le
    | with_reducible apply State.undefVirt_chg hm.le
    | with_reducible apply State.dropColl_chg hm.le
    | with_reducible apply State.dropJobs_chg hm.le
    | with_reducible apply State.dropInstall_chg hm.le
    | with_reducible apply State.dropJob_chg hm.le
    | with_reducible apply State.abandon_chg hm.le
    | with_reducible apply State.undefImage_chg hm.le
    | with_reducible refine Chg.foldl _ ?_ _ ?_
    | with_reducible refine Chg.foldlFst _ ?_ _ ?_
    | with_reducible apply Chg.ite
    | split
    | intro _ _ _
    | exact fun _ i => i.drop _

theorem State.showPending_chg {m : Nat} (hm : Sub 4 m) {s t : State} (h : Chg m s t) (p : Nat) : Chg m s (State.showPending t p) := by
  unfold State.showPending
  try dsimp only
  repeat' first
    | with_reducible exact h
    | with_reducible assumption
    | with_reducible apply State.setFld_chg hm.le
    | split

theorem State.abortCmds_chg {m : Nat} (hm : Sub 131535422 m) {s t : State} (h : Chg m s t) (st : Nat) (l : List Nat) : Chg m s (State.abortCmds t st l) := by
  unfold State.abortCmds
  try dsimp only
  repeat' first
    | with_reducible exact h
    | with_reducible assumption
    | with_reducible apply State.finishAll_chg hm.le
    | with_reducible apply State.cleanup_chg hm.le
    | with_reducible apply State.showPending_chg hm.le
    | with_reducible refine Chg.foldl _ ?_ _ ?_
    | with_reducible refine Chg.foldlFst _ ?_ _ ?_
    | intro _ _ _
    | with_reducible refine Chg.mk ?_

theorem execRejectCompletion_chg {m : Nat} (hm : Sub 37749308 m) (s : State) (n : Nat) : NextChg m s (execRejectCompletion n s) := by
  unfold execRejectCompletion
  try dsimp only
  repeat' first
    | with_reducible exact Chg.refl _ _
    | with_reducible assumption
    | with_reducible refine NextChg.actHost ?_
    | with_reducible refine NextChg.act ?_
    | with_reducible refine NextChg.next ?_
    | with_reducible apply State.modCmd_chg hm.le
    | with_reducible apply State.postReady_chg hm.le
    | with_reducible apply State.fencesDone_chg hm.le
    | with_reducible refine Chg.foldl _ ?_ _ ?_
    | with_reducible refine Chg.foldlFst _ ?_ _ ?_
    | intro _ _ _

theorem State.lateEffect_chg {m : Nat} (hm : Sub 113771052 m) {s t : State} (h : Chg m s t) (c : Cmd) (m_ : Meet) : Chg m s (State.lateEffect t c m_) := by
  unfold State.lateEffect
  repeat' first
    | with_reducible exact h
    | with_reducible assumption
    | with_reducible apply State.waitCmd_chg hm.le
    | with_reducible apply State.queryEffect_chg hm.le
    | with_reducible apply State.tryDefine_chg hm.le
    | with_reducible apply State.loadVariant_chg hm.le
    | with_reducible apply State.removeAdapter_chg hm.le
    | with_reducible apply Chg.ite

theorem State.acceptDue_chg {m : Nat} (hm : Sub 113771052 m) {s t : State} (h : Chg m s t) (cid : Nat) (m_ : Meet) : Chg m s (State.acceptDue t cid m_) := by
  unfold State.acceptDue
  try dsimp only
  repeat' first
    | with_reducible exact h
    | with_reducible assumption
    | with_reducible apply State.modCmd_chg hm.le
    | with_reducible apply State.lateEffect_chg hm.le
    | with_reducible apply Chg.ite
    | split

theorem execAcceptedCompletion_chg {m : Nat} (hm : Sub 113771068 m) (s : State) (n : Nat) (meets : List (Nat × Meet)) : NextChg m s (execAcceptedCompletion n meets s) := by
  unfold execAcceptedCompletion
  try dsimp only
  repeat' first
    | with_reducible exact Chg.refl _ _
    | with_reducible assumption
    | with_reducible refine NextChg.actHost ?_
    | with_reducible refine NextChg.act ?_
    | with_reducible refine NextChg.next ?_
    | with_reducible apply State.postReady_chg hm.le
    | with_reducible apply State.fencesDone_chg hm.le
    | with_reducible apply State.acceptDue_chg hm.le
    | with_reducible refine Chg.foldl _ ?_ _ ?_
    | with_reducible refine Chg.foldlFst _ ?_ _ ?_
    | intro _ _ _

theorem execFence_chg {m : Nat} (hm : Sub 32 m) (s : State) (n : Nat) : NextChg m s (execFence n s) := by
  unfold execFence
  try dsimp only
  repeat' first
    | with_reducible exact Chg.refl _ _
    | with_reducible assumption
    | with_reducible refine NextChg.actHost ?_
    | with_reducible refine NextChg.act ?_
    | with_reducible refine NextChg.next ?_
    | with_reducible apply State.waitCmd_chg hm.le
    | with_reducible apply State.settle_chg hm.le
    | split
    | intro _

theorem execFenceDeadlineMiss_chg {m : Nat} (hm : Sub 131535422 m) (s : State) (cid : Nat) : NextChg m s (execFenceDeadlineMiss cid s) := by
  unfold execFenceDeadlineMiss
  try dsimp only
  repeat' first
    | with_reducible exact Chg.refl _ _
    | with_reducible assumption
    | with_reducible refine NextChg.actHost ?_
    | with_reducible refine NextChg.act ?_
    | with_reducible refine NextChg.next ?_
    | with_reducible apply State.abortCmds_chg hm.le
    | with_reducible apply Chg.ite
    | split

theorem State.stopWork_chg {m : Nat} (hm : Sub 100841020 m) {s t : State} (h : Chg m s t) (n : Nat) : Chg m s (State.stopWork t n) := by
  unfold State.stopWork
  try dsimp only
  repeat' first
    | with_reducible exact h
    | with_reducible assumption
    | with_reducible apply State.releaseQueue_chg hm.le
    | with_reducible apply State.stopContext_chg hm.le
    | with_reducible apply State.stopDescs_chg hm.le
    | with_reducible apply State.drainSample_chg hm.le
    | with_reducible apply State.stopJobs_chg hm.le
    | with_reducible refine Chg.foldl _ ?_ _ ?_
    | with_reducible refine Chg.foldlFst _ ?_ _ ?_
    | intro _ _ _

theorem execReset_chg {m : Nat} (hm : Sub 101889596 m) (s : State) (port : Nat) (n : Nat) : NextChg m s (execReset port n s) := by
  unfold execReset
  try dsimp only
  repeat' first
    | with_reducible exact Chg.refl _ _
    | with_reducible assumption
    | with_reducible refine NextChg.actHost ?_
    | with_reducible refine NextChg.act ?_
    | with_reducible refine NextChg.next ?_
    | with_reducible apply State.setFld_chg hm.le
    | with_reducible apply State.modCtx_chg hm.le
    | with_reducible apply State.stopMembers_chg hm.le
    | with_reducible apply State.stopWork_chg hm.le
    | with_reducible apply Chg.ite

theorem State.endAllSamples_chg {m : Nat} (hm : Sub 37851708 m) {s t : State} (h : Chg m s t) (n : Nat) (st : Nat) : Chg m s (State.endAllSamples t n st) := by
  unfold State.endAllSamples
  try dsimp only
  repeat' first
    | with_reducible exact h
    | with_reducible assumption
    | with_reducible apply State.sampleDone_chg hm.le
    | with_reducible refine Chg.foldl _ ?_ _ ?_
    | with_reducible refine Chg.foldlFst _ ?_ _ ?_
    | intro _ _ _

theorem execContextResetEnd_chg {m : Nat} (hm : Sub 131568190 m) (s : State) (n : Nat) : NextChg m s (execContextResetEnd n s) := by
  unfold execContextResetEnd
  try dsimp only
  repeat' first
    | with_reducible exact Chg.refl _ _
    | with_reducible assumption
    | with_reducible refine NextChg.actHost ?_
    | with_reducible refine NextChg.act ?_
    | with_reducible refine NextChg.next ?_
    | with_reducible apply State.setFld_chg hm.le
    | with_reducible apply State.modCtx_chg hm.le
    | with_reducible apply State.setCstate_chg hm.le
    | with_reducible apply State.freeEnded_chg hm.le
    | with_reducible apply State.unhashCtx_chg hm.le
    | with_reducible apply State.abortCmds_chg hm.le
    | with_reducible apply State.endAllSamples_chg hm.le
    | with_reducible refine Chg.foldl _ ?_ _ ?_
    | with_reducible refine Chg.foldlFst _ ?_ _ ?_
    | with_reducible apply Chg.ite
    | split
    | intro _ _ _

theorem State.beginTeardown_chg {m : Nat} (hm : Sub 116569660 m) {s t : State} (h : Chg m s t) (n : Nat) : Chg m s (State.beginTeardown t n) := by
  unfold State.beginTeardown
  try dsimp only
  repeat' first
    | with_reducible exact h
    | with_reducible assumption
    | with_reducible apply State.modCtx_chg hm.le
    | with_reducible apply State.setCstate_chg hm.le
    | with_reducible apply State.sendTombstones_chg hm.le
    | with_reducible apply State.stopWork_chg hm.le

theorem execCtxTeardown_chg {m : Nat} (hm : Sub 116569660 m) (s : State) (n : Nat) : NextChg m s (execCtxTeardown n s) := by
  unfold execCtxTeardown
  try dsimp only
  repeat' first
    | with_reducible exact Chg.refl _ _
    | with_reducible assumption
    | with_reducible refine NextChg.actHost ?_
    | with_reducible refine NextChg.act ?_
    | with_reducible refine NextChg.next ?_
    | with_reducible apply State.modCtx_chg hm.le
    | with_reducible apply State.modCmd_chg hm.le
    | with_reducible apply State.settle_chg hm.le
    | with_reducible apply State.beginTeardown_chg hm.le
    | with_reducible apply Chg.ite
    | split
    | intro _

theorem State.dueTeardowns_chg {m : Nat} (hm : Sub 116569660 m) {s t : State} (h : Chg m s t) : Chg m s (State.dueTeardowns t) := by
  unfold State.dueTeardowns
  try dsimp only
  repeat' first
    | with_reducible exact h
    | with_reducible assumption
    | with_reducible apply State.modCtx_chg hm.le
    | with_reducible apply State.beginTeardown_chg hm.le
    | with_reducible refine Chg.foldl _ ?_ _ ?_
    | with_reducible refine Chg.foldlFst _ ?_ _ ?_
    | with_reducible apply Chg.ite
    | split
    | intro _ _ _

theorem execAdmission_chg {m : Nat} (hm : Sub 116569660 m) (s : State) (n : Nat) : NextChg m s (execAdmission n s) := by
  unfold execAdmission
  try dsimp only
  repeat' first
    | with_reducible exact Chg.refl _ _
    | with_reducible assumption
    | with_reducible refine NextChg.actHost ?_
    | with_reducible refine NextChg.act ?_
    | with_reducible refine NextChg.next ?_
    | with_reducible apply State.admitOne_chg hm.le
    | with_reducible apply State.dueCaptures_chg hm.le
    | with_reducible apply State.dueTeardowns_chg hm.le
    | with_reducible refine Chg.foldl _ ?_ _ ?_
    | with_reducible refine Chg.foldlFst _ ?_ _ ?_
    | with_reducible apply Chg.ite
    | split
    | intro _ _ _

theorem State.quarantine_chg {m : Nat} (hm : Sub 37851708 m) {s t : State} (h : Chg m s t) (n : Nat) : Chg m s (State.quarantine t n) := by
  unfold State.quarantine
  try dsimp only
  repeat' first
    | with_reducible exact h
    | with_reducible assumption
    | with_reducible apply State.modCtx_chg hm.le
    | with_reducible apply State.clearSlots_chg hm.le
    | with_reducible apply State.quarantinePages_chg hm.le
    | with_reducible apply State.endAllSamples_chg hm.le
    | with_reducible refine Chg.foldl _ ?_ _ ?_
    | with_reducible refine Chg.foldlFst _ ?_ _ ?_
    | with_reducible apply Chg.ite
    | split
    | intro _ _ _

theorem State.quarAdapters_chg {m : Nat} (hm : Sub 512 m) {s t : State} (h : Chg m s t) (n : Nat) : Chg m s (State.quarAdapters t n) := by
  unfold State.quarAdapters
  try dsimp only
  repeat' first
    | with_reducible exact h
    | with_reducible assumption
    | with_reducible apply State.modPart_chg hm.le
    | with_reducible refine Chg.foldl _ ?_ _ ?_
    | with_reducible refine Chg.foldlFst _ ?_ _ ?_
    | with_reducible apply Chg.ite
    | split
    | intro _ _ _

theorem State.refuseHandovers_chg {m : Nat} (hm : Sub 37749308 m) {s t : State} (h : Chg m s t) (n : Nat) : Chg m s (State.refuseHandovers t n) := by
  unfold State.refuseHandovers
  try dsimp only
  repeat' first
    | with_reducible exact h
    | with_reducible assumption
    | with_reducible apply State.finishAll_chg hm.le

theorem State.dropXlat_chg {m : Nat} (hm : Sub 132 m) {s t : State} (h : Chg m s t) (n : Nat) : Chg m s (State.dropXlat t n) := by
  unfold State.dropXlat
  try dsimp only
  repeat' first
    | with_reducible exact h
    | with_reducible assumption
    | with_reducible apply State.setFld_chg hm.le
    | with_reducible refine Chg.mk ?_

theorem execTeardownComplete_chg {m : Nat} (hm : Sub 131577534 m) (s : State) (target : Nat) : NextChg m s (execTeardownComplete target s) := by
  unfold execTeardownComplete
  try dsimp only
  repeat' first
    | with_reducible exact Chg.refl _ _
    | with_reducible assumption
    | with_reducible refine NextChg.actHost ?_
    | with_reducible refine NextChg.act ?_
    | with_reducible refine NextChg.next ?_
    | with_reducible apply State.setFld_chg hm.le
    | with_reducible apply State.modCtx_chg hm.le
    | with_reducible apply State.setCstate_chg hm.le
    | with_reducible apply State.finish_chg hm.le
    | with_reducible apply State.freeEnded_chg hm.le
    | with_reducible apply State.dropDescs_chg hm.le
    | with_reducible apply State.endTombstones_chg hm.le
    | with_reducible apply State.abortCmds_chg hm.le
    | with_reducible apply State.quarantine_chg hm.le
    | with_reducible apply State.quarAdapters_chg hm.le
    | with_reducible apply State.refuseHandovers_chg hm.le
    | with_reducible apply State.dropXlat_chg hm.le
    | with_reducible refine Chg.foldl _ ?_ _ ?_
    | with_reducible refine Chg.foldlFst _ ?_ _ ?_
    | with_reducible apply Chg.ite
    | split
    | intro _ _ _

theorem State.endQuar_chg {m : Nat} (hm : Sub 540 m) {s t : State} (h : Chg m s t) (n : Nat) (t_ : Nat) : Chg m s (State.endQuar t n t_) := by
  unfold State.endQuar
  try dsimp only
  repeat' first
    | with_reducible exact h
    | with_reducible assumption
    | with_reducible apply State.modPart_chg hm.le
    | with_reducible apply State.modCtx_chg hm.le
    | with_reducible apply State.endQuarantine_chg hm.le
    | with_reducible refine Chg.foldl _ ?_ _ ?_
    | with_reducible refine Chg.foldlFst _ ?_ _ ?_
    | intro _ _ _

theorem execQuarantineEnd_chg {m : Nat} (hm : Sub 540 m) (s : State) (target : Nat) : NextChg m s (execQuarantineEnd target s) := by
  unfold execQuarantineEnd
  try dsimp only
  repeat' first
    | with_reducible exact Chg.refl _ _
    | with_reducible assumption
    | with_reducible refine NextChg.actHost ?_
    | with_reducible refine NextChg.act ?_
    | with_reducible refine NextChg.next ?_
    | with_reducible apply State.endQuar_chg hm.le
    | with_reducible refine Chg.foldl _ ?_ _ ?_
    | with_reducible refine Chg.foldlFst _ ?_ _ ?_
    | intro _ _ _

theorem execFunctionLevelReset_chg {m : Nat} (hm : Sub 4194836 m) (s : State) (port : Nat) (fn : Nat) : NextChg m s (execFunctionLevelReset port fn s) := by
  unfold execFunctionLevelReset
  try dsimp only
  repeat' first
    | with_reducible exact Chg.refl _ _
    | with_reducible assumption
    | with_reducible refine NextChg.actHost ?_
    | with_reducible refine NextChg.act ?_
    | with_reducible refine NextChg.next ?_
    | with_reducible apply State.setFld_chg hm.le
    | with_reducible apply State.setHost_chg hm.le
    | with_reducible apply State.modCtx_chg hm.le
    | with_reducible apply State.clearSlots_chg hm.le
    | with_reducible refine Chg.foldl _ ?_ _ ?_
    | with_reducible refine Chg.foldlFst _ ?_ _ ?_
    | with_reducible apply Chg.ite
    | split
    | intro _ _ _

theorem State.beginHandover_chg {m : Nat} (hm : Sub 52 m) {s t : State} (h : Chg m s t) (n : Nat) : Chg m s (State.beginHandover t n) := by
  unfold State.beginHandover
  repeat' first
    | with_reducible exact h
    | with_reducible assumption
    | with_reducible apply State.setCstate_chg hm.le
    | with_reducible apply State.releaseQueue_chg hm.le

theorem execCtxHandover_chg {m : Nat} (hm : Sub 52 m) (s : State) (n : Nat) : NextChg m s (execCtxHandover n s) := by
  unfold execCtxHandover
  try dsimp only
  repeat' first
    | with_reducible exact Chg.refl _ _
    | with_reducible assumption
    | with_reducible refine NextChg.actHost ?_
    | with_reducible refine NextChg.act ?_
    | with_reducible refine NextChg.next ?_
    | with_reducible apply State.modCmd_chg hm.le
    | with_reducible apply State.settle_chg hm.le
    | with_reducible apply State.beginHandover_chg hm.le
    | with_reducible apply Chg.ite
    | split
    | intro _

theorem State.dueHandovers_chg {m : Nat} (hm : Sub 52 m) {s t : State} (h : Chg m s t) : Chg m s (State.dueHandovers t) := by
  unfold State.dueHandovers
  try dsimp only
  repeat' first
    | with_reducible exact h
    | with_reducible assumption
    | with_reducible apply State.beginHandover_chg hm.le
    | with_reducible refine Chg.foldl _ ?_ _ ?_
    | with_reducible refine Chg.foldlFst _ ?_ _ ?_
    | intro _ _ _

theorem execHandoverComplete_chg {m : Nat} (hm : Sub 37749308 m) (s : State) (cid : Nat) : NextChg m s (execHandoverComplete cid s) := by
  unfold execHandoverComplete
  try dsimp only
  repeat' first
    | with_reducible exact Chg.refl _ _
    | with_reducible assumption
    | with_reducible refine NextChg.actHost ?_
    | with_reducible refine NextChg.act ?_
    | with_reducible refine NextChg.next ?_
    | with_reducible apply State.setFld_chg hm.le
    | with_reducible apply State.setCstate_chg hm.le
    | with_reducible apply State.finish_chg hm.le
    | with_reducible apply Chg.ite
    | split

theorem execDamperOwnerWrite_chg {m : Nat} (hm : Sub 516 m) (s : State) (port : Nat) (p : Nat) (slot : Nat) (v : Word32) : NextChg m s (execDamperOwnerWrite port p slot v s) := by
  unfold execDamperOwnerWrite
  try dsimp only
  repeat' first
    | with_reducible exact Chg.refl _ _
    | with_reducible assumption
    | with_reducible refine NextChg.actHost ?_
    | with_reducible refine NextChg.act ?_
    | with_reducible refine NextChg.next ?_
    | with_reducible apply State.setFld_chg hm.le
    | with_reducible apply State.clearSlot_chg hm.le
    | with_reducible apply Chg.ite

end Sys2Proof.Machine
end

