-- ==== Sys2Proof/Laws/ChgRoles.lean ====
section
/-!
SUPPORT. ChgRoles.lean: the kinds of state that each operation of Roles.lean can change; each keeps the invariant.
-/

set_option Elab.async false
namespace Sys2Proof.Machine
open Sys2Proof.Config

theorem State.setDomain_chg {m : Nat} (hm : Sub 4 m) {s t : State} (h : Chg m s t) (d : Nat) (v : Nat) : Chg m s (State.setDomain t d v) := by
  unfold State.setDomain
  repeat' first
    | with_reducible exact h
    | with_reducible assumption
    | with_reducible apply State.setFld_chg hm.le

theorem State.queueOn_chg {m : Nat} (hm : Sub 16777216 m) {s t : State} (h : Chg m s t) (l : List Nat) : Chg m s (State.queueOn t l) := by
  unfold State.queueOn
  try dsimp only
  repeat' first
    | with_reducible exact h
    | with_reducible assumption
    | with_reducible apply State.modBoard_chg hm.le

theorem State.switchOff_chg {m : Nat} (hm : Sub 16777220 m) {s t : State} (h : Chg m s t) (l : List Nat) : Chg m s (State.switchOff t l) := by
  unfold State.switchOff
  try dsimp only
  repeat' first
    | with_reducible exact h
    | with_reducible assumption
    | with_reducible apply State.modBoard_chg hm.le
    | with_reducible apply State.setDomain_chg hm.le
    | with_reducible refine Chg.foldl _ ?_ _ ?_
    | with_reducible refine Chg.foldlFst _ ?_ _ ?_
    | with_reducible apply Chg.ite
    | split
    | intro _ _ _

theorem execDomainSwitchOn_chg {m : Nat} (hm : Sub 16777220 m) (s : State) : NextChg m s (execDomainSwitchOn s) := by
  unfold execDomainSwitchOn
  try dsimp only
  repeat' first
    | with_reducible exact Chg.refl _ _
    | with_reducible assumption
    | with_reducible refine NextChg.actHost ?_
    | with_reducible refine NextChg.act ?_
    | with_reducible refine NextChg.next ?_
    | with_reducible apply State.modBoard_chg hm.le
    | with_reducible apply State.setDomain_chg hm.le
    | with_reducible apply Chg.ite
    | split

theorem State.fillSlot_chg {m : Nat} (hm : Sub 4 m) {s t : State} (h : Chg m s t) (cl : Nat) (j : Nat) : Chg m s (State.fillSlot t cl j) := by
  unfold State.fillSlot
  try dsimp only
  repeat' first
    | with_reducible exact h
    | with_reducible assumption
    | with_reducible apply State.setFld_chg hm.le
    | with_reducible apply Chg.ite

theorem State.takeSpares_chg {m : Nat} (hm : Sub 16778244 m) {s t : State} (h : Chg m s t) (cl : Nat) : Chg m s (State.takeSpares t cl) := by
  unfold State.takeSpares
  try dsimp only
  repeat' first
    | with_reducible exact h
    | with_reducible assumption
    | with_reducible apply State.setCluster_chg hm.le
    | with_reducible apply State.switchOff_chg hm.le
    | with_reducible apply State.fillSlot_chg hm.le
    | with_reducible refine Chg.foldl _ ?_ _ ?_
    | with_reducible refine Chg.foldlFst _ ?_ _ ?_
    | with_reducible apply Chg.ite
    | split
    | intro _ _ _

theorem State.showClusters_chg {m : Nat} (hm : Sub 4 m) {s t : State} (h : Chg m s t) (p : Nat) : Chg m s (State.showClusters t p) := by
  unfold State.showClusters
  try dsimp only
  repeat' first
    | with_reducible exact h
    | with_reducible assumption
    | with_reducible apply State.setFld_chg hm.le

theorem State.wipeTiles_chg {m : Nat} (hm : Sub 67110920 m) {s t : State} (h : Chg m s t) (k n : Nat) : Chg m s (State.wipeTiles t k n) :=
  Chg.tiles hm.le (State.undefMem_chg hm.le h _ _) _ (twf_filter _ _)

theorem State.wipeThreads_chg {m : Nat} (hm : Sub 12288 m) {s t : State} (h : Chg m s t) (p : Nat) : Chg m s (State.wipeThreads t p) :=
  Chg.mk (t := { t with threads := tclear t.threads (2048 * p) 2048 }) (h.threads hm.le _ (twf_filter _ _))

theorem State.wipeClusters_chg {m : Nat} (hm : Sub 1024 m) {s t : State} (h : Chg m s t) (p : Nat) : Chg m s (State.wipeClusters t p) := by
  unfold State.wipeClusters
  try dsimp only
  repeat' first
    | with_reducible exact h
    | with_reducible assumption
    | with_reducible apply State.setCluster_chg hm.le
    | with_reducible refine Chg.foldl _ ?_ _ ?_
    | with_reducible refine Chg.foldlFst _ ?_ _ ?_
    | intro _ _ _

theorem State.dropL2_chg {m : Nat} (hm : Sub 512 m) {s t : State} (h : Chg m s t) (p : Nat) : Chg m s (State.dropL2 t p) := by
  unfold State.dropL2
  try dsimp only
  repeat' first
    | with_reducible exact h
    | with_reducible assumption
    | with_reducible apply State.modPart_chg hm.le

theorem State.wipeEngines_chg {m : Nat} (hm : Sub 67124744 m) {s t : State} (h : Chg m s t) (p : Nat) : Chg m s (State.wipeEngines t p) := by
  unfold State.wipeEngines
  repeat' first
    | with_reducible exact h
    | with_reducible assumption
    | with_reducible apply State.wipeTiles_chg hm.le
    | with_reducible apply State.wipeThreads_chg hm.le
    | with_reducible apply State.wipeClusters_chg hm.le
    | with_reducible apply State.dropL2_chg hm.le

theorem State.clearEngines_chg {m : Nat} (hm : Sub 1024 m) {s t : State} (h : Chg m s t) (p : Nat) : Chg m s (State.clearEngines t p) := by
  unfold State.clearEngines
  try dsimp only
  repeat' first
    | with_reducible exact h
    | with_reducible assumption
    | with_reducible apply State.setCluster_chg hm.le
    | with_reducible refine Chg.foldl _ ?_ _ ?_
    | with_reducible refine Chg.foldlFst _ ?_ _ ?_
    | intro _ _ _

theorem State.leaveEngines_chg {m : Nat} (hm : Sub 67124744 m) {s t : State} (h : Chg m s t) (p : Nat) (off : Bool) : Chg m s (State.leaveEngines t p off) := by
  unfold State.leaveEngines
  try dsimp only
  repeat' first
    | with_reducible exact h
    | with_reducible assumption
    | with_reducible apply State.undefMem_chg hm.le
    | with_reducible apply State.wipeTiles_chg hm.le
    | with_reducible apply State.wipeThreads_chg hm.le
    | with_reducible apply State.dropL2_chg hm.le
    | with_reducible apply State.clearEngines_chg hm.le
    | with_reducible apply Chg.ite

theorem execPartitionRole_chg {m : Nat} (hm : Sub 548 m) (s : State) (n : Nat) : NextChg m s (execPartitionRole n s) := by
  unfold execPartitionRole
  try dsimp only
  repeat' first
    | with_reducible exact Chg.refl _ _
    | with_reducible assumption
    | with_reducible refine NextChg.actHost ?_
    | with_reducible refine NextChg.act ?_
    | with_reducible refine NextChg.next ?_
    | with_reducible apply State.modPart_chg hm.le
    | with_reducible apply State.modCmd_chg hm.le
    | with_reducible apply State.settle_chg hm.le
    | with_reducible apply State.showPending_chg hm.le
    | split
    | intro _

theorem State.leaveRole_chg {m : Nat} (hm : Sub 37749308 m) {s t : State} (h : Chg m s t) (p : Nat) (new : Nat) : Chg m s (State.leaveRole t p new) := by
  unfold State.leaveRole
  try dsimp only
  repeat' first
    | with_reducible exact h
    | with_reducible assumption
    | with_reducible apply State.setReg_chg hm.le
    | with_reducible apply State.setFld_chg hm.le
    | with_reducible apply State.modPart_chg hm.le
    | with_reducible apply State.finishAll_chg hm.le
    | with_reducible apply State.emptySlots_chg hm.le
    | with_reducible apply State.leaveArena_chg hm.le
    | with_reducible refine Chg.foldl _ ?_ _ ?_
    | with_reducible refine Chg.foldlFst _ ?_ _ ?_
    | with_reducible apply Chg.ite
    | split
    | intro _ _ _

theorem State.losePart_chg {m : Nat} (hm : Sub 104858172 m) {s t : State} (h : Chg m s t) (p : Nat) : Chg m s (State.losePart t p) := by
  unfold State.losePart
  repeat' first
    | with_reducible exact h
    | with_reducible assumption
    | with_reducible apply State.undefMem_chg hm.le
    | with_reducible apply State.abortChannel_chg hm.le

theorem State.roleSwitch_chg {m : Nat} (hm : Sub 16777220 m) {s t : State} (h : Chg m s t) (p : Nat) (old : Nat) (new : Nat) : Chg m s (State.roleSwitch t p old new) := by
  unfold State.roleSwitch
  try dsimp only
  repeat' first
    | with_reducible exact h
    | with_reducible assumption
    | with_reducible apply State.queueOn_chg hm.le
    | with_reducible apply State.switchOff_chg hm.le
    | with_reducible apply Chg.ite

theorem State.resetSoot_chg {m : Nat} (hm : Sub 12582916 m) {s t : State} (h : Chg m s t) (p : Nat) (phase : Nat) (cause : Nat) : Chg m s (State.resetSoot t p phase cause) := by
  unfold State.resetSoot
  repeat' first
    | with_reducible exact h
    | with_reducible assumption
    | with_reducible apply State.soot1_chg hm.le

theorem State.resetBlock_chg {m : Nat} (hm : Sub 516 m) {s t : State} (h : Chg m s t) (p : Nat) : Chg m s (State.resetBlock t p) := by
  unfold State.resetBlock
  try dsimp only
  repeat' first
    | with_reducible exact h
    | with_reducible assumption
    | with_reducible apply State.setReg_chg hm.le
    | with_reducible apply State.clearSlot_chg hm.le
    | with_reducible refine Chg.foldl _ ?_ _ ?_
    | with_reducible refine Chg.foldlFst _ ?_ _ ?_
    | split
    | intro _ _ _

theorem State.enterService_chg {m : Nat} (hm : Sub 4 m) {s t : State} (h : Chg m s t) (p : Nat) : Chg m s (State.enterService t p) := by
  unfold State.enterService
  repeat' first
    | with_reducible exact h
    | with_reducible assumption
    | with_reducible apply State.setFld_chg hm.le
    | with_reducible apply State.showClusters_chg hm.le

theorem State.missCheckpoints_chg {m : Nat} (hm : Sub 32 m) {s t : State} (h : Chg m s t) (p : Nat) : Chg m s (State.missCheckpoints t p) := by
  unfold State.missCheckpoints
  try dsimp only
  repeat' first
    | with_reducible exact h
    | with_reducible assumption
    | with_reducible apply State.modCmd_chg hm.le
    | with_reducible refine Chg.foldl _ ?_ _ ?_
    | with_reducible refine Chg.foldlFst _ ?_ _ ?_
    | intro _ _ _

theorem State.enterFromOff_chg {m : Nat} (hm : Sub 12583460 m) {s t : State} (h : Chg m s t) (p : Nat) : Chg m s (State.enterFromOff t p) := by
  unfold State.enterFromOff
  repeat' first
    | with_reducible exact h
    | with_reducible assumption
    | with_reducible apply State.setFld_chg hm.le
    | with_reducible apply State.raise_chg hm.le
    | with_reducible apply State.resetSoot_chg hm.le
    | with_reducible apply State.resetBlock_chg hm.le
    | with_reducible apply State.missCheckpoints_chg hm.le

theorem State.partSpares_chg {m : Nat} (hm : Sub 16778244 m) {s t : State} (h : Chg m s t) (p : Nat) : Chg m s (State.partSpares t p) := by
  unfold State.partSpares
  try dsimp only
  repeat' first
    | with_reducible exact h
    | with_reducible assumption
    | with_reducible apply State.takeSpares_chg hm.le
    | with_reducible refine Chg.foldl _ ?_ _ ?_
    | with_reducible refine Chg.foldlFst _ ?_ _ ?_
    | intro _ _ _

theorem State.resetOver_chg {m : Nat} (hm : Sub 29361668 m) {s t : State} (h : Chg m s t) (p : Nat) (cause : Nat) : Chg m s (State.resetOver t p cause) := by
  unfold State.resetOver
  try dsimp only
  repeat' first
    | with_reducible exact h
    | with_reducible assumption
    | with_reducible apply State.setFld_chg hm.le
    | with_reducible apply State.setEvt_chg hm.le
    | with_reducible apply State.clearSlots_chg hm.le
    | with_reducible apply State.resetSoot_chg hm.le
    | with_reducible apply State.partSpares_chg hm.le

theorem State.endService_chg {m : Nat} (hm : Sub 37749308 m) {s t : State} (h : Chg m s t) (p : Nat) (st : Nat) : Chg m s (State.endService t p st) := by
  unfold State.endService
  try dsimp only
  repeat' first
    | with_reducible exact h
    | with_reducible assumption
    | with_reducible apply State.modPart_chg hm.le
    | with_reducible apply State.finishAll_chg hm.le
    | split

theorem State.changeRole_chg {m : Nat} (hm : Sub 130039356 m) {s t : State} (h : Chg m s t) (p : Nat) (cid : Nat) (new : Nat) (m_ : Nat) : Chg m s (State.changeRole t p cid new m_) := by
  unfold State.changeRole
  try dsimp only
  repeat' first
    | with_reducible exact h
    | with_reducible assumption
    | with_reducible apply State.setFld_chg hm.le
    | with_reducible apply State.modPart_chg hm.le
    | with_reducible apply State.finish_chg hm.le
    | with_reducible apply State.emptySlots_chg hm.le
    | with_reducible apply State.syncKv_chg hm.le
    | with_reducible apply State.enterArena_chg hm.le
    | with_reducible apply State.showClusters_chg hm.le
    | with_reducible apply State.leaveEngines_chg hm.le
    | with_reducible apply State.leaveRole_chg hm.le
    | with_reducible apply State.losePart_chg hm.le
    | with_reducible apply State.roleSwitch_chg hm.le
    | with_reducible apply State.enterService_chg hm.le
    | with_reducible apply State.enterFromOff_chg hm.le
    | with_reducible apply State.endService_chg hm.le
    | with_reducible apply Chg.ite

theorem execRoleEffective_chg {m : Nat} (hm : Sub 131546686 m) (s : State) (p : Nat) : NextChg m s (execRoleEffective p s) := by
  unfold execRoleEffective
  try dsimp only
  repeat' first
    | with_reducible exact Chg.refl _ _
    | with_reducible assumption
    | with_reducible refine NextChg.actHost ?_
    | with_reducible refine NextChg.act ?_
    | with_reducible refine NextChg.next ?_
    | with_reducible apply State.modPart_chg hm.le
    | with_reducible apply State.showPending_chg hm.le
    | with_reducible apply State.abortCmds_chg hm.le
    | with_reducible apply State.changeRole_chg hm.le
    | with_reducible apply Chg.ite
    | split

theorem execRoleService_chg {m : Nat} (hm : Sub 62916156 m) (s : State) (p : Nat) : NextChg m s (execRoleService p s) := by
  unfold execRoleService
  try dsimp only
  repeat' first
    | with_reducible exact Chg.refl _ _
    | with_reducible assumption
    | with_reducible refine NextChg.actHost ?_
    | with_reducible refine NextChg.act ?_
    | with_reducible refine NextChg.next ?_
    | with_reducible apply State.modPart_chg hm.le
    | with_reducible apply State.finish_chg hm.le
    | with_reducible apply State.finishAll_chg hm.le
    | with_reducible apply State.enterService_chg hm.le
    | with_reducible apply State.resetOver_chg hm.le
    | with_reducible apply Chg.ite
    | split

theorem execFrameSet_chg {m : Nat} (hm : Sub 544 m) (s : State) (n : Nat) : NextChg m s (execFrameSet n s) := by
  unfold execFrameSet
  try dsimp only
  repeat' first
    | with_reducible exact Chg.refl _ _
    | with_reducible assumption
    | with_reducible refine NextChg.actHost ?_
    | with_reducible refine NextChg.act ?_
    | with_reducible refine NextChg.next ?_
    | with_reducible apply State.modPart_chg hm.le
    | with_reducible apply State.modCmd_chg hm.le
    | with_reducible apply State.settle_chg hm.le
    | split
    | intro _

theorem execMarkSet_chg {m : Nat} (hm : Sub 34 m) (s : State) (n : Nat) : NextChg m s (execMarkSet n s) := by
  unfold execMarkSet
  refine NextChg.act ?_
  split
  · rename_i c _
    refine State.settle_chg hm.le (Chg.refl _ _) _ _ _ fun hv => ?_
    refine State.modCmd_chg hm.le (Chg.time hm.le (Chg.refl _ s) _ ?_) _ _
    refine fun i => ⟨i.1, i.2.1, ?_⟩
    intro x hx
    cases hx
    unfold State.checkMarkSet at hv
    dsimp only at hv
    have h1 := firstBad_none.mp (verdict_accept.mp hv).1 _ (List.mem_append_left _ List.mem_cons_self)
    simp only [Bool.or_eq_false_iff, decide_eq_false_iff_not] at h1
    exact Nat.lt_of_not_le h1.2
  · exact Chg.refl _ _

theorem execControlHang_chg {m : Nat} (hm : Sub 512 m) (s : State) (p : Nat) (what : PartFault) : NextChg m s (execControlHang p what s) := by
  unfold execControlHang
  try dsimp only
  repeat' first
    | with_reducible exact Chg.refl _ _
    | with_reducible assumption
    | with_reducible refine NextChg.actHost ?_
    | with_reducible refine NextChg.act ?_
    | with_reducible refine NextChg.next ?_
    | with_reducible apply State.triggerReset_chg hm.le
    | with_reducible apply Chg.ite
    | split

theorem State.abandonOn_chg {m : Nat} (hm : Sub 262180 m) {s t : State} (h : Chg m s t) (p : Nat) : Chg m s (State.abandonOn t p) := by
  unfold State.abandonOn
  try dsimp only
  repeat' first
    | with_reducible exact h
    | with_reducible assumption
    | with_reducible apply State.abandon_chg hm.le
    | with_reducible refine Chg.foldl _ ?_ _ ?_
    | with_reducible refine Chg.foldlFst _ ?_ _ ?_
    | intro _ _ _

theorem State.loseSlots_chg {m : Nat} (hm : Sub 262180 m) {s t : State} (h : Chg m s t) (p : Nat) : Chg m s (State.loseSlots t p) := by
  unfold State.loseSlots
  try dsimp only
  repeat' first
    | with_reducible exact h
    | with_reducible assumption
    | with_reducible apply State.modCmd_chg hm.le
    | with_reducible apply State.emptySlots_chg hm.le
    | with_reducible apply State.abandon_chg hm.le
    | with_reducible refine Chg.foldl _ ?_ _ ?_
    | with_reducible refine Chg.foldlFst _ ?_ _ ?_
    | intro _ _ _

theorem State.beginReset_chg {m : Nat} (hm : Sub 81051180 m) {s t : State} (h : Chg m s t) (p : Nat) (cause : Nat) : Chg m s (State.beginReset t p cause) := by
  unfold State.beginReset
  try dsimp only
  repeat' first
    | with_reducible exact h
    | with_reducible assumption
    | with_reducible apply State.setFld_chg hm.le
    | with_reducible apply State.modPart_chg hm.le
    | with_reducible apply State.raise_chg hm.le
    | with_reducible apply State.drainSample_chg hm.le
    | with_reducible apply State.stopMembers_chg hm.le
    | with_reducible apply State.undefJob_chg hm.le
    | with_reducible apply State.showPending_chg hm.le
    | with_reducible apply State.showClusters_chg hm.le
    | with_reducible apply State.wipeEngines_chg hm.le
    | with_reducible apply State.resetSoot_chg hm.le
    | with_reducible apply State.missCheckpoints_chg hm.le
    | with_reducible apply State.abandonOn_chg hm.le
    | with_reducible refine Chg.foldl _ ?_ _ ?_
    | with_reducible refine Chg.foldlFst _ ?_ _ ?_
    | intro _ _ _

theorem execPartitionResetStart_chg {m : Nat} (hm : Sub 81051180 m) (s : State) (p : Nat) : NextChg m s (execPartitionResetStart p s) := by
  unfold execPartitionResetStart
  try dsimp only
  repeat' first
    | with_reducible exact Chg.refl _ _
    | with_reducible assumption
    | with_reducible refine NextChg.actHost ?_
    | with_reducible refine NextChg.act ?_
    | with_reducible refine NextChg.next ?_
    | with_reducible apply State.beginReset_chg hm.le
    | with_reducible apply Chg.ite
    | split

theorem State.endReset_chg {m : Nat} (hm : Sub 131569214 m) {s t : State} (h : Chg m s t) (p : Nat) (from_ : Nat) (cause : Nat) : Chg m s (State.endReset t p from_ cause) := by
  unfold State.endReset
  try dsimp only
  repeat' first
    | with_reducible exact h
    | with_reducible assumption
    | with_reducible apply State.setFld_chg hm.le
    | with_reducible apply State.modPart_chg hm.le
    | with_reducible apply State.enterArena_chg hm.le
    | with_reducible apply State.sampleDone_chg hm.le
    | with_reducible apply State.releaseMembers_chg hm.le
    | with_reducible apply State.dropJobs_chg hm.le
    | with_reducible apply State.abortCmds_chg hm.le
    | with_reducible apply State.resetBlock_chg hm.le
    | with_reducible apply State.enterService_chg hm.le
    | with_reducible apply State.resetOver_chg hm.le
    | with_reducible apply State.loseSlots_chg hm.le
    | with_reducible refine Chg.foldl _ ?_ _ ?_
    | with_reducible refine Chg.foldlFst _ ?_ _ ?_
    | with_reducible apply Chg.ite
    | split
    | intro _ _ _

theorem execPartitionResetEnd_chg {m : Nat} (hm : Sub 131569214 m) (s : State) (p : Nat) (ok : Bool) : NextChg m s (execPartitionResetEnd p ok s) := by
  unfold execPartitionResetEnd
  try dsimp only
  repeat' first
    | with_reducible exact Chg.refl _ _
    | with_reducible assumption
    | with_reducible refine NextChg.actHost ?_
    | with_reducible refine NextChg.act ?_
    | with_reducible refine NextChg.next ?_
    | with_reducible apply State.chipFault_chg hm.le
    | with_reducible apply State.endReset_chg hm.le
    | with_reducible apply Chg.ite
    | split

end Sys2Proof.Machine
end

