-- ==== Sys2Proof/Laws/ChgRecovery.lean ====
section
/-!
SUPPORT. ChgRecovery.lean: the kinds of state that each operation of Recovery.lean can change; each keeps the invariant.
-/

set_option Elab.async false
namespace Sys2Proof.Machine
open Sys2Proof.Config

theorem execSnufferHang_chg {m : Nat} (hm : Sub 46282252 m) (s : State) (cl : Nat) : NextChg m s (execSnufferHang cl s) := by
  unfold execSnufferHang
  try dsimp only
  repeat' first
    | with_reducible exact Chg.refl _ _
    | with_reducible assumption
    | with_reducible refine NextChg.actHost ?_
    | with_reducible refine NextChg.act ?_
    | with_reducible refine NextChg.next ?_
    | with_reducible apply State.hang_chg hm.le
    | split

theorem execSootRingMove_chg {m : Nat} (hm : Sub 12583436 m) (s : State) (retries : Nat) : NextChg m s (execSootRingMove retries s) := by
  unfold execSootRingMove
  try dsimp only
  repeat' first
    | with_reducible exact Chg.refl _ _
    | with_reducible assumption
    | with_reducible refine NextChg.actHost ?_
    | with_reducible refine NextChg.act ?_
    | with_reducible refine NextChg.next ?_
    | with_reducible apply State.setFld_chg hm.le
    | with_reducible apply State.writeMem_chg hm.le
    | with_reducible apply State.raise_chg hm.le
    | with_reducible apply State.l2Use_chg hm.le
    | with_reducible apply State.retryEvt_chg hm.le
    | with_reducible apply Chg.ite
    | split
    | with_reducible refine Chg.mk ?_

theorem State.endEngineReset_chg {m : Nat} (hm : Sub 96508940 m) {s t : State} (h : Chg m s t) (cl : Nat) (frozen : Nat) : Chg m s (State.endEngineReset t cl frozen) := by
  unfold State.endEngineReset
  try dsimp only
  repeat' first
    | with_reducible exact h
    | with_reducible assumption
    | with_reducible apply State.setFld_chg hm.le
    | with_reducible apply State.setCluster_chg hm.le
    | with_reducible apply State.soot1_chg hm.le
    | with_reducible apply State.endSamples_chg hm.le
    | with_reducible apply State.settleReplay_chg hm.le
    | with_reducible apply State.takeSpares_chg hm.le
    | with_reducible apply State.showClusters_chg hm.le
    | with_reducible apply State.wipeTiles_chg hm.le
    | with_reducible apply Chg.ite
    | split
    | with_reducible refine Chg.mk ?_
    | refine Chg.threads hm.le ?_ _ (twf_filter _ _)

theorem execEngineResetEnd_chg {m : Nat} (hm : Sub 96509452 m) (s : State) (cl : Nat) (ok : Bool) : NextChg m s (execEngineResetEnd cl ok s) := by
  unfold execEngineResetEnd
  try dsimp only
  repeat' first
    | with_reducible exact Chg.refl _ _
    | with_reducible assumption
    | with_reducible refine NextChg.actHost ?_
    | with_reducible refine NextChg.act ?_
    | with_reducible refine NextChg.next ?_
    | with_reducible apply State.triggerReset_chg hm.le
    | with_reducible apply State.endEngineReset_chg hm.le
    | with_reducible apply Chg.ite
    | split

theorem State.faultOwner_chg {m : Nat} (hm : Sub 33686028 m) {s t : State} (h : Chg m s t) (p : Nat) (o : Owner) : Chg m s (State.faultOwner t p o) := by
  unfold State.faultOwner
  try dsimp only
  repeat' first
    | with_reducible exact h
    | with_reducible assumption
    | with_reducible apply State.modStep_chg hm.le
    | with_reducible apply State.setStepFlag_chg hm.le
    | split

theorem State.relaunchOne_chg {m : Nat} (hm : Sub 46273036 m) {s t : State} (h : Chg m s t) (cl : Nat) (r : Relaunch) : Chg m s (State.relaunchOne t cl r) := by
  unfold State.relaunchOne
  try dsimp only
  repeat' first
    | with_reducible exact h
    | with_reducible assumption
    | with_reducible apply State.modThread_chg hm.le
    | with_reducible apply State.startThread_chg hm.le
    | with_reducible apply State.launchRefused_chg hm.le
    | with_reducible apply State.faultOwner_chg hm.le
    | with_reducible apply Chg.ite

theorem State.relaunchCtx_chg {m : Nat} (hm : Sub 114430524 m) {s t : State} (h : Chg m s t) (cl : Nat) (n : Nat) : Chg m s (State.relaunchCtx t cl n).1 := by
  unfold State.relaunchCtx
  try dsimp only
  repeat' first
    | with_reducible exact h
    | with_reducible assumption
    | with_reducible apply State.markReplayed_chg hm.le
    | with_reducible apply State.restartNeeded_chg hm.le
    | with_reducible apply State.relaunchOne_chg hm.le
    | with_reducible refine Chg.foldl _ ?_ _ ?_
    | with_reducible refine Chg.foldlFst _ ?_ _ ?_
    | split
    | intro _ _ _

theorem State.relaunchNext_chg {m : Nat} (hm : Sub 114431548 m) {s t : State} (h : Chg m s t) (cl : Nat) : Chg m s (State.relaunchNext t cl) := by
  unfold State.relaunchNext
  try dsimp only
  repeat' first
    | with_reducible exact h
    | with_reducible assumption
    | with_reducible apply State.setCluster_chg hm.le
    | with_reducible apply State.endSuspect_chg hm.le
    | with_reducible apply State.replayCheck_chg hm.le
    | with_reducible apply State.relaunchCtx_chg hm.le
    | with_reducible refine Chg.foldl _ ?_ _ ?_
    | with_reducible refine Chg.foldlFst _ ?_ _ ?_
    | with_reducible apply Chg.ite
    | split
    | intro _ _ _

theorem execSuspectRelaunch_chg {m : Nat} (hm : Sub 114431548 m) (s : State) (cl : Nat) : NextChg m s (execSuspectRelaunch cl s) := by
  unfold execSuspectRelaunch
  try dsimp only
  repeat' first
    | with_reducible exact Chg.refl _ _
    | with_reducible assumption
    | with_reducible refine NextChg.actHost ?_
    | with_reducible refine NextChg.act ?_
    | with_reducible refine NextChg.next ?_
    | with_reducible apply State.relaunchNext_chg hm.le
    | with_reducible apply Chg.ite

theorem execChipReset_chg {m : Nat} (hm : Sub 16777216 m) (s : State) (port : Nat) (v : Word32) : NextChg m s (execChipReset port v s) := by
  unfold execChipReset
  repeat' first
    | with_reducible exact Chg.refl _ _
    | with_reducible assumption
    | with_reducible refine NextChg.actHost ?_
    | with_reducible refine NextChg.act ?_
    | with_reducible refine NextChg.next ?_
    | with_reducible apply State.triggerChip_chg hm.le
    | with_reducible apply Chg.ite

theorem State.lose_chg {m : Nat} (hm : Sub 33554422 m) {s t : State} (h : Chg m s t) (b : Board) :
    Chg m s (State.lose t b) := by
  unfold State.lose
  dsimp only
  have h0 : Chg m s { State.reset with pending := t.pending, mem := t.mem, board := b, outbox := t.outbox, free := t.free } := by
    refine ⟨fun k hk => ?_, fun i => ⟨(h.2 i).mem, rfl, rfl, rfl, rfl, rfl, rfl, rfl, rfl, rfl, Nat.zero_lt_succ _, Nat.two_pow_pos 54,
      fun x hx => by cases hx⟩⟩
    cases k <;> first
      | exact h.1 _ hk
      | (rw [hm.bit (by decide)] at hk; cases hk)
  refine Chg.foldl _ ?_ _ (Chg.foldl _ ?_ _ h0)
  · intro a x ha
    exact State.setFld_chg hm.le ha _ _
  · intro a x ha
    exact State.setFld_chg hm.le ha _ _

theorem State.breakFlash_chg {m : Nat} (hm : Sub 83886080 m) {s t : State} (h : Chg m s t) : Chg m s (State.breakFlash t) := by
  unfold State.breakFlash
  try dsimp only
  repeat' first
    | with_reducible exact h
    | with_reducible assumption
    | with_reducible apply State.modBoard_chg hm.le
    | with_reducible apply State.drawn_chg hm.le
    | with_reducible refine Chg.foldl _ ?_ _ ?_
    | with_reducible refine Chg.foldlFst _ ?_ _ ?_
    | intro _ _ _

theorem State.breakWork_chg {m : Nat} (hm : Sub 83886088 m) {s t : State} (h : Chg m s t) : Chg m s (State.breakWork t) := by
  unfold State.breakWork
  try dsimp only
  repeat' first
    | with_reducible exact h
    | with_reducible assumption
    | with_reducible apply State.undefVirt_chg hm.le
    | with_reducible apply State.undefJob_chg hm.le
    | with_reducible apply State.undefImage_chg hm.le
    | with_reducible apply State.breakFlash_chg hm.le
    | with_reducible refine Chg.foldl _ ?_ _ ?_
    | with_reducible refine Chg.foldlFst _ ?_ _ ?_
    | with_reducible apply Chg.ite
    | split
    | intro _ _ _

theorem State.beginChip_chg {m : Nat} (hm : Sub 134217726 m) {s t : State} (h : Chg m s t) (k : Nat) : Chg m s (State.beginChip t k) := by
  unfold State.beginChip
  extract_lets n s0 s1 s2
  have h0 : Chg m s s0 := State.breakWork_chg hm.le h
  clear_value s0
  have h1 : Chg m s s1 := Chg.ite h0 (State.signalDue_chg hm.le (State.finishAll_chg hm.le h0 _ _))
  clear_value s1
  have h2 : Chg m s s2 := State.lose_chg hm.le h1 _
  clear_value s2
  exact h2.time hm.le _ fun i => ⟨Nat.mod_lt _ (Nat.zero_lt_succ 1023), Nat.mod_lt _ (Nat.two_pow_pos 54), i.2.2⟩

theorem execChipResetStart_chg {m : Nat} (hm : Sub 134217726 m) (s : State) (fault : Option ChipFault) : NextChg m s (execChipResetStart fault s) := by
  unfold execChipResetStart
  try dsimp only
  repeat' first
    | with_reducible exact Chg.refl _ _
    | with_reducible assumption
    | with_reducible refine NextChg.actHost ?_
    | with_reducible refine NextChg.act ?_
    | with_reducible refine NextChg.next ?_
    | with_reducible apply State.chipFault_chg hm.le
    | with_reducible apply State.beginChip_chg hm.le
    | with_reducible apply Chg.ite
    | split

theorem execChipResetTimeout_chg {m : Nat} (hm : Sub 16777216 m) (s : State) (disabled : Bool) : NextChg m s (execChipResetTimeout disabled s) := by
  unfold execChipResetTimeout
  try dsimp only
  repeat' first
    | with_reducible exact Chg.refl _ _
    | with_reducible assumption
    | with_reducible refine NextChg.actHost ?_
    | with_reducible refine NextChg.act ?_
    | with_reducible refine NextChg.next ?_
    | with_reducible apply State.modBoard_chg hm.le
    | with_reducible apply Chg.ite

end Sys2Proof.Machine
end

