-- ==== Sys2Proof/Laws/ChgBoot.lean ====
section
/-!
SUPPORT. ChgBoot.lean: the kinds of state that each operation of Boot.lean can change; each keeps the invariant.
-/

set_option Elab.async false
namespace Sys2Proof.Machine
open Sys2Proof.Config

theorem State.loseMemory_chg {m : Nat} (hm : Sub 67108872 m) {s t : State} (h : Chg m s t) : Chg m s (State.loseMemory t) := by
  unfold State.loseMemory
  repeat' first
    | with_reducible exact h
    | with_reducible assumption
    | with_reducible apply State.undefMem_chg hm.le

theorem State.powerLoss_chg {m : Nat} (hm : Sub 100663294 m) {s t : State} (h : Chg m s t) (powered : Bool) : Chg m s (State.powerLoss t powered) := by
  unfold State.powerLoss
  try dsimp only
  repeat' first
    | with_reducible exact h
    | with_reducible assumption
    | with_reducible apply State.setFld_chg hm.le
    | with_reducible apply State.lose_chg hm.le
    | with_reducible apply State.breakWork_chg hm.le
    | with_reducible apply State.loseMemory_chg hm.le
    | with_reducible refine Chg.foldl _ ?_ _ ?_
    | with_reducible refine Chg.foldlFst _ ?_ _ ?_
    | intro _ _ _

theorem execPwrgoodRise_chg {m : Nat} (hm : Sub 16777218 m) (s : State) : NextChg m s (execPwrgoodRise s) := by
  unfold execPwrgoodRise
  refine NextChg.next (Chg.ite ?_ (Chg.refl m s))
  have h1 : Chg m s { s with time := TimeBase.reset } := Chg.time hm.le (Chg.refl m s) _ fun _ =>
    ⟨Nat.zero_lt_succ _, Nat.two_pow_pos 54, fun x hx => by cases hx⟩
  exact Chg.mk h1

theorem execPwrgoodFall_chg {m : Nat} (hm : Sub 100663294 m) (s : State) : NextChg m s (execPwrgoodFall s) := by
  unfold execPwrgoodFall
  repeat' first
    | with_reducible exact Chg.refl _ _
    | with_reducible assumption
    | with_reducible refine NextChg.actHost ?_
    | with_reducible refine NextChg.act ?_
    | with_reducible refine NextChg.next ?_
    | with_reducible apply State.powerLoss_chg hm.le

theorem execConverterTrip_chg {m : Nat} (hm : Sub 100663294 m) (s : State) : NextChg m s (execConverterTrip s) := by
  unfold execConverterTrip
  repeat' first
    | with_reducible exact Chg.refl _ _
    | with_reducible assumption
    | with_reducible refine NextChg.actHost ?_
    | with_reducible refine NextChg.act ?_
    | with_reducible refine NextChg.next ?_
    | with_reducible apply State.powerLoss_chg hm.le
    | with_reducible apply Chg.ite

theorem State.ibi_chg {m : Nat} (hm : Sub 33554432 m) {s t : State} (h : Chg m s t) : Chg m s (State.ibi t) := by
  unfold State.ibi
  repeat' first
    | with_reducible exact h
    | with_reducible assumption
    | with_reducible apply State.emit_chg hm.le
    | with_reducible apply Chg.ite

theorem State.setStage_chg {m : Nat} (hm : Sub 37748740 m) {s t : State} (h : Chg m s t) (g : Nat) : Chg m s (State.setStage t g) := by
  unfold State.setStage
  repeat' first
    | with_reducible exact h
    | with_reducible assumption
    | with_reducible apply State.setFld_chg hm.le
    | with_reducible apply State.raise_chg hm.le
    | with_reducible apply State.ibi_chg hm.le
    | with_reducible apply Chg.ite

theorem State.noVfs_chg {m : Nat} (hm : Sub 4194308 m) {s t : State} (h : Chg m s t) : Chg m s (State.noVfs t) := by
  unfold State.noVfs
  try dsimp only
  repeat' first
    | with_reducible exact h
    | with_reducible assumption
    | with_reducible apply State.setFld_chg hm.le
    | with_reducible apply State.setHost_chg hm.le
    | with_reducible refine Chg.foldl _ ?_ _ ?_
    | with_reducible refine Chg.foldlFst _ ?_ _ ?_
    | intro _ _ _

theorem State.recover_chg {m : Nat} (hm : Sub 54525956 m) {s t : State} (h : Chg m s t) (code : Nat) : Chg m s (State.recover t code) := by
  unfold State.recover
  try dsimp only
  repeat' first
    | with_reducible exact h
    | with_reducible assumption
    | with_reducible apply State.setFld_chg hm.le
    | with_reducible apply State.setHost_chg hm.le
    | with_reducible apply State.modBoard_chg hm.le
    | with_reducible apply State.setStage_chg hm.le
    | with_reducible apply State.noVfs_chg hm.le
    | with_reducible refine Chg.foldl _ ?_ _ ?_
    | with_reducible refine Chg.foldlFst _ ?_ _ ?_
    | intro _ _ _

theorem execDomainsOff_chg {m : Nat} (hm : Sub 83886092 m) (s : State) : NextChg m s (execDomainsOff s) := by
  unfold execDomainsOff
  try dsimp only
  repeat' first
    | with_reducible exact Chg.refl _ _
    | with_reducible assumption
    | with_reducible refine NextChg.actHost ?_
    | with_reducible refine NextChg.act ?_
    | with_reducible refine NextChg.next ?_
    | with_reducible apply State.setFld_chg hm.le
    | with_reducible apply State.modBoard_chg hm.le
    | with_reducible apply State.loseMemory_chg hm.le
    | with_reducible refine Chg.foldl _ ?_ _ ?_
    | with_reducible refine Chg.foldlFst _ ?_ _ ?_
    | with_reducible apply Chg.ite
    | split
    | intro _ _ _

theorem execBootRomStart_chg {m : Nat} (hm : Sub 54525956 m) (s : State) (ownerKeyEn : Bool) (forceRecovery : Bool) (addr1 : Bool) (addr0 : Bool) (testMode : Bool) (sfdp : Bool) : NextChg m s (execBootRomStart ownerKeyEn forceRecovery addr1 addr0 testMode sfdp s) := by
  unfold execBootRomStart
  try dsimp only
  repeat' first
    | with_reducible exact Chg.refl _ _
    | with_reducible assumption
    | with_reducible refine NextChg.actHost ?_
    | with_reducible refine NextChg.act ?_
    | with_reducible refine NextChg.next ?_
    | with_reducible apply State.setFld_chg hm.le
    | with_reducible apply State.modBoard_chg hm.le
    | with_reducible apply State.emit_chg hm.le
    | with_reducible apply State.queueOn_chg hm.le
    | with_reducible apply State.setStage_chg hm.le
    | with_reducible apply State.recover_chg hm.le
    | with_reducible apply Chg.ite

theorem State.assignTiles_chg {m : Nat} (hm : Sub 1028 m) {s t : State} (h : Chg m s t) (cl : Nat) (oos : List Nat) : Chg m s (State.assignTiles t cl oos) := by
  unfold State.assignTiles
  try dsimp only
  repeat' first
    | with_reducible exact h
    | with_reducible assumption
    | with_reducible apply State.setFld_chg hm.le
    | with_reducible apply State.setCluster_chg hm.le
    | with_reducible refine Chg.foldl _ ?_ _ ?_
    | with_reducible refine Chg.foldlFst _ ?_ _ ?_
    | intro _ _ _

theorem State.applyConfig_chg {m : Nat} (hm : Sub 20972548 m) {s t : State} (h : Chg m s t) (obj : List Byte) : Chg m s (State.applyConfig t obj) := by
  unfold State.applyConfig
  try dsimp only
  repeat' first
    | with_reducible exact h
    | with_reducible assumption
    | with_reducible apply State.setFld_chg hm.le
    | with_reducible apply State.setHost_chg hm.le
    | with_reducible apply State.modBoard_chg hm.le
    | with_reducible apply State.queueOn_chg hm.le
    | with_reducible apply State.assignTiles_chg hm.le
    | with_reducible refine Chg.foldl _ ?_ _ ?_
    | with_reducible refine Chg.foldlFst _ ?_ _ ?_
    | intro _ _ _

theorem execConfigCheck_chg {m : Nat} (hm : Sub 54526980 m) (s : State) (readOk : Bool) : NextChg m s (execConfigCheck readOk s) := by
  unfold execConfigCheck
  try dsimp only
  repeat' first
    | with_reducible exact Chg.refl _ _
    | with_reducible assumption
    | with_reducible refine NextChg.actHost ?_
    | with_reducible refine NextChg.act ?_
    | with_reducible refine NextChg.next ?_
    | with_reducible apply State.modBoard_chg hm.le
    | with_reducible apply State.setStage_chg hm.le
    | with_reducible apply State.recover_chg hm.le
    | with_reducible apply State.applyConfig_chg hm.le
    | with_reducible apply Chg.ite

theorem State.identify_chg {m : Nat} (hm : Sub 16777220 m) {s t : State} (h : Chg m s t) : Chg m s (State.identify t) := by
  unfold State.identify
  try dsimp only
  repeat' first
    | with_reducible exact h
    | with_reducible assumption
    | with_reducible apply State.setFld_chg hm.le
    | with_reducible apply State.modBoard_chg hm.le
    | with_reducible apply Chg.ite
    | split

theorem State.applyImage_chg {m : Nat} (hm : Sub 16777220 m) {s t : State} (h : Chg m s t) (obj : List Byte) (path : Nat) : Chg m s (State.applyImage t obj path) := by
  unfold State.applyImage
  try dsimp only
  repeat' first
    | with_reducible exact h
    | with_reducible assumption
    | with_reducible apply State.setFld_chg hm.le
    | with_reducible apply State.modBoard_chg hm.le

theorem execImageCheck_chg {m : Nat} (hm : Sub 54525956 m) (s : State) (readOk : Bool) : NextChg m s (execImageCheck readOk s) := by
  unfold execImageCheck
  try dsimp only
  repeat' first
    | with_reducible exact Chg.refl _ _
    | with_reducible assumption
    | with_reducible refine NextChg.actHost ?_
    | with_reducible refine NextChg.act ?_
    | with_reducible refine NextChg.next ?_
    | with_reducible apply State.modBoard_chg hm.le
    | with_reducible apply State.setStage_chg hm.le
    | with_reducible apply State.recover_chg hm.le
    | with_reducible apply State.identify_chg hm.le
    | with_reducible apply State.applyImage_chg hm.le
    | with_reducible apply Chg.ite

theorem execDeviceReady_chg {m : Nat} (hm : Sub 37748740 m) (s : State) : NextChg m s (execDeviceReady s) := by
  unfold execDeviceReady
  try dsimp only
  repeat' first
    | with_reducible exact Chg.refl _ _
    | with_reducible assumption
    | with_reducible refine NextChg.actHost ?_
    | with_reducible refine NextChg.act ?_
    | with_reducible refine NextChg.next ?_
    | with_reducible apply State.setFld_chg hm.le
    | with_reducible apply State.setStage_chg hm.le
    | with_reducible apply Chg.ite

theorem execRecoveryGo_chg {m : Nat} (hm : Sub 54525956 m) (s : State) (port : Nat) (v : Word32) : NextChg m s (execRecoveryGo port v s) := by
  unfold execRecoveryGo
  try dsimp only
  repeat' first
    | with_reducible exact Chg.refl _ _
    | with_reducible assumption
    | with_reducible refine NextChg.actHost ?_
    | with_reducible refine NextChg.act ?_
    | with_reducible refine NextChg.next ?_
    | with_reducible apply State.modBoard_chg hm.le
    | with_reducible apply State.setStage_chg hm.le
    | with_reducible apply Chg.ite

theorem execRamVerifyEnd_chg {m : Nat} (hm : Sub 54526980 m) (s : State) : NextChg m s (execRamVerifyEnd s) := by
  unfold execRamVerifyEnd
  try dsimp only
  repeat' first
    | with_reducible exact Chg.refl _ _
    | with_reducible assumption
    | with_reducible refine NextChg.actHost ?_
    | with_reducible refine NextChg.act ?_
    | with_reducible refine NextChg.next ?_
    | with_reducible apply State.setFld_chg hm.le
    | with_reducible apply State.modBoard_chg hm.le
    | with_reducible apply State.setStage_chg hm.le
    | with_reducible apply State.noVfs_chg hm.le
    | with_reducible apply State.applyConfig_chg hm.le
    | with_reducible apply State.applyImage_chg hm.le
    | with_reducible apply Chg.ite
    | split

theorem execRamBootLinkDrop_chg {m : Nat} (hm : Sub 54525956 m) (s : State) : NextChg m s (execRamBootLinkDrop s) := by
  unfold execRamBootLinkDrop
  try dsimp only
  repeat' first
    | with_reducible exact Chg.refl _ _
    | with_reducible assumption
    | with_reducible refine NextChg.actHost ?_
    | with_reducible refine NextChg.act ?_
    | with_reducible refine NextChg.next ?_
    | with_reducible apply State.modBoard_chg hm.le
    | with_reducible apply State.portReset_chg hm.le
    | with_reducible apply State.setStage_chg hm.le
    | with_reducible apply State.identify_chg hm.le
    | with_reducible apply Chg.ite
    | split

theorem execFlashWrite_chg {m : Nat} (hm : Sub 32 m) (s : State) (n : Nat) : NextChg m s (execFlashWrite n s) := by
  unfold execFlashWrite
  try dsimp only
  repeat' first
    | with_reducible exact Chg.refl _ _
    | with_reducible assumption
    | with_reducible refine NextChg.actHost ?_
    | with_reducible refine NextChg.act ?_
    | with_reducible refine NextChg.next ?_
    | with_reducible apply State.modCmd_chg hm.le
    | with_reducible apply State.settle_chg hm.le
    | with_reducible apply Chg.ite
    | split
    | intro _

theorem execFlashSourceRead_chg {m : Nat} (hm : Sub 62915108 m) (s : State) (cid : Nat) (m_ : Meet) : NextChg m s (execFlashSourceRead cid m_ s) := by
  unfold execFlashSourceRead
  try dsimp only
  repeat' first
    | with_reducible exact Chg.refl _ _
    | with_reducible assumption
    | with_reducible refine NextChg.actHost ?_
    | with_reducible refine NextChg.act ?_
    | with_reducible refine NextChg.next ?_
    | with_reducible apply State.setFld_chg hm.le
    | with_reducible apply State.modBoard_chg hm.le
    | with_reducible apply State.modCmd_chg hm.le
    | with_reducible apply State.readMeets_chg hm.le
    | with_reducible apply Chg.ite
    | split

theorem execFlashWriteComplete_chg {m : Nat} (hm : Sub 121635388 m) (s : State) (cid : Nat) (failed : Bool) (busy : Bool) : NextChg m s (execFlashWriteComplete cid failed busy s) := by
  unfold execFlashWriteComplete
  try dsimp only
  repeat' first
    | with_reducible exact Chg.refl _ _
    | with_reducible assumption
    | with_reducible refine NextChg.actHost ?_
    | with_reducible refine NextChg.act ?_
    | with_reducible refine NextChg.next ?_
    | with_reducible apply State.setFld_chg hm.le
    | with_reducible apply State.modBoard_chg hm.le
    | with_reducible apply State.drawn_chg hm.le
    | with_reducible apply State.finish_chg hm.le
    | with_reducible refine Chg.foldl _ ?_ _ ?_
    | with_reducible refine Chg.foldlFst _ ?_ _ ?_
    | with_reducible apply Chg.ite
    | split

theorem execFlashOperationEnd_chg {m : Nat} (hm : Sub 4 m) (s : State) : NextChg m s (execFlashOperationEnd s) := by
  unfold execFlashOperationEnd
  repeat' first
    | with_reducible exact Chg.refl _ _
    | with_reducible assumption
    | with_reducible refine NextChg.actHost ?_
    | with_reducible refine NextChg.act ?_
    | with_reducible refine NextChg.next ?_
    | with_reducible apply State.setFld_chg hm.le
    | with_reducible apply Chg.ite

end Sys2Proof.Machine
end

