-- ==== Sys2Proof/Laws/ChgCheckpoint.lean ====
section
/-!
SUPPORT. ChgCheckpoint.lean: the kinds of state that each operation of Checkpoint.lean can change; each keeps the invariant.
-/

set_option Elab.async false
namespace Sys2Proof.Machine
open Sys2Proof.Config

theorem State.launchCheckpoint_chg {m : Nat} (hm : Sub 262176 m) {s t : State} (h : Chg m s t) (c : Cmd) : Chg m s (State.launchCheckpoint t c) := by
  unfold State.launchCheckpoint
  try dsimp only
  repeat' first
    | with_reducible exact h
    | with_reducible assumption
    | with_reducible apply State.modCmd_chg hm.le
    | with_reducible refine Chg.mk ?_

theorem execCheckpoint_chg {m : Nat} (hm : Sub 262176 m) (s : State) (n : Nat) : NextChg m s (execCheckpoint n s) := by
  unfold execCheckpoint
  try dsimp only
  repeat' first
    | with_reducible exact Chg.refl _ _
    | with_reducible assumption
    | with_reducible refine NextChg.actHost ?_
    | with_reducible refine NextChg.act ?_
    | with_reducible refine NextChg.next ?_
    | with_reducible apply State.settle_chg hm.le
    | with_reducible apply State.launchCheckpoint_chg hm.le
    | split
    | intro _

theorem execCheckpointCopyStart_chg {m : Nat} (hm : Sub 548 m) (s : State) (cid : Nat) : NextChg m s (execCheckpointCopyStart cid s) := by
  unfold execCheckpointCopyStart
  try dsimp only
  repeat' first
    | with_reducible exact Chg.refl _ _
    | with_reducible assumption
    | with_reducible refine NextChg.actHost ?_
    | with_reducible refine NextChg.act ?_
    | with_reducible refine NextChg.next ?_
    | with_reducible apply State.modCmd_chg hm.le
    | with_reducible apply State.showCopy_chg hm.le
    | with_reducible apply State.capture_chg hm.le
    | with_reducible apply Chg.ite
    | split

theorem State.ckptWrite_chg {m : Nat} (hm : Sub 33554952 m) {s : State} (c : Cmd) : ∀ (k va : Nat) (l : List Nat) {t : State},
    Chg m s t → Chg m s (State.ckptWrite t c k va l)
  | _, _, [], _, h => h
  | k, va, p :: r, t, h => by
    unfold State.ckptWrite
    dsimp only
    refine State.ckptWrite_chg hm.le c _ _ r ?_
    refine Chg.foldlFst _ ?_ _ (State.writeVirt_chg hm.le h _ _ _ _ _)
    intro a x ha
    refine Chg.foldlFst _ ?_ _ ha
    intro b y hb
    split
    · exact State.l2Use_chg hm.le (hb.mem hm.le _ (copyRange_wf _ _ _ _)) _ _
    · exact hb

theorem State.endCheckpoint_chg {m : Nat} (hm : Sub 262660 m) {s t : State} (h : Chg m s t) (cid : Nat) : Chg m s (State.endCheckpoint t cid) := by
  unfold State.endCheckpoint
  try dsimp only
  repeat' first
    | with_reducible exact h
    | with_reducible assumption
    | with_reducible apply State.modPart_chg hm.le
    | with_reducible apply State.dropJob_chg hm.le
    | with_reducible refine Chg.foldl _ ?_ _ ?_
    | with_reducible refine Chg.foldlFst _ ?_ _ ?_
    | intro _ _ _

theorem execCheckpointCopyEnd_chg {m : Nat} (hm : Sub 113508924 m) (s : State) (cid : Nat) (h_ : Hap) : NextChg m s (execCheckpointCopyEnd cid h_ s) := by
  unfold execCheckpointCopyEnd
  try dsimp only
  repeat' first
    | with_reducible exact Chg.refl _ _
    | with_reducible assumption
    | with_reducible refine NextChg.actHost ?_
    | with_reducible refine NextChg.act ?_
    | with_reducible refine NextChg.next ?_
    | with_reducible apply State.finish_chg hm.le
    | with_reducible apply State.copyMeets_chg hm.le
    | with_reducible apply State.undefImage_chg hm.le
    | with_reducible apply State.ckptWrite_chg hm.le
    | with_reducible apply State.endCheckpoint_chg hm.le
    | with_reducible apply Chg.ite
    | split

end Sys2Proof.Machine
end

