-- ==== Sys2Proof/Laws/ChgClock.lean ====
section
/-!
SUPPORT. ChgClock.lean: the kinds of state that each operation of Clock.lean can change; each keeps the invariant.
-/

set_option Elab.async false
namespace Sys2Proof.Machine
open Sys2Proof.Config

theorem State.tick_chg {m : Nat} (hm : Sub 2 m) {s t : State} (h : Chg m s t) : Chg m s (State.tick t) := by
  unfold State.tick
  dsimp only
  split
  · exact h
  · split
    · exact h.time hm _ fun i => i
    · split
      · exact h.time hm _ fun i => i
      · refine h.time hm _ fun i => ?_
        unfold TimeBase.count
        split
        · exact ⟨by simp only at *; omega, i.2.1, i.2.2⟩
        · exact ⟨Nat.zero_lt_succ _, Nat.mod_lt _ (Nat.two_pow_pos 54), i.2.2⟩

end Sys2Proof.Machine
end

