-- ==== Sys2Proof/Laws/ChgIssue.lean ====
section
/-!
SUPPORT. ChgIssue.lean: the kinds of state that each operation of Issue.lean can change; each keeps the invariant.
-/

set_option Elab.async false
namespace Sys2Proof.Machine
open Sys2Proof.Config

theorem State.latchLegal_chg {m : Nat} (hm : Sub 4096 m) {s t : State} (h : Chg m s t) (t_ : Nat) : Chg m s (State.latchLegal t t_) := by
  unfold State.latchLegal
  try dsimp only
  repeat' first
    | with_reducible exact h
    | with_reducible assumption
    | with_reducible apply State.modThread_chg hm.le
    | with_reducible apply Chg.ite
    | split

theorem State.latchChecks_chg {m : Nat} (hm : Sub 4096 m) {s t : State} (h : Chg m s t) : Chg m s (State.latchChecks t) := by
  unfold State.latchChecks
  try dsimp only
  repeat' first
    | with_reducible exact h
    | with_reducible assumption
    | with_reducible apply State.latchLegal_chg hm.le
    | with_reducible refine Chg.foldl _ ?_ _ ?_
    | with_reducible refine Chg.foldlFst _ ?_ _ ?_
    | intro _ _ _

theorem State.gddrSide_chg {m : Nat} (hm : Sub 512 m) {s t : State} (h : Chg m s t) (t_ : Nat) (n : Nat) (p : Plan) : Chg m s (State.gddrSide t t_ n p) := by
  unfold State.gddrSide
  try dsimp only
  repeat' first
    | with_reducible exact h
    | with_reducible assumption
    | with_reducible apply State.tenantEnter_chg hm.le
    | with_reducible apply State.l2Access_chg hm.le
    | with_reducible apply Chg.ite
    | split

theorem State.cxlSide_chg {m : Nat} (hm : Sub 512 m) {s t : State} (h : Chg m s t) (t_ : Nat) (part : Nat) (p : Plan) : Chg m s (State.cxlSide t t_ part p) := by
  unfold State.cxlSide
  try dsimp only
  repeat' first
    | with_reducible exact h
    | with_reducible assumption
    | with_reducible apply State.cxlEnter_chg hm.le
    | split

theorem State.queueDesc_chg {m : Nat} (hm : Sub 1024 m) {s t : State} (h : Chg m s t) (t_ : Nat) (p : Plan) : Chg m s (State.queueDesc t t_ p) := by
  unfold State.queueDesc
  try dsimp only
  repeat' first
    | with_reducible exact h
    | with_reducible assumption
    | with_reducible apply State.setChannel_chg hm.le
    | split

theorem State.askLoad_chg {m : Nat} (hm : Sub 33554432 m) {s t : State} (h : Chg m s t) (n : Nat) (p : Plan) : Chg m s (State.askLoad t n p) := by
  unfold State.askLoad
  try dsimp only
  repeat' first
    | with_reducible exact h
    | with_reducible assumption
    | with_reducible apply State.fromHost_chg hm.le
    | split

theorem State.issue_chg {m : Nat} (hm : Sub 33586688 m) {s t : State} (h : Chg m s t) (t_ : Nat) (w : Nat) (p : Plan) : Chg m s (State.issue t t_ w p) := by
  unfold State.issue
  try dsimp only
  repeat' first
    | with_reducible exact h
    | with_reducible assumption
    | with_reducible apply State.setTile_chg hm.le
    | with_reducible apply State.setThread_chg hm.le
    | with_reducible apply State.gddrSide_chg hm.le
    | with_reducible apply State.cxlSide_chg hm.le
    | with_reducible apply State.queueDesc_chg hm.le
    | with_reducible apply State.askLoad_chg hm.le
    | with_reducible refine Chg.mk ?_

theorem State.runIns_chg {m : Nat} (hm : Sub 46300732 m) {s t : State} (h : Chg m s t) (t_ : Nat) (cls : Nat) (op : Nat) (adj : Nat → Plan → Plan) : Chg m s (State.runIns t t_ cls op adj) := by
  unfold State.runIns
  try dsimp only
  repeat' first
    | with_reducible exact h
    | with_reducible assumption
    | with_reducible apply State.illegalThread_chg hm.le
    | with_reducible apply State.issue_chg hm.le
    | with_reducible apply Chg.ite
    | split

theorem execAdd_chg {m : Nat} (hm : Sub 46300732 m) (s : State) (t_ : Nat) : NextChg m s (execAdd t_ s) := by
  unfold execAdd
  repeat' first
    | with_reducible exact Chg.refl _ _
    | with_reducible assumption
    | with_reducible refine NextChg.actHost ?_
    | with_reducible refine NextChg.act ?_
    | with_reducible refine NextChg.next ?_
    | with_reducible apply State.runIns_chg hm.le

theorem execSub_chg {m : Nat} (hm : Sub 46300732 m) (s : State) (t_ : Nat) : NextChg m s (execSub t_ s) := by
  unfold execSub
  repeat' first
    | with_reducible exact Chg.refl _ _
    | with_reducible assumption
    | with_reducible refine NextChg.actHost ?_
    | with_reducible refine NextChg.act ?_
    | with_reducible refine NextChg.next ?_
    | with_reducible apply State.runIns_chg hm.le

theorem execAnd_chg {m : Nat} (hm : Sub 46300732 m) (s : State) (t_ : Nat) : NextChg m s (execAnd t_ s) := by
  unfold execAnd
  repeat' first
    | with_reducible exact Chg.refl _ _
    | with_reducible assumption
    | with_reducible refine NextChg.actHost ?_
    | with_reducible refine NextChg.act ?_
    | with_reducible refine NextChg.next ?_
    | with_reducible apply State.runIns_chg hm.le

theorem execOr_chg {m : Nat} (hm : Sub 46300732 m) (s : State) (t_ : Nat) : NextChg m s (execOr t_ s) := by
  unfold execOr
  repeat' first
    | with_reducible exact Chg.refl _ _
    | with_reducible assumption
    | with_reducible refine NextChg.actHost ?_
    | with_reducible refine NextChg.act ?_
    | with_reducible refine NextChg.next ?_
    | with_reducible apply State.runIns_chg hm.le

theorem execXor_chg {m : Nat} (hm : Sub 46300732 m) (s : State) (t_ : Nat) : NextChg m s (execXor t_ s) := by
  unfold execXor
  repeat' first
    | with_reducible exact Chg.refl _ _
    | with_reducible assumption
    | with_reducible refine NextChg.actHost ?_
    | with_reducible refine NextChg.act ?_
    | with_reducible refine NextChg.next ?_
    | with_reducible apply State.runIns_chg hm.le

theorem execShl_chg {m : Nat} (hm : Sub 46300732 m) (s : State) (t_ : Nat) : NextChg m s (execShl t_ s) := by
  unfold execShl
  repeat' first
    | with_reducible exact Chg.refl _ _
    | with_reducible assumption
    | with_reducible refine NextChg.actHost ?_
    | with_reducible refine NextChg.act ?_
    | with_reducible refine NextChg.next ?_
    | with_reducible apply State.runIns_chg hm.le

theorem execShr_chg {m : Nat} (hm : Sub 46300732 m) (s : State) (t_ : Nat) : NextChg m s (execShr t_ s) := by
  unfold execShr
  repeat' first
    | with_reducible exact Chg.refl _ _
    | with_reducible assumption
    | with_reducible refine NextChg.actHost ?_
    | with_reducible refine NextChg.act ?_
    | with_reducible refine NextChg.next ?_
    | with_reducible apply State.runIns_chg hm.le

theorem execSra_chg {m : Nat} (hm : Sub 46300732 m) (s : State) (t_ : Nat) : NextChg m s (execSra t_ s) := by
  unfold execSra
  repeat' first
    | with_reducible exact Chg.refl _ _
    | with_reducible assumption
    | with_reducible refine NextChg.actHost ?_
    | with_reducible refine NextChg.act ?_
    | with_reducible refine NextChg.next ?_
    | with_reducible apply State.runIns_chg hm.le

theorem execSlt_chg {m : Nat} (hm : Sub 46300732 m) (s : State) (t_ : Nat) : NextChg m s (execSlt t_ s) := by
  unfold execSlt
  repeat' first
    | with_reducible exact Chg.refl _ _
    | with_reducible assumption
    | with_reducible refine NextChg.actHost ?_
    | with_reducible refine NextChg.act ?_
    | with_reducible refine NextChg.next ?_
    | with_reducible apply State.runIns_chg hm.le

theorem execSltu_chg {m : Nat} (hm : Sub 46300732 m) (s : State) (t_ : Nat) : NextChg m s (execSltu t_ s) := by
  unfold execSltu
  repeat' first
    | with_reducible exact Chg.refl _ _
    | with_reducible assumption
    | with_reducible refine NextChg.actHost ?_
    | with_reducible refine NextChg.act ?_
    | with_reducible refine NextChg.next ?_
    | with_reducible apply State.runIns_chg hm.le

theorem execMul_chg {m : Nat} (hm : Sub 46300732 m) (s : State) (t_ : Nat) : NextChg m s (execMul t_ s) := by
  unfold execMul
  repeat' first
    | with_reducible exact Chg.refl _ _
    | with_reducible assumption
    | with_reducible refine NextChg.actHost ?_
    | with_reducible refine NextChg.act ?_
    | with_reducible refine NextChg.next ?_
    | with_reducible apply State.runIns_chg hm.le

theorem execMulhu_chg {m : Nat} (hm : Sub 46300732 m) (s : State) (t_ : Nat) : NextChg m s (execMulhu t_ s) := by
  unfold execMulhu
  repeat' first
    | with_reducible exact Chg.refl _ _
    | with_reducible assumption
    | with_reducible refine NextChg.actHost ?_
    | with_reducible refine NextChg.act ?_
    | with_reducible refine NextChg.next ?_
    | with_reducible apply State.runIns_chg hm.le

theorem execDivu_chg {m : Nat} (hm : Sub 46300732 m) (s : State) (t_ : Nat) : NextChg m s (execDivu t_ s) := by
  unfold execDivu
  repeat' first
    | with_reducible exact Chg.refl _ _
    | with_reducible assumption
    | with_reducible refine NextChg.actHost ?_
    | with_reducible refine NextChg.act ?_
    | with_reducible refine NextChg.next ?_
    | with_reducible apply State.runIns_chg hm.le

theorem execRemu_chg {m : Nat} (hm : Sub 46300732 m) (s : State) (t_ : Nat) : NextChg m s (execRemu t_ s) := by
  unfold execRemu
  repeat' first
    | with_reducible exact Chg.refl _ _
    | with_reducible assumption
    | with_reducible refine NextChg.actHost ?_
    | with_reducible refine NextChg.act ?_
    | with_reducible refine NextChg.next ?_
    | with_reducible apply State.runIns_chg hm.le

theorem execAddi_chg {m : Nat} (hm : Sub 46300732 m) (s : State) (t_ : Nat) : NextChg m s (execAddi t_ s) := by
  unfold execAddi
  repeat' first
    | with_reducible exact Chg.refl _ _
    | with_reducible assumption
    | with_reducible refine NextChg.actHost ?_
    | with_reducible refine NextChg.act ?_
    | with_reducible refine NextChg.next ?_
    | with_reducible apply State.runIns_chg hm.le

theorem execAndi_chg {m : Nat} (hm : Sub 46300732 m) (s : State) (t_ : Nat) : NextChg m s (execAndi t_ s) := by
  unfold execAndi
  repeat' first
    | with_reducible exact Chg.refl _ _
    | with_reducible assumption
    | with_reducible refine NextChg.actHost ?_
    | with_reducible refine NextChg.act ?_
    | with_reducible refine NextChg.next ?_
    | with_reducible apply State.runIns_chg hm.le

theorem execShli_chg {m : Nat} (hm : Sub 46300732 m) (s : State) (t_ : Nat) : NextChg m s (execShli t_ s) := by
  unfold execShli
  repeat' first
    | with_reducible exact Chg.refl _ _
    | with_reducible assumption
    | with_reducible refine NextChg.actHost ?_
    | with_reducible refine NextChg.act ?_
    | with_reducible refine NextChg.next ?_
    | with_reducible apply State.runIns_chg hm.le

theorem execShri_chg {m : Nat} (hm : Sub 46300732 m) (s : State) (t_ : Nat) : NextChg m s (execShri t_ s) := by
  unfold execShri
  repeat' first
    | with_reducible exact Chg.refl _ _
    | with_reducible assumption
    | with_reducible refine NextChg.actHost ?_
    | with_reducible refine NextChg.act ?_
    | with_reducible refine NextChg.next ?_
    | with_reducible apply State.runIns_chg hm.le

theorem execMovhi_chg {m : Nat} (hm : Sub 46300732 m) (s : State) (t_ : Nat) : NextChg m s (execMovhi t_ s) := by
  unfold execMovhi
  repeat' first
    | with_reducible exact Chg.refl _ _
    | with_reducible assumption
    | with_reducible refine NextChg.actHost ?_
    | with_reducible refine NextChg.act ?_
    | with_reducible refine NextChg.next ?_
    | with_reducible apply State.runIns_chg hm.le

theorem execMovs_chg {m : Nat} (hm : Sub 46300732 m) (s : State) (t_ : Nat) : NextChg m s (execMovs t_ s) := by
  unfold execMovs
  repeat' first
    | with_reducible exact Chg.refl _ _
    | with_reducible assumption
    | with_reducible refine NextChg.actHost ?_
    | with_reducible refine NextChg.act ?_
    | with_reducible refine NextChg.next ?_
    | with_reducible apply State.runIns_chg hm.le

theorem execBeq_chg {m : Nat} (hm : Sub 46300732 m) (s : State) (t_ : Nat) : NextChg m s (execBeq t_ s) := by
  unfold execBeq
  repeat' first
    | with_reducible exact Chg.refl _ _
    | with_reducible assumption
    | with_reducible refine NextChg.actHost ?_
    | with_reducible refine NextChg.act ?_
    | with_reducible refine NextChg.next ?_
    | with_reducible apply State.runIns_chg hm.le

theorem execBne_chg {m : Nat} (hm : Sub 46300732 m) (s : State) (t_ : Nat) : NextChg m s (execBne t_ s) := by
  unfold execBne
  repeat' first
    | with_reducible exact Chg.refl _ _
    | with_reducible assumption
    | with_reducible refine NextChg.actHost ?_
    | with_reducible refine NextChg.act ?_
    | with_reducible refine NextChg.next ?_
    | with_reducible apply State.runIns_chg hm.le

theorem execBlt_chg {m : Nat} (hm : Sub 46300732 m) (s : State) (t_ : Nat) : NextChg m s (execBlt t_ s) := by
  unfold execBlt
  repeat' first
    | with_reducible exact Chg.refl _ _
    | with_reducible assumption
    | with_reducible refine NextChg.actHost ?_
    | with_reducible refine NextChg.act ?_
    | with_reducible refine NextChg.next ?_
    | with_reducible apply State.runIns_chg hm.le

theorem execBge_chg {m : Nat} (hm : Sub 46300732 m) (s : State) (t_ : Nat) : NextChg m s (execBge t_ s) := by
  unfold execBge
  repeat' first
    | with_reducible exact Chg.refl _ _
    | with_reducible assumption
    | with_reducible refine NextChg.actHost ?_
    | with_reducible refine NextChg.act ?_
    | with_reducible refine NextChg.next ?_
    | with_reducible apply State.runIns_chg hm.le

theorem execBltu_chg {m : Nat} (hm : Sub 46300732 m) (s : State) (t_ : Nat) : NextChg m s (execBltu t_ s) := by
  unfold execBltu
  repeat' first
    | with_reducible exact Chg.refl _ _
    | with_reducible assumption
    | with_reducible refine NextChg.actHost ?_
    | with_reducible refine NextChg.act ?_
    | with_reducible refine NextChg.next ?_
    | with_reducible apply State.runIns_chg hm.le

theorem execBgeu_chg {m : Nat} (hm : Sub 46300732 m) (s : State) (t_ : Nat) : NextChg m s (execBgeu t_ s) := by
  unfold execBgeu
  repeat' first
    | with_reducible exact Chg.refl _ _
    | with_reducible assumption
    | with_reducible refine NextChg.actHost ?_
    | with_reducible refine NextChg.act ?_
    | with_reducible refine NextChg.next ?_
    | with_reducible apply State.runIns_chg hm.le

theorem execJal_chg {m : Nat} (hm : Sub 46300732 m) (s : State) (t_ : Nat) : NextChg m s (execJal t_ s) := by
  unfold execJal
  repeat' first
    | with_reducible exact Chg.refl _ _
    | with_reducible assumption
    | with_reducible refine NextChg.actHost ?_
    | with_reducible refine NextChg.act ?_
    | with_reducible refine NextChg.next ?_
    | with_reducible apply State.runIns_chg hm.le

theorem execJalr_chg {m : Nat} (hm : Sub 46300732 m) (s : State) (t_ : Nat) : NextChg m s (execJalr t_ s) := by
  unfold execJalr
  repeat' first
    | with_reducible exact Chg.refl _ _
    | with_reducible assumption
    | with_reducible refine NextChg.actHost ?_
    | with_reducible refine NextChg.act ?_
    | with_reducible refine NextChg.next ?_
    | with_reducible apply State.runIns_chg hm.le

theorem execSt_chg {m : Nat} (hm : Sub 46300732 m) (s : State) (t_ : Nat) : NextChg m s (execSt t_ s) := by
  unfold execSt
  repeat' first
    | with_reducible exact Chg.refl _ _
    | with_reducible assumption
    | with_reducible refine NextChg.actHost ?_
    | with_reducible refine NextChg.act ?_
    | with_reducible refine NextChg.next ?_
    | with_reducible apply State.runIns_chg hm.le

theorem execVst_chg {m : Nat} (hm : Sub 46300732 m) (s : State) (t_ : Nat) : NextChg m s (execVst t_ s) := by
  unfold execVst
  repeat' first
    | with_reducible exact Chg.refl _ _
    | with_reducible assumption
    | with_reducible refine NextChg.actHost ?_
    | with_reducible refine NextChg.act ?_
    | with_reducible refine NextChg.next ?_
    | with_reducible apply State.runIns_chg hm.le

theorem State.runRead_chg {m : Nat} (hm : Sub 46300732 m) {s t : State} (h : Chg m s t) (t_ : Nat) (cls : Nat) (op : Nat) (edc : Nat) : Chg m s (State.runRead t t_ cls op edc) := by
  unfold State.runRead
  try dsimp only
  repeat' first
    | with_reducible exact h
    | with_reducible assumption
    | with_reducible apply State.edcEvt_chg hm.le
    | with_reducible apply State.runIns_chg hm.le
    | with_reducible apply Chg.ite
    | split

theorem execGld_chg {m : Nat} (hm : Sub 46300732 m) (s : State) (t_ : Nat) (edc : Nat) : NextChg m s (execGld t_ edc s) := by
  unfold execGld
  repeat' first
    | with_reducible exact Chg.refl _ _
    | with_reducible assumption
    | with_reducible refine NextChg.actHost ?_
    | with_reducible refine NextChg.act ?_
    | with_reducible refine NextChg.next ?_
    | with_reducible apply State.runRead_chg hm.le

theorem execSigAdd_chg {m : Nat} (hm : Sub 46300732 m) (s : State) (t_ : Nat) (edc : Nat) (retries : Nat) : NextChg m s (execSigAdd t_ edc retries s) := by
  unfold execSigAdd
  try dsimp only
  repeat' first
    | with_reducible exact Chg.refl _ _
    | with_reducible assumption
    | with_reducible refine NextChg.actHost ?_
    | with_reducible refine NextChg.act ?_
    | with_reducible refine NextChg.next ?_
    | with_reducible apply State.retryEvt_chg hm.le
    | with_reducible apply State.runRead_chg hm.le
    | with_reducible apply Chg.ite
    | split

theorem execSigWaitTimeout_chg {m : Nat} (hm : Sub 4096 m) (s : State) (t_ : Nat) : NextChg m s (execSigWaitTimeout t_ s) := by
  unfold execSigWaitTimeout
  try dsimp only
  repeat' first
    | with_reducible exact Chg.refl _ _
    | with_reducible assumption
    | with_reducible refine NextChg.actHost ?_
    | with_reducible refine NextChg.act ?_
    | with_reducible refine NextChg.next ?_
    | with_reducible apply State.setThread_chg hm.le
    | with_reducible apply Chg.ite

theorem execMarkWait_chg {m : Nat} (hm : Sub 46300732 m) (s : State) (t_ : Nat) : NextChg m s (execMarkWait t_ s) := by
  unfold execMarkWait
  repeat' first
    | with_reducible exact Chg.refl _ _
    | with_reducible assumption
    | with_reducible refine NextChg.actHost ?_
    | with_reducible refine NextChg.act ?_
    | with_reducible refine NextChg.next ?_
    | with_reducible apply State.runIns_chg hm.le

theorem execTfence_chg {m : Nat} (hm : Sub 46300732 m) (s : State) (t_ : Nat) : NextChg m s (execTfence t_ s) := by
  unfold execTfence
  repeat' first
    | with_reducible exact Chg.refl _ _
    | with_reducible assumption
    | with_reducible refine NextChg.actHost ?_
    | with_reducible refine NextChg.act ?_
    | with_reducible refine NextChg.next ?_
    | with_reducible apply State.runIns_chg hm.le

theorem execExit_chg {m : Nat} (hm : Sub 46300732 m) (s : State) (t_ : Nat) : NextChg m s (execExit t_ s) := by
  unfold execExit
  repeat' first
    | with_reducible exact Chg.refl _ _
    | with_reducible assumption
    | with_reducible refine NextChg.actHost ?_
    | with_reducible refine NextChg.act ?_
    | with_reducible refine NextChg.next ?_
    | with_reducible apply State.runIns_chg hm.le

theorem execVadd_chg {m : Nat} (hm : Sub 46300732 m) (s : State) (t_ : Nat) : NextChg m s (execVadd t_ s) := by
  unfold execVadd
  repeat' first
    | with_reducible exact Chg.refl _ _
    | with_reducible assumption
    | with_reducible refine NextChg.actHost ?_
    | with_reducible refine NextChg.act ?_
    | with_reducible refine NextChg.next ?_
    | with_reducible apply State.runIns_chg hm.le

theorem execVsub_chg {m : Nat} (hm : Sub 46300732 m) (s : State) (t_ : Nat) : NextChg m s (execVsub t_ s) := by
  unfold execVsub
  repeat' first
    | with_reducible exact Chg.refl _ _
    | with_reducible assumption
    | with_reducible refine NextChg.actHost ?_
    | with_reducible refine NextChg.act ?_
    | with_reducible refine NextChg.next ?_
    | with_reducible apply State.runIns_chg hm.le

theorem execVmul_chg {m : Nat} (hm : Sub 46300732 m) (s : State) (t_ : Nat) : NextChg m s (execVmul t_ s) := by
  unfold execVmul
  repeat' first
    | with_reducible exact Chg.refl _ _
    | with_reducible assumption
    | with_reducible refine NextChg.actHost ?_
    | with_reducible refine NextChg.act ?_
    | with_reducible refine NextChg.next ?_
    | with_reducible apply State.runIns_chg hm.le

theorem execVfma_chg {m : Nat} (hm : Sub 46300732 m) (s : State) (t_ : Nat) : NextChg m s (execVfma t_ s) := by
  unfold execVfma
  repeat' first
    | with_reducible exact Chg.refl _ _
    | with_reducible assumption
    | with_reducible refine NextChg.actHost ?_
    | with_reducible refine NextChg.act ?_
    | with_reducible refine NextChg.next ?_
    | with_reducible apply State.runIns_chg hm.le

theorem execVmax_chg {m : Nat} (hm : Sub 46300732 m) (s : State) (t_ : Nat) : NextChg m s (execVmax t_ s) := by
  unfold execVmax
  repeat' first
    | with_reducible exact Chg.refl _ _
    | with_reducible assumption
    | with_reducible refine NextChg.actHost ?_
    | with_reducible refine NextChg.act ?_
    | with_reducible refine NextChg.next ?_
    | with_reducible apply State.runIns_chg hm.le

theorem execVmin_chg {m : Nat} (hm : Sub 46300732 m) (s : State) (t_ : Nat) : NextChg m s (execVmin t_ s) := by
  unfold execVmin
  repeat' first
    | with_reducible exact Chg.refl _ _
    | with_reducible assumption
    | with_reducible refine NextChg.actHost ?_
    | with_reducible refine NextChg.act ?_
    | with_reducible refine NextChg.next ?_
    | with_reducible apply State.runIns_chg hm.le

theorem execVcmp_chg {m : Nat} (hm : Sub 46300732 m) (s : State) (t_ : Nat) : NextChg m s (execVcmp t_ s) := by
  unfold execVcmp
  repeat' first
    | with_reducible exact Chg.refl _ _
    | with_reducible assumption
    | with_reducible refine NextChg.actHost ?_
    | with_reducible refine NextChg.act ?_
    | with_reducible refine NextChg.next ?_
    | with_reducible apply State.runIns_chg hm.le

theorem execVsel_chg {m : Nat} (hm : Sub 46300732 m) (s : State) (t_ : Nat) : NextChg m s (execVsel t_ s) := by
  unfold execVsel
  repeat' first
    | with_reducible exact Chg.refl _ _
    | with_reducible assumption
    | with_reducible refine NextChg.actHost ?_
    | with_reducible refine NextChg.act ?_
    | with_reducible refine NextChg.next ?_
    | with_reducible apply State.runIns_chg hm.le

theorem execVbcast_chg {m : Nat} (hm : Sub 46300732 m) (s : State) (t_ : Nat) : NextChg m s (execVbcast t_ s) := by
  unfold execVbcast
  repeat' first
    | with_reducible exact Chg.refl _ _
    | with_reducible assumption
    | with_reducible refine NextChg.actHost ?_
    | with_reducible refine NextChg.act ?_
    | with_reducible refine NextChg.next ?_
    | with_reducible apply State.runIns_chg hm.le

theorem execVextr_chg {m : Nat} (hm : Sub 46300732 m) (s : State) (t_ : Nat) : NextChg m s (execVextr t_ s) := by
  unfold execVextr
  repeat' first
    | with_reducible exact Chg.refl _ _
    | with_reducible assumption
    | with_reducible refine NextChg.actHost ?_
    | with_reducible refine NextChg.act ?_
    | with_reducible refine NextChg.next ?_
    | with_reducible apply State.runIns_chg hm.le

theorem execVexp2_chg {m : Nat} (hm : Sub 46300732 m) (s : State) (t_ : Nat) : NextChg m s (execVexp2 t_ s) := by
  unfold execVexp2
  repeat' first
    | with_reducible exact Chg.refl _ _
    | with_reducible assumption
    | with_reducible refine NextChg.actHost ?_
    | with_reducible refine NextChg.act ?_
    | with_reducible refine NextChg.next ?_
    | with_reducible apply State.runIns_chg hm.le

theorem execVlog2_chg {m : Nat} (hm : Sub 46300732 m) (s : State) (t_ : Nat) : NextChg m s (execVlog2 t_ s) := by
  unfold execVlog2
  repeat' first
    | with_reducible exact Chg.refl _ _
    | with_reducible assumption
    | with_reducible refine NextChg.actHost ?_
    | with_reducible refine NextChg.act ?_
    | with_reducible refine NextChg.next ?_
    | with_reducible apply State.runIns_chg hm.le

theorem execVrcp_chg {m : Nat} (hm : Sub 46300732 m) (s : State) (t_ : Nat) : NextChg m s (execVrcp t_ s) := by
  unfold execVrcp
  repeat' first
    | with_reducible exact Chg.refl _ _
    | with_reducible assumption
    | with_reducible refine NextChg.actHost ?_
    | with_reducible refine NextChg.act ?_
    | with_reducible refine NextChg.next ?_
    | with_reducible apply State.runIns_chg hm.le

theorem execVrsqrt_chg {m : Nat} (hm : Sub 46300732 m) (s : State) (t_ : Nat) : NextChg m s (execVrsqrt t_ s) := by
  unfold execVrsqrt
  repeat' first
    | with_reducible exact Chg.refl _ _
    | with_reducible assumption
    | with_reducible refine NextChg.actHost ?_
    | with_reducible refine NextChg.act ?_
    | with_reducible refine NextChg.next ?_
    | with_reducible apply State.runIns_chg hm.le

theorem execVsin_chg {m : Nat} (hm : Sub 46300732 m) (s : State) (t_ : Nat) : NextChg m s (execVsin t_ s) := by
  unfold execVsin
  repeat' first
    | with_reducible exact Chg.refl _ _
    | with_reducible assumption
    | with_reducible refine NextChg.actHost ?_
    | with_reducible refine NextChg.act ?_
    | with_reducible refine NextChg.next ?_
    | with_reducible apply State.runIns_chg hm.le

theorem execVcos_chg {m : Nat} (hm : Sub 46300732 m) (s : State) (t_ : Nat) : NextChg m s (execVcos t_ s) := by
  unfold execVcos
  repeat' first
    | with_reducible exact Chg.refl _ _
    | with_reducible assumption
    | with_reducible refine NextChg.actHost ?_
    | with_reducible refine NextChg.act ?_
    | with_reducible refine NextChg.next ?_
    | with_reducible apply State.runIns_chg hm.le

theorem execVrsum_chg {m : Nat} (hm : Sub 46300732 m) (s : State) (t_ : Nat) : NextChg m s (execVrsum t_ s) := by
  unfold execVrsum
  repeat' first
    | with_reducible exact Chg.refl _ _
    | with_reducible assumption
    | with_reducible refine NextChg.actHost ?_
    | with_reducible refine NextChg.act ?_
    | with_reducible refine NextChg.next ?_
    | with_reducible apply State.runIns_chg hm.le

theorem execVrmax_chg {m : Nat} (hm : Sub 46300732 m) (s : State) (t_ : Nat) : NextChg m s (execVrmax t_ s) := by
  unfold execVrmax
  repeat' first
    | with_reducible exact Chg.refl _ _
    | with_reducible assumption
    | with_reducible refine NextChg.actHost ?_
    | with_reducible refine NextChg.act ?_
    | with_reducible refine NextChg.next ?_
    | with_reducible apply State.runIns_chg hm.le

theorem execVrargmax_chg {m : Nat} (hm : Sub 46300732 m) (s : State) (t_ : Nat) : NextChg m s (execVrargmax t_ s) := by
  unfold execVrargmax
  repeat' first
    | with_reducible exact Chg.refl _ _
    | with_reducible assumption
    | with_reducible refine NextChg.actHost ?_
    | with_reducible refine NextChg.act ?_
    | with_reducible refine NextChg.next ?_
    | with_reducible apply State.runIns_chg hm.le

theorem execViadd_chg {m : Nat} (hm : Sub 46300732 m) (s : State) (t_ : Nat) : NextChg m s (execViadd t_ s) := by
  unfold execViadd
  repeat' first
    | with_reducible exact Chg.refl _ _
    | with_reducible assumption
    | with_reducible refine NextChg.actHost ?_
    | with_reducible refine NextChg.act ?_
    | with_reducible refine NextChg.next ?_
    | with_reducible apply State.runIns_chg hm.le

theorem execVisub_chg {m : Nat} (hm : Sub 46300732 m) (s : State) (t_ : Nat) : NextChg m s (execVisub t_ s) := by
  unfold execVisub
  repeat' first
    | with_reducible exact Chg.refl _ _
    | with_reducible assumption
    | with_reducible refine NextChg.actHost ?_
    | with_reducible refine NextChg.act ?_
    | with_reducible refine NextChg.next ?_
    | with_reducible apply State.runIns_chg hm.le

theorem execVimul_chg {m : Nat} (hm : Sub 46300732 m) (s : State) (t_ : Nat) : NextChg m s (execVimul t_ s) := by
  unfold execVimul
  repeat' first
    | with_reducible exact Chg.refl _ _
    | with_reducible assumption
    | with_reducible refine NextChg.actHost ?_
    | with_reducible refine NextChg.act ?_
    | with_reducible refine NextChg.next ?_
    | with_reducible apply State.runIns_chg hm.le

theorem execVand_chg {m : Nat} (hm : Sub 46300732 m) (s : State) (t_ : Nat) : NextChg m s (execVand t_ s) := by
  unfold execVand
  repeat' first
    | with_reducible exact Chg.refl _ _
    | with_reducible assumption
    | with_reducible refine NextChg.actHost ?_
    | with_reducible refine NextChg.act ?_
    | with_reducible refine NextChg.next ?_
    | with_reducible apply State.runIns_chg hm.le

theorem execVor_chg {m : Nat} (hm : Sub 46300732 m) (s : State) (t_ : Nat) : NextChg m s (execVor t_ s) := by
  unfold execVor
  repeat' first
    | with_reducible exact Chg.refl _ _
    | with_reducible assumption
    | with_reducible refine NextChg.actHost ?_
    | with_reducible refine NextChg.act ?_
    | with_reducible refine NextChg.next ?_
    | with_reducible apply State.runIns_chg hm.le

theorem execVxor_chg {m : Nat} (hm : Sub 46300732 m) (s : State) (t_ : Nat) : NextChg m s (execVxor t_ s) := by
  unfold execVxor
  repeat' first
    | with_reducible exact Chg.refl _ _
    | with_reducible assumption
    | with_reducible refine NextChg.actHost ?_
    | with_reducible refine NextChg.act ?_
    | with_reducible refine NextChg.next ?_
    | with_reducible apply State.runIns_chg hm.le

theorem execVshl_chg {m : Nat} (hm : Sub 46300732 m) (s : State) (t_ : Nat) : NextChg m s (execVshl t_ s) := by
  unfold execVshl
  repeat' first
    | with_reducible exact Chg.refl _ _
    | with_reducible assumption
    | with_reducible refine NextChg.actHost ?_
    | with_reducible refine NextChg.act ?_
    | with_reducible refine NextChg.next ?_
    | with_reducible apply State.runIns_chg hm.le

theorem execVshr_chg {m : Nat} (hm : Sub 46300732 m) (s : State) (t_ : Nat) : NextChg m s (execVshr t_ s) := by
  unfold execVshr
  repeat' first
    | with_reducible exact Chg.refl _ _
    | with_reducible assumption
    | with_reducible refine NextChg.actHost ?_
    | with_reducible refine NextChg.act ?_
    | with_reducible refine NextChg.next ?_
    | with_reducible apply State.runIns_chg hm.le

theorem execVcvt_chg {m : Nat} (hm : Sub 46300732 m) (s : State) (t_ : Nat) : NextChg m s (execVcvt t_ s) := by
  unfold execVcvt
  repeat' first
    | with_reducible exact Chg.refl _ _
    | with_reducible assumption
    | with_reducible refine NextChg.actHost ?_
    | with_reducible refine NextChg.act ?_
    | with_reducible refine NextChg.next ?_
    | with_reducible apply State.runIns_chg hm.le

theorem execVunpk_chg {m : Nat} (hm : Sub 46300732 m) (s : State) (t_ : Nat) : NextChg m s (execVunpk t_ s) := by
  unfold execVunpk
  repeat' first
    | with_reducible exact Chg.refl _ _
    | with_reducible assumption
    | with_reducible refine NextChg.actHost ?_
    | with_reducible refine NextChg.act ?_
    | with_reducible refine NextChg.next ?_
    | with_reducible apply State.runIns_chg hm.le

theorem execSpkBits_chg {m : Nat} (hm : Sub 46300732 m) (s : State) (t_ : Nat) : NextChg m s (execSpkBits t_ s) := by
  unfold execSpkBits
  repeat' first
    | with_reducible exact Chg.refl _ _
    | with_reducible assumption
    | with_reducible refine NextChg.actHost ?_
    | with_reducible refine NextChg.act ?_
    | with_reducible refine NextChg.next ?_
    | with_reducible apply State.runIns_chg hm.le

theorem execSpkGumbel_chg {m : Nat} (hm : Sub 46300732 m) (s : State) (t_ : Nat) : NextChg m s (execSpkGumbel t_ s) := by
  unfold execSpkGumbel
  repeat' first
    | with_reducible exact Chg.refl _ _
    | with_reducible assumption
    | with_reducible refine NextChg.actHost ?_
    | with_reducible refine NextChg.act ?_
    | with_reducible refine NextChg.next ?_
    | with_reducible apply State.runIns_chg hm.le

theorem execMatStream_chg {m : Nat} (hm : Sub 46300732 m) (s : State) (t_ : Nat) (upsets : List (Nat × Nat × Nat × Int)) : NextChg m s (execMatStream t_ upsets s) := by
  unfold execMatStream
  try dsimp only
  repeat' first
    | with_reducible exact Chg.refl _ _
    | with_reducible assumption
    | with_reducible refine NextChg.actHost ?_
    | with_reducible refine NextChg.act ?_
    | with_reducible refine NextChg.next ?_
    | with_reducible apply State.runIns_chg hm.le

theorem execDamperUpdate_chg {m : Nat} (hm : Sub 46300732 m) (s : State) (t_ : Nat) : NextChg m s (execDamperUpdate t_ s) := by
  unfold execDamperUpdate
  repeat' first
    | with_reducible exact Chg.refl _ _
    | with_reducible assumption
    | with_reducible refine NextChg.actHost ?_
    | with_reducible refine NextChg.act ?_
    | with_reducible refine NextChg.next ?_
    | with_reducible apply State.runIns_chg hm.le

theorem execDamperRead_chg {m : Nat} (hm : Sub 46300732 m) (s : State) (t_ : Nat) : NextChg m s (execDamperRead t_ s) := by
  unfold execDamperRead
  repeat' first
    | with_reducible exact Chg.refl _ _
    | with_reducible assumption
    | with_reducible refine NextChg.actHost ?_
    | with_reducible refine NextChg.act ?_
    | with_reducible refine NextChg.next ?_
    | with_reducible apply State.runIns_chg hm.le

theorem execDamperWrite_chg {m : Nat} (hm : Sub 46300732 m) (s : State) (t_ : Nat) : NextChg m s (execDamperWrite t_ s) := by
  unfold execDamperWrite
  repeat' first
    | with_reducible exact Chg.refl _ _
    | with_reducible assumption
    | with_reducible refine NextChg.actHost ?_
    | with_reducible refine NextChg.act ?_
    | with_reducible refine NextChg.next ?_
    | with_reducible apply State.runIns_chg hm.le

theorem execDamperHsave_chg {m : Nat} (hm : Sub 46300732 m) (s : State) (t_ : Nat) : NextChg m s (execDamperHsave t_ s) := by
  unfold execDamperHsave
  repeat' first
    | with_reducible exact Chg.refl _ _
    | with_reducible assumption
    | with_reducible refine NextChg.actHost ?_
    | with_reducible refine NextChg.act ?_
    | with_reducible refine NextChg.next ?_
    | with_reducible apply State.runIns_chg hm.le

end Sys2Proof.Machine
end

