-- ==== Sys2Proof/Laws/ChgPasses.lean ====
section
/-!
SUPPORT. ChgPasses.lean: the kinds of state that each operation of Passes.lean can change; each keeps the invariant.
-/

set_option Elab.async false
namespace Sys2Proof.Machine
open Sys2Proof.Config

theorem State.loadRow_chg {m : Nat} (hm : Sub 2048 m) {s t : State} (h : Chg m s t) (f : InFlight) : Chg m s (State.loadRow t f) := by
  unfold State.loadRow
  try dsimp only
  repeat' first
    | with_reducible exact h
    | with_reducible assumption
    | with_reducible apply State.setTile_chg hm.le
    | with_reducible refine Chg.foldl _ ?_ _ ?_
    | with_reducible refine Chg.foldlFst _ ?_ _ ?_
    | with_reducible apply Chg.ite
    | split
    | intro _ _ _

theorem State.writePass_chg {m : Nat} (hm : Sub 2056 m) {s t : State} (h : Chg m s t) (tile : Nat) (u : StreamRun) (j : Nat) (sums : List (Nat × List ColSum)) : Chg m s (State.writePass t tile u j sums) := by
  unfold State.writePass
  try dsimp only
  repeat' first
    | with_reducible exact h
    | with_reducible assumption
    | with_reducible apply State.setNf_chg hm.le
    | with_reducible apply State.accumulate_chg hm.le
    | with_reducible refine Chg.foldl _ ?_ _ ?_
    | with_reducible refine Chg.foldlFst _ ?_ _ ?_
    | with_reducible apply Chg.ite
    | split
    | intro _ _ _

theorem State.countMismatch_chg {m : Nat} (hm : Sub 4 m) {s t : State} (h : Chg m s t) (tile : Nat) (second : Bool) : Chg m s (State.countMismatch t tile second) := by
  unfold State.countMismatch
  try dsimp only
  repeat' first
    | with_reducible exact h
    | with_reducible assumption
    | with_reducible apply State.setFld_chg hm.le
    | with_reducible apply Chg.ite

theorem State.modFlight_chg {m : Nat} (hm : Sub 8192 m) {s t : State} (h : Chg m s t) (id : Nat) (g : InFlight → InFlight) : Chg m s (State.modFlight t id g) := by
  unfold State.modFlight
  try dsimp only
  repeat' first
    | with_reducible exact h
    | with_reducible assumption
    | with_reducible refine Chg.mk ?_

theorem State.failPass_chg {m : Nat} (hm : Sub 10244 m) {s t : State} (h : Chg m s t) (tile : Nat) (id : Nat) (u : StreamRun) (j : Nat) : Chg m s (State.failPass t tile id u j) := by
  unfold State.failPass
  try dsimp only
  repeat' first
    | with_reducible exact h
    | with_reducible assumption
    | with_reducible apply State.setNf_chg hm.le
    | with_reducible apply State.countMismatch_chg hm.le
    | with_reducible apply State.modFlight_chg hm.le
    | with_reducible refine Chg.foldl _ ?_ _ ?_
    | with_reducible refine Chg.foldlFst _ ?_ _ ?_
    | with_reducible apply Chg.ite
    | split
    | intro _ _ _

theorem State.judgePass_chg {m : Nat} (hm : Sub 10244 m) {s t : State} (h : Chg m s t) (tile : Nat) (id : Nat) (u : StreamRun) (j : Nat) : Chg m s (State.judgePass t tile id u j) := by
  unfold State.judgePass
  try dsimp only
  repeat' first
    | with_reducible exact h
    | with_reducible assumption
    | with_reducible apply State.modFlight_chg hm.le
    | with_reducible apply State.failPass_chg hm.le
    | split

theorem State.passStage_chg {m : Nat} (hm : Sub 10252 m) {s t : State} (h : Chg m s t) (id : Nat) (j : Nat) : Chg m s (State.passStage t id j) := by
  unfold State.passStage
  try dsimp only
  repeat' first
    | with_reducible exact h
    | with_reducible assumption
    | with_reducible apply State.writePass_chg hm.le
    | with_reducible apply State.modFlight_chg hm.le
    | with_reducible apply State.judgePass_chg hm.le
    | with_reducible apply Chg.ite
    | split

theorem State.drainCycle_chg {m : Nat} (hm : Sub 8192 m) {s t : State} (h : Chg m s t) (f : InFlight) : Chg m s (State.drainCycle t f) := by
  unfold State.drainCycle
  try dsimp only
  repeat' first
    | with_reducible exact h
    | with_reducible assumption
    | with_reducible apply State.modFlight_chg hm.le
    | with_reducible apply Chg.ite
    | split

theorem State.matrixCycle_chg {m : Nat} (hm : Sub 10252 m) {s t : State} (h : Chg m s t) : Chg m s (State.matrixCycle t) := by
  unfold State.matrixCycle
  try dsimp only
  repeat' first
    | with_reducible exact h
    | with_reducible assumption
    | with_reducible apply State.loadRow_chg hm.le
    | with_reducible apply State.passStage_chg hm.le
    | with_reducible apply State.drainCycle_chg hm.le
    | with_reducible refine Chg.foldl _ ?_ _ ?_
    | with_reducible refine Chg.foldlFst _ ?_ _ ?_
    | with_reducible apply Chg.ite
    | split
    | intro _ _ _

end Sys2Proof.Machine
end

