-- ==== Sys2Proof/Laws/ChgPower.lean ====
section
/-!
SUPPORT. ChgPower.lean: the kinds of state that each operation of Power.lean can change; each keeps the invariant.
-/

set_option Elab.async false
namespace Sys2Proof.Machine
open Sys2Proof.Config

theorem execInputPowerSample_chg {m : Nat} (hm : Sub 20971524 m) (s : State) (mv : Nat) (ma : Nat) : NextChg m s (execInputPowerSample mv ma s) := by
  unfold execInputPowerSample
  try dsimp only
  repeat' first
    | with_reducible exact Chg.refl _ _
    | with_reducible assumption
    | with_reducible refine NextChg.actHost ?_
    | with_reducible refine NextChg.act ?_
    | with_reducible refine NextChg.next ?_
    | with_reducible apply State.modBoard_chg hm.le
    | with_reducible apply State.setEvt_chg hm.le
    | with_reducible apply Chg.ite

theorem execPowerFactorUpdate_chg {m : Nat} (hm : Sub 20972036 m) (s : State) : NextChg m s (execPowerFactorUpdate s) := by
  unfold execPowerFactorUpdate
  try dsimp only
  repeat' first
    | with_reducible exact Chg.refl _ _
    | with_reducible assumption
    | with_reducible refine NextChg.actHost ?_
    | with_reducible refine NextChg.act ?_
    | with_reducible refine NextChg.next ?_
    | with_reducible apply State.setFld_chg hm.le
    | with_reducible apply State.modPart_chg hm.le
    | with_reducible apply State.modBoard_chg hm.le
    | with_reducible apply State.setEvt_chg hm.le
    | with_reducible refine Chg.foldl _ ?_ _ ?_
    | with_reducible refine Chg.foldlFst _ ?_ _ ?_
    | with_reducible apply Chg.ite
    | split
    | intro _ _ _

theorem State.showAlert_chg {m : Nat} (hm : Sub 37748740 m) {s t : State} (h : Chg m s t) : Chg m s (State.showAlert t) := by
  unfold State.showAlert
  try dsimp only
  repeat' first
    | with_reducible exact h
    | with_reducible assumption
    | with_reducible apply State.setFld_chg hm.le
    | with_reducible apply State.raise_chg hm.le
    | with_reducible apply State.ibi_chg hm.le
    | with_reducible apply Chg.ite

theorem State.readJunction_chg {m : Nat} (hm : Sub 16777732 m) {s t : State} (h : Chg m s t) (u : Nat) (t_ : Nat) : Chg m s (State.readJunction t u t_) := by
  unfold State.readJunction
  try dsimp only
  repeat' first
    | with_reducible exact h
    | with_reducible assumption
    | with_reducible apply State.setFld_chg hm.le
    | with_reducible apply State.modPart_chg hm.le
    | with_reducible apply State.modBoard_chg hm.le
    | with_reducible apply Chg.ite

theorem execThermalSample_chg {m : Nat} (hm : Sub 54526468 m) (s : State) (temps : List Nat) : NextChg m s (execThermalSample temps s) := by
  unfold execThermalSample
  try dsimp only
  repeat' first
    | with_reducible exact Chg.refl _ _
    | with_reducible assumption
    | with_reducible refine NextChg.actHost ?_
    | with_reducible refine NextChg.act ?_
    | with_reducible refine NextChg.next ?_
    | with_reducible apply State.showAlert_chg hm.le
    | with_reducible apply State.readJunction_chg hm.le
    | with_reducible refine Chg.foldl _ ?_ _ ?_
    | with_reducible refine Chg.foldlFst _ ?_ _ ?_
    | intro _ _ _

theorem execJunctionOvertemp_chg {m : Nat} (hm : Sub 12583428 m) (s : State) (p : Nat) : NextChg m s (execJunctionOvertemp p s) := by
  unfold execJunctionOvertemp
  try dsimp only
  repeat' first
    | with_reducible exact Chg.refl _ _
    | with_reducible assumption
    | with_reducible refine NextChg.actHost ?_
    | with_reducible refine NextChg.act ?_
    | with_reducible refine NextChg.next ?_
    | with_reducible apply State.modPart_chg hm.le
    | with_reducible apply State.soot1_chg hm.le
    | with_reducible apply State.triggerReset_chg hm.le
    | with_reducible apply Chg.ite

theorem execIoDieOvertemp_chg {m : Nat} (hm : Sub 16777216 m) (s : State) (d : Nat) : NextChg m s (execIoDieOvertemp d s) := by
  unfold execIoDieOvertemp
  repeat' first
    | with_reducible exact Chg.refl _ _
    | with_reducible assumption
    | with_reducible refine NextChg.actHost ?_
    | with_reducible refine NextChg.act ?_
    | with_reducible refine NextChg.next ?_
    | with_reducible apply State.chipFault_chg hm.le
    | with_reducible apply Chg.ite

theorem execJunctionCritical_chg {m : Nat} (hm : Sub 16777216 m) (s : State) (u : Nat) : NextChg m s (execJunctionCritical u s) := by
  unfold execJunctionCritical
  try dsimp only
  repeat' first
    | with_reducible exact Chg.refl _ _
    | with_reducible assumption
    | with_reducible refine NextChg.actHost ?_
    | with_reducible refine NextChg.act ?_
    | with_reducible refine NextChg.next ?_
    | with_reducible apply State.modBoard_chg hm.le
    | with_reducible apply Chg.ite

theorem execTread_chg {m : Nat} (hm : Sub 16777216 m) (s : State) (off : Nat) (count : Nat) : NextChg m s (execTread off count s) := by
  unfold execTread
  try dsimp only
  repeat' first
    | with_reducible exact Chg.refl _ _
    | with_reducible assumption
    | with_reducible refine NextChg.actHost ?_
    | with_reducible refine NextChg.act ?_
    | with_reducible refine NextChg.next ?_
    | with_reducible apply State.modBoard_chg hm.le
    | with_reducible apply Chg.ite

theorem execI3cPrivateRead_chg {m : Nat} (hm : Sub 50331648 m) (s : State) : NextChg m s (execI3cPrivateRead s) := by
  unfold execI3cPrivateRead
  try dsimp only
  repeat' first
    | with_reducible exact Chg.refl _ _
    | with_reducible assumption
    | with_reducible refine NextChg.actHost ?_
    | with_reducible refine NextChg.act ?_
    | with_reducible refine NextChg.next ?_
    | with_reducible apply State.modBoard_chg hm.le
    | with_reducible apply State.emit_chg hm.le
    | with_reducible apply Chg.ite
    | split

theorem State.writeCap_chg {m : Nat} (hm : Sub 4194308 m) {s t : State} (h : Chg m s t) (v : Nat) : Chg m s (State.writeCap t v) := by
  unfold State.writeCap
  try dsimp only
  repeat' first
    | with_reducible exact h
    | with_reducible assumption
    | with_reducible apply State.setFld_chg hm.le
    | with_reducible apply State.setEvt_chg hm.le
    | with_reducible apply Chg.ite

theorem execTwrite_chg {m : Nat} (hm : Sub 20971524 m) (s : State) (off : Nat) (count : Nat) (data : List Byte) : NextChg m s (execTwrite off count data s) := by
  unfold execTwrite
  try dsimp only
  repeat' first
    | with_reducible exact Chg.refl _ _
    | with_reducible assumption
    | with_reducible refine NextChg.actHost ?_
    | with_reducible refine NextChg.act ?_
    | with_reducible refine NextChg.next ?_
    | with_reducible apply State.modBoard_chg hm.le
    | with_reducible apply State.writeCap_chg hm.le
    | with_reducible apply Chg.ite

theorem State.hostCap_chg {m : Nat} (hm : Sub 16777216 m) {s t : State} (h : Chg m s t) (port : Nat) (v : Nat) : Chg m s (State.hostCap t port v) := by
  unfold State.hostCap
  try dsimp only
  repeat' first
    | with_reducible exact h
    | with_reducible assumption
    | with_reducible apply State.modBoard_chg hm.le
    | with_reducible apply Chg.ite

theorem State.capDue_chg {m : Nat} (hm : Sub 20971524 m) {s t : State} (h : Chg m s t) : Chg m s (State.capDue t) := by
  unfold State.capDue
  try dsimp only
  repeat' first
    | with_reducible exact h
    | with_reducible assumption
    | with_reducible apply State.modBoard_chg hm.le
    | with_reducible apply State.writeCap_chg hm.le
    | with_reducible refine Chg.foldl _ ?_ _ ?_
    | with_reducible refine Chg.foldlFst _ ?_ _ ?_
    | intro _ _ _

theorem execI3cChipReset_chg {m : Nat} (hm : Sub 16777216 m) (s : State) (key : List Byte) : NextChg m s (execI3cChipReset key s) := by
  unfold execI3cChipReset
  repeat' first
    | with_reducible exact Chg.refl _ _
    | with_reducible assumption
    | with_reducible refine NextChg.actHost ?_
    | with_reducible refine NextChg.act ?_
    | with_reducible refine NextChg.next ?_
    | with_reducible apply State.triggerChip_chg hm.le
    | with_reducible apply Chg.ite

theorem State.assignAddr_chg {m : Nat} (hm : Sub 16777216 m) {s t : State} (h : Chg m s t) (addr : Nat) : Chg m s (State.assignAddr t addr) := by
  unfold State.assignAddr
  try dsimp only
  repeat' first
    | with_reducible exact h
    | with_reducible assumption
    | with_reducible apply State.modBoard_chg hm.le
    | with_reducible apply Chg.ite

theorem execEntdaa_chg {m : Nat} (hm : Sub 16777216 m) (s : State) (addr : Nat) : NextChg m s (execEntdaa addr s) := by
  unfold execEntdaa
  repeat' first
    | with_reducible exact Chg.refl _ _
    | with_reducible assumption
    | with_reducible refine NextChg.actHost ?_
    | with_reducible refine NextChg.act ?_
    | with_reducible refine NextChg.next ?_
    | with_reducible apply State.assignAddr_chg hm.le

theorem execSetdasa_chg {m : Nat} (hm : Sub 16777216 m) (s : State) (static : Nat) (addr : Nat) : NextChg m s (execSetdasa static addr s) := by
  unfold execSetdasa
  repeat' first
    | with_reducible exact Chg.refl _ _
    | with_reducible assumption
    | with_reducible refine NextChg.actHost ?_
    | with_reducible refine NextChg.act ?_
    | with_reducible refine NextChg.next ?_
    | with_reducible apply State.assignAddr_chg hm.le
    | with_reducible apply Chg.ite

theorem execRstdaa_chg {m : Nat} (hm : Sub 16777216 m) (s : State) : NextChg m s (execRstdaa s) := by
  unfold execRstdaa
  try dsimp only
  repeat' first
    | with_reducible exact Chg.refl _ _
    | with_reducible assumption
    | with_reducible refine NextChg.actHost ?_
    | with_reducible refine NextChg.act ?_
    | with_reducible refine NextChg.next ?_
    | with_reducible apply State.modBoard_chg hm.le
    | with_reducible apply Chg.ite

theorem State.cccData_chg {m : Nat} (hm : Sub 33554432 m) {s t : State} (h : Chg m s t) (n : Nat) (v : Nat) : Chg m s (State.cccData t n v) := by
  unfold State.cccData
  repeat' first
    | with_reducible exact h
    | with_reducible assumption
    | with_reducible apply State.emit_chg hm.le
    | with_reducible apply Chg.ite

theorem execGetpid_chg {m : Nat} (hm : Sub 33554432 m) (s : State) : NextChg m s (execGetpid s) := by
  unfold execGetpid
  repeat' first
    | with_reducible exact Chg.refl _ _
    | with_reducible assumption
    | with_reducible refine NextChg.actHost ?_
    | with_reducible refine NextChg.act ?_
    | with_reducible refine NextChg.next ?_
    | with_reducible apply State.cccData_chg hm.le

theorem execGetbcr_chg {m : Nat} (hm : Sub 33554432 m) (s : State) : NextChg m s (execGetbcr s) := by
  unfold execGetbcr
  repeat' first
    | with_reducible exact Chg.refl _ _
    | with_reducible assumption
    | with_reducible refine NextChg.actHost ?_
    | with_reducible refine NextChg.act ?_
    | with_reducible refine NextChg.next ?_
    | with_reducible apply State.cccData_chg hm.le

theorem execGetdcr_chg {m : Nat} (hm : Sub 33554432 m) (s : State) : NextChg m s (execGetdcr s) := by
  unfold execGetdcr
  repeat' first
    | with_reducible exact Chg.refl _ _
    | with_reducible assumption
    | with_reducible refine NextChg.actHost ?_
    | with_reducible refine NextChg.act ?_
    | with_reducible refine NextChg.next ?_
    | with_reducible apply State.cccData_chg hm.le

theorem execGetstatus_chg {m : Nat} (hm : Sub 100663296 m) (s : State) : NextChg m s (execGetstatus s) := by
  unfold execGetstatus
  repeat' first
    | with_reducible exact Chg.refl _ _
    | with_reducible assumption
    | with_reducible refine NextChg.actHost ?_
    | with_reducible refine NextChg.act ?_
    | with_reducible refine NextChg.next ?_
    | with_reducible apply State.drawn_chg hm.le
    | with_reducible apply State.cccData_chg hm.le

theorem execEnec_chg {m : Nat} (hm : Sub 16777216 m) (s : State) : NextChg m s (execEnec s) := by
  unfold execEnec
  try dsimp only
  repeat' first
    | with_reducible exact Chg.refl _ _
    | with_reducible assumption
    | with_reducible refine NextChg.actHost ?_
    | with_reducible refine NextChg.act ?_
    | with_reducible refine NextChg.next ?_
    | with_reducible apply State.modBoard_chg hm.le
    | with_reducible apply Chg.ite

theorem execDisec_chg {m : Nat} (hm : Sub 16777216 m) (s : State) : NextChg m s (execDisec s) := by
  unfold execDisec
  try dsimp only
  repeat' first
    | with_reducible exact Chg.refl _ _
    | with_reducible assumption
    | with_reducible refine NextChg.actHost ?_
    | with_reducible refine NextChg.act ?_
    | with_reducible refine NextChg.next ?_
    | with_reducible apply State.modBoard_chg hm.le
    | with_reducible apply Chg.ite

theorem State.jtag_chg {m : Nat} (hm : Sub 16777216 m) {s t : State} (h : Chg m s t) (ir : Nat) (dr : List Bool) (pins : Option (List Bool)) (tri : Bool) : Chg m s (State.jtag t ir dr pins tri) := by
  unfold State.jtag
  try dsimp only
  repeat' first
    | with_reducible exact h
    | with_reducible assumption
    | with_reducible apply State.modBoard_chg hm.le

theorem execBypass_chg {m : Nat} (hm : Sub 16777216 m) (s : State) : NextChg m s (execBypass s) := by
  unfold execBypass
  repeat' first
    | with_reducible exact Chg.refl _ _
    | with_reducible assumption
    | with_reducible refine NextChg.actHost ?_
    | with_reducible refine NextChg.act ?_
    | with_reducible refine NextChg.next ?_
    | with_reducible apply State.jtag_chg hm.le

theorem execIdcode_chg {m : Nat} (hm : Sub 50331648 m) (s : State) : NextChg m s (execIdcode s) := by
  unfold execIdcode
  repeat' first
    | with_reducible exact Chg.refl _ _
    | with_reducible assumption
    | with_reducible refine NextChg.actHost ?_
    | with_reducible refine NextChg.act ?_
    | with_reducible refine NextChg.next ?_
    | with_reducible apply State.emit_chg hm.le
    | with_reducible apply State.jtag_chg hm.le

theorem execSamplePreload_chg {m : Nat} (hm : Sub 117440512 m) (s : State) (data : List Bool) : NextChg m s (execSamplePreload data s) := by
  unfold execSamplePreload
  try dsimp only
  repeat' first
    | with_reducible exact Chg.refl _ _
    | with_reducible assumption
    | with_reducible refine NextChg.actHost ?_
    | with_reducible refine NextChg.act ?_
    | with_reducible refine NextChg.next ?_
    | with_reducible apply State.modBoard_chg hm.le
    | with_reducible apply State.drawn_chg hm.le
    | with_reducible apply State.emit_chg hm.le
    | with_reducible apply State.jtag_chg hm.le

theorem execExtest_chg {m : Nat} (hm : Sub 16777216 m) (s : State) : NextChg m s (execExtest s) := by
  unfold execExtest
  repeat' first
    | with_reducible exact Chg.refl _ _
    | with_reducible assumption
    | with_reducible refine NextChg.actHost ?_
    | with_reducible refine NextChg.act ?_
    | with_reducible refine NextChg.next ?_
    | with_reducible apply State.jtag_chg hm.le

theorem execHighz_chg {m : Nat} (hm : Sub 16777216 m) (s : State) : NextChg m s (execHighz s) := by
  unfold execHighz
  repeat' first
    | with_reducible exact Chg.refl _ _
    | with_reducible assumption
    | with_reducible refine NextChg.actHost ?_
    | with_reducible refine NextChg.act ?_
    | with_reducible refine NextChg.next ?_
    | with_reducible apply State.jtag_chg hm.le

theorem execClamp_chg {m : Nat} (hm : Sub 16777216 m) (s : State) : NextChg m s (execClamp s) := by
  unfold execClamp
  repeat' first
    | with_reducible exact Chg.refl _ _
    | with_reducible assumption
    | with_reducible refine NextChg.actHost ?_
    | with_reducible refine NextChg.act ?_
    | with_reducible refine NextChg.next ?_
    | with_reducible apply State.jtag_chg hm.le

end Sys2Proof.Machine
end

