-- ==== Sys2Proof/Laws/ChgTime.lean ====
section
/-!
SUPPORT. ChgTime.lean: the kinds of state that each operation of Time.lean can change; each keeps the invariant.
-/

set_option Elab.async false
namespace Sys2Proof.Machine
open Sys2Proof.Config

theorem TimeBase.jump_ok {t : TimeBase} (m c : Nat) (d : Int) (h : t.Ok) : (t.jump m c d).Ok :=
  ⟨Nat.mod_lt _ (Nat.zero_lt_succ 1023), Nat.mod_lt _ (Nat.two_pow_pos 54), h.2.2⟩

theorem TimeBase.shift_ok {t : TimeBase} (e : Int) (h : t.Ok) : (t.shift e).Ok := by
  unfold TimeBase.shift
  split
  · exact h
  · exact ⟨Nat.mod_lt _ (Nat.zero_lt_succ 1023), Nat.mod_lt _ (Nat.two_pow_pos 54), h.2.2⟩

theorem TimeBase.absorb_ok {t : TimeBase} (d : Int) (h : t.Ok) : (t.absorb d).Ok := by
  unfold TimeBase.absorb
  split
  · exact h
  · exact TimeBase.shift_ok _ h

theorem TimeBase.realign_ok {t : TimeBase} (k : Nat) (d : Int) (h : t.Ok) : (t.realign k d).Ok := by
  unfold TimeBase.realign
  dsimp only
  split
  · exact TimeBase.jump_ok _ _ _ h
  · split
    · exact h
    · exact TimeBase.shift_ok (t := { t with stall := 0 }) _ h

/-- A MARK_SET that is due is the one that waits. -/
theorem State.setDue_some {t : State} {b cid m : Nat} (h : t.setDue b = some (cid, m)) : ∃ x ∈ t.time.setM, x.2.1 = m := by
  unfold State.setDue at h
  split at h
  · rename_i heq
    split at h
    · cases h
      exact ⟨_, heq, rfl⟩
    · cases h
  · cases h

theorem State.timeSoot_chg {m : Nat} (hm : Sub 12582916 m) {s t : State} (h : Chg m s t) (kind : Nat) (detail : List Byte) : Chg m s (State.timeSoot t kind detail) := by
  unfold State.timeSoot
  repeat' first
    | with_reducible exact h
    | with_reducible assumption
    | with_reducible apply State.soot1_chg hm.le

theorem State.enterTime_chg {m : Nat} (hm : Sub 4194308 m) {s t : State} (h : Chg m s t) (st : Nat) : Chg m s (State.enterTime t st) := by
  unfold State.enterTime
  repeat' first
    | with_reducible exact h
    | with_reducible assumption
    | with_reducible apply State.setFld_chg hm.le
    | with_reducible apply State.setEvt_chg hm.le
    | with_reducible apply Chg.ite

theorem State.enterUnfit_chg {m : Nat} (hm : Sub 12582916 m) {s t : State} (h : Chg m s t) (cause : Nat) : Chg m s (State.enterUnfit t cause) := by
  unfold State.enterUnfit
  repeat' first
    | with_reducible exact h
    | with_reducible assumption
    | with_reducible apply State.timeSoot_chg hm.le
    | with_reducible apply State.enterTime_chg hm.le
    | with_reducible apply Chg.ite

theorem State.endHoldover_chg {m : Nat} (hm : Sub 12582918 m) {s t : State} (h : Chg m s t) (d : Int) : Chg m s (State.endHoldover t d) := by
  have h1 : Chg m s { t.setFld F.timeHoldover 0 with time := { t.time with relock := false } } :=
    Chg.time hm.le (State.setFld_chg hm.le h F.timeHoldover 0) { t.time with relock := false } fun i => i
  unfold State.endHoldover
  split
  · dsimp only
    split
    · exact State.timeSoot_chg hm.le (State.enterTime_chg hm.le h1 _) _ _
    · exact h1
  · exact h

theorem State.firstPulse_chg {m : Nat} (hm : Sub 12582918 m) {s t : State} (h : Chg m s t) (d : Int) (k : Nat) :
    Chg m s (State.firstPulse t d k) := by
  unfold State.firstPulse
  refine State.endHoldover_chg hm.le (h.time hm.le _ ?_) _
  exact fun i => TimeBase.jump_ok (t := t.time) t.time.nextCandle k (t.trimStep t.time.nextCandle) i

theorem State.goodPulse_chg {m : Nat} (hm : Sub 12582918 m) {s t : State} (h : Chg m s t) (d : Int) (k : Nat) :
    Chg m s (State.goodPulse t d k) := by
  unfold State.goodPulse
  extract_lets s1 s2
  have h1 : Chg m s s1 := Chg.ite h (State.setFld_chg hm.le h _ _)
  clear_value s1
  have h2 : Chg m s s2 := Chg.ite h1 (State.timeSoot_chg hm.le h1 _ _)
  clear_value s2
  refine State.endHoldover_chg hm.le (h2.time hm.le _ ?_) _
  exact fun i => TimeBase.realign_ok (t := s2.time) k (t.trimStep t.time.nextCandle) i

theorem State.slippedPulse_chg {m : Nat} (hm : Sub 12582918 m) {s t : State} (h : Chg m s t) (d : Int) : Chg m s (State.slippedPulse t d) := by
  unfold State.slippedPulse
  try dsimp only
  repeat' first
    | with_reducible exact h
    | with_reducible assumption
    | with_reducible apply State.setFld_chg hm.le
    | with_reducible apply State.timeSoot_chg hm.le
    | with_reducible apply State.enterUnfit_chg hm.le
    | with_reducible apply Chg.ite
    | split
    | with_reducible refine Chg.mk ?_
    | refine Chg.time hm.le ?_ _ fun i => i

theorem State.pulse_chg {m : Nat} (hm : Sub 12582918 m) {s t : State} (h : Chg m s t) (k : Nat) : Chg m s (State.pulse t k) := by
  unfold State.pulse
  extract_lets d
  exact Chg.ite (State.firstPulse_chg hm.le h _ _) (Chg.ite (State.goodPulse_chg hm.le h _ _) (State.slippedPulse_chg hm.le h _))

theorem State.duePulses_chg {m : Nat} (hm : Sub 12582918 m) {s t : State} (h : Chg m s t) : Chg m s (State.duePulses t) := by
  unfold State.duePulses
  try dsimp only
  repeat' first
    | with_reducible exact h
    | with_reducible assumption
    | with_reducible apply State.pulse_chg hm.le
    | with_reducible apply Chg.ite
    | split
    | with_reducible refine Chg.mk ?_
    | refine Chg.time hm.le ?_ _ fun i => i

theorem execMarksyncPulse_chg {m : Nat} (hm : Sub 12582918 m) (s : State) : NextChg m s (execMarksyncPulse s) := by
  unfold execMarksyncPulse
  repeat' first
    | with_reducible exact Chg.refl _ _
    | with_reducible assumption
    | with_reducible refine NextChg.actHost ?_
    | with_reducible refine NextChg.act ?_
    | with_reducible refine NextChg.next ?_
    | with_reducible apply State.duePulses_chg hm.le
    | with_reducible apply Chg.ite
    | split
    | with_reducible refine Chg.mk ?_
    | refine Chg.time hm.le ?_ _ fun i => i

theorem execMarksyncMiss_chg {m : Nat} (hm : Sub 12582918 m) (s : State) : NextChg m s (execMarksyncMiss s) := by
  unfold execMarksyncMiss
  extract_lets s1
  refine NextChg.act (Chg.ite ?_ (Chg.refl m s))
  have h1 : Chg m s s1 := State.timeSoot_chg hm.le (State.setFld_chg hm.le (Chg.refl m s) _ _) _ _
  clear_value s1
  exact h1.time hm.le _ fun i => TimeBase.jump_ok (t := s1.time) s1.time.nextCandle 512 (s.trimStep s.time.nextCandle) i

theorem State.markSetLoad_chg {m : Nat} (hm : Sub 37749310 m) {s t : State} (h : Chg m s t) (cid k : Nat)
    (hk : ∃ x ∈ t.time.setM, x.2.1 = k) : Chg m s (State.markSetLoad t cid k) := by
  unfold State.markSetLoad
  extract_lets e b s1 s2 s3 r u
  have h1 : Chg m s s1 := State.setFld_chg hm.le h _ _
  have hb : s1.time = b := rfl
  clear_value s1
  have h2 : Chg m s s2 := h1.time hm.le _ fun i => by
    rw [hb] at i
    obtain ⟨x, hx, rfl⟩ := hk
    exact ⟨Nat.zero_lt_succ _, i.2.2 x hx, fun y hy => by cases hy⟩
  clear_value s2
  have h3 : Chg m s s3 := State.finish_chg hm.le (State.enterTime_chg hm.le h2 _) _ _ _ _
  clear_value s3
  have hu : s.Inv → u.Ok := fun i => ⟨(h.2 i).cyc, Nat.mod_lt _ (Nat.two_pow_pos 54), (h3.2 i).setM⟩
  clear_value u
  exact h3.timeOf hm.le _ fun i => TimeBase.absorb_ok _ (hu i)

theorem State.trimAdjust_chg {m : Nat} (hm : Sub 6 m) {s t : State} (h : Chg m s t) : Chg m s (State.trimAdjust t) := by
  unfold State.trimAdjust
  extract_lets d s1
  refine Chg.ite h ?_
  have h1 : Chg m s s1 := State.setFld_chg hm.le h _ _
  clear_value s1
  exact h1.time hm.le _ fun i => TimeBase.absorb_ok _ i

theorem State.alignBoundary_chg {m : Nat} (hm : Sub 37749310 m) {s t : State} (h : Chg m s t) : Chg m s (State.alignBoundary t) := by
  unfold State.alignBoundary
  split
  · rename_i heq
    exact State.markSetLoad_chg hm.le h _ _ (State.setDue_some heq)
  · exact State.trimAdjust_chg hm.le h

theorem State.candleRelock_chg {m : Nat} (hm : Sub 12582916 m) {s t : State} (h : Chg m s t) : Chg m s (State.candleRelock t) := by
  unfold State.candleRelock
  repeat' first
    | with_reducible exact h
    | with_reducible assumption
    | with_reducible apply State.setFld_chg hm.le
    | with_reducible apply State.timeSoot_chg hm.le
    | with_reducible apply State.enterTime_chg hm.le
    | with_reducible apply Chg.ite

theorem State.pulseJudge_chg {m : Nat} (hm : Sub 12582918 m) {s t : State} (h : Chg m s t) : Chg m s (State.pulseJudge t) := by
  unfold State.pulseJudge
  try dsimp only
  repeat' first
    | with_reducible exact h
    | with_reducible assumption
    | with_reducible apply State.modTime_chg hm.le
    | with_reducible apply State.enterUnfit_chg hm.le
    | with_reducible apply State.candleRelock_chg hm.le
    | with_reducible apply Chg.ite
    | split
    | exact fun _ i => i

theorem State.countDown_chg {m : Nat} (hm : Sub 4 m) {s t : State} (h : Chg m s t) (n : Nat) : Chg m s (State.countDown t n) := by
  unfold State.countDown
  repeat' first
    | with_reducible exact h
    | with_reducible assumption
    | with_reducible apply State.setFld_chg hm.le

theorem State.memTemps_chg {m : Nat} (hm : Sub 12583428 m) {s : State} (p : Nat) : ∀ (k : Nat) (l : List Nat) {t : State}, Chg m s t →
    Chg m s (State.memTemps t p k l)
  | _, [], _, h => h
  | k, x :: r, t, h => by
    unfold State.memTemps
    have h1 := State.setFld_chg hm.le h (F.thermMem p k) x
    exact State.memTemps_chg hm.le p _ r (Chg.ite (State.triggerReset_chg hm.le (State.soot1_chg hm.le h1 _ _ _ _ _ _) _ _) h1)

theorem State.factorApply_chg {m : Nat} (hm : Sub 4 m) {s t : State} (h : Chg m s t) (p : Nat) : Chg m s (State.factorApply t p) := by
  unfold State.factorApply
  repeat' first
    | with_reducible exact h
    | with_reducible assumption
    | with_reducible apply State.setFld_chg hm.le
    | with_reducible apply Chg.ite

theorem State.retryDown_chg {m : Nat} (hm : Sub 2097152 m) {s t : State} (h : Chg m s t) (k : Nat) : Chg m s (State.retryDown t k) := by
  unfold State.retryDown
  repeat' first
    | with_reducible exact h
    | with_reducible assumption
    | with_reducible apply State.setLink_chg hm.le
    | with_reducible apply Chg.ite

theorem execCandleBoundary_chg {m : Nat} (hm : Sub 65013310 m) (s : State) (temps : List Nat) : NextChg m s (execCandleBoundary temps s) := by
  unfold execCandleBoundary
  refine NextChg.act (Chg.ite ?_ (Chg.refl m s))
  extract_lets r0 s0 s2 s3 s4 s5 s6 s7 s8
  have h0 : Chg m s s0 := (Chg.refl m s).time hm.le _ fun i => i
  clear_value s0
  have h2 : Chg m s s2 := State.pulseJudge_chg hm.le (State.alignBoundary_chg hm.le h0)
  clear_value s2
  have h3 : Chg m s s3 := Chg.foldl _ (fun a p ha => State.factorApply_chg hm.le ha p) _ h2
  clear_value s3
  have h4 : Chg m s s4 := State.modBoard_chg hm.le h3 _
  clear_value s4
  have h5 : Chg m s s5 := State.countDown_chg hm.le (State.countDown_chg hm.le h4 _) _
  clear_value s5
  have h6 : Chg m s s6 := Chg.foldl _ (fun a p ha => State.memTemps_chg hm.le p _ _ ha) _ h5
  clear_value s6
  have h7 : Chg m s s7 := Chg.foldl _ (fun a p ha => State.setFld_chg hm.le ha _ _) _ h6
  clear_value s7
  have h8 : Chg m s s8 := by
    refine h7.clusters hm.le _ fun i => ?_
    have hf : ∀ (l : List Nat) (c : List (Nat × Cluster)), twf Cluster.dflt c = true →
        twf Cluster.dflt (l.foldl (fun c i =>
          tset Cluster.dflt c i { tget Cluster.dflt c i with freezes := 0 }) c) = true := by
      intro l
      induction l with
      | nil => exact fun _ hc => hc
      | cons k l ih => exact fun c hc => ih _ (twf_tset _ _ _ hc)
    exact hf _ _ i
  clear_value s8
  exact Chg.foldl _ (fun a p ha => State.retryDown_chg hm.le ha p) _ h8

theorem execMarkrefLoss_chg {m : Nat} (hm : Sub 12582918 m) (s : State) : NextChg m s (execMarkrefLoss s) := by
  unfold execMarkrefLoss
  refine NextChg.act (Chg.ite ?_ (Chg.refl m s))
  extract_lets r0 s0 s1 s2
  have h0 : Chg m s s0 := (Chg.refl m s).time hm.le _ fun i => i
  clear_value s0
  have h2 : Chg m s s2 := State.raise_chg hm.le (State.timeSoot_chg hm.le (State.setFld_chg hm.le (State.setFld_chg hm.le h0 _ _) _ _) _ _) _
  clear_value s2
  refine Chg.ite ((State.enterTime_chg hm.le h2 _).timeOf hm.le _ ?_) h2
  exact fun i => (h2.2 i).ok

theorem execMarkrefLock_chg {m : Nat} (hm : Sub 6 m) (s : State) : NextChg m s (execMarkrefLock s) := by
  unfold execMarkrefLock
  repeat' first
    | with_reducible exact Chg.refl _ _
    | with_reducible assumption
    | with_reducible refine NextChg.actHost ?_
    | with_reducible refine NextChg.act ?_
    | with_reducible refine NextChg.next ?_
    | with_reducible apply State.setFld_chg hm.le
    | with_reducible apply Chg.ite
    | split
    | with_reducible refine Chg.mk ?_
    | refine Chg.time hm.le ?_ _ fun i => i

theorem execHoldoverExpiry_chg {m : Nat} (hm : Sub 12582916 m) (s : State) : NextChg m s (execHoldoverExpiry s) := by
  unfold execHoldoverExpiry
  repeat' first
    | with_reducible exact Chg.refl _ _
    | with_reducible assumption
    | with_reducible refine NextChg.actHost ?_
    | with_reducible refine NextChg.act ?_
    | with_reducible refine NextChg.next ?_
    | with_reducible apply State.enterUnfit_chg hm.le
    | with_reducible apply Chg.ite

theorem execBeaconSend_chg {m : Nat} (hm : Sub 35651584 m) (s : State) (k : Nat) : NextChg m s (execBeaconSend k s) := by
  unfold execBeaconSend
  try dsimp only
  repeat' first
    | with_reducible exact Chg.refl _ _
    | with_reducible assumption
    | with_reducible refine NextChg.actHost ?_
    | with_reducible refine NextChg.act ?_
    | with_reducible refine NextChg.next ?_
    | with_reducible apply State.setLink_chg hm.le
    | with_reducible apply State.queueMsg_chg hm.le
    | with_reducible apply Chg.ite

theorem State.measure_chg {m : Nat} (hm : Sub 12582918 m) {s t : State} (h : Chg m s t) (e : Int) : Chg m s (State.measure t e) := by
  unfold State.measure
  try dsimp only
  repeat' first
    | with_reducible exact h
    | with_reducible assumption
    | with_reducible apply State.setFld_chg hm.le
    | with_reducible apply State.enterUnfit_chg hm.le
    | with_reducible refine Chg.foldl _ ?_ _ ?_
    | with_reducible refine Chg.foldlFst _ ?_ _ ?_
    | with_reducible apply Chg.ite
    | split
    | intro _ _ _
    | with_reducible refine Chg.mk ?_
    | refine Chg.time hm.le ?_ _ fun i => i

theorem execBeacon_chg {m : Nat} (hm : Sub 14680070 m) (s : State) (k : Nat) (msg : List Byte) : NextChg m s (execBeacon k msg s) := by
  unfold execBeacon
  try dsimp only
  repeat' first
    | with_reducible exact Chg.refl _ _
    | with_reducible assumption
    | with_reducible refine NextChg.actHost ?_
    | with_reducible refine NextChg.act ?_
    | with_reducible refine NextChg.next ?_
    | with_reducible apply State.setFld_chg hm.le
    | with_reducible apply State.setLink_chg hm.le
    | with_reducible apply State.measure_chg hm.le
    | with_reducible apply Chg.ite

theorem execTimeUpstreamWrite_chg {m : Nat} (hm : Sub 6 m) (s : State) (port : Nat) (v : Word32) : NextChg m s (execTimeUpstreamWrite port v s) := by
  unfold execTimeUpstreamWrite
  try dsimp only
  repeat' first
    | with_reducible exact Chg.refl _ _
    | with_reducible assumption
    | with_reducible refine NextChg.actHost ?_
    | with_reducible refine NextChg.act ?_
    | with_reducible refine NextChg.next ?_
    | with_reducible apply State.setFld_chg hm.le
    | with_reducible apply Chg.ite
    | split
    | with_reducible refine Chg.mk ?_
    | refine Chg.time hm.le ?_ _ fun i => i

theorem execSync_chg {m : Nat} (hm : Sub 2 m) (s : State) (k : Nat) (domain : Nat) (seq : Nat) (master : Nat) : NextChg m s (execSync k domain seq master s) := by
  unfold execSync
  repeat' first
    | with_reducible exact Chg.refl _ _
    | with_reducible assumption
    | with_reducible refine NextChg.actHost ?_
    | with_reducible refine NextChg.act ?_
    | with_reducible refine NextChg.next ?_
    | with_reducible apply Chg.ite
    | split
    | with_reducible refine Chg.mk ?_
    | refine Chg.time hm.le ?_ _ fun i => i

theorem execFollowUp_chg {m : Nat} (hm : Sub 33554434 m) (s : State) (k : Nat) (domain : Nat) (seq : Nat) (master : Nat) (t1 : Nat) : NextChg m s (execFollowUp k domain seq master t1 s) := by
  unfold execFollowUp
  try dsimp only
  repeat' first
    | with_reducible exact Chg.refl _ _
    | with_reducible assumption
    | with_reducible refine NextChg.actHost ?_
    | with_reducible refine NextChg.act ?_
    | with_reducible refine NextChg.next ?_
    | with_reducible apply State.emit_chg hm.le
    | with_reducible apply Chg.ite
    | split
    | with_reducible refine Chg.mk ?_
    | refine Chg.time hm.le ?_ _ fun i => i

theorem execDelayResp_chg {m : Nat} (hm : Sub 12582918 m) (s : State) (k : Nat) (domain : Nat) (seq : Nat) (master : Nat) (t4 : Nat) : NextChg m s (execDelayResp k domain seq master t4 s) := by
  unfold execDelayResp
  try dsimp only
  repeat' first
    | with_reducible exact Chg.refl _ _
    | with_reducible assumption
    | with_reducible refine NextChg.actHost ?_
    | with_reducible refine NextChg.act ?_
    | with_reducible refine NextChg.next ?_
    | with_reducible apply State.measure_chg hm.le
    | with_reducible apply Chg.ite
    | split
    | with_reducible refine Chg.mk ?_
    | refine Chg.time hm.le ?_ _ fun i => i

theorem execAnnounce_chg {m : Nat} (hm : Sub 0 m) (s : State) (_k : Nat) (_domain : Nat) (_master : Nat) : NextChg m s (execAnnounce _k _domain _master s) := by
  unfold execAnnounce
  repeat' first
    | with_reducible exact Chg.refl _ _
    | with_reducible assumption
    | with_reducible refine NextChg.actHost ?_
    | with_reducible refine NextChg.act ?_
    | with_reducible refine NextChg.next ?_

end Sys2Proof.Machine
end

