-- ==== Sys2Proof/Laws/ChgIdle.lean ====
section
/-!
SUPPORT. ChgIdle.lean: the kinds of state that each operation of Idle.lean can change; each keeps the invariant.
-/

set_option Elab.async false
namespace Sys2Proof.Machine
open Sys2Proof.Config

theorem State.idle_chg {m : Nat} (hm : Sub 133348926 m) {s t : State} (h : Chg m s t) : Chg m s (State.idle t) := by
  unfold State.idle
  repeat' first
    | with_reducible exact h
    | with_reducible assumption
    | with_reducible apply State.signalDue_chg hm.le
    | with_reducible apply State.pollSteps_chg hm.le
    | with_reducible apply State.serveAgents_chg hm.le
    | with_reducible apply State.dmaCycle_chg hm.le
    | with_reducible apply State.serveQueues_chg hm.le
    | with_reducible apply State.latchChecks_chg hm.le
    | with_reducible apply State.dueReplays_chg hm.le
    | with_reducible apply State.dueCancels_chg hm.le
    | with_reducible apply State.idleFlits_chg hm.le
    | with_reducible apply State.latchFlue_chg hm.le
    | with_reducible apply State.dueCaptures_chg hm.le
    | with_reducible apply State.dueTeardowns_chg hm.le
    | with_reducible apply State.dueHandovers_chg hm.le
    | with_reducible apply State.capDue_chg hm.le
    | with_reducible apply State.tick_chg hm.le
    | with_reducible apply State.duePulses_chg hm.le
    | with_reducible apply State.matrixCycle_chg hm.le
    | with_reducible apply Chg.ite

end Sys2Proof.Machine
end

