-- ==== Sys2Proof/Laws/ChgImageCodec.lean ====
section
/-!
SUPPORT. ChgImageCodec.lean: the kinds of state that each operation of ImageCodec.lean can change; each keeps the invariant.
-/

set_option Elab.async false
namespace Sys2Proof.Machine
open Sys2Proof.Config

theorem State.reopen_chg {m : Nat} (hm : Sub 33579008 m) {s t : State} (h : Chg m s t) (t_ : Nat) (e : Nat × Nat × Nat × Nat × Nat × Option (List Byte)) : Chg m s (State.reopen t t_ e) := by
  unfold State.reopen
  try dsimp only
  repeat' first
    | with_reducible exact h
    | with_reducible assumption
    | with_reducible apply State.fromHost_chg hm.le
    | split
    | with_reducible refine Chg.mk ?_

theorem State.requeue_chg {m : Nat} (hm : Sub 25600 m) {s t : State} (h : Chg m s t) (t_ : Nat) (e : SavedDesc) : Chg m s (State.requeue t t_ e) := by
  unfold State.requeue
  try dsimp only
  repeat' first
    | with_reducible exact h
    | with_reducible assumption
    | with_reducible apply State.setChannel_chg hm.le
    | with_reducible refine Chg.mk ?_

theorem State.takeTile_chg {m : Nat} (hm : Sub 33586176 m) {s t : State} (h : Chg m s t) (i k : Nat) (owner : Nat → Owner) (b : List Byte) :
    Chg m s (State.takeTile t i k owner b) := by
  unfold State.takeTile
  generalize takeMany takeBank 8 (b.drop 33) = r1
  obtain ⟨banks, b1⟩ := r1
  generalize hr : takeMany (takeThread i owner) 16 b1 = r2
  obtain ⟨ths, b2⟩ := r2
  simp only [hr]
  generalize take1 2 b2 = r3
  obtain ⟨n, b3⟩ := r3
  generalize hr4 : takeMany takeDesc (Nat.min n 64) b3 = r4
  obtain ⟨ds, b4⟩ := r4
  simp only [hr4]
  generalize take1 1 b4 = r5
  obtain ⟨k5, b5⟩ := r5
  generalize hr6 : takeMany takeLoad (Nat.min k5 64) b5 = r6
  obtain ⟨gs, b6⟩ := r6
  simp only [hr6]
  refine Chg.foldl _ ?_ _ (Chg.foldl _ ?_ _ (Chg.foldl _ ?_ _ (State.setTile_chg hm.le h _ _)))
  · intro a x ha
    exact State.reopen_chg hm.le ha _ _
  · intro a x ha
    exact State.requeue_chg hm.le ha _ _
  · intro a x ha
    split
    · exact State.setThread_chg hm.le ha _ _
    · exact ha

end Sys2Proof.Machine
end

