-- ==== Sys2Proof/Laws/ChgImages.lean ====
section
/-!
SUPPORT. ChgImages.lean: the kinds of state that each operation of Images.lean can change; each keeps the invariant.
-/

set_option Elab.async false
namespace Sys2Proof.Machine
open Sys2Proof.Config

theorem execCtxSave_chg {m : Nat} (hm : Sub 32 m) (s : State) (n : Nat) : NextChg m s (execCtxSave n s) := by
  unfold execCtxSave
  try dsimp only
  repeat' first
    | with_reducible exact Chg.refl _ _
    | with_reducible assumption
    | with_reducible refine NextChg.actHost ?_
    | with_reducible refine NextChg.act ?_
    | with_reducible refine NextChg.next ?_
    | with_reducible apply State.modCmd_chg hm.le
    | with_reducible apply State.settle_chg hm.le
    | split
    | intro _

theorem execCtxRestore_chg {m : Nat} (hm : Sub 32 m) (s : State) (n : Nat) : NextChg m s (execCtxRestore n s) := by
  unfold execCtxRestore
  try dsimp only
  repeat' first
    | with_reducible exact Chg.refl _ _
    | with_reducible assumption
    | with_reducible refine NextChg.actHost ?_
    | with_reducible refine NextChg.act ?_
    | with_reducible refine NextChg.next ?_
    | with_reducible apply State.modCmd_chg hm.le
    | with_reducible apply State.settle_chg hm.le
    | split
    | intro _

theorem State.dropWork_chg {m : Nat} (hm : Sub 98824 m) {s t : State} (h : Chg m s t) (w : Work) (lo : Nat) : Chg m s (State.dropWork t w lo) := by
  unfold State.dropWork
  try dsimp only
  repeat' first
    | with_reducible exact h
    | with_reducible assumption
    | with_reducible apply State.undoCopy_chg hm.le
    | with_reducible apply State.dropShared_chg hm.le
    | with_reducible apply State.rollback_chg hm.le
    | with_reducible apply State.replaceChunks_chg hm.le
    | with_reducible apply Chg.ite
    | split

theorem State.suspend_chg {m : Nat} (hm : Sub 98828 m) {s t : State} (h : Chg m s t) (n : Nat) : Chg m s (State.suspend t n) := by
  unfold State.suspend
  try dsimp only
  repeat' first
    | with_reducible exact h
    | with_reducible assumption
    | with_reducible apply State.setEntry_chg hm.le
    | with_reducible apply State.modPart_chg hm.le
    | with_reducible apply State.syncKv_chg hm.le
    | with_reducible apply State.dropWork_chg hm.le
    | with_reducible refine Chg.foldl _ ?_ _ ?_
    | with_reducible refine Chg.foldlFst _ ?_ _ ?_
    | with_reducible apply Chg.ite
    | split
    | intro _ _ _

theorem State.freezeCtx_chg {m : Nat} (hm : Sub 4096 m) {s t : State} (h : Chg m s t) (n : Nat) : Chg m s (State.freezeCtx t n) := by
  unfold State.freezeCtx
  try dsimp only
  repeat' first
    | with_reducible exact h
    | with_reducible assumption
    | with_reducible apply State.modThread_chg hm.le
    | with_reducible refine Chg.foldl _ ?_ _ ?_
    | with_reducible refine Chg.foldlFst _ ?_ _ ?_
    | intro _ _ _

theorem State.thawCtx_chg {m : Nat} (hm : Sub 4096 m) {s t : State} (h : Chg m s t) (n : Nat) (c : Nat) : Chg m s (State.thawCtx t n c) := by
  unfold State.thawCtx
  try dsimp only
  repeat' first
    | with_reducible exact h
    | with_reducible assumption
    | with_reducible apply State.modThread_chg hm.le
    | with_reducible refine Chg.foldl _ ?_ _ ?_
    | with_reducible refine Chg.foldlFst _ ?_ _ ?_
    | with_reducible apply Chg.ite
    | split
    | intro _ _ _

theorem execSaveStart_chg {m : Nat} (hm : Sub 33657404 m) (s : State) (cid : Nat) : NextChg m s (execSaveStart cid s) := by
  unfold execSaveStart
  try dsimp only
  repeat' first
    | with_reducible exact Chg.refl _ _
    | with_reducible assumption
    | with_reducible refine NextChg.actHost ?_
    | with_reducible refine NextChg.act ?_
    | with_reducible refine NextChg.next ?_
    | with_reducible apply State.writeVirt_chg hm.le
    | with_reducible apply State.setCstate_chg hm.le
    | with_reducible apply State.releaseQueue_chg hm.le
    | with_reducible apply State.modCmd_chg hm.le
    | with_reducible apply State.dueCaptures_chg hm.le
    | with_reducible apply State.suspend_chg hm.le
    | with_reducible apply State.freezeCtx_chg hm.le
    | with_reducible refine Chg.foldl _ ?_ _ ?_
    | with_reducible refine Chg.foldlFst _ ?_ _ ?_
    | with_reducible apply Chg.ite
    | split
    | intro _ _ _

theorem State.moveOut_chg {m : Nat} (hm : Sub 520 m) {s t : State} (h : Chg m s t) (p n pa va len : Nat) :
    Chg m s (State.moveOut t p n pa va len) := by
  refine Chg.foldlFst _ ?_ _ h
  intro a x ha
  dsimp only
  split
  · exact State.noteAgent_chg hm.le (State.l2Use_chg hm.le (ha.mem hm.le _ (copyRange_wf _ _ _ _)) _ _) _
  · exact ha

theorem State.moveIn_chg {m : Nat} (hm : Sub 520 m) {s t : State} (h : Chg m s t) (p n pa va len : Nat) :
    Chg m s (State.moveIn t p n pa va len) := by
  refine Chg.foldlFst _ ?_ _ h
  intro a x ha
  dsimp only
  split
  · exact State.l2Use_chg hm.le (ha.mem hm.le _ (copyRange_wf _ _ _ _)) _ _
  · exact ha

theorem State.saveTile_chg {m : Nat} (hm : Sub 33554952 m) {s t : State} (h : Chg m s t) (c : Cmd) (t_ : Nat) (va : Nat) : Chg m s (State.saveTile t c t_ va) := by
  unfold State.saveTile
  try dsimp only
  repeat' first
    | with_reducible exact h
    | with_reducible assumption
    | with_reducible apply State.writeVirt_chg hm.le
    | with_reducible apply State.moveOut_chg hm.le

theorem execSaveComplete_chg {m : Nat} (hm : Sub 37753404 m) (s : State) (cid : Nat) : NextChg m s (execSaveComplete cid s) := by
  unfold execSaveComplete
  try dsimp only
  repeat' first
    | with_reducible exact Chg.refl _ _
    | with_reducible assumption
    | with_reducible refine NextChg.actHost ?_
    | with_reducible refine NextChg.act ?_
    | with_reducible refine NextChg.next ?_
    | with_reducible apply State.setCstate_chg hm.le
    | with_reducible apply State.finish_chg hm.le
    | with_reducible apply State.thawCtx_chg hm.le
    | with_reducible apply State.saveTile_chg hm.le
    | with_reducible refine Chg.foldl _ ?_ _ ?_
    | with_reducible refine Chg.foldlFst _ ?_ _ ?_
    | with_reducible apply Chg.ite
    | split
    | intro _ _ _

theorem State.restoreSpares_chg {m : Nat} (hm : Sub 16778244 m) {s t : State} (h : Chg m s t) (c : Cmd) : Chg m s (State.restoreSpares t c) := by
  unfold State.restoreSpares
  try dsimp only
  repeat' first
    | with_reducible exact h
    | with_reducible assumption
    | with_reducible apply State.takeSpares_chg hm.le
    | with_reducible apply State.showClusters_chg hm.le
    | with_reducible refine Chg.foldl _ ?_ _ ?_
    | with_reducible refine Chg.foldlFst _ ?_ _ ?_
    | with_reducible apply Chg.ite
    | split
    | intro _ _ _

theorem execRestoreStart_chg {m : Nat} (hm : Sub 16778788 m) (s : State) (cid : Nat) : NextChg m s (execRestoreStart cid s) := by
  unfold execRestoreStart
  try dsimp only
  repeat' first
    | with_reducible exact Chg.refl _ _
    | with_reducible assumption
    | with_reducible refine NextChg.actHost ?_
    | with_reducible refine NextChg.act ?_
    | with_reducible refine NextChg.next ?_
    | with_reducible apply State.modCmd_chg hm.le
    | with_reducible apply State.dueCaptures_chg hm.le
    | with_reducible apply State.restoreSpares_chg hm.le
    | with_reducible apply Chg.ite
    | split

theorem State.restoreRegs_chg {m : Nat} (hm : Sub 516 m) {s t : State} (h : Chg m s t) (c : Cmd) : Chg m s (State.restoreRegs t c) := by
  unfold State.restoreRegs
  try dsimp only
  repeat' first
    | with_reducible exact h
    | with_reducible assumption
    | with_reducible apply State.setReg_chg hm.le
    | with_reducible apply State.setFld_chg hm.le
    | with_reducible apply State.setHistory_chg hm.le
    | with_reducible refine Chg.foldl _ ?_ _ ?_
    | with_reducible refine Chg.foldlFst _ ?_ _ ?_
    | intro _ _ _

theorem State.passPages_chg {m : Nat} (hm : Sub 520 m) {s t : State} (h : Chg m s t) (e : Nat) (old : Nat) (new : Nat) : Chg m s (State.passPages t e old new) := by
  unfold State.passPages
  try dsimp only
  repeat' first
    | with_reducible exact h
    | with_reducible assumption
    | with_reducible apply State.setPg_chg hm.le
    | with_reducible refine Chg.foldl _ ?_ _ ?_
    | with_reducible refine Chg.foldlFst _ ?_ _ ?_
    | with_reducible apply Chg.ite
    | split
    | intro _ _ _

theorem State.passSample_chg {m : Nat} (hm : Sub 98840 m) {s t : State} (h : Chg m s t) (n : Nat) (e : Nat) (gen : Nat) : Chg m s (State.passSample t n e gen) := by
  unfold State.passSample
  try dsimp only
  repeat' first
    | with_reducible exact h
    | with_reducible assumption
    | with_reducible apply State.setEntry_chg hm.le
    | with_reducible apply State.modReq_chg hm.le
    | with_reducible apply State.reserveEm_chg hm.le
    | with_reducible apply State.releaseEm_chg hm.le
    | with_reducible apply State.passPages_chg hm.le
    | with_reducible apply Chg.ite

theorem State.restoreSamples_chg {m : Nat} (hm : Sub 98840 m) {s t : State} (h : Chg m s t) (c : Cmd) : Chg m s (State.restoreSamples t c) := by
  unfold State.restoreSamples
  try dsimp only
  repeat' first
    | with_reducible exact h
    | with_reducible assumption
    | with_reducible apply State.passSample_chg hm.le
    | with_reducible refine Chg.foldl _ ?_ _ ?_
    | with_reducible refine Chg.foldlFst _ ?_ _ ?_
    | with_reducible apply Chg.ite
    | split
    | intro _ _ _

theorem State.takeShare_chg {m : Nat} (hm : Sub 46268940 m) {s t : State} (h : Chg m s t) (c : Cmd) (first : Nat) (j : Nat) (p : Nat) (m_ : Meet) : Chg m s (State.takeShare t c first j p m_) := by
  unfold State.takeShare
  try dsimp only
  repeat' first
    | with_reducible exact h
    | with_reducible assumption
    | with_reducible apply State.setFld_chg hm.le
    | with_reducible apply State.modPart_chg hm.le
    | with_reducible apply State.modStep_chg hm.le
    | with_reducible apply State.setStepFlag_chg hm.le
    | with_reducible apply State.tabReads_chg hm.le
    | with_reducible apply Chg.ite
    | split

theorem State.restorePart_chg {m : Nat} (hm : Sub 46300684 m) {s t : State} (h : Chg m s t) (c : Cmd) (first : Nat) (j : Nat) (p : Nat) (m_ : Meet) : Chg m s (State.restorePart t c first j p m_) := by
  unfold State.restorePart
  try dsimp only
  repeat' first
    | with_reducible exact h
    | with_reducible assumption
    | with_reducible apply State.takeTile_chg hm.le
    | with_reducible apply State.moveIn_chg hm.le
    | with_reducible apply State.takeShare_chg hm.le
    | with_reducible refine Chg.foldl _ ?_ _ ?_
    | with_reducible refine Chg.foldlFst _ ?_ _ ?_
    | with_reducible apply Chg.ite
    | split
    | intro _ _ _

theorem State.restoreSteps_chg {m : Nat} (hm : Sub 46300796 m) {s t : State} (h : Chg m s t) (c : Cmd) (meets : List (Nat × Meet)) :
    Chg m s (State.restoreSteps t c meets) := by
  unfold State.restoreSteps
  extract_lets first k ds s1 s2
  refine Chg.ite ?_ h
  have h1 : Chg m s s1 := Chg.mk h (e5 := .inr (hm.bit (by decide))) (e6 := .inr (hm.bit (by decide)))
    (e17 := .inr (hm.bit (by decide)))
  clear_value s1
  refine Chg.foldl _ ?_ _ (State.modCtx_chg hm.le h1 _ _)
  intro a e ha
  exact State.restorePart_chg hm.le ha _ _ _ _ _

theorem State.imageReads_chg {m : Nat} (hm : Sub 46137860 m) {s t : State} (h : Chg m s t) (c : Cmd) (meets : List (Nat × Meet)) : Chg m s (State.imageReads t c meets) := by
  unfold State.imageReads
  try dsimp only
  repeat' first
    | with_reducible exact h
    | with_reducible assumption
    | with_reducible apply State.readMeets_chg hm.le
    | with_reducible refine Chg.foldl _ ?_ _ ?_
    | with_reducible refine Chg.foldlFst _ ?_ _ ?_
    | intro _ _ _

theorem execRestoreComplete_chg {m : Nat} (hm : Sub 46399100 m) (s : State) (cid : Nat) (meets : List (Nat × Meet)) : NextChg m s (execRestoreComplete cid meets s) := by
  unfold execRestoreComplete
  try dsimp only
  repeat' first
    | with_reducible exact Chg.refl _ _
    | with_reducible assumption
    | with_reducible refine NextChg.actHost ?_
    | with_reducible refine NextChg.act ?_
    | with_reducible refine NextChg.next ?_
    | with_reducible apply State.finish_chg hm.le
    | with_reducible apply State.restoreRegs_chg hm.le
    | with_reducible apply State.restoreSamples_chg hm.le
    | with_reducible apply State.restoreSteps_chg hm.le
    | with_reducible apply State.imageReads_chg hm.le
    | with_reducible apply Chg.ite
    | split

theorem State.resumeStep_chg {m : Nat} (hm : Sub 136192 m) {s t : State} (h : Chg m s t) (t_ : Step) : Chg m s (State.resumeStep t t_) := by
  unfold State.resumeStep
  try dsimp only
  repeat' first
    | with_reducible exact h
    | with_reducible assumption
    | with_reducible apply State.setCluster_chg hm.le
    | with_reducible apply State.modThread_chg hm.le
    | with_reducible apply State.modStep_chg hm.le
    | with_reducible refine Chg.foldl _ ?_ _ ?_
    | with_reducible refine Chg.foldlFst _ ?_ _ ?_
    | with_reducible apply Chg.ite
    | split
    | intro _ _ _

theorem State.tiedReads_chg {m : Nat} (hm : Sub 46268940 m) {s t : State} (h : Chg m s t) (t_ : Step) (meets : List (Nat × Meet)) : Chg m s (State.tiedReads t t_ meets) := by
  unfold State.tiedReads
  try dsimp only
  repeat' first
    | with_reducible exact h
    | with_reducible assumption
    | with_reducible apply State.modStep_chg hm.le
    | with_reducible apply State.setStepFlag_chg hm.le
    | with_reducible apply State.readMeets_chg hm.le
    | with_reducible refine Chg.foldl _ ?_ _ ?_
    | with_reducible refine Chg.foldlFst _ ?_ _ ?_
    | with_reducible apply Chg.ite
    | split
    | intro _ _ _

theorem State.resumeOne_chg {m : Nat} (hm : Sub 114431548 m) {s t : State} (h : Chg m s t) (cid : Nat) (meets : List (Nat × Meet)) : Chg m s (State.resumeOne t cid meets) := by
  unfold State.resumeOne
  try dsimp only
  repeat' first
    | with_reducible exact h
    | with_reducible assumption
    | with_reducible apply State.abortWith_chg hm.le
    | with_reducible apply State.restartNeeded_chg hm.le
    | with_reducible apply State.resumeStep_chg hm.le
    | with_reducible apply State.tiedReads_chg hm.le
    | with_reducible apply Chg.ite
    | split

theorem execRestoredStepResume_chg {m : Nat} (hm : Sub 114431548 m) (s : State) (n : Nat) (meets : List (Nat × Meet)) : NextChg m s (execRestoredStepResume n meets s) := by
  unfold execRestoredStepResume
  try dsimp only
  repeat' first
    | with_reducible exact Chg.refl _ _
    | with_reducible assumption
    | with_reducible refine NextChg.actHost ?_
    | with_reducible refine NextChg.act ?_
    | with_reducible refine NextChg.next ?_
    | with_reducible apply State.modCtx_chg hm.le
    | with_reducible apply State.resumeOne_chg hm.le
    | with_reducible refine Chg.foldl _ ?_ _ ?_
    | with_reducible refine Chg.foldlFst _ ?_ _ ?_
    | with_reducible apply Chg.ite
    | split
    | intro _ _ _

end Sys2Proof.Machine
end

