-- ==== Sys2Proof/Laws/ChgReads.lean ====
section
/-!
SUPPORT. ChgReads.lean: the kinds of state that each operation of Reads.lean can change; each keeps the invariant.
-/

set_option Elab.async false
namespace Sys2Proof.Machine
open Sys2Proof.Config

theorem State.runReader_chg {m : Nat} (hm : Sub 113409596 m) {s t : State} (h : Chg m s t) (t_ : Nat) (cls : Nat) (op : Nat) : Chg m s (State.runReader t t_ cls op) := by
  unfold State.runReader
  repeat' first
    | with_reducible exact h
    | with_reducible assumption
    | with_reducible apply State.runIns_chg hm.le
    | with_reducible apply State.settleWrites_chg hm.le

theorem execLd_chg {m : Nat} (hm : Sub 113409596 m) (s : State) (t_ : Nat) : NextChg m s (execLd t_ s) := by
  unfold execLd
  repeat' first
    | with_reducible exact Chg.refl _ _
    | with_reducible assumption
    | with_reducible refine NextChg.actHost ?_
    | with_reducible refine NextChg.act ?_
    | with_reducible refine NextChg.next ?_
    | with_reducible apply State.runReader_chg hm.le

theorem execVld_chg {m : Nat} (hm : Sub 113409596 m) (s : State) (t_ : Nat) : NextChg m s (execVld t_ s) := by
  unfold execVld
  repeat' first
    | with_reducible exact Chg.refl _ _
    | with_reducible assumption
    | with_reducible refine NextChg.actHost ?_
    | with_reducible refine NextChg.act ?_
    | with_reducible refine NextChg.next ?_
    | with_reducible apply State.runReader_chg hm.le

theorem execGst_chg {m : Nat} (hm : Sub 113409596 m) (s : State) (t_ : Nat) (retries : Nat) : NextChg m s (execGst t_ retries s) := by
  unfold execGst
  try dsimp only
  repeat' first
    | with_reducible exact Chg.refl _ _
    | with_reducible assumption
    | with_reducible refine NextChg.actHost ?_
    | with_reducible refine NextChg.act ?_
    | with_reducible refine NextChg.next ?_
    | with_reducible apply State.retryEvt_chg hm.le
    | with_reducible apply State.settleWrites_chg hm.le
    | with_reducible apply State.runReader_chg hm.le
    | with_reducible apply Chg.ite
    | split

theorem execDmaSubmit_chg {m : Nat} (hm : Sub 113409596 m) (s : State) (t_ : Nat) : NextChg m s (execDmaSubmit t_ s) := by
  unfold execDmaSubmit
  repeat' first
    | with_reducible exact Chg.refl _ _
    | with_reducible assumption
    | with_reducible refine NextChg.actHost ?_
    | with_reducible refine NextChg.act ?_
    | with_reducible refine NextChg.next ?_
    | with_reducible apply State.runReader_chg hm.le

theorem execSigWait_chg {m : Nat} (hm : Sub 113409596 m) (s : State) (t_ : Nat) : NextChg m s (execSigWait t_ s) := by
  unfold execSigWait
  repeat' first
    | with_reducible exact Chg.refl _ _
    | with_reducible assumption
    | with_reducible refine NextChg.actHost ?_
    | with_reducible refine NextChg.act ?_
    | with_reducible refine NextChg.next ?_
    | with_reducible apply State.runReader_chg hm.le

theorem execMatLoad_chg {m : Nat} (hm : Sub 113409596 m) (s : State) (t_ : Nat) : NextChg m s (execMatLoad t_ s) := by
  unfold execMatLoad
  repeat' first
    | with_reducible exact Chg.refl _ _
    | with_reducible assumption
    | with_reducible refine NextChg.actHost ?_
    | with_reducible refine NextChg.act ?_
    | with_reducible refine NextChg.next ?_
    | with_reducible apply State.runReader_chg hm.le

theorem execMatDrain_chg {m : Nat} (hm : Sub 113409596 m) (s : State) (t_ : Nat) : NextChg m s (execMatDrain t_ s) := by
  unfold execMatDrain
  repeat' first
    | with_reducible exact Chg.refl _ _
    | with_reducible assumption
    | with_reducible refine NextChg.actHost ?_
    | with_reducible refine NextChg.act ?_
    | with_reducible refine NextChg.next ?_
    | with_reducible apply State.runReader_chg hm.le

theorem execDamperHload_chg {m : Nat} (hm : Sub 113409596 m) (s : State) (t_ : Nat) : NextChg m s (execDamperHload t_ s) := by
  unfold execDamperHload
  repeat' first
    | with_reducible exact Chg.refl _ _
    | with_reducible assumption
    | with_reducible refine NextChg.actHost ?_
    | with_reducible refine NextChg.act ?_
    | with_reducible refine NextChg.next ?_
    | with_reducible apply State.runReader_chg hm.le

end Sys2Proof.Machine
end

