-- ==== Sys2Proof/Laws/ChgTranslation.lean ====
section
/-!
SUPPORT. ChgTranslation.lean: the kinds of state that each operation of Translation.lean can change; each keeps the invariant.
-/

set_option Elab.async false
namespace Sys2Proof.Machine
open Sys2Proof.Config

theorem execCtxPtRootWrite_chg {m : Nat} (hm : Sub 4194724 m) (s : State) (port : Nat) (n : Nat) (v : Word) : NextChg m s (execCtxPtRootWrite port n v s) := by
  unfold execCtxPtRootWrite
  try dsimp only
  repeat' first
    | with_reducible exact Chg.refl _ _
    | with_reducible assumption
    | with_reducible refine NextChg.actHost ?_
    | with_reducible refine NextChg.act ?_
    | with_reducible refine NextChg.next ?_
    | with_reducible apply State.setReg_chg hm.le
    | with_reducible apply State.setFld_chg hm.le
    | with_reducible apply State.configErr_chg hm.le
    | with_reducible apply State.watchCheckpoints_chg hm.le
    | with_reducible apply State.dropXlat_chg hm.le
    | with_reducible apply Chg.ite
    | split
    | with_reducible refine Chg.mk ?_

theorem State.endLoad_chg {m : Nat} (hm : Sub 132 m) {s t : State} (h : Chg m s t) (l : PtLoad) (maps : List Xlat) (bad : Bool) : Chg m s (State.endLoad t l maps bad) := by
  unfold State.endLoad
  try dsimp only
  repeat' first
    | with_reducible exact h
    | with_reducible assumption
    | with_reducible apply State.setFld_chg hm.le
    | with_reducible apply State.hwSet_chg hm.le
    | with_reducible apply State.dropXlat_chg hm.le
    | with_reducible apply Chg.ite
    | split
    | with_reducible refine Chg.mk ?_

theorem State.useTables_chg {m : Nat} (hm : Sub 512 m) {s t : State} (h : Chg m s t) (l : PtLoad) : Chg m s (State.useTables t l) := by
  unfold State.useTables
  try dsimp only
  repeat' first
    | with_reducible exact h
    | with_reducible assumption
    | with_reducible apply State.l2Use_chg hm.le
    | with_reducible refine Chg.foldl _ ?_ _ ?_
    | with_reducible refine Chg.foldlFst _ ?_ _ ?_
    | with_reducible apply Chg.ite
    | split
    | intro _ _ _

theorem execPtLoadComplete_chg {m : Nat} (hm : Sub 46138292 m) (s : State) (a : Nat) (m_ : Meet) : NextChg m s (execPtLoadComplete a m_ s) := by
  unfold execPtLoadComplete
  try dsimp only
  repeat' first
    | with_reducible exact Chg.refl _ _
    | with_reducible assumption
    | with_reducible refine NextChg.actHost ?_
    | with_reducible refine NextChg.act ?_
    | with_reducible refine NextChg.next ?_
    | with_reducible apply State.faultCtx_chg hm.le
    | with_reducible apply State.physMeets_chg hm.le
    | with_reducible apply State.watchCheckpoints_chg hm.le
    | with_reducible apply State.endLoad_chg hm.le
    | with_reducible apply State.useTables_chg hm.le
    | with_reducible apply Chg.ite
    | split
    | with_reducible refine Chg.mk ?_

theorem execCxlLinkUp_chg {m : Nat} (hm : Sub 4194308 m) (s : State) (q : Nat) (rate : Nat) (width : Nat) (cap : Nat) : NextChg m s (execCxlLinkUp q rate width cap s) := by
  unfold execCxlLinkUp
  try dsimp only
  repeat' first
    | with_reducible exact Chg.refl _ _
    | with_reducible assumption
    | with_reducible refine NextChg.actHost ?_
    | with_reducible refine NextChg.act ?_
    | with_reducible refine NextChg.next ?_
    | with_reducible apply State.setFld_chg hm.le
    | with_reducible apply State.raise_chg hm.le
    | with_reducible apply Chg.ite

theorem State.cxlLost_chg {m : Nat} (hm : Sub 262180 m) {s t : State} (h : Chg m s t) (q : Nat) : Chg m s (State.cxlLost t q) := by
  unfold State.cxlLost
  try dsimp only
  repeat' first
    | with_reducible exact h
    | with_reducible assumption
    | with_reducible apply State.modCmd_chg hm.le
    | with_reducible apply State.abandon_chg hm.le
    | with_reducible refine Chg.foldl _ ?_ _ ?_
    | with_reducible refine Chg.foldlFst _ ?_ _ ?_
    | split
    | intro _ _ _

theorem execCxlLinkDown_chg {m : Nat} (hm : Sub 4456484 m) (s : State) (q : Nat) : NextChg m s (execCxlLinkDown q s) := by
  unfold execCxlLinkDown
  try dsimp only
  repeat' first
    | with_reducible exact Chg.refl _ _
    | with_reducible assumption
    | with_reducible refine NextChg.actHost ?_
    | with_reducible refine NextChg.act ?_
    | with_reducible refine NextChg.next ?_
    | with_reducible apply State.setFld_chg hm.le
    | with_reducible apply State.raise_chg hm.le
    | with_reducible apply State.cxlLost_chg hm.le
    | with_reducible apply Chg.ite

end Sys2Proof.Machine
end

