-- ==== Sys2Proof/Laws/ChgRegisters.lean ====
section
/-!
SUPPORT. ChgRegisters.lean: the kinds of state that each operation of Registers.lean can change; each keeps the invariant.
-/

set_option Elab.async false
namespace Sys2Proof.Machine
open Sys2Proof.Config

theorem State.setEnables_chg {m : Nat} (hm : Sub 4194308 m) {s t : State} (h : Chg m s t) (n : Nat) (x_ : Nat) : Chg m s (State.setEnables t n x_) := by
  unfold State.setEnables
  try dsimp only
  repeat' first
    | with_reducible exact h
    | with_reducible assumption
    | with_reducible apply State.setFld_chg hm.le
    | with_reducible apply State.msix_chg hm.le
    | with_reducible refine Chg.foldl _ ?_ _ ?_
    | with_reducible refine Chg.foldlFst _ ?_ _ ?_
    | intro _ _ _

theorem execEvtEnWrite_chg {m : Nat} (hm : Sub 4194308 m) (s : State) (port : Nat) (n : Nat) (size : Nat) (hi : Bool) (v : Word) : NextChg m s (execEvtEnWrite port n size hi v s) := by
  unfold execEvtEnWrite
  repeat' first
    | with_reducible exact Chg.refl _ _
    | with_reducible assumption
    | with_reducible refine NextChg.actHost ?_
    | with_reducible refine NextChg.act ?_
    | with_reducible refine NextChg.next ?_
    | with_reducible apply State.setEnables_chg hm.le
    | with_reducible apply Chg.ite

theorem State.latch_chg {m : Nat} (hm : Sub 2 m) {s t : State} (h : Chg m s t) (port : Nat) (off : Nat) : Chg m s (State.latch t port off) := by
  unfold State.latch
  try dsimp only
  repeat' first
    | with_reducible exact h
    | with_reducible assumption
    | with_reducible apply State.modTime_chg hm.le
    | with_reducible apply Chg.ite
    | split
    | exact fun _ i => i

theorem execLowHalfRead_chg {m : Nat} (hm : Sub 37748738 m) (s : State) (port : Nat) (fn : Nat) (bar : Nat) (off : Nat) (size : Nat) : NextChg m s (execLowHalfRead port fn bar off size s) := by
  unfold execLowHalfRead
  try dsimp only
  repeat' first
    | with_reducible exact Chg.refl _ _
    | with_reducible assumption
    | with_reducible refine NextChg.actHost ?_
    | with_reducible refine NextChg.act ?_
    | with_reducible refine NextChg.next ?_
    | with_reducible apply State.emit_chg hm.le
    | with_reducible apply State.aerErr_chg hm.le
    | with_reducible apply State.latch_chg hm.le
    | with_reducible apply Chg.ite

theorem State.writeCtx_chg {m : Nat} (hm : Sub 106084284 m) {s t : State} (h : Chg m s t) (port n o : Nat) (raw new : Word) :
    Chg m s (State.writeCtx t port n o raw new) := by
  have herr : Chg m s (t.configErr n) := State.configErr_chg hm.le h n
  have hreg : Chg m s (t.setReg (F.ctxRec n + o) new) := State.setReg_chg hm.le h _ _
  unfold State.writeCtx
  refine Chg.ite (settled_chg h (execCtxOwnerWrite_chg hm.le t port n _)) (Chg.ite (Chg.ite h hreg)
    (Chg.ite (Chg.ite h ?_) (Chg.ite (Chg.ite hreg h) (Chg.ite (settled_chg h (execCtxPtRootWrite_chg hm.le t port n new))
      (Chg.ite h (Chg.ite (Chg.ite herr hreg) hreg))))))
  split
  · exact h
  · exact settled_chg h (execStart_chg hm.le t port n)
  · exact settled_chg h (execStop_chg hm.le t port n)
  · exact settled_chg h (execReset_chg hm.le t port n)
  · exact herr

theorem State.writeBudget_chg {m : Nat} (hm : Sub 4194820 m) {s t : State} (h : Chg m s t) (p : Nat) (new : Word) : Chg m s (State.writeBudget t p new) := by
  unfold State.writeBudget
  try dsimp only
  repeat' first
    | with_reducible exact h
    | with_reducible assumption
    | with_reducible apply State.setReg_chg hm.le
    | with_reducible apply State.modPart_chg hm.le
    | with_reducible apply State.setEvt_chg hm.le
    | with_reducible apply Chg.ite

theorem State.writeLanternCtrl_chg {m : Nat} (hm : Sub 4194820 m) {s t : State} (h : Chg m s t) (p : Nat) (old : Word) (new : Word) : Chg m s (State.writeLanternCtrl t p old new) := by
  unfold State.writeLanternCtrl
  try dsimp only
  repeat' first
    | with_reducible exact h
    | with_reducible assumption
    | with_reducible apply State.setReg_chg hm.le
    | with_reducible apply State.modPart_chg hm.le
    | with_reducible apply State.setEvt_chg hm.le
    | with_reducible apply Chg.ite

theorem State.writeHearth_chg {m : Nat} (hm : Sub 4194820 m) {s t : State} (h : Chg m s t) (port : Nat) (p : Nat) (off : Nat) (raw : Word) (new : Word) : Chg m s (State.writeHearth t port p off raw new) := by
  unfold State.writeHearth
  try dsimp only
  repeat' first
    | with_reducible exact h
    | with_reducible assumption
    | with_reducible apply State.setReg_chg hm.le
    | with_reducible apply State.setEvt_chg hm.le
    | with_reducible refine settled_chg ?_ (execRevert_chg hm.le _ _ _)
    | with_reducible apply Chg.ite

theorem State.writeMemCfg_chg {m : Nat} (hm : Sub 4194820 m) {s t : State} (h : Chg m s t) (p : Nat) (new : Word) : Chg m s (State.writeMemCfg t p new) := by
  unfold State.writeMemCfg
  try dsimp only
  repeat' first
    | with_reducible exact h
    | with_reducible assumption
    | with_reducible apply State.setReg_chg hm.le
    | with_reducible apply State.setEvt_chg hm.le
    | with_reducible apply State.keepWheel_chg hm.le
    | with_reducible apply Chg.ite

theorem State.writeShare_chg {m : Nat} (hm : Sub 4194820 m) {s t : State} (h : Chg m s t) (p : Nat) (new : Word) : Chg m s (State.writeShare t p new) := by
  unfold State.writeShare
  try dsimp only
  repeat' first
    | with_reducible exact h
    | with_reducible assumption
    | with_reducible apply State.setReg_chg hm.le
    | with_reducible apply State.setEvt_chg hm.le
    | with_reducible apply State.keepWheel_chg hm.le
    | with_reducible apply Chg.ite

theorem State.writeArrive_chg {m : Nat} (hm : Sub 4194308 m) {s t : State} (h : Chg m s t) (p : Nat) (new : Word) : Chg m s (State.writeArrive t p new) := by
  unfold State.writeArrive
  try dsimp only
  repeat' first
    | with_reducible exact h
    | with_reducible assumption
    | with_reducible apply State.setReg_chg hm.le
    | with_reducible apply State.setEvt_chg hm.le
    | with_reducible apply Chg.ite

theorem State.writeDamperCfg_chg {m : Nat} (hm : Sub 4 m) {s t : State} (h : Chg m s t) (port : Nat) (p : Nat) (slot : Nat) (new : Word) : Chg m s (State.writeDamperCfg t port p slot new) := by
  unfold State.writeDamperCfg
  try dsimp only
  repeat' first
    | with_reducible exact h
    | with_reducible assumption
    | with_reducible apply State.setReg_chg hm.le
    | with_reducible apply Chg.ite

theorem State.writePart_chg {m : Nat} (hm : Sub 4194820 m) {s t : State} (h : Chg m s t) (port : Nat) (p : Nat) (o : Nat) (raw : Word) (old : Word) (new : Word) : Chg m s (State.writePart t port p o raw old new) := by
  unfold State.writePart
  try dsimp only
  repeat' first
    | with_reducible exact h
    | with_reducible assumption
    | with_reducible apply State.setReg_chg hm.le
    | with_reducible apply State.setEvt_chg hm.le
    | with_reducible refine settled_chg ?_ (execDamperOwnerWrite_chg hm.le _ _ _ _ _)
    | with_reducible apply State.writeBudget_chg hm.le
    | with_reducible apply State.writeLanternCtrl_chg hm.le
    | with_reducible apply State.writeHearth_chg hm.le
    | with_reducible apply State.writeMemCfg_chg hm.le
    | with_reducible apply State.writeShare_chg hm.le
    | with_reducible apply State.writeArrive_chg hm.le
    | with_reducible apply State.writeDamperCfg_chg hm.le
    | with_reducible apply Chg.ite

theorem State.writeSootLog_chg {m : Nat} (hm : Sub 4194308 m) {s t : State} (h : Chg m s t) (new : Word) : Chg m s (State.writeSootLog t new) := by
  unfold State.writeSootLog
  try dsimp only
  repeat' first
    | with_reducible exact h
    | with_reducible assumption
    | with_reducible apply State.setReg_chg hm.le
    | with_reducible apply State.setEvt_chg hm.le
    | with_reducible apply Chg.ite

theorem State.writeFlue_chg {m : Nat} (hm : Sub 4194308 m) {s t : State} (h : Chg m s t) (off : Nat) (new : Word) : Chg m s (State.writeFlue t off new) := by
  unfold State.writeFlue
  try dsimp only
  repeat' first
    | with_reducible exact h
    | with_reducible assumption
    | with_reducible apply State.setReg_chg hm.le
    | with_reducible apply State.setEvt_chg hm.le
    | with_reducible apply Chg.ite

theorem State.writeLinkCtrl_chg {m : Nat} (hm : Sub 14680068 m) {s t : State} (h : Chg m s t) (port : Nat) (k : Nat) (raw : Word) (new : Word) : Chg m s (State.writeLinkCtrl t port k raw new) := by
  unfold State.writeLinkCtrl
  try dsimp only
  repeat' first
    | with_reducible exact h
    | with_reducible assumption
    | with_reducible refine settled_chg ?_ (execRetrain_chg hm.le _ _ _)
    | with_reducible refine settled_chg ?_ (execLinkEnable_chg hm.le _ _ _ _)
    | with_reducible apply Chg.ite

theorem State.writeEthCfg_chg {m : Nat} (hm : Sub 4 m) {s t : State} (h : Chg m s t) (old : Word) (new : Word) : Chg m s (State.writeEthCfg t old new) := by
  unfold State.writeEthCfg
  try dsimp only
  repeat' first
    | with_reducible exact h
    | with_reducible assumption
    | with_reducible apply State.setReg_chg hm.le

theorem State.clearCause_chg {m : Nat} (hm : Sub 4194308 m) {s t : State} (h : Chg m s t) (n : Nat) (raw : Word) (new : Word) : Chg m s (State.clearCause t n raw new) := by
  unfold State.clearCause
  try dsimp only
  repeat' first
    | with_reducible exact h
    | with_reducible assumption
    | with_reducible apply State.setReg_chg hm.le
    | with_reducible apply State.msix_chg hm.le
    | with_reducible refine Chg.foldl _ ?_ _ ?_
    | with_reducible refine Chg.foldlFst _ ?_ _ ?_
    | split
    | intro _ _ _

theorem State.writeDev_chg {m : Nat} (hm : Sub 65536006 m) {s t : State} (h : Chg m s t) (port : Nat) (off : Nat) (raw : Word) (old : Word) (new : Word) : Chg m s (State.writeDev t port off raw old new) := by
  unfold State.writeDev
  try dsimp only
  repeat' first
    | with_reducible exact h
    | with_reducible assumption
    | with_reducible apply State.setReg_chg hm.le
    | with_reducible apply State.setEvt_chg hm.le
    | with_reducible refine settled_chg ?_ (execFlueGroupDrop_chg hm.le _ _ _)
    | with_reducible refine settled_chg ?_ (execVariantDrop_chg hm.le _ _ _)
    | with_reducible refine settled_chg ?_ (execChipReset_chg hm.le _ _ _)
    | with_reducible refine settled_chg ?_ (execRecoveryGo_chg hm.le _ _ _)
    | with_reducible apply State.hostCap_chg hm.le
    | with_reducible refine settled_chg ?_ (execTimeUpstreamWrite_chg hm.le _ _ _)
    | with_reducible apply State.setEnables_chg hm.le
    | with_reducible apply State.writeSootLog_chg hm.le
    | with_reducible apply State.writeFlue_chg hm.le
    | with_reducible apply State.writeLinkCtrl_chg hm.le
    | with_reducible apply State.writeEthCfg_chg hm.le
    | with_reducible apply State.clearCause_chg hm.le
    | with_reducible apply Chg.ite

theorem State.writeReg_chg {m : Nat} (hm : Sub 133871550 m) {s t : State} (h : Chg m s t) (port : Nat) (off : Nat) (size : Nat) (v : Nat) (d : RegDesc) : Chg m s (State.writeReg t port off size v d) := by
  unfold State.writeReg
  try dsimp only
  repeat' first
    | with_reducible exact h
    | with_reducible assumption
    | with_reducible apply State.writeCtx_chg hm.le
    | with_reducible apply State.writePart_chg hm.le
    | with_reducible apply State.writeDev_chg hm.le
    | split

theorem State.write4_chg {m : Nat} (hm : Sub 133871550 m) {s t : State} (h : Chg m s t) (port : Nat) (off : Nat) (v : Nat) : Chg m s (State.write4 t port off v) := by
  unfold State.write4
  try dsimp only
  repeat' first
    | with_reducible exact h
    | with_reducible assumption
    | with_reducible apply State.writeReg_chg hm.le
    | split

theorem State.stage_chg {m : Nat} (hm : Sub 16777216 m) {s t : State} (h : Chg m s t) (o : Nat) (size : Nat) (v : Nat) : Chg m s (State.stage t o size v) := by
  unfold State.stage
  try dsimp only
  repeat' first
    | with_reducible exact h
    | with_reducible assumption
    | with_reducible apply State.modBoard_chg hm.le
    | with_reducible refine Chg.foldl _ ?_ _ ?_
    | with_reducible refine Chg.foldlFst _ ?_ _ ?_
    | with_reducible apply Chg.ite

theorem State.msixDword_chg {m : Nat} (hm : Sub 37748736 m) {s t : State} (h : Chg m s t) (port : Nat) (fn : Nat) (o : Nat) (v : Nat) : Chg m s (State.msixDword t port fn o v) := by
  unfold State.msixDword
  try dsimp only
  repeat' first
    | with_reducible exact h
    | with_reducible assumption
    | with_reducible apply State.setHost_chg hm.le
    | with_reducible apply State.emit_chg hm.le
    | with_reducible apply Chg.ite

theorem State.msixWrite_chg {m : Nat} (hm : Sub 37748736 m) {s t : State} (h : Chg m s t) (port : Nat) (fn : Nat) (o : Nat) (size : Nat) (v : Nat) : Chg m s (State.msixWrite t port fn o size v) := by
  unfold State.msixWrite
  try dsimp only
  repeat' first
    | with_reducible exact h
    | with_reducible assumption
    | with_reducible apply State.msixDword_chg hm.le
    | with_reducible apply Chg.ite

theorem State.writeBar0_chg {m : Nat} (hm : Sub 133871550 m) {s t : State} (h : Chg m s t) (port : Nat) (off : Nat) (size : Nat) (v : Nat) : Chg m s (State.writeBar0 t port off size v) := by
  unfold State.writeBar0
  try dsimp only
  repeat' first
    | with_reducible exact h
    | with_reducible assumption
    | with_reducible apply State.writeReg_chg hm.le
    | with_reducible apply State.write4_chg hm.le
    | with_reducible apply State.stage_chg hm.le
    | with_reducible apply State.msixWrite_chg hm.le
    | with_reducible apply Chg.ite
    | split

theorem State.writePage_chg {m : Nat} (hm : Sub 16 m) {s t : State} (h : Chg m s t) (port fn off size v : Nat) :
    Chg m s (State.writePage t port fn off size v) :=
  Chg.ite (settled_chg h (execSqTail_chg hm.le t port fn _ size _)) <|
  Chg.ite (settled_chg h (execCqHead_chg hm.le t port fn _ size _)) <|
  Chg.ite (settled_chg h (execEmberHead_chg hm.le t port fn _ size _)) <|
  Chg.ite (State.modCtx_chg hm.le h _ _) h

theorem execRegisterWrite_chg {m : Nat} (hm : Sub 133871550 m) (s : State) (port : Nat) (fn : Nat) (bar : Nat) (off : Nat) (size : Nat) (v : Word) : NextChg m s (execRegisterWrite port fn bar off size v s) := by
  unfold execRegisterWrite
  repeat' first
    | with_reducible exact Chg.refl _ _
    | with_reducible assumption
    | with_reducible refine NextChg.actHost ?_
    | with_reducible refine NextChg.act ?_
    | with_reducible refine NextChg.next ?_
    | with_reducible apply State.msixWrite_chg hm.le
    | with_reducible apply State.writeBar0_chg hm.le
    | with_reducible apply State.writePage_chg hm.le
    | with_reducible apply Chg.ite

end Sys2Proof.Machine
end

