-- ==== Sys2Proof/Laws/Frame.lean ====
section
/-!
SUPPORT. Frame.lean: the kinds of state that each command can change, as a set of kinds (bit i for the kind of index i); every
command ends in a next state and keeps the invariant.
-/
namespace Sys2Proof.Machine

/-- The kinds of state that a command can change. -/
def chgMask : Instr → Nat
  | .marksyncPulse => 12582918
  | .marksyncMiss => 12582918
  | .candleBoundary _ => 65013310
  | .markrefLoss => 12582918
  | .markrefLock => 6
  | .holdoverExpiry => 12582916
  | .beaconSend _ => 35651584
  | .beacon _ _ => 14680070
  | .timeUpstreamWrite _ _ => 6
  | .sync _ _ _ _ => 2
  | .followUp _ _ _ _ _ => 33554434
  | .delayResp _ _ _ _ _ => 12582918
  | .announce _ _ _ => 0
  | .ctxOwnerWrite _ _ _ => 4194308
  | .start _ _ => 4194356
  | .stop _ _ => 52
  | .reset _ _ => 101889596
  | .contextResetEnd _ => 131568190
  | .sqTail _ _ _ _ _ => 16
  | .cqHead _ _ _ _ _ => 16
  | .emberHead _ _ _ _ _ => 16
  | .entryPresent _ _ => 46137972
  | .admission _ => 116569660
  | .rejectCompletion _ => 37749308
  | .seqSubmit _ _ => 113345084
  | .seqCancel _ => 37408
  | .seqReward _ => 48
  | .rewardEmberWrite _ => 37749308
  | .seqQuery _ => 32
  | .adapterInstall _ => 67109416
  | .adapterReplace _ => 67109416
  | .adapterRemove _ => 544
  | .adapterCopyEnd _ => 104858172
  | .stepLaunch _ => 131620
  | .publish _ => 262180
  | .variantLoad _ => 36
  | .referenceSet _ => 36
  | .flueCollective _ => 1049120
  | .flueGroupDefine _ _ => 46662180
  | .ctxSave _ => 32
  | .ctxRestore _ => 32
  | .checkpoint _ => 262176
  | .ctxTeardown _ => 116569660
  | .teardownComplete _ => 131577534
  | .quarantineEnd _ => 540
  | .ctxHandover _ => 52
  | .handoverComplete _ => 37749308
  | .dmaFill _ => 544
  | .dmaCopy _ => 544
  | .dmaCommandStart _ _ => 544
  | .dmaCommandEnd _ => 113393212
  | .fence _ => 32
  | .fenceDeadlineMiss _ => 131535422
  | .partitionRole _ => 548
  | .roleEffective _ => 131546686
  | .roleService _ => 62916156
  | .frameSet _ => 544
  | .markSet _ => 34
  | .flashWrite _ => 32
  | .flashSourceRead _ _ => 62915108
  | .flashWriteComplete _ _ _ => 121635388
  | .functionLevelReset _ _ => 4194836
  | .hostPortReset _ _ => 4194308
  | .pcieConfigRequest _ _ _ _ _ => 54525956
  | .threadLaunch _ _ _ _ => 46273036
  | .instructionComplete _ _ => 113393212
  | .add _ => 46300732
  | .sub _ => 46300732
  | .and _ => 46300732
  | .or _ => 46300732
  | .xor _ => 46300732
  | .shl _ => 46300732
  | .shr _ => 46300732
  | .sra _ => 46300732
  | .slt _ => 46300732
  | .sltu _ => 46300732
  | .mul _ => 46300732
  | .mulhu _ => 46300732
  | .divu _ => 46300732
  | .remu _ => 46300732
  | .addi _ => 46300732
  | .andi _ => 46300732
  | .shli _ => 46300732
  | .shri _ => 46300732
  | .movhi _ => 46300732
  | .movs _ => 46300732
  | .beq _ => 46300732
  | .bne _ => 46300732
  | .blt _ => 46300732
  | .bge _ => 46300732
  | .bltu _ => 46300732
  | .bgeu _ => 46300732
  | .jal _ => 46300732
  | .jalr _ => 46300732
  | .ld _ => 113409596
  | .st _ => 46300732
  | .vld _ => 113409596
  | .vst _ => 46300732
  | .gld _ _ => 46300732
  | .gst _ _ => 113409596
  | .hostCompletionArrive _ _ _ _ => 12591116
  | .cxlResponseArrive _ _ _ _ => 12591108
  | .readTimeout _ _ => 12591108
  | .dmaSubmit _ => 113409596
  | .copy _ _ _ => 1024
  | .strided _ _ _ => 1024
  | .transpose _ _ _ => 1024
  | .pageWalk _ _ _ => 1024
  | .multicast _ _ _ => 1024
  | .fill _ _ _ => 1024
  | .dmaDescriptorEnd _ _ => 113393212
  | .sigAdd _ _ _ => 46300732
  | .sigWait _ => 113409596
  | .sigWaitTimeout _ => 4096
  | .markWait _ => 46300732
  | .tfence _ => 46300732
  | .exit _ => 46300732
  | .vadd _ => 46300732
  | .vsub _ => 46300732
  | .vmul _ => 46300732
  | .vfma _ => 46300732
  | .vmax _ => 46300732
  | .vmin _ => 46300732
  | .vcmp _ => 46300732
  | .vsel _ => 46300732
  | .vbcast _ => 46300732
  | .vextr _ => 46300732
  | .vexp2 _ => 46300732
  | .vlog2 _ => 46300732
  | .vrcp _ => 46300732
  | .vrsqrt _ => 46300732
  | .vsin _ => 46300732
  | .vcos _ => 46300732
  | .vrsum _ => 46300732
  | .vrmax _ => 46300732
  | .vrargmax _ => 46300732
  | .viadd _ => 46300732
  | .visub _ => 46300732
  | .vimul _ => 46300732
  | .vand _ => 46300732
  | .vor _ => 46300732
  | .vxor _ => 46300732
  | .vshl _ => 46300732
  | .vshr _ => 46300732
  | .vcvt _ => 46300732
  | .vunpk _ => 46300732
  | .spkBits _ => 46300732
  | .spkGumbel _ => 46300732
  | .matLoad _ => 113409596
  | .matStream _ _ => 46300732
  | .matDrain _ => 113409596
  | .damperUpdate _ => 46300732
  | .damperRead _ => 46300732
  | .damperWrite _ => 46300732
  | .damperHsave _ => 46300732
  | .damperHload _ => 113409596
  | .damperOwnerWrite _ _ _ _ => 516
  | .frameBoundary _ => 37851708
  | .frameKernelStart _ _ => 46141964
  | .frameFinalise _ _ => 12681740
  | .lateFinalisation _ _ => 98828
  | .frameSeal _ _ => 113345052
  | .seqEntryFree _ => 98304
  | .stepStart _ _ => 46268972
  | .mainLaunch _ => 33690124
  | .updateGate _ => 33686028
  | .updateLaunch _ => 33690124
  | .stepCommit _ => 113381948
  | .revert _ _ => 4194820
  | .publishCopyStart _ => 262180
  | .publishCopyEnd _ _ => 12845612
  | .variantDrop _ _ => 4194308
  | .collectiveStart _ _ => 114426412
  | .chunkSend _ _ _ => 116392460
  | .chunkReceive _ _ _ _ => 116391948
  | .arrivalAdd _ _ _ => 114295308
  | .stallNoticeSend _ _ => 49283076
  | .stall _ _ _ _ _ => 1048576
  | .poison _ _ _ => 49283596
  | .tombstone _ _ _ => 116392460
  | .collectiveComplete _ _ => 114426428
  | .collectiveLateComplete _ _ => 114426428
  | .collectiveDeadline _ _ => 114426428
  | .flueGroupDrop _ _ => 4718596
  | .ctxPtRootWrite _ _ _ => 4194724
  | .ptLoadComplete _ _ => 46138292
  | .cxlLinkUp _ _ _ _ => 4194308
  | .bar4Read _ _ _ _ => 46137860
  | .bar4Write _ _ _ _ => 12583436
  | .doeDiscovery _ _ => 4194304
  | .getVersion _ => 4194304
  | .getCapabilities _ => 4194304
  | .negotiateAlgorithms _ => 4194304
  | .getDigests _ => 4194304
  | .getCertificate _ _ _ _ => 4194304
  | .challenge _ _ _ => 20971520
  | .getMeasurements _ _ _ _ _ => 20971520
  | .doeResponse _ => 37748736
  | .doeAbort _ => 4194304
  | .flitReceive _ _ _ => 48234500
  | .datagramReceive _ _ _ _ => 48234500
  | .laneLockLoss _ _ _ => 2097156
  | .linkRetrainStart _ => 14680068
  | .retrain _ _ => 2097152
  | .linkEnable _ _ _ => 14680068
  | .linkRetrainEnd _ _ => 48234500
  | .snufferHang _ => 46282252
  | .sootRingMove _ => 12583436
  | .engineResetEnd _ _ => 96509452
  | .suspectRelaunch _ => 114431548
  | .controlHang _ _ => 512
  | .partitionResetStart _ => 81051180
  | .partitionResetEnd _ _ => 131569214
  | .chipReset _ _ => 16777216
  | .chipResetStart _ => 134217726
  | .chipResetTimeout _ => 16777216
  | .saveStart _ => 33657404
  | .saveComplete _ => 37753404
  | .restoreStart _ => 16778788
  | .restoreComplete _ _ => 46399100
  | .restoredStepResume _ _ => 114431548
  | .checkpointCopyStart _ => 548
  | .checkpointCopyEnd _ _ => 113508924
  | .pwrgoodRise => 16777218
  | .pwrgoodFall => 100663294
  | .converterTrip => 100663294
  | .domainsOff => 83886092
  | .bootRomStart _ _ _ _ _ _ => 54525956
  | .configCheck _ => 54526980
  | .imageCheck _ => 54525956
  | .deviceReady => 37748740
  | .recoveryGo _ _ => 54525956
  | .ramVerifyEnd => 54526980
  | .ramBootLinkDrop => 54525956
  | .domainSwitchOn => 16777220
  | .powerFactorUpdate => 20972036
  | .thermalSample _ => 54526468
  | .junctionOvertemp _ => 12583428
  | .ioDieOvertemp _ => 16777216
  | .junctionCritical _ => 16777216
  | .tread _ _ => 16777216
  | .i3cPrivateRead => 50331648
  | .twrite _ _ _ => 20971524
  | .i3cChipReset _ => 16777216
  | .entdaa _ => 16777216
  | .setdasa _ _ => 16777216
  | .rstdaa => 16777216
  | .getpid => 33554432
  | .getbcr => 33554432
  | .getdcr => 33554432
  | .getstatus => 100663296
  | .enec => 16777216
  | .disec => 16777216
  | .bypass => 16777216
  | .idcode => 50331648
  | .samplePreload _ => 117440512
  | .extest => 16777216
  | .highz => 16777216
  | .clamp => 16777216
  | .evtEnWrite _ _ _ _ _ => 4194308
  | .lowHalfRead _ _ _ _ _ => 37748738
  | .registerWrite _ _ _ _ _ _ => 133871550
  | .acceptedCompletion _ _ => 113771068
  | .hostLinkUp _ _ _ _ _ => 4194308
  | .cxlLinkDown _ => 4456484
  | .flashOperationEnd => 4
  | .inputPowerSample _ _ => 20971524
  | .selfTestCheckMark _ => 33554956
  | .priorityFlowControl _ _ _ _ => 35651584

theorem exec_chg : ∀ (i : Instr) (s : State), NextChg (chgMask i) s (exec i s)
  | .marksyncPulse, s => execMarksyncPulse_chg (m := 12582918) (Nat.and_self _) s
  | .marksyncMiss, s => execMarksyncMiss_chg (m := 12582918) (Nat.and_self _) s
  | .candleBoundary memTemps, s => execCandleBoundary_chg (m := 65013310) (Nat.and_self _) s memTemps
  | .markrefLoss, s => execMarkrefLoss_chg (m := 12582918) (Nat.and_self _) s
  | .markrefLock, s => execMarkrefLock_chg (m := 6) (Nat.and_self _) s
  | .holdoverExpiry, s => execHoldoverExpiry_chg (m := 12582916) (Nat.and_self _) s
  | .beaconSend k, s => execBeaconSend_chg (m := 35651584) (Nat.and_self _) s k
  | .beacon k msg, s => execBeacon_chg (m := 14680070) (Nat.and_self _) s k msg
  | .timeUpstreamWrite port v, s => execTimeUpstreamWrite_chg (m := 6) (Nat.and_self _) s port v
  | .sync k domain seq master, s => execSync_chg (m := 2) (Nat.and_self _) s k domain seq master
  | .followUp k domain seq master t1, s => execFollowUp_chg (m := 33554434) (Nat.and_self _) s k domain seq master t1
  | .delayResp k domain seq master t4, s => execDelayResp_chg (m := 12582918) (Nat.and_self _) s k domain seq master t4
  | .announce k domain master, s => execAnnounce_chg (m := 0) (Nat.and_self _) s k domain master
  | .ctxOwnerWrite port n v, s => execCtxOwnerWrite_chg (m := 4194308) (Nat.and_self _) s port n v
  | .start port n, s => execStart_chg (m := 4194356) (Nat.and_self _) s port n
  | .stop port n, s => execStop_chg (m := 52) (Nat.and_self _) s port n
  | .reset port n, s => execReset_chg (m := 101889596) (Nat.and_self _) s port n
  | .contextResetEnd n, s => execContextResetEnd_chg (m := 131568190) (Nat.and_self _) s n
  | .sqTail port fn n size v, s => execSqTail_chg (m := 16) (Nat.and_self _) s port fn n size v
  | .cqHead port fn n size v, s => execCqHead_chg (m := 16) (Nat.and_self _) s port fn n size v
  | .emberHead port fn n size v, s => execEmberHead_chg (m := 16) (Nat.and_self _) s port fn n size v
  | .entryPresent n m, s => execEntryPresent_chg (m := 46137972) (Nat.and_self _) s n m
  | .admission n, s => execAdmission_chg (m := 116569660) (Nat.and_self _) s n
  | .rejectCompletion n, s => execRejectCompletion_chg (m := 37749308) (Nat.and_self _) s n
  | .seqSubmit n m, s => execSeqSubmit_chg (m := 113345084) (Nat.and_self _) s n m
  | .seqCancel n, s => execSeqCancel_chg (m := 37408) (Nat.and_self _) s n
  | .seqReward n, s => execSeqReward_chg (m := 48) (Nat.and_self _) s n
  | .rewardEmberWrite cid, s => execRewardEmberWrite_chg (m := 37749308) (Nat.and_self _) s cid
  | .seqQuery n, s => execSeqQuery_chg (m := 32) (Nat.and_self _) s n
  | .adapterInstall n, s => execAdapterInstall_chg (m := 67109416) (Nat.and_self _) s n
  | .adapterReplace n, s => execAdapterReplace_chg (m := 67109416) (Nat.and_self _) s n
  | .adapterRemove n, s => execAdapterRemove_chg (m := 544) (Nat.and_self _) s n
  | .adapterCopyEnd cid, s => execAdapterCopyEnd_chg (m := 104858172) (Nat.and_self _) s cid
  | .stepLaunch n, s => execStepLaunch_chg (m := 131620) (Nat.and_self _) s n
  | .publish n, s => execPublish_chg (m := 262180) (Nat.and_self _) s n
  | .variantLoad n, s => execVariantLoad_chg (m := 36) (Nat.and_self _) s n
  | .referenceSet n, s => execReferenceSet_chg (m := 36) (Nat.and_self _) s n
  | .flueCollective n, s => execFlueCollective_chg (m := 1049120) (Nat.and_self _) s n
  | .flueGroupDefine n m, s => execFlueGroupDefine_chg (m := 46662180) (Nat.and_self _) s n m
  | .ctxSave n, s => execCtxSave_chg (m := 32) (Nat.and_self _) s n
  | .ctxRestore n, s => execCtxRestore_chg (m := 32) (Nat.and_self _) s n
  | .checkpoint n, s => execCheckpoint_chg (m := 262176) (Nat.and_self _) s n
  | .ctxTeardown n, s => execCtxTeardown_chg (m := 116569660) (Nat.and_self _) s n
  | .teardownComplete target, s => execTeardownComplete_chg (m := 131577534) (Nat.and_self _) s target
  | .quarantineEnd target, s => execQuarantineEnd_chg (m := 540) (Nat.and_self _) s target
  | .ctxHandover n, s => execCtxHandover_chg (m := 52) (Nat.and_self _) s n
  | .handoverComplete cid, s => execHandoverComplete_chg (m := 37749308) (Nat.and_self _) s cid
  | .dmaFill n, s => execDmaFill_chg (m := 544) (Nat.and_self _) s n
  | .dmaCopy n, s => execDmaCopy_chg (m := 544) (Nat.and_self _) s n
  | .dmaCommandStart p h, s => execDmaCommandStart_chg (m := 544) (Nat.and_self _) s p h
  | .dmaCommandEnd p, s => execDmaCommandEnd_chg (m := 113393212) (Nat.and_self _) s p
  | .fence n, s => execFence_chg (m := 32) (Nat.and_self _) s n
  | .fenceDeadlineMiss cid, s => execFenceDeadlineMiss_chg (m := 131535422) (Nat.and_self _) s cid
  | .partitionRole n, s => execPartitionRole_chg (m := 548) (Nat.and_self _) s n
  | .roleEffective p, s => execRoleEffective_chg (m := 131546686) (Nat.and_self _) s p
  | .roleService p, s => execRoleService_chg (m := 62916156) (Nat.and_self _) s p
  | .frameSet n, s => execFrameSet_chg (m := 544) (Nat.and_self _) s n
  | .markSet n, s => execMarkSet_chg (m := 34) (Nat.and_self _) s n
  | .flashWrite n, s => execFlashWrite_chg (m := 32) (Nat.and_self _) s n
  | .flashSourceRead cid m, s => execFlashSourceRead_chg (m := 62915108) (Nat.and_self _) s cid m
  | .flashWriteComplete cid failed busy, s => execFlashWriteComplete_chg (m := 121635388) (Nat.and_self _) s cid failed busy
  | .functionLevelReset port fn, s => execFunctionLevelReset_chg (m := 4194836) (Nat.and_self _) s port fn
  | .hostPortReset port perst, s => execHostPortReset_chg (m := 4194308) (Nat.and_self _) s port perst
  | .pcieConfigRequest port fn off wr v, s => execPcieConfigRequest_chg (m := 54525956) (Nat.and_self _) s port fn off wr v
  | .threadLaunch p index record startCycle, s => execThreadLaunch_chg (m := 46273036) (Nat.and_self _) s p index record startCycle
  | .instructionComplete t id, s => execInstructionComplete_chg (m := 113393212) (Nat.and_self _) s t id
  | .add t, s => execAdd_chg (m := 46300732) (Nat.and_self _) s t
  | .sub t, s => execSub_chg (m := 46300732) (Nat.and_self _) s t
  | .and t, s => execAnd_chg (m := 46300732) (Nat.and_self _) s t
  | .or t, s => execOr_chg (m := 46300732) (Nat.and_self _) s t
  | .xor t, s => execXor_chg (m := 46300732) (Nat.and_self _) s t
  | .shl t, s => execShl_chg (m := 46300732) (Nat.and_self _) s t
  | .shr t, s => execShr_chg (m := 46300732) (Nat.and_self _) s t
  | .sra t, s => execSra_chg (m := 46300732) (Nat.and_self _) s t
  | .slt t, s => execSlt_chg (m := 46300732) (Nat.and_self _) s t
  | .sltu t, s => execSltu_chg (m := 46300732) (Nat.and_self _) s t
  | .mul t, s => execMul_chg (m := 46300732) (Nat.and_self _) s t
  | .mulhu t, s => execMulhu_chg (m := 46300732) (Nat.and_self _) s t
  | .divu t, s => execDivu_chg (m := 46300732) (Nat.and_self _) s t
  | .remu t, s => execRemu_chg (m := 46300732) (Nat.and_self _) s t
  | .addi t, s => execAddi_chg (m := 46300732) (Nat.and_self _) s t
  | .andi t, s => execAndi_chg (m := 46300732) (Nat.and_self _) s t
  | .shli t, s => execShli_chg (m := 46300732) (Nat.and_self _) s t
  | .shri t, s => execShri_chg (m := 46300732) (Nat.and_self _) s t
  | .movhi t, s => execMovhi_chg (m := 46300732) (Nat.and_self _) s t
  | .movs t, s => execMovs_chg (m := 46300732) (Nat.and_self _) s t
  | .beq t, s => execBeq_chg (m := 46300732) (Nat.and_self _) s t
  | .bne t, s => execBne_chg (m := 46300732) (Nat.and_self _) s t
  | .blt t, s => execBlt_chg (m := 46300732) (Nat.and_self _) s t
  | .bge t, s => execBge_chg (m := 46300732) (Nat.and_self _) s t
  | .bltu t, s => execBltu_chg (m := 46300732) (Nat.and_self _) s t
  | .bgeu t, s => execBgeu_chg (m := 46300732) (Nat.and_self _) s t
  | .jal t, s => execJal_chg (m := 46300732) (Nat.and_self _) s t
  | .jalr t, s => execJalr_chg (m := 46300732) (Nat.and_self _) s t
  | .ld t, s => execLd_chg (m := 113409596) (Nat.and_self _) s t
  | .st t, s => execSt_chg (m := 46300732) (Nat.and_self _) s t
  | .vld t, s => execVld_chg (m := 113409596) (Nat.and_self _) s t
  | .vst t, s => execVst_chg (m := 46300732) (Nat.and_self _) s t
  | .gld t edc, s => execGld_chg (m := 46300732) (Nat.and_self _) s t edc
  | .gst t retries, s => execGst_chg (m := 113409596) (Nat.and_self _) s t retries
  | .hostCompletionArrive t id status data, s => execHostCompletionArrive_chg (m := 12591116) (Nat.and_self _) s t id status data
  | .cxlResponseArrive t id late err, s => execCxlResponseArrive_chg (m := 12591108) (Nat.and_self _) s t id late err
  | .readTimeout t id, s => execReadTimeout_chg (m := 12591108) (Nat.and_self _) s t id
  | .dmaSubmit t, s => execDmaSubmit_chg (m := 113409596) (Nat.and_self _) s t
  | .copy cl ch h, s => execCopy_chg (m := 1024) (Nat.and_self _) s cl ch h
  | .strided cl ch h, s => execStrided_chg (m := 1024) (Nat.and_self _) s cl ch h
  | .transpose cl ch h, s => execTranspose_chg (m := 1024) (Nat.and_self _) s cl ch h
  | .pageWalk cl ch h, s => execPageWalk_chg (m := 1024) (Nat.and_self _) s cl ch h
  | .multicast cl ch h, s => execMulticast_chg (m := 1024) (Nat.and_self _) s cl ch h
  | .fill cl ch h, s => execFill_chg (m := 1024) (Nat.and_self _) s cl ch h
  | .dmaDescriptorEnd cl ch, s => execDmaDescriptorEnd_chg (m := 113393212) (Nat.and_self _) s cl ch
  | .sigAdd t edc retries, s => execSigAdd_chg (m := 46300732) (Nat.and_self _) s t edc retries
  | .sigWait t, s => execSigWait_chg (m := 113409596) (Nat.and_self _) s t
  | .sigWaitTimeout t, s => execSigWaitTimeout_chg (m := 4096) (Nat.and_self _) s t
  | .markWait t, s => execMarkWait_chg (m := 46300732) (Nat.and_self _) s t
  | .tfence t, s => execTfence_chg (m := 46300732) (Nat.and_self _) s t
  | .exit t, s => execExit_chg (m := 46300732) (Nat.and_self _) s t
  | .vadd t, s => execVadd_chg (m := 46300732) (Nat.and_self _) s t
  | .vsub t, s => execVsub_chg (m := 46300732) (Nat.and_self _) s t
  | .vmul t, s => execVmul_chg (m := 46300732) (Nat.and_self _) s t
  | .vfma t, s => execVfma_chg (m := 46300732) (Nat.and_self _) s t
  | .vmax t, s => execVmax_chg (m := 46300732) (Nat.and_self _) s t
  | .vmin t, s => execVmin_chg (m := 46300732) (Nat.and_self _) s t
  | .vcmp t, s => execVcmp_chg (m := 46300732) (Nat.and_self _) s t
  | .vsel t, s => execVsel_chg (m := 46300732) (Nat.and_self _) s t
  | .vbcast t, s => execVbcast_chg (m := 46300732) (Nat.and_self _) s t
  | .vextr t, s => execVextr_chg (m := 46300732) (Nat.and_self _) s t
  | .vexp2 t, s => execVexp2_chg (m := 46300732) (Nat.and_self _) s t
  | .vlog2 t, s => execVlog2_chg (m := 46300732) (Nat.and_self _) s t
  | .vrcp t, s => execVrcp_chg (m := 46300732) (Nat.and_self _) s t
  | .vrsqrt t, s => execVrsqrt_chg (m := 46300732) (Nat.and_self _) s t
  | .vsin t, s => execVsin_chg (m := 46300732) (Nat.and_self _) s t
  | .vcos t, s => execVcos_chg (m := 46300732) (Nat.and_self _) s t
  | .vrsum t, s => execVrsum_chg (m := 46300732) (Nat.and_self _) s t
  | .vrmax t, s => execVrmax_chg (m := 46300732) (Nat.and_self _) s t
  | .vrargmax t, s => execVrargmax_chg (m := 46300732) (Nat.and_self _) s t
  | .viadd t, s => execViadd_chg (m := 46300732) (Nat.and_self _) s t
  | .visub t, s => execVisub_chg (m := 46300732) (Nat.and_self _) s t
  | .vimul t, s => execVimul_chg (m := 46300732) (Nat.and_self _) s t
  | .vand t, s => execVand_chg (m := 46300732) (Nat.and_self _) s t
  | .vor t, s => execVor_chg (m := 46300732) (Nat.and_self _) s t
  | .vxor t, s => execVxor_chg (m := 46300732) (Nat.and_self _) s t
  | .vshl t, s => execVshl_chg (m := 46300732) (Nat.and_self _) s t
  | .vshr t, s => execVshr_chg (m := 46300732) (Nat.and_self _) s t
  | .vcvt t, s => execVcvt_chg (m := 46300732) (Nat.and_self _) s t
  | .vunpk t, s => execVunpk_chg (m := 46300732) (Nat.and_self _) s t
  | .spkBits t, s => execSpkBits_chg (m := 46300732) (Nat.and_self _) s t
  | .spkGumbel t, s => execSpkGumbel_chg (m := 46300732) (Nat.and_self _) s t
  | .matLoad t, s => execMatLoad_chg (m := 113409596) (Nat.and_self _) s t
  | .matStream t upsets, s => execMatStream_chg (m := 46300732) (Nat.and_self _) s t upsets
  | .matDrain t, s => execMatDrain_chg (m := 113409596) (Nat.and_self _) s t
  | .damperUpdate t, s => execDamperUpdate_chg (m := 46300732) (Nat.and_self _) s t
  | .damperRead t, s => execDamperRead_chg (m := 46300732) (Nat.and_self _) s t
  | .damperWrite t, s => execDamperWrite_chg (m := 46300732) (Nat.and_self _) s t
  | .damperHsave t, s => execDamperHsave_chg (m := 46300732) (Nat.and_self _) s t
  | .damperHload t, s => execDamperHload_chg (m := 113409596) (Nat.and_self _) s t
  | .damperOwnerWrite port p slot v, s => execDamperOwnerWrite_chg (m := 516) (Nat.and_self _) s port p slot v
  | .frameBoundary p, s => execFrameBoundary_chg (m := 37851708) (Nat.and_self _) s p
  | .frameKernelStart p records, s => execFrameKernelStart_chg (m := 46141964) (Nat.and_self _) s p records
  | .frameFinalise p outs, s => execFrameFinalise_chg (m := 12681740) (Nat.and_self _) s p outs
  | .lateFinalisation p outs, s => execLateFinalisation_chg (m := 98828) (Nat.and_self _) s p outs
  | .frameSeal p meets, s => execFrameSeal_chg (m := 113345052) (Nat.and_self _) s p meets
  | .seqEntryFree e, s => execSeqEntryFree_chg (m := 98304) (Nat.and_self _) s e
  | .stepStart cid meets, s => execStepStart_chg (m := 46268972) (Nat.and_self _) s cid meets
  | .mainLaunch cid, s => execMainLaunch_chg (m := 33690124) (Nat.and_self _) s cid
  | .updateGate cid, s => execUpdateGate_chg (m := 33686028) (Nat.and_self _) s cid
  | .updateLaunch cid, s => execUpdateLaunch_chg (m := 33690124) (Nat.and_self _) s cid
  | .stepCommit cid, s => execStepCommit_chg (m := 113381948) (Nat.and_self _) s cid
  | .revert port p, s => execRevert_chg (m := 4194820) (Nat.and_self _) s port p
  | .publishCopyStart cid, s => execPublishCopyStart_chg (m := 262180) (Nat.and_self _) s cid
  | .publishCopyEnd cid h, s => execPublishCopyEnd_chg (m := 12845612) (Nat.and_self _) s cid h
  | .variantDrop port v, s => execVariantDrop_chg (m := 4194308) (Nat.and_self _) s port v
  | .collectiveStart cid meets, s => execCollectiveStart_chg (m := 114426412) (Nat.and_self _) s cid meets
  | .chunkSend cid p m, s => execChunkSend_chg (m := 116392460) (Nat.and_self _) s cid p m
  | .chunkReceive p from_ header payload, s => execChunkReceive_chg (m := 116391948) (Nat.and_self _) s p from_ header payload
  | .arrivalAdd cid p meets, s => execArrivalAdd_chg (m := 114295308) (Nat.and_self _) s cid p meets
  | .stallNoticeSend cid p, s => execStallNoticeSend_chg (m := 49283076) (Nat.and_self _) s cid p
  | .stall p coll sender blamed chunk, s => execStall_chg (m := 1048576) (Nat.and_self _) s p coll sender blamed chunk
  | .poison p coll origin, s => execPoison_chg (m := 49283596) (Nat.and_self _) s p coll origin
  | .tombstone p coll sender, s => execTombstone_chg (m := 116392460) (Nat.and_self _) s p coll sender
  | .collectiveComplete cid meets, s => execCollectiveComplete_chg (m := 114426428) (Nat.and_self _) s cid meets
  | .collectiveLateComplete cid meets, s => execCollectiveLateComplete_chg (m := 114426428) (Nat.and_self _) s cid meets
  | .collectiveDeadline cid meets, s => execCollectiveDeadline_chg (m := 114426428) (Nat.and_self _) s cid meets
  | .flueGroupDrop port v, s => execFlueGroupDrop_chg (m := 4718596) (Nat.and_self _) s port v
  | .ctxPtRootWrite port n v, s => execCtxPtRootWrite_chg (m := 4194724) (Nat.and_self _) s port n v
  | .ptLoadComplete a m, s => execPtLoadComplete_chg (m := 46138292) (Nat.and_self _) s a m
  | .cxlLinkUp q rate width cap, s => execCxlLinkUp_chg (m := 4194308) (Nat.and_self _) s q rate width cap
  | .bar4Read port off len m, s => execBar4Read_chg (m := 46137860) (Nat.and_self _) s port off len m
  | .bar4Write port off data m, s => execBar4Write_chg (m := 12583436) (Nat.and_self _) s port off data m
  | .doeDiscovery port index, s => execDoeDiscovery_chg (m := 4194304) (Nat.and_self _) s port index
  | .getVersion port, s => execGetVersion_chg (m := 4194304) (Nat.and_self _) s port
  | .getCapabilities port, s => execGetCapabilities_chg (m := 4194304) (Nat.and_self _) s port
  | .negotiateAlgorithms port, s => execNegotiateAlgorithms_chg (m := 4194304) (Nat.and_self _) s port
  | .getDigests port, s => execGetDigests_chg (m := 4194304) (Nat.and_self _) s port
  | .getCertificate port slot off len, s => execGetCertificate_chg (m := 4194304) (Nat.and_self _) s port slot off len
  | .challenge port slot nonce, s => execChallenge_chg (m := 20971520) (Nat.and_self _) s port slot nonce
  | .getMeasurements port index slot signed nonce, s => execGetMeasurements_chg (m := 20971520) (Nat.and_self _) s port index slot signed nonce
  | .doeResponse port, s => execDoeResponse_chg (m := 37748736) (Nat.and_self _) s port
  | .doeAbort port, s => execDoeAbort_chg (m := 4194304) (Nat.and_self _) s port
  | .flitReceive k flit words, s => execFlitReceive_chg (m := 48234500) (Nat.and_self _) s k flit words
  | .datagramReceive k header payload words, s => execDatagramReceive_chg (m := 48234500) (Nat.and_self _) s k header payload words
  | .laneLockLoss lane lost words, s => execLaneLockLoss_chg (m := 2097156) (Nat.and_self _) s lane lost words
  | .linkRetrainStart k, s => execLinkRetrainStart_chg (m := 14680068) (Nat.and_self _) s k
  | .retrain port k, s => execRetrain_chg (m := 2097152) (Nat.and_self _) s port k
  | .linkEnable port k v, s => execLinkEnable_chg (m := 14680068) (Nat.and_self _) s port k v
  | .linkRetrainEnd k locked, s => execLinkRetrainEnd_chg (m := 48234500) (Nat.and_self _) s k locked
  | .snufferHang cl, s => execSnufferHang_chg (m := 46282252) (Nat.and_self _) s cl
  | .sootRingMove retries, s => execSootRingMove_chg (m := 12583436) (Nat.and_self _) s retries
  | .engineResetEnd cl ok, s => execEngineResetEnd_chg (m := 96509452) (Nat.and_self _) s cl ok
  | .suspectRelaunch cl, s => execSuspectRelaunch_chg (m := 114431548) (Nat.and_self _) s cl
  | .controlHang p what, s => execControlHang_chg (m := 512) (Nat.and_self _) s p what
  | .partitionResetStart p, s => execPartitionResetStart_chg (m := 81051180) (Nat.and_self _) s p
  | .partitionResetEnd p ok, s => execPartitionResetEnd_chg (m := 131569214) (Nat.and_self _) s p ok
  | .chipReset port v, s => execChipReset_chg (m := 16777216) (Nat.and_self _) s port v
  | .chipResetStart fault, s => execChipResetStart_chg (m := 134217726) (Nat.and_self _) s fault
  | .chipResetTimeout disabled, s => execChipResetTimeout_chg (m := 16777216) (Nat.and_self _) s disabled
  | .saveStart cid, s => execSaveStart_chg (m := 33657404) (Nat.and_self _) s cid
  | .saveComplete cid, s => execSaveComplete_chg (m := 37753404) (Nat.and_self _) s cid
  | .restoreStart cid, s => execRestoreStart_chg (m := 16778788) (Nat.and_self _) s cid
  | .restoreComplete cid meets, s => execRestoreComplete_chg (m := 46399100) (Nat.and_self _) s cid meets
  | .restoredStepResume n meets, s => execRestoredStepResume_chg (m := 114431548) (Nat.and_self _) s n meets
  | .checkpointCopyStart cid, s => execCheckpointCopyStart_chg (m := 548) (Nat.and_self _) s cid
  | .checkpointCopyEnd cid h, s => execCheckpointCopyEnd_chg (m := 113508924) (Nat.and_self _) s cid h
  | .pwrgoodRise, s => execPwrgoodRise_chg (m := 16777218) (Nat.and_self _) s
  | .pwrgoodFall, s => execPwrgoodFall_chg (m := 100663294) (Nat.and_self _) s
  | .converterTrip, s => execConverterTrip_chg (m := 100663294) (Nat.and_self _) s
  | .domainsOff, s => execDomainsOff_chg (m := 83886092) (Nat.and_self _) s
  | .bootRomStart ownerKeyEn forceRecovery addr1 addr0 testMode sfdp, s => execBootRomStart_chg (m := 54525956) (Nat.and_self _) s ownerKeyEn forceRecovery addr1 addr0 testMode sfdp
  | .configCheck readOk, s => execConfigCheck_chg (m := 54526980) (Nat.and_self _) s readOk
  | .imageCheck readOk, s => execImageCheck_chg (m := 54525956) (Nat.and_self _) s readOk
  | .deviceReady, s => execDeviceReady_chg (m := 37748740) (Nat.and_self _) s
  | .recoveryGo port v, s => execRecoveryGo_chg (m := 54525956) (Nat.and_self _) s port v
  | .ramVerifyEnd, s => execRamVerifyEnd_chg (m := 54526980) (Nat.and_self _) s
  | .ramBootLinkDrop, s => execRamBootLinkDrop_chg (m := 54525956) (Nat.and_self _) s
  | .domainSwitchOn, s => execDomainSwitchOn_chg (m := 16777220) (Nat.and_self _) s
  | .powerFactorUpdate, s => execPowerFactorUpdate_chg (m := 20972036) (Nat.and_self _) s
  | .thermalSample temps, s => execThermalSample_chg (m := 54526468) (Nat.and_self _) s temps
  | .junctionOvertemp p, s => execJunctionOvertemp_chg (m := 12583428) (Nat.and_self _) s p
  | .ioDieOvertemp d, s => execIoDieOvertemp_chg (m := 16777216) (Nat.and_self _) s d
  | .junctionCritical u, s => execJunctionCritical_chg (m := 16777216) (Nat.and_self _) s u
  | .tread off count, s => execTread_chg (m := 16777216) (Nat.and_self _) s off count
  | .i3cPrivateRead, s => execI3cPrivateRead_chg (m := 50331648) (Nat.and_self _) s
  | .twrite off count data, s => execTwrite_chg (m := 20971524) (Nat.and_self _) s off count data
  | .i3cChipReset key, s => execI3cChipReset_chg (m := 16777216) (Nat.and_self _) s key
  | .entdaa addr, s => execEntdaa_chg (m := 16777216) (Nat.and_self _) s addr
  | .setdasa static addr, s => execSetdasa_chg (m := 16777216) (Nat.and_self _) s static addr
  | .rstdaa, s => execRstdaa_chg (m := 16777216) (Nat.and_self _) s
  | .getpid, s => execGetpid_chg (m := 33554432) (Nat.and_self _) s
  | .getbcr, s => execGetbcr_chg (m := 33554432) (Nat.and_self _) s
  | .getdcr, s => execGetdcr_chg (m := 33554432) (Nat.and_self _) s
  | .getstatus, s => execGetstatus_chg (m := 100663296) (Nat.and_self _) s
  | .enec, s => execEnec_chg (m := 16777216) (Nat.and_self _) s
  | .disec, s => execDisec_chg (m := 16777216) (Nat.and_self _) s
  | .bypass, s => execBypass_chg (m := 16777216) (Nat.and_self _) s
  | .idcode, s => execIdcode_chg (m := 50331648) (Nat.and_self _) s
  | .samplePreload data, s => execSamplePreload_chg (m := 117440512) (Nat.and_self _) s data
  | .extest, s => execExtest_chg (m := 16777216) (Nat.and_self _) s
  | .highz, s => execHighz_chg (m := 16777216) (Nat.and_self _) s
  | .clamp, s => execClamp_chg (m := 16777216) (Nat.and_self _) s
  | .evtEnWrite port n size hi v, s => execEvtEnWrite_chg (m := 4194308) (Nat.and_self _) s port n size hi v
  | .lowHalfRead port fn bar off size, s => execLowHalfRead_chg (m := 37748738) (Nat.and_self _) s port fn bar off size
  | .registerWrite port fn bar off size v, s => execRegisterWrite_chg (m := 133871550) (Nat.and_self _) s port fn bar off size v
  | .acceptedCompletion n meets, s => execAcceptedCompletion_chg (m := 113771068) (Nat.and_self _) s n meets
  | .hostLinkUp port rate width vfs flit, s => execHostLinkUp_chg (m := 4194308) (Nat.and_self _) s port rate width vfs flit
  | .cxlLinkDown q, s => execCxlLinkDown_chg (m := 4456484) (Nat.and_self _) s q
  | .flashOperationEnd, s => execFlashOperationEnd_chg (m := 4) (Nat.and_self _) s
  | .inputPowerSample mv ma, s => execInputPowerSample_chg (m := 20971524) (Nat.and_self _) s mv ma
  | .selfTestCheckMark cid, s => execSelfTestCheckMark_chg (m := 33554956) (Nat.and_self _) s cid
  | .priorityFlowControl k half prio pause, s => execPriorityFlowControl_chg (m := 35651584) (Nat.and_self _) s k half prio pause

/-- No command changes the queue. -/
theorem chgMask_pending : ∀ i : Instr, (chgMask i).testBit 0 = false := by
  intro i
  cases i <;> (simp only [chgMask]; decide)

end Sys2Proof.Machine
end

