-- ==== Sys2Proof/Laws/Exec.lean ====
section
/-!
SUPPORT. Exec.lean: every command ends in a next state, with the queue unchanged and the invariant kept.
-/
namespace Sys2Proof.Machine

/-- Every command ends in a next state, with the queue unchanged and the invariant kept. -/
theorem exec_keeps (i : Instr) (s : State) : ∃ u, exec i s = .next u ∧ u.pending = s.pending ∧ (s.Inv → u.Inv) := by
  obtain ⟨u, hu, h⟩ := exec_chg i s
  exact ⟨u, hu, h.1 .pending (chgMask_pending i), h.2⟩

/-- A command leaves alone every kind of state outside its set. -/
theorem exec_same {i : Instr} {s u : State} (h : exec i s = .next u) {k : Kind} (hk : (chgMask i).testBit k.idx = false) :
    k.same s u := by
  obtain ⟨v, hv, hc⟩ := exec_chg i s
  rw [h] at hv
  cases hv
  exact hc.1 k hk

end Sys2Proof.Machine
end

