-- ==== Sys2Proof/Laws/Fields.lean ====
section
/-!
SUPPORT. Fields.lean: which registers an event, an interrupt and a soot entry can change, and what they leave.
-/
namespace Sys2Proof.Machine

theorem State.msix_regs (s : State) (port fn v : Nat) : (s.msix port fn v).regs = s.regs := by
  unfold State.msix
  repeat' split
  all_goals rfl

theorem State.inv_raise1 {s : State} (h : s.Inv) (n v : Nat) : (s.raise1 n v).Inv :=
  (State.raise1_chg (m := 4194308) (Nat.and_self _) (Chg.refl _ s) n v).2 h

theorem State.inv_raise {s : State} (h : s.Inv) (v : Nat) : (s.raise v).Inv :=
  (State.raise_chg (m := 4194308) (Nat.and_self _) (Chg.refl _ s) v).2 h

theorem State.inv_setReg {s : State} (h : s.Inv) (o : Nat) (v : Word) : (s.setReg o v).Inv :=
  (State.setReg_chg (m := 4) (Nat.and_self _) (Chg.refl _ s) o v).2 h

/-- Hardware that sets a bit of a register changes no other register of the map. -/
theorem State.reg_hwSet {s : State} (h : s.Inv) (f : Fld) (k : Nat) (hk : k ≠ f.off) (hm : k < 2 ^ 32) :
    (s.hwSet f).reg k = s.reg k := by
  have h1 : (s.setFld f 1).Inv := State.inv_setReg h _ _
  unfold State.hwSet
  rw [State.reg_setReg_ne (State.inv_setReg h1 _ _) _ (by unfold setWord; omega),
    State.reg_setReg_ne h1 _ (by unfold setWord; omega), State.reg_setFld_ne h _ hk]

theorem State.reg_raise1 {s : State} (h : s.Inv) (n v k : Nat) (hk : k ≠ (F.evtCause n).off) (hm : k < 2 ^ 32) :
    (s.raise1 n v).reg k = s.reg k := by
  have h1 := State.reg_hwSet h ⟨(F.evtCause n).off, v, 1⟩ k hk hm
  unfold State.raise1
  dsimp only
  split
  · unfold State.reg at *
    rw [State.msix_regs]
    exact h1
  · exact h1

/-- A device event changes no register of the map but EVT_CAUSE of the ports. -/
theorem State.reg_raise {s : State} (h : s.Inv) (v k : Nat) (hk : ∀ n, n < 2 → k ≠ (F.evtCause n).off) (hm : k < 2 ^ 32) :
    (s.raise v).reg k = s.reg k := by
  unfold State.raise
  rw [State.reg_raise1 (State.inv_raise1 h 0 v) 1 v k (hk 1 (by decide)) hm, State.reg_raise1 h 0 v k (hk 0 (by decide)) hm]

theorem State.fld_raise {s : State} (h : s.Inv) (v : Nat) (f : Fld) (hk : ∀ n, n < 2 → f.off ≠ (F.evtCause n).off)
    (hm : f.off < 2 ^ 32) : (s.raise v).fld f = s.fld f := by
  unfold State.fld
  rw [State.reg_raise h v _ hk hm]

/-- A soot entry changes no register of the map but SOOT_STATUS and EVT_CAUSE of the ports. -/
theorem State.reg_soot1 {s : State} (h : s.Inv) (kind source eflags ctx unit : Nat) (d : List Byte) (k : Nat)
    (hk : k ≠ 0x160 ∧ k ≠ 0x800 ∧ k ≠ 0x808) (hm : k < 2 ^ 32) : (s.soot1 kind source eflags ctx unit d).reg k = s.reg k := by
  unfold State.soot1
  split
  · rw [State.reg_raise ((State.setFld_chg (m := 4) (Nat.and_self _) (Chg.refl _ s) _ _).2 h) 6 k ?_ hm, State.reg_setFld_ne h _ hk.1]
    intro n hn
    have h2 : n = 0 ∨ n = 1 := by omega
    rcases h2 with rfl | rfl
    · exact hk.2.1
    · exact hk.2.2
  · dsimp only
    have h1 : State.Inv { s with soot := s.soot ++ [sootBytes s.stamp kind source eflags ctx unit d] } :=
      ⟨h.mem, h.regs, h.ctxs, h.parts, h.clusters, h.tiles, h.threads, h.table, h.links, h.hosts, h.cyc, h.mark, h.setM⟩
    rw [State.reg_setFld_ne h1 _ hk.1]
    rfl

theorem State.fld_soot1 {s : State} (h : s.Inv) (kind source eflags ctx unit : Nat) (d : List Byte) (f : Fld)
    (hk : f.off ≠ 0x160 ∧ f.off ≠ 0x800 ∧ f.off ≠ 0x808) (hm : f.off < 2 ^ 32) :
    (s.soot1 kind source eflags ctx unit d).fld f = s.fld f := by
  unfold State.fld
  rw [State.reg_soot1 h _ _ _ _ _ _ _ hk hm]

theorem State.raise_soot (s : State) (v : Nat) : (s.raise v).soot = s.soot :=
  (State.raise_chg (m := 4194308) (Nat.and_self _) (Chg.refl _ s) v).1 .soot rfl

/-- A soot entry joins the on-die buffer while it has room, and is dropped when it is full (R595). -/
theorem State.soot1_soot (s : State) (kind source eflags ctx unit : Nat) (d : List Byte) :
    (s.soot1 kind source eflags ctx unit d).soot =
      if s.soot.length < 256 then s.soot ++ [sootBytes s.stamp kind source eflags ctx unit d] else s.soot := by
  unfold State.soot1
  by_cases h : s.soot.length < 256
  · rw [if_neg (by omega), if_pos h]
    rfl
  · rw [if_pos (by omega), if_neg h, State.raise_soot]
    rfl

end Sys2Proof.Machine
end

