-- ==== Sys2Proof/WellFormed.lean ====
section
/-!
DEFINITION. WellFormed.lean: the ranges of the operands that the environment brings with a command: the indices of R39
and of the register map, and the lengths of records the manual lays out.
-/
namespace Sys2Proof

/-- A status that a read can meet fits the bytes that record it. -/
def Meet.ok (m : Meet) : Bool := m.err.all fun e => decide (e < 256)

/-- The same for the transfers of a DMA descriptor, a command DMA transfer or a copy. -/
def Hap.ok (h : Hap) : Bool := h.err.all fun e => decide (e.2 < 256)

/-- What the reads and writes of several agents, or of several commands, meet. -/
def meetsOk (l : List (Nat × Meet)) : Bool := l.all fun e => e.2.ok

/-- Every operand of the command lies in the range the manual gives it: contexts 0 to 4,095 (R104), host ports 0 and 1,
partitions 0 to 7, clusters 0 to 127, threads 0 to 16,383 (R39), DMA channels 0 to 3 (R308), link ports 0 to 7, lanes 0 to 63,
CXL ports 0 to 3, table entries 0 to 65,535 (R336), Damper slots 0 to 511 (R247). -/
def Instr.wellFormed (i : Instr) : Bool :=
  match i with
  | .marksyncPulse => true
  | .marksyncMiss => true
  | .candleBoundary memTemps => decide (memTemps.length = 48)
  | .markrefLoss => true
  | .markrefLock => true
  | .holdoverExpiry => true
  | .beaconSend k => decide (k < 8)
  | .beacon k msg => decide (k < 8) && decide (msg.length = 36)
  | .timeUpstreamWrite port _ => decide (port < 2)
  | .sync k domain _ _ => decide (k < 8) && decide (domain < 256)
  | .followUp k domain _ _ _ => decide (k < 8) && decide (domain < 256)
  | .delayResp k domain _ _ _ => decide (k < 8) && decide (domain < 256)
  | .announce k domain _ => decide (k < 8) && decide (domain < 256)
  | .ctxOwnerWrite port n _ => decide (port < 2) && decide (n < 4096)
  | .start port n => decide (port < 2) && decide (n < 4096)
  | .stop port n => decide (port < 2) && decide (n < 4096)
  | .reset port n => decide (port < 2) && decide (n < 4096)
  | .contextResetEnd n => decide (n < 4096)
  | .sqTail port fn n size _ => decide (port < 2) && decide (fn < 256) && decide (n < 4096) && decide (size ≤ 64)
  | .cqHead port fn n size _ => decide (port < 2) && decide (fn < 256) && decide (n < 4096) && decide (size ≤ 64)
  | .emberHead port fn n size _ => decide (port < 2) && decide (fn < 256) && decide (n < 4096) && decide (size ≤ 64)
  | .entryPresent n m => decide (n < 4096) && m.ok
  | .admission n => decide (n < 4096)
  | .rejectCompletion n => decide (n < 4096)
  | .seqSubmit n m => decide (n < 4096) && m.ok
  | .seqCancel n => decide (n < 4096)
  | .seqReward n => decide (n < 4096)
  | .rewardEmberWrite _ => true
  | .seqQuery n => decide (n < 4096)
  | .adapterInstall n => decide (n < 4096)
  | .adapterReplace n => decide (n < 4096)
  | .adapterRemove n => decide (n < 4096)
  | .adapterCopyEnd _ => true
  | .stepLaunch n => decide (n < 4096)
  | .publish n => decide (n < 4096)
  | .variantLoad n => decide (n < 4096)
  | .referenceSet n => decide (n < 4096)
  | .flueCollective n => decide (n < 4096)
  | .flueGroupDefine n m => decide (n < 4096) && m.ok
  | .ctxSave n => decide (n < 4096)
  | .ctxRestore n => decide (n < 4096)
  | .checkpoint n => decide (n < 4096)
  | .ctxTeardown n => decide (n < 4096)
  | .teardownComplete target => decide (target < 4096)
  | .quarantineEnd target => decide (target < 4096)
  | .ctxHandover n => decide (n < 4096)
  | .handoverComplete _ => true
  | .dmaFill n => decide (n < 4096)
  | .dmaCopy n => decide (n < 4096)
  | .dmaCommandStart p h => decide (p < 8) && h.ok
  | .dmaCommandEnd p => decide (p < 8)
  | .fence n => decide (n < 4096)
  | .fenceDeadlineMiss _ => true
  | .partitionRole n => decide (n < 4096)
  | .roleEffective p => decide (p < 8)
  | .roleService p => decide (p < 8)
  | .frameSet n => decide (n < 4096)
  | .markSet n => decide (n < 4096)
  | .flashWrite n => decide (n < 4096)
  | .flashSourceRead _ m => m.ok
  | .flashWriteComplete _ _ _ => true
  | .functionLevelReset port fn => decide (port < 2) && decide (fn < 256)
  | .hostPortReset port _ => decide (port < 2)
  | .pcieConfigRequest port fn off _ _ => decide (port < 2) && decide (fn < 256) && decide (off < 4096)
  | .threadLaunch p _ record _ => decide (p < 8) && decide (record.length = 64)
  | .instructionComplete t _ => decide (t < 16384)
  | .add t => decide (t < 16384)
  | .sub t => decide (t < 16384)
  | .and t => decide (t < 16384)
  | .or t => decide (t < 16384)
  | .xor t => decide (t < 16384)
  | .shl t => decide (t < 16384)
  | .shr t => decide (t < 16384)
  | .sra t => decide (t < 16384)
  | .slt t => decide (t < 16384)
  | .sltu t => decide (t < 16384)
  | .mul t => decide (t < 16384)
  | .mulhu t => decide (t < 16384)
  | .divu t => decide (t < 16384)
  | .remu t => decide (t < 16384)
  | .addi t => decide (t < 16384)
  | .andi t => decide (t < 16384)
  | .shli t => decide (t < 16384)
  | .shri t => decide (t < 16384)
  | .movhi t => decide (t < 16384)
  | .movs t => decide (t < 16384)
  | .beq t => decide (t < 16384)
  | .bne t => decide (t < 16384)
  | .blt t => decide (t < 16384)
  | .bge t => decide (t < 16384)
  | .bltu t => decide (t < 16384)
  | .bgeu t => decide (t < 16384)
  | .jal t => decide (t < 16384)
  | .jalr t => decide (t < 16384)
  | .ld t => decide (t < 16384)
  | .st t => decide (t < 16384)
  | .vld t => decide (t < 16384)
  | .vst t => decide (t < 16384)
  | .gld t edc => decide (t < 16384) && decide (edc < 4)
  | .gst t _ => decide (t < 16384)
  | .hostCompletionArrive t _ _ _ => decide (t < 16384)
  | .cxlResponseArrive t _ _ _ => decide (t < 16384)
  | .readTimeout t _ => decide (t < 16384)
  | .dmaSubmit t => decide (t < 16384)
  | .copy cl ch h => decide (cl < 128) && decide (ch < 4) && h.ok
  | .strided cl ch h => decide (cl < 128) && decide (ch < 4) && h.ok
  | .transpose cl ch h => decide (cl < 128) && decide (ch < 4) && h.ok
  | .pageWalk cl ch h => decide (cl < 128) && decide (ch < 4) && h.ok
  | .multicast cl ch h => decide (cl < 128) && decide (ch < 4) && h.ok
  | .fill cl ch h => decide (cl < 128) && decide (ch < 4) && h.ok
  | .dmaDescriptorEnd cl ch => decide (cl < 128) && decide (ch < 4)
  | .sigAdd t edc _ => decide (t < 16384) && decide (edc < 4)
  | .sigWait t => decide (t < 16384)
  | .sigWaitTimeout t => decide (t < 16384)
  | .markWait t => decide (t < 16384)
  | .tfence t => decide (t < 16384)
  | .exit t => decide (t < 16384)
  | .vadd t => decide (t < 16384)
  | .vsub t => decide (t < 16384)
  | .vmul t => decide (t < 16384)
  | .vfma t => decide (t < 16384)
  | .vmax t => decide (t < 16384)
  | .vmin t => decide (t < 16384)
  | .vcmp t => decide (t < 16384)
  | .vsel t => decide (t < 16384)
  | .vbcast t => decide (t < 16384)
  | .vextr t => decide (t < 16384)
  | .vexp2 t => decide (t < 16384)
  | .vlog2 t => decide (t < 16384)
  | .vrcp t => decide (t < 16384)
  | .vrsqrt t => decide (t < 16384)
  | .vsin t => decide (t < 16384)
  | .vcos t => decide (t < 16384)
  | .vrsum t => decide (t < 16384)
  | .vrmax t => decide (t < 16384)
  | .vrargmax t => decide (t < 16384)
  | .viadd t => decide (t < 16384)
  | .visub t => decide (t < 16384)
  | .vimul t => decide (t < 16384)
  | .vand t => decide (t < 16384)
  | .vor t => decide (t < 16384)
  | .vxor t => decide (t < 16384)
  | .vshl t => decide (t < 16384)
  | .vshr t => decide (t < 16384)
  | .vcvt t => decide (t < 16384)
  | .vunpk t => decide (t < 16384)
  | .spkBits t => decide (t < 16384)
  | .spkGumbel t => decide (t < 16384)
  | .matLoad t => decide (t < 16384)
  | .matStream t _ => decide (t < 16384)
  | .matDrain t => decide (t < 16384)
  | .damperUpdate t => decide (t < 16384)
  | .damperRead t => decide (t < 16384)
  | .damperWrite t => decide (t < 16384)
  | .damperHsave t => decide (t < 16384)
  | .damperHload t => decide (t < 16384)
  | .damperOwnerWrite port p slot _ => decide (port < 2) && decide (p < 8) && decide (slot < 512)
  | .frameBoundary p => decide (p < 8)
  | .frameKernelStart p records => decide (p < 8) && records.all (fun r => r.length == 64)
  | .frameFinalise p _ => decide (p < 8)
  | .lateFinalisation p _ => decide (p < 8)
  | .frameSeal p meets => decide (p < 8) && meets.all fun e => e.2.ok
  | .seqEntryFree e => decide (e < 65536)
  | .stepStart _ meets => meets.all fun e => decide (e.1 < 8) && e.2.ok
  | .mainLaunch _ => true
  | .updateGate _ => true
  | .updateLaunch _ => true
  | .stepCommit _ => true
  | .revert port p => decide (port < 2) && decide (p < 8)
  | .publishCopyStart _ => true
  | .publishCopyEnd _ h => h.ok
  | .variantDrop port v => decide (port < 2) && decide (v < 8)
  | .collectiveStart _ meets => meets.all fun e => decide (e.1 < 16) && e.2.ok
  | .chunkSend _ p m => decide (p < 8) && m.ok
  | .chunkReceive p from_ _ _ => decide (p < 8) && decide (from_ < 32768)
  | .arrivalAdd _ p meets => decide (p < 8) && meetsOk meets
  | .stallNoticeSend _ p => decide (p < 8)
  | .stall p _ _ _ _ => decide (p < 8)
  | .poison p _ _ => decide (p < 8)
  | .tombstone p _ _ => decide (p < 8)
  | .collectiveComplete _ meets => meetsOk meets
  | .collectiveLateComplete _ meets => meetsOk meets
  | .collectiveDeadline _ meets => meetsOk meets
  | .flueGroupDrop port _ => decide (port < 2)
  | .ctxPtRootWrite port n _ => decide (port < 2) && decide (n < 4096)
  | .ptLoadComplete a m => decide (a < 2 ^ 48) && m.ok
  | .cxlLinkUp q _ width _ => decide (q < 4) && decide (width ≤ 16)
  | .bar4Read port _ len m => decide (port < 2) && decide (0 < len) && m.ok
  | .bar4Write port _ data m => decide (port < 2) && decide (0 < data.length) && m.ok
  | .doeDiscovery port index => decide (port < 2) && decide (index < 256)
  | .getVersion port => decide (port < 2)
  | .getCapabilities port => decide (port < 2)
  | .negotiateAlgorithms port => decide (port < 2)
  | .getDigests port => decide (port < 2)
  | .getCertificate port slot _ _ => decide (port < 2) && decide (slot < 256)
  | .challenge port slot nonce => decide (port < 2) && decide (slot < 256) && decide (nonce.length = 32)
  | .getMeasurements port index slot signed nonce => decide (port < 2) && decide (index < 256) && decide (slot < 16) && decide (nonce.length = 32 ∨ signed = false)
  | .doeResponse port => decide (port < 2)
  | .doeAbort port => decide (port < 2)
  | .flitReceive k flit words => decide (k < 8) && decide (flit.length = 256) && words.all fun w => decide (w.1 < 8)
  | .datagramReceive k _ _ words => decide (k < 8) && words.all fun w => decide (w.1 < 8)
  | .laneLockLoss lane _ words => decide (lane < 64) && words.all fun w => decide (w.1 < 8)
  | .linkRetrainStart k => decide (k < 8)
  | .retrain port k => decide (port < 2) && decide (k < 8)
  | .linkEnable port k _ => decide (port < 2) && decide (k < 8)
  | .linkRetrainEnd k _ => decide (k < 8)
  | .snufferHang cl => decide (cl < 128)
  | .sootRingMove _ => true
  | .engineResetEnd cl _ => decide (cl < 128)
  | .suspectRelaunch cl => decide (cl < 128)
  | .controlHang p _ => decide (p < 8)
  | .partitionResetStart p => decide (p < 8)
  | .partitionResetEnd p _ => decide (p < 8)
  | .chipReset port _ => decide (port < 2)
  | .chipResetStart _ => true
  | .chipResetTimeout _ => true
  | .saveStart _ => true
  | .saveComplete _ => true
  | .restoreStart _ => true
  | .restoreComplete _ meets => meetsOk meets
  | .restoredStepResume n meets => decide (n < 4096) && meetsOk meets
  | .checkpointCopyStart _ => true
  | .checkpointCopyEnd _ h => h.ok
  | .pwrgoodRise => true
  | .pwrgoodFall => true
  | .converterTrip => true
  | .domainsOff => true
  | .bootRomStart _ _ _ _ _ _ => true
  | .configCheck _ => true
  | .imageCheck _ => true
  | .deviceReady => true
  | .recoveryGo port _ => decide (port < 2)
  | .ramVerifyEnd => true
  | .ramBootLinkDrop => true
  | .domainSwitchOn => true
  | .powerFactorUpdate => true
  | .thermalSample temps => decide (temps.length = 10)
  | .junctionOvertemp p => decide (p < 8)
  | .ioDieOvertemp d => decide (d < 2)
  | .junctionCritical u => decide (u < 10)
  | .tread _ count => decide (count < 256)
  | .i3cPrivateRead => true
  | .twrite _ count _ => decide (count < 256)
  | .i3cChipReset _ => true
  | .entdaa addr => decide (addr < 128)
  | .setdasa static addr => decide (static < 128) && decide (addr < 128)
  | .rstdaa => true
  | .getpid => true
  | .getbcr => true
  | .getdcr => true
  | .getstatus => true
  | .enec => true
  | .disec => true
  | .bypass => true
  | .idcode => true
  | .samplePreload _ => true
  | .extest => true
  | .highz => true
  | .clamp => true
  | .evtEnWrite port n size _ _ => decide (port < 2) && decide (n < 2) && decide (size = 4 ∨ size = 8)
  | .lowHalfRead port fn bar off size => decide (port < 2) && decide (fn < 256) && decide (bar = 0 ∨ bar = 2) && decide (off < 2 ^ 26) && decide (size ≤ 64)
  | .registerWrite port fn bar off size _ => decide (port < 2) && decide (fn < 256) && decide (bar = 0 ∨ bar = 2) &&
      decide (off < 0x4000000) && decide (1 ≤ size ∧ size ≤ 8)
  | .acceptedCompletion n meets => decide (n < 4096) && meetsOk meets
  | .hostLinkUp port _ width vfs _ => decide (port < 2) && decide (width ≤ 16) && decide (vfs < 256)
  | .cxlLinkDown q => decide (q < 4)
  | .flashOperationEnd => true
  | .inputPowerSample _ _ => true
  | .selfTestCheckMark _ => true
  | .priorityFlowControl k half prio _ => decide (k < 8) && decide (half < 2) && decide (prio < 8)

end Sys2Proof
end

