-- ==== Sys2Proof/Tests/Slice0.lean ====
section
/-!
SUPPORT. Slice0.lean: the tests. Each command whose operands leave their range is not well formed; for every statement a
concrete state and operands meet its hypotheses, clause by clause; and worked examples of the manual.
-/
namespace Sys2Proof.Tests
open Sys2Proof Sys2Proof.Machine Sys2Proof.Config Sys2Proof.Claims

set_option Elab.async false

/-! ## Well-formed commands -/

/-- Transfers and reads that meet nothing, and ones whose status does not fit a byte. -/
def hap : Hap := { hostLate := 0, cxlLate := 0, err := none, edc := false, retries := 0, badWrite := false }
def meet : Meet := { err := none, edc := false, late := 0, retries := 0, badWrite := false }
def badHap : Hap := { hap with err := some (0, 256) }
def badMeet : Meet := { meet with err := some 256 }

noncomputable def operandRows_partition : List (Nat → Instr) :=
  [Instr.beaconSend, Instr.dmaCommandEnd, Instr.roleEffective, Instr.roleService, Instr.frameBoundary,
   Instr.linkRetrainStart, Instr.partitionResetStart, Instr.junctionOvertemp]
theorem test_partition_operand : operandRows_partition.all
    (fun f => (f 7).wellFormed && !(f 8).wellFormed) = true := by decide +kernel
noncomputable def operandRows_context : List (Nat → Instr) :=
  [Instr.contextResetEnd, Instr.admission, Instr.rejectCompletion, (Instr.seqSubmit · meet), Instr.seqCancel,
   Instr.seqReward, Instr.seqQuery, Instr.adapterInstall, Instr.adapterReplace, Instr.adapterRemove, Instr.stepLaunch,
   Instr.publish, Instr.variantLoad, Instr.referenceSet, Instr.flueCollective, Instr.ctxSave,
   Instr.ctxRestore, Instr.checkpoint, Instr.ctxTeardown, Instr.teardownComplete, Instr.quarantineEnd, Instr.ctxHandover]
theorem test_context_operand : operandRows_context.all
    (fun f => (f 4095).wellFormed && !(f 4096).wellFormed) = true := by decide +kernel
noncomputable def operandRows_context_2 : List (Nat → Instr) :=
  [Instr.dmaFill, Instr.dmaCopy, Instr.fence, Instr.partitionRole, Instr.frameSet, Instr.markSet, Instr.flashWrite,
   (Instr.restoredStepResume · []), (Instr.acceptedCompletion · [])]
theorem test_context_operand_2 : operandRows_context_2.all
    (fun f => (f 4095).wellFormed && !(f 4096).wellFormed) = true := by decide +kernel
noncomputable def operandRows_thread : List (Nat → Instr) :=
  [Instr.add, Instr.sub, Instr.and, Instr.or, Instr.xor, Instr.shl, Instr.shr, Instr.sra, Instr.slt, Instr.sltu, Instr.mul,
   Instr.mulhu, Instr.divu, Instr.remu, Instr.addi, Instr.andi, Instr.shli, Instr.shri, Instr.movhi, Instr.movs, Instr.beq,
   Instr.bne, Instr.blt, Instr.bge]
theorem test_thread_operand : operandRows_thread.all
    (fun f => (f 16383).wellFormed && !(f 16384).wellFormed) = true := by decide +kernel
noncomputable def operandRows_thread_2 : List (Nat → Instr) :=
  [Instr.bltu, Instr.bgeu, Instr.jal, Instr.jalr, Instr.ld, Instr.st, Instr.vld, Instr.vst, Instr.dmaSubmit,
   Instr.sigWait, Instr.sigWaitTimeout, Instr.markWait, Instr.tfence, Instr.exit, Instr.vadd, Instr.vsub, Instr.vmul,
   Instr.vfma, Instr.vmax, Instr.vmin, Instr.vcmp, Instr.vsel, Instr.vbcast]
theorem test_thread_operand_2 : operandRows_thread_2.all
    (fun f => (f 16383).wellFormed && !(f 16384).wellFormed) = true := by decide +kernel
noncomputable def operandRows_thread_3 : List (Nat → Instr) :=
  [Instr.vextr, Instr.vexp2, Instr.vlog2, Instr.vrcp, Instr.vrsqrt, Instr.vsin, Instr.vcos, Instr.vrsum, Instr.vrmax,
   Instr.vrargmax, Instr.viadd, Instr.visub, Instr.vimul, Instr.vand, Instr.vor, Instr.vxor, Instr.vshl, Instr.vshr,
   Instr.vcvt, Instr.vunpk, Instr.spkBits, Instr.spkGumbel, Instr.matLoad, Instr.matDrain]
theorem test_thread_operand_3 : operandRows_thread_3.all
    (fun f => (f 16383).wellFormed && !(f 16384).wellFormed) = true := by decide +kernel
noncomputable def operandRows_thread_4 : List (Nat → Instr) :=
  [Instr.damperUpdate, Instr.damperRead, Instr.damperWrite, Instr.damperHsave, Instr.damperHload]
theorem test_thread_operand_4 : operandRows_thread_4.all
    (fun f => (f 16383).wellFormed && !(f 16384).wellFormed) = true := by decide +kernel
noncomputable def operandRows_port : List (Nat → Instr) :=
  [Instr.getVersion, Instr.getCapabilities, Instr.negotiateAlgorithms, Instr.getDigests, Instr.doeResponse, Instr.doeAbort,
   Instr.ioDieOvertemp]
theorem test_port_operand : operandRows_port.all
    (fun f => (f 1).wellFormed && !(f 2).wellFormed) = true := by decide +kernel
noncomputable def operandRows_cluster : List (Nat → Instr) :=
  [Instr.snufferHang, Instr.suspectRelaunch, Instr.entdaa]
theorem test_cluster_operand : operandRows_cluster.all
    (fun f => (f 127).wellFormed && !(f 128).wellFormed) = true := by decide +kernel
noncomputable def illFormedRows_1 : List Instr :=
  [Instr.candleBoundary (List.replicate 47 0), Instr.beacon 8 (List.replicate 36 0),
   Instr.beacon 0 (List.replicate 35 0), Instr.timeUpstreamWrite 2 0, Instr.sync 8 0 0 0,
   Instr.sync 0 256 0 0, Instr.followUp 8 0 0 0 0, Instr.followUp 0 256 0 0 0, Instr.delayResp 8 0 0 0 0,
   Instr.delayResp 0 256 0 0 0, Instr.announce 8 0 0, Instr.announce 0 256 0, Instr.ctxOwnerWrite 2 0 0,
   Instr.ctxOwnerWrite 0 4096 0, Instr.start 2 0, Instr.start 0 4096, Instr.stop 2 0, Instr.stop 0 4096]
theorem test_ill_formed_1 : illFormedRows_1.all (fun c => !c.wellFormed) = true := by decide +kernel
noncomputable def illFormedRows_2 : List Instr :=
  [Instr.reset 2 0, Instr.reset 0 4096, Instr.sqTail 2 0 0 4 0, Instr.sqTail 0 256 0 4 0, Instr.sqTail 0 0 4096 4 0,
   Instr.sqTail 0 0 0 65 0, Instr.cqHead 2 0 0 4 0, Instr.cqHead 0 256 0 4 0, Instr.cqHead 0 0 4096 4 0,
   Instr.cqHead 0 0 0 65 0, Instr.emberHead 2 0 0 4 0, Instr.emberHead 0 256 0 4 0, Instr.emberHead 0 0 4096 4 0,
   Instr.emberHead 0 0 0 65 0, Instr.functionLevelReset 2 0, Instr.functionLevelReset 0 256, Instr.hostPortReset 2 false,
   Instr.pcieConfigRequest 2 0 1 false 0, Instr.pcieConfigRequest 0 256 1 false 0, Instr.pcieConfigRequest 0 0 4096 false 0]
theorem test_ill_formed_2 : illFormedRows_2.all (fun c => !c.wellFormed) = true := by decide +kernel
noncomputable def illFormedRows_3 : List Instr :=
  [Instr.threadLaunch 8 0 (List.replicate 64 0) 0, Instr.threadLaunch 0 0 (List.replicate 63 0) 0,
   Instr.instructionComplete 16384 0, Instr.gld 16384 0, Instr.gld 0 4, Instr.gst 16384 0,
   Instr.hostCompletionArrive 16384 0 0 [], Instr.cxlResponseArrive 16384 0 0 false, Instr.readTimeout 16384 0,
   Instr.copy 128 0 hap, Instr.copy 0 4 hap, Instr.strided 128 0 hap, Instr.strided 0 4 hap, Instr.transpose 128 0 hap, Instr.transpose 0 4 hap,
   Instr.pageWalk 128 0 hap, Instr.pageWalk 0 4 hap, Instr.multicast 128 0 hap, Instr.multicast 0 4 hap, Instr.fill 128 0 hap]
theorem test_ill_formed_3 : illFormedRows_3.all (fun c => !c.wellFormed) = true := by decide +kernel
noncomputable def illFormedRows_4 : List Instr :=
  [Instr.fill 0 4 hap, Instr.dmaDescriptorEnd 128 0, Instr.dmaDescriptorEnd 0 4, Instr.matStream 16384 [],
   Instr.damperOwnerWrite 2 0 0 0, Instr.damperOwnerWrite 0 8 0 0, Instr.damperOwnerWrite 0 0 512 0,
   Instr.frameKernelStart 8 [], Instr.frameKernelStart 0 [[0]], Instr.frameFinalise 8 [], Instr.lateFinalisation 8 [],
   Instr.revert 2 0, Instr.revert 0 8, Instr.variantDrop 2 0, Instr.variantDrop 0 8, Instr.chunkSend 0 8 meet,
   Instr.chunkReceive 8 0 [] [], Instr.chunkReceive 0 32768 [] [], Instr.arrivalAdd 0 8 [], Instr.stallNoticeSend 0 8]
theorem test_ill_formed_4 : illFormedRows_4.all (fun c => !c.wellFormed) = true := by decide +kernel
noncomputable def illFormedRows_5 : List Instr :=
  [Instr.stall 8 0 0 0 0, Instr.poison 8 0 0, Instr.tombstone 8 0 0, Instr.flueGroupDrop 2 0, Instr.ctxPtRootWrite 2 0 0,
   Instr.ctxPtRootWrite 0 4096 0, Instr.cxlLinkUp 4 0 0 0, Instr.cxlLinkUp 0 0 17 0, Instr.bar4Read 2 1 1 meet,
   Instr.bar4Read 0 1 0 meet, Instr.bar4Write 2 1 [0] meet, Instr.bar4Write 0 1 [] meet, Instr.bar4Write 0 1 [0] badMeet, Instr.doeDiscovery 2 0, Instr.doeDiscovery 0 256,
   Instr.getCertificate 2 0 1 1, Instr.getCertificate 0 256 1 1, Instr.challenge 2 0 (List.replicate 32 0),
   Instr.challenge 0 256 (List.replicate 32 0), Instr.challenge 0 0 (List.replicate 31 0),
   Instr.getMeasurements 2 0 0 false (List.replicate 32 0)]
theorem test_ill_formed_5 : illFormedRows_5.all (fun c => !c.wellFormed) = true := by decide +kernel
noncomputable def illFormedRows_6 : List Instr :=
  [Instr.getMeasurements 0 256 0 false (List.replicate 32 0), Instr.getMeasurements 0 0 16 false (List.replicate 32 0),
   Instr.getMeasurements 0 0 0 true (List.replicate 31 0), Instr.flitReceive 8 (List.replicate 256 0) [],
   Instr.flitReceive 0 (List.replicate 255 0) [], Instr.datagramReceive 8 [] [] [], Instr.retrain 2 0, Instr.retrain 0 8,
   Instr.linkEnable 2 0 0, Instr.linkEnable 0 8 0, Instr.linkRetrainEnd 8 0, Instr.engineResetEnd 128 false,
   Instr.chipReset 2 0, Instr.recoveryGo 2 0, Instr.thermalSample (List.replicate 9 0), Instr.tread 1 256,
   Instr.twrite 1 256 [], Instr.evtEnWrite 2 0 4 false 0, Instr.evtEnWrite 0 2 4 false 0, Instr.evtEnWrite 0 0 5 false 0]
theorem test_ill_formed_6 : illFormedRows_6.all (fun c => !c.wellFormed) = true := by decide +kernel
noncomputable def illFormedRows_7 : List Instr :=
  [Instr.lowHalfRead 2 0 0 1 4, Instr.lowHalfRead 0 256 0 1 4, Instr.lowHalfRead 0 0 1 1 4, Instr.lowHalfRead 0 0 0 0x4000000 4,
   Instr.lowHalfRead 0 0 0 1 65, Instr.sigAdd 16384 0 0, Instr.sigAdd 0 4 0, Instr.controlHang 8 .hang,
   Instr.partitionResetEnd 8 true, Instr.registerWrite 2 0 0 1 4 0, Instr.registerWrite 0 256 0 1 4 0,
   Instr.registerWrite 0 0 1 1 4 0, Instr.registerWrite 0 0 0 0x4000000 4 0, Instr.registerWrite 0 0 0 1 0 0,
   Instr.registerWrite 0 0 0 1 9 0, Instr.hostLinkUp 2 0 0 0 false, Instr.hostLinkUp 0 0 17 0 false,
   Instr.hostLinkUp 0 0 0 256 false, Instr.priorityFlowControl 8 0 0 false, Instr.priorityFlowControl 0 0 8 false,
   Instr.priorityFlowControl 0 2 0 false,
   Instr.seqEntryFree 65536, Instr.laneLockLoss 64 true [], Instr.junctionCritical 10, Instr.cxlLinkDown 4]
theorem test_ill_formed_7 : illFormedRows_7.all (fun c => !c.wellFormed) = true := by decide +kernel
noncomputable def illFormedRows_8 : List Instr :=
  [Instr.entryPresent 4096 meet, Instr.entryPresent 0 { meet with err := some 256 }, Instr.flueGroupDefine 4096 meet,
   Instr.flueGroupDefine 0 { meet with err := some 256 }, Instr.dmaCommandStart 8 hap,
   Instr.dmaCommandStart 0 { hap with err := some (0, 256) }, Instr.flashSourceRead 0 badMeet, Instr.copy 0 0 badHap,
   Instr.strided 0 0 badHap, Instr.transpose 0 0 badHap, Instr.pageWalk 0 0 badHap, Instr.multicast 0 0 badHap,
   Instr.fill 0 0 badHap, Instr.frameSeal 8 [], Instr.frameSeal 0 [(0, badMeet)], Instr.stepStart 0 [(8, meet)],
   Instr.stepStart 0 [(0, badMeet)], Instr.publishCopyEnd 0 badHap, Instr.checkpointCopyEnd 0 badHap]
theorem test_ill_formed_8 : illFormedRows_8.all (fun c => !c.wellFormed) = true := by decide +kernel
noncomputable def illFormedRows_9 : List Instr :=
  [Instr.collectiveStart 0 [(16, meet)], Instr.collectiveStart 0 [(0, badMeet)], Instr.chunkSend 0 0 badMeet,
   Instr.arrivalAdd 0 8 [(0, meet)], Instr.arrivalAdd 0 0 [(0, badMeet)], Instr.collectiveComplete 0 [(0, badMeet)],
   Instr.collectiveLateComplete 0 [(0, badMeet)], Instr.collectiveDeadline 0 [(0, badMeet)], Instr.seqSubmit 0 badMeet,
   Instr.restoreComplete 0 [(0, badMeet)], Instr.acceptedCompletion 0 [(0, badMeet)], Instr.ptLoadComplete (2 ^ 48) meet,
   Instr.ptLoadComplete 0 badMeet, Instr.bar4Read 0 1 1 badMeet, Instr.flitReceive 0 (List.replicate 256 0) [(8, true)],
   Instr.datagramReceive 0 [] [] [(8, true)], Instr.laneLockLoss 0 true [(8, true)], Instr.setdasa 128 0, Instr.setdasa 0 128,
   Instr.frameFinalise 8 [], Instr.restoredStepResume 0 [(0, badMeet)]]
theorem test_ill_formed_9 : illFormedRows_9.all (fun c => !c.wellFormed) = true := by decide +kernel
noncomputable def wellFormedRows_1 : List Instr :=
  [Instr.candleBoundary (List.replicate 48 0), Instr.beacon 0 (List.replicate 36 0), Instr.timeUpstreamWrite 0 0, Instr.sync 0 0 0 0,
   Instr.followUp 0 0 0 0 0, Instr.delayResp 0 0 0 0 0, Instr.announce 0 0 0, Instr.ctxOwnerWrite 0 0 0, Instr.start 0 0,
   Instr.stop 0 0, Instr.reset 0 0, Instr.sqTail 0 0 0 4 0, Instr.cqHead 0 0 0 4 0, Instr.emberHead 0 0 0 4 0,
   Instr.functionLevelReset 0 0, Instr.hostPortReset 0 false, Instr.pcieConfigRequest 0 0 1 false 0,
   Instr.threadLaunch 0 0 (List.replicate 64 0) 0, Instr.instructionComplete 0 0, Instr.gld 0 0]
theorem test_well_formed_1 : wellFormedRows_1.all (fun c => c.wellFormed) = true := by decide +kernel
noncomputable def wellFormedRows_2 : List Instr :=
  [Instr.gst 0 0, Instr.hostCompletionArrive 0 0 0 [], Instr.cxlResponseArrive 0 0 0 false, Instr.readTimeout 0 0,
   Instr.copy 0 0 hap, Instr.strided 0 0 hap, Instr.transpose 0 0 hap, Instr.pageWalk 0 0 hap, Instr.multicast 0 0 hap, Instr.fill 0 0 hap,
   Instr.dmaDescriptorEnd 0 0, Instr.matStream 0 [], Instr.damperOwnerWrite 0 0 0 0, Instr.frameKernelStart 0 [],
   Instr.frameFinalise 0 [], Instr.lateFinalisation 0 [], Instr.revert 0 0, Instr.variantDrop 0 0, Instr.chunkSend 0 0 meet,
   Instr.chunkReceive 0 0 [] []]
theorem test_well_formed_2 : wellFormedRows_2.all (fun c => c.wellFormed) = true := by decide +kernel
noncomputable def wellFormedRows_3 : List Instr :=
  [Instr.arrivalAdd 0 0 [], Instr.stallNoticeSend 0 0, Instr.stall 0 0 0 0 0, Instr.poison 0 0 0, Instr.tombstone 0 0 0,
   Instr.flueGroupDrop 0 0, Instr.ctxPtRootWrite 0 0 0, Instr.cxlLinkUp 0 0 0 0, Instr.bar4Read 0 1 1 meet,
   Instr.bar4Write 0 1 [0] meet, Instr.doeDiscovery 0 0, Instr.getCertificate 0 0 1 1, Instr.challenge 0 0 (List.replicate 32 0),
   Instr.getMeasurements 0 0 0 false (List.replicate 32 0), Instr.flitReceive 0 (List.replicate 256 0) [],
   Instr.datagramReceive 0 [] [] [], Instr.retrain 0 0, Instr.linkEnable 0 0 0, Instr.linkRetrainEnd 0 0,
   Instr.engineResetEnd 0 false]
theorem test_well_formed_3 : wellFormedRows_3.all (fun c => c.wellFormed) = true := by decide +kernel
noncomputable def wellFormedRows_4 : List Instr :=
  [Instr.chipReset 0 0, Instr.recoveryGo 0 0, Instr.thermalSample (List.replicate 10 0), Instr.tread 1 0,
   Instr.twrite 1 0 [], Instr.evtEnWrite 0 0 4 false 0, Instr.lowHalfRead 0 0 0 1 4, Instr.sigAdd 16383 3 0,
   Instr.controlHang 7 .l2, Instr.partitionResetEnd 7 false, Instr.registerWrite 0 0 0 1 4 0,
   Instr.hostLinkUp 0 0 0 0 false, Instr.priorityFlowControl 0 1 7 false, Instr.seqSubmit 4095 meet, Instr.seqEntryFree 65535, Instr.laneLockLoss 63 true [],
   Instr.junctionCritical 9, Instr.cxlLinkDown 3]
theorem test_well_formed_4 : wellFormedRows_4.all (fun c => c.wellFormed) = true := by decide +kernel

noncomputable def wellFormedRows_5 : List Instr :=
  [Instr.entryPresent 0 meet, Instr.flueGroupDefine 0 { meet with err := some 255 }, Instr.dmaCommandStart 0 hap,
   Instr.flashSourceRead 0 { meet with err := some 255 }, Instr.frameSeal 7 [(0, meet)], Instr.stepStart 0 [(7, meet)], Instr.publishCopyEnd 0 hap,
   Instr.checkpointCopyEnd 0 hap, Instr.collectiveStart 0 [(15, meet)], Instr.collectiveComplete 0 [(7, meet)],
   Instr.collectiveLateComplete 0 [], Instr.collectiveDeadline 0 [], Instr.ptLoadComplete 0 meet, Instr.setdasa 127 127]
theorem test_well_formed_5 : wellFormedRows_5.all (fun c => c.wellFormed) = true := by decide +kernel

/-! ## Helpers -/

/-- The invariant, as one check. -/
def invOk (s : State) : Bool :=
  s.mem.wf && regsOkFrom 0 s.regs && twf CtxRun.dflt s.ctxs && twf Part.dflt s.parts && twf Cluster.dflt s.clusters &&
    twf Tile.dflt s.tiles && twf Thread.dflt s.threads && twf Sample.dflt s.table && twf Link.dflt s.links &&
    twf HostPort.dflt s.hosts && decide (s.time.cyc < 1024) && decide (s.time.mark < 2 ^ 54) &&
    (match s.time.setM with
     | some x => decide (x.2.1 < 2 ^ 54)
     | none => true)

theorem inv_of {s : State} (h : invOk s = true) : s.Inv := by
  simp only [invOk, Bool.and_eq_true, decide_eq_true_eq] at h
  obtain ⟨⟨⟨⟨⟨⟨⟨⟨⟨⟨⟨⟨h1, h2⟩, h3⟩, h4⟩, h5⟩, h6⟩, h7⟩, h8⟩, h9⟩, h10⟩, h11⟩, h12⟩, h13⟩ := h
  refine ⟨h1, h2, h3, h4, h5, h6, h7, h8, h9, h10, h11, h12, fun x hx => ?_⟩
  rw [Option.mem_def.mp hx] at h13
  exact of_decide_eq_true h13

def actOk (s : State) : Bool := invOk s && !s.board.off

theorem acting_of {s : State} (h : actOk s = true) : acting s := by
  simp only [actOk, Bool.and_eq_true, Bool.not_eq_true'] at h
  exact ⟨inv_of h.1, h.2⟩

/-- It acts, its host links are configured, and function fn of the port takes memory requests. -/
def hostOk (s : State) (port : Nat := 0) (fn : Nat := 0) : Bool := actOk s && s.configReady && s.reaches port fn

theorem hosted_of {s : State} {port fn : Nat} (h : hostOk s port fn = true) : hosted s port fn := by
  simp only [hostOk, Bool.and_eq_true] at h
  exact ⟨acting_of h.1.1, h.1.2, h.2⟩

/-- A launch record for thread t: 64 KiB of scratchpad, code at its start, one block of accumulators. -/
def testRecord (t : Nat) : List Byte :=
  toLE 2 (t / 16) ++ toLE 1 (t % 16) ++ toLE 1 0 ++ toLE 2 5 ++ toLE 2 16 ++ toLE 4 0 ++ toLE 4 65536 ++ toLE 4 0 ++
    toLE 4 1024 ++ toLE 8 0 ++ toLE 32 0

/-- The state at reset with thread t LIVE at the instruction word w, scalar registers `rs`, and bytes `ws` in its tile. -/
def atWord (t w : Nat) (rs : List (Nat × Word) := []) (ws : List (Nat × List Byte) := []) : State :=
  { State.reset with
    threads := [(t, { Thread.dflt with state := .live, record := testRecord t, sregs := rs })]
    mem := ws.foldl (fun m e => m.writeN (windowOf (t / 16) + e.1) e.2)
      (State.reset.mem.writeN (windowOf (t / 16)) (toLE 8 w)) }

def turnOk (s : State) (t c o : Nat) : Bool :=
  actOk s && s.picks t && wClass (word s t) == c && wOp (word s t) == o

theorem turn_of {s : State} {t c o : Nat} (h : turnOk s t c o = true) : Turn s t c o := by
  simp only [turnOk, Bool.and_eq_true, beq_iff_eq] at h
  obtain ⟨⟨⟨h1, h2⟩, h3⟩, h4⟩ := h
  exact ⟨(acting_of h1).1, (acting_of h1).2, h2, h3, h4⟩

/-- The same once the writes of the cycle have come. -/
def readsOk (s : State) (t c o : Nat) : Bool := !s.board.off && turnOk s.settleWrites t c o

theorem reads_of {s : State} {t c o : Nat} (h : readsOk s t c o = true) : Reads s t c o := by
  simp only [readsOk, Bool.and_eq_true, Bool.not_eq_true'] at h
  exact ⟨h.1, turn_of h.2⟩

/-- Words of the formats R, V and M (R262). -/
def wordR (c o rd ra rb aux imm : Nat) : Nat :=
  c + 2 ^ 4 * o + 2 ^ 10 * rd + 2 ^ 15 * ra + 2 ^ 20 * rb + 2 ^ 25 * aux + 2 ^ 32 * imm
def wordV (c o vd va vb vc dt rnd cc rs rt : Nat) : Nat :=
  c + 2 ^ 4 * o + 2 ^ 10 * vd + 2 ^ 13 * va + 2 ^ 16 * vb + 2 ^ 19 * vc + 2 ^ 22 * dt + 2 ^ 26 * rnd + 2 ^ 28 * cc +
    2 ^ 32 * rs + 2 ^ 37 * rt
def wordM (c o m bank dt ra rb rc slot en imm : Nat) : Nat :=
  c + 2 ^ 4 * o + 2 ^ 10 * m + 2 ^ 14 * bank + 2 ^ 15 * dt + 2 ^ 22 * ra + 2 ^ 27 * rb + 2 ^ 32 * rc + 2 ^ 37 * slot +
    2 ^ 46 * en + 2 ^ 47 * imm

/-! ## Instructions that issue -/

theorem test_register_row_issues : Turn (atWord 16383 (wordR 0 0x00 31 1 2 0 0)) 16383 0 0x00 := turn_of (by decide)
theorem test_immediate_row_issues : Turn (atWord 0 (wordR 0 0x10 31 1 0 0 (2 ^ 32 - 1))) 0 0 0x10 := turn_of (by decide)
theorem test_movs_issues : ∀ i < 8, let s := atWord 5 (wordR 0 0x15 1 0 0 0 i)
    turnOk s 5 0 0x15 = true ∧ imm s 5 = BitVec.ofNat 64 i := by decide
theorem test_branch_taken : let s := atWord 0 (wordR 0 0x20 0 1 2 0 (2 ^ 32 - 1)) [(1, 7), (2, 7)]
    turnOk s 0 0 0x20 = true ∧ (ra s 0 == rb s 0) = true := by decide
theorem test_branch_not_taken : let s := atWord 0 (wordR 0 0x20 0 1 2 0 3) [(1, 7)]
    turnOk s 0 0 0x20 = true ∧ (ra s 0 == rb s 0) = false := by decide
theorem test_jal_issues : Turn (atWord 0 (wordR 0 0x26 0 0 0 0 5)) 0 0 0x26 := turn_of (by decide)
theorem test_jalr_issues : Turn (atWord 0 (wordR 0 0x27 31 2 0 0 1) [(2, 64)]) 0 0 0x27 := turn_of (by decide)
theorem test_ld_issues : Reads (atWord 0 (wordR 1 0 3 2 0 3 0) [(2, 65528)]) 0 1 0 := reads_of (by decide +kernel)
theorem test_st_issues : Turn (atWord 0 (wordR 1 1 0 2 3 0 0) [(2, 65535)]) 0 1 1 := turn_of (by decide)
theorem test_vld_issues : Reads (atWord 0 (wordR 1 2 7 2 0 0 0) [(2, 65280)]) 0 1 2 := reads_of (by decide +kernel)
theorem test_vst_issues : Turn (atWord 0 (wordR 1 3 0 2 0 0 0) [(2, 1024)]) 0 1 3 := turn_of (by decide)
theorem test_gld_issues : Turn (atWord 0 (wordR 1 8 0 2 3 0 0) [(2, 64), (3, 4096)]) 0 1 8 := turn_of (by decide)
theorem test_gst_issues : Reads (atWord 0 (wordR 1 9 0 2 3 0 0) [(2, 64), (3, 4096)]) 0 1 9 := reads_of (by decide +kernel)
theorem test_sig_add_issues : Turn (atWord 0 (wordR 5 0 4 2 3 0 0) [(2, 64)]) 0 5 0 := turn_of (by decide)
theorem test_sig_wait_issues : Reads (atWord 0 (wordR 5 1 4 2 3 127 0) [(2, 4096)]) 0 5 1 := reads_of (by decide +kernel)
theorem test_mark_wait_issues : Turn (atWord 0 (wordR 5 2 4 2 0 0 0)) 0 5 2 := turn_of (by decide)
theorem test_tfence_issues : Turn (atWord 0 (wordR 5 3 0 0 0 0 0)) 0 5 3 := turn_of (by decide)
theorem test_exit_issues : Turn (atWord 0 (wordR 5 4 0 0 0 0 0)) 0 5 4 := turn_of (by decide)
theorem test_sig_wait_times_out :
    let s := atWord 0 (wordR 5 1 4 2 3 127 0) [(2, 4096), (3, 1)]
    let s1 := { s with time := { s.time with mark := 127 } }
    actOk s1 = true ∧ s1.offers 0 = true ∧ (s1.thread 0).pcOk = true ∧ wClass (word s1 0) = 5 ∧ wOp (word s1 0) = 1 ∧
      (s1.thread 0).nextMark + wAux (word s1 0) ≤ s1.time.mark := by decide

/-- A FILL descriptor of 64 bytes at virtual address 64 (R309). -/
def fillDesc : List Byte := toLE 1 5 ++ toLE 63 0
theorem test_lane_row_issues : Turn (atWord 0 (wordV 2 0 7 1 2 0 0 0 0 0 0)) 0 2 0 := turn_of (by decide)
theorem test_vfma_issues : Turn (atWord 0 (wordV 2 3 7 1 2 3 1 0 0 0 0)) 0 2 3 := turn_of (by decide)
theorem test_vcmp_issues : Turn (atWord 0 (wordV 2 6 7 1 2 0 0 0 3 0 0)) 0 2 6 := turn_of (by decide)
theorem test_vsel_issues : Turn (atWord 0 (wordV 2 7 7 1 2 3 0 0 0 0 0)) 0 2 7 := turn_of (by decide)
theorem test_vbcast_issues : Turn (atWord 0 (wordV 2 8 7 0 0 0 0 0 0 31 0)) 0 2 8 := turn_of (by decide)
theorem test_vextr_issues : Turn (atWord 0 (wordV 2 9 0 1 0 0 0 0 0 2 31) [(2, 63)]) 0 2 9 := turn_of (by decide)
theorem test_integer_row_issues : Turn (atWord 0 (wordV 2 0x26 7 1 2 0 0 0 0 0 0)) 0 2 0x26 := turn_of (by decide)
theorem test_special_row_issues : Turn (atWord 0 (wordV 2 0x12 7 1 0 0 1 0 0 0 0)) 0 2 0x12 := turn_of (by decide)
theorem test_tree_row_issues : ∀ dt < 2, let s := atWord 0 (wordV 2 0x18 7 1 0 0 dt 0 0 0 0)
    turnOk s 0 2 0x18 = true ∧ vDt (word s 0) = dt := by decide
theorem test_vrargmax_issues : ∀ dt < 2, let s := atWord 0 (wordV 2 0x1A 7 1 0 0 dt 0 0 0 0)
    turnOk s 0 2 0x1A = true ∧ vDt (word s 0) = dt := by decide
theorem test_vcvt_issues : Turn (atWord 0 (wordV 2 0x30 7 1 0 0 5 0 0 0 0)) 0 2 0x30 := turn_of (by decide)
theorem test_vunpk_issues : Turn (atWord 0 (wordV 2 0x31 7 1 0 0 5 0 0 0 0)) 0 2 0x31 := turn_of (by decide)
theorem test_spk_bits_issues : Turn (atWord 0 (wordV 6 0 7 0 0 0 0 0 0 1 2) [(2, 64)]) 0 6 0 := turn_of (by decide)
theorem test_spk_gumbel_issues : Turn (atWord 0 (wordV 6 1 7 1 0 0 0 0 0 1 2)) 0 6 1 := turn_of (by decide)
theorem test_special_inputs : (0 : Nat) < 1 ∧ (0 : Int) ≤ 7 ∧ 128 ≤ 1 * 2 ^ (7 : Int).toNat ∧ 126 < 127 * 2 ^ (0 : Int).toNat := by decide
theorem test_dma_submit_issues :
    let s := atWord 0 (wordR 4 0 0 2 3 7 0) [(2, 2048), (3, 4096)] [(2048, toLE 8 5 ++ toLE 8 0 ++ toLE 8 4096 ++ toLE 8 64 ++ toLE 32 0)]
    readsOk s 0 4 0 = true ∧ s.settleWrites.descOk 0 (s.settleWrites.localBytes (s.thread 0) (ra s 0).toNat 64) = true := by
  decide +kernel
theorem test_dma_submit_bad :
    let s := atWord 0 (wordR 4 0 0 2 0 0 0) [(2, 2048)] [(2048, toLE 1 6 ++ toLE 63 0)]
    readsOk s 0 4 0 = true ∧ s.settleWrites.descOk 0 (s.settleWrites.localBytes (s.thread 0) (ra s 0).toNat 64) = false := by
  decide +kernel
theorem test_mat_load_issues : Reads (atWord 0 (wordM 3 0 15 1 3 2 3 0 0 0 3) [(2, 2048 + 2 ^ 24 * 32)]) 0 3 0 := reads_of (by decide +kernel)
theorem test_mat_stream_issues : let s := atWord 0 (wordM 3 1 1 0 3 2 3 0 0 0 0) [(2, 2048)]
    turnOk s 0 3 1 = true ∧ (s.thread 0).tileNo = 0 / 16 := by decide +kernel
/-- An OCU descriptor: 64 entries in MXINT8 with a sign mask, to offsets 4096, 5120 and 6144 (R233). -/
def drainDesc : List Byte :=
  toLE 4 (5 * 2 ^ 24) ++ toLE 4 64 ++ toLE 4 64 ++ toLE 12 4 ++ toLE 4 4096 ++ toLE 4 5120 ++ toLE 4 6144 ++ toLE 28 0
theorem test_mat_drain_issues : let s := atWord 0 (wordM 3 2 0 0 0 2 3 0 0 0 0) [(2, 2048)] [(2048, drainDesc)]
    readsOk s 0 3 2 = true := by decide +kernel
theorem test_drain_destinations :
    let r : DrainRun := {
      desc := drainDesc, tile := 0, part := 0, rd := 3, seed := 0, scale := [], bias := [], nf := false, codes := [] }
    (r.outBytes, r.scaleBytes, r.maskBytes, r.entries % blockOf r.dtype) = (64, 2, 8, 0) := by decide

/-- The state of a Damper instruction: slot 511 belongs to the thread's context. -/
def atDamper (o ra rb : Nat) : State :=
  ((atWord 0 (wordM 3 o 0 0 0 ra rb 0 511 1 0) [(2, 2048)]).setFld (F.dValid 0 511) 1).setFld (F.dCtx 0 511) 5

theorem test_damper_update_issues : Turn (atDamper 8 0 0) 0 3 8 := turn_of (by decide +kernel)
theorem test_damper_read_issues : Turn (atDamper 9 0 3) 0 3 9 := turn_of (by decide +kernel)
theorem test_damper_write_issues : Turn (atDamper 10 2 0) 0 3 10 := turn_of (by decide +kernel)
theorem test_damper_hsave_issues : Turn (atDamper 11 2 0) 0 3 11 := turn_of (by decide +kernel)
theorem test_damper_hload_issues : Reads (atDamper 12 2 0) 0 3 12 := reads_of (by decide +kernel)

/-! ## Launches, completions and descriptors -/

/-- A training step of command 3 on the partitions ps. -/
def testStep (ps : List Nat) : Step :=
  { cid := 3, ctx := 5, parts := ps, commit := 100, number := 1, version := 2, views := [], started := false, hdrFault := [],
    threadFault := [], mainUp := false, gate := [], gated := [], updUp := [], colls := [], ended := [], startAt := 0,
    frozen := false, late := [], allow := [] }

theorem test_launch_starts : ∀ r ∈ [1, 2], let s := (State.reset.setFld (F.role 7) r).setFld (F.inService 7) 1
    actOk s = true ∧ s.launchOk 7 (testRecord 16383) = true ∧ s.withinAllowance 7 (testRecord 16383) = true ∧
      bit (leAt (testRecord 16383) 3 1) 0 = false ∧
      s.replayBars { Thread.dflt with record := testRecord 16383 }.ctx (recordThread (testRecord 16383) / 128) = false := by
  decide +kernel
/-- Contexts 5 and 6 are suspects of cluster 0, and 6 is being replayed. -/
theorem test_launch_barred :
    let s := (State.reset.setFld (F.role 0) 1).setCluster 0 { Cluster.dflt with suspects := [5, 6], current := some 6 }
    actOk s = true ∧ s.role 0 = rLantern ∧ s.flag (F.inReset 0) = false ∧
      s.replayBars { Thread.dflt with record := testRecord 0 }.ctx (recordThread (testRecord 0) / 128) = true := by decide +kernel
theorem test_launch_refused_off : let s := State.reset
    actOk s = true ∧ s.launchOk 7 (testRecord 16383) = false ∧ s.role 7 = rOff := by decide +kernel
theorem test_launch_refused_lantern : let s := (State.reset.setFld (F.role 0) 1).setFld (F.inService 0) 1
    actOk s = true ∧ s.launchOk 0 (testRecord 16383) = false ∧ s.role 0 = rLantern ∧ s.flag (F.inReset 0) = false := by decide +kernel
theorem test_launch_refused_hearth :
    let s := { (State.reset.setFld (F.role 0) 2).setFld (F.inService 0) 1 with steps := [{ testStep [0] with allow := [(0, 0)] }] }
    actOk s = true ∧ s.launchOk 0 (testRecord 0) = true ∧ s.withinAllowance 0 (testRecord 0) = false ∧ s.role 0 = rHearth ∧ s.flag (F.inReset 0) = false ∧
      (s.stepOn 0).isSome = true := by decide +kernel
/-- A launch record whose LFLAGS set SHARED. -/
def sharedRecord : List Byte := (testRecord 0).take 3 ++ [1] ++ (testRecord 0).drop 4
theorem test_launch_refused_shared : let s := (State.reset.setFld (F.role 0) 2).setFld (F.inService 0) 1
    actOk s = true ∧ s.role 0 = rHearth ∧ bit (leAt sharedRecord 3 1) 0 = true ∧ s.launchOk 0 sharedRecord = true ∧
      s.flag (F.inReset 0) = false := by decide +kernel

/-- An instruction of thread 0 that is due, with effects fx. -/
def testFlight (fx : List Effect) : InFlight :=
  { id := 4, thread := 0, word := BitVec.ofNat 64 (wordR 1 8 0 0 0 0 0), pc := 0, issue := 0, due := 0, margin := 4, sdst := none,
    vdst := none, reads := [], writes := [], line := none, mat := none, answer := false, unit := 0, effects := fx, stamp := 0,
    late := 0, run := none }

/-- Partition 0 a hearth partition in service, thread 0 LIVE with one instruction under way. -/
def atFlight (f : InFlight) : State :=
  { (atWord 0 0).setFld (F.role 0) 2 with inflight := [f] }

def dueOk (s : State) (t id : Nat) (f : InFlight) : Bool :=
  actOk s && s.flightOf t id == some f && !f.answer && decide (f.due ≤ s.now) &&
    (s.inflight.all fun i => i.answer || i.due != s.now || decide (f.rank ≤ i.rank)) &&
    (!isLoad f || decide (s.settleWrites = s)) && !s.damperHolds f

theorem due_of {s : State} {t id : Nat} {f : InFlight} (h : dueOk s t id f = true) : Due s t id f := by
  simp only [dueOk, Bool.and_eq_true, beq_iff_eq, Bool.not_eq_true', decide_eq_true_eq] at h
  obtain ⟨⟨⟨⟨⟨⟨ha, hf⟩, hd⟩, hn⟩, hr⟩, hq⟩, hh⟩ := h
  refine ⟨acting_of ha, hf, hd, hn, fun i hi h1 h2 => ?_, fun hl => ?_, hh⟩
  · simpa [h1, h2] using List.all_eq_true.mp hr i hi
  · simpa [hl] using hq

theorem test_completions_are_due : ∀ fx ∈ [[], [Effect.sreg 31 7], [Effect.vreg 7 zeroLanes], [Effect.store windowBase [1, 2]],
      [Effect.load windowBase (windowBase + 64) 64 none], [Effect.load windowBase (windowBase + 64) 2 (some [3, 4])], [Effect.sigAdd windowBase 2 5 true], [Effect.exit]],
    let s := atFlight (testFlight fx)
    dueOk s 0 4 (testFlight fx) = true ∧ s.backed windowBase = true ∧ (s.thread 0).state = .live ∧ s.steps = [] := by
  decide +kernel
/-- A stream of one pass on array 1 with INIT, whose column sums are all 8 × 2^(30 − 27), to be written in the cycle c after its
issue. -/
def testStream (wide : Bool) (c : Nat) : State :=
  let run : StreamRun :=
    { w := 1, r := 1, v := 1, ev := 32, mask := 2, bank := 0, dt := 3, src := 0, stride := 0, scaleAt := 0, base := 64, wide := wide,
      init := true, rot := [], ta := 0, upsets := [], vecs := [], sums := [(0, false, [(1, List.replicate 32 (.val 8 30))])], begun := [],
      claimed := none, out := false }
  { atFlight { testFlight [] with due := 99, run := some run } with time := { State.reset.time with cycle := c } }
theorem test_stream_pass_due : ∀ wide : Bool, let s := testStream wide 16
    (s.inflight.find? fun i => i.id == 4).any (fun f => f.thread < 16384 && f.run.any fun u => decide (0 < u.v) && decide (u.base < 65536) &&
      (tfind u.sums 0).isSome && s.now == f.issue + (u.w + u.r * 0 + u.r - 1) + 15) = true := by decide
theorem test_stream_pass_writes : let s := (testStream false 16).passStage 4 0
    (s.readLE (accAddr 0 64 false 32) 4, s.readLE (accAddr 0 64 false 0) 4) = (0x42800000, 0) := by decide +kernel
/-- Two instructions of one cycle, a GST of thread 1 and one that is no memory access. -/
def twoFlights : State :=
  atFlight (testFlight []) |> fun s => { s with inflight := [{ testFlight [] with word := 0 },
    { testFlight [Effect.store windowBase [1]] with thread := 1, word := BitVec.ofNat 64 (wordR 1 9 0 0 0 0 0) }] }
theorem test_completion_order : let s := twoFlights
    actOk s = true ∧ s.flightOf 0 4 = some { testFlight [] with word := 0 } ∧ s.now = 0 ∧ s.damperHolds { testFlight [] with word := 0 } = false ∧
      s.inflight.map InFlight.rank = [16386, 3] := by decide +kernel
theorem test_damper_waits : let f := testFlight [Effect.damperWrite 0 3 5]
    let s := { atFlight f with steps := [{ testStep [0] with started := true, commit := 0 }] }
    actOk s = true ∧ s.flightOf 0 4 = some f ∧ f.due ≤ s.now ∧ s.damperHolds f = true := by decide +kernel
theorem test_faults_are_due : ∀ fx ∈ [[Effect.fault 5], [Effect.store (windowBase + 2 ^ 20 * 1023) [1]]],
    let s := atFlight (testFlight fx)
    dueOk s 0 4 (testFlight fx) = true ∧ (s.thread 0).state = .live ∧ (s.thread 0).ctx = 5 ∧ s.backed (windowBase + 2 ^ 20 * 1023) = false := by
  decide +kernel
theorem test_shared_thread : ({ Thread.dflt with record := sharedRecord } : Thread).shared = true := by decide
theorem test_other_thread_faults : let f := testFlight [Effect.fault 5]
    let s := (atFlight f).setFld (F.cState 5) 1
    dueOk s 0 4 f = true ∧ (s.thread 0).shared = false ∧ (s.thread 0).owner = .none ∧ s.cstate (s.thread 0).ctx = cLive := by decide +kernel
theorem test_illegal_instruction : let s := atWord 0 (wordR 0 0x3F 0 0 0 0 0)
    actOk s = true ∧ ∃ e, s.nextOf 0 = some e ∧ s.regsFree 0 e.2 = true ∧ e.2.cond ≠ 0 := by
  refine ⟨by decide +kernel, (wordR 0 0x3F 0 0 0 0 0, Plan.illegal 1), by decide +kernel, by decide +kernel, by decide +kernel⟩
theorem test_looks_at : ∀ s : State, looksAt s 0 (.add 0) s ∧ looksAt s 0 (.ld 0) s.settleWrites ∧ looksAt s 0 (.gst 0 3) s.settleWrites :=
  fun _ => ⟨Or.inl ⟨rfl, Or.inl ⟨.add, List.mem_append_left _ (List.mem_append_left _ (List.Mem.head _)), rfl⟩⟩,
    Or.inr ⟨rfl, Or.inl ⟨.ld, List.Mem.head _, rfl⟩⟩, Or.inr ⟨rfl, Or.inr ⟨3, rfl⟩⟩⟩
theorem test_nothing_issues : let s := { atWord 0 (wordR 0 0 31 1 2 0 0) with inflight := [{ testFlight [] with sdst := some 1 }] }
    actOk s = true ∧ s.picks 0 = false ∧ (s.nextOf 0).all (fun e => !(s.regsFree 0 e.2) || e.2.cond == 0) = true := by
  decide +kernel

/-- A read of the window of host port 1 that waits for its answer. -/
def hostFlight (due : Nat) : InFlight :=
  { testFlight [Effect.load (hostBase + hostPortSize) (windowBase + 4096) 64 none] with
    answer := true, due := due, unit := 1, line := some ((hostBase + hostPortSize) / 64) }

theorem test_host_answers : ∀ due ∈ [0, 1, 2],
    let s := { atFlight (hostFlight due) with time := { State.reset.time with cycle := 1 } }
    actOk s = true ∧ s.flightOf 0 4 = some (hostFlight due) ∧ hostOf (hostBase + hostPortSize) = some (1, 0) := by
  decide +kernel

/-- A read of an expander that waits for its answer. -/
def cxlFlight (due : Nat) : InFlight :=
  { testFlight [Effect.load cxlBase (windowBase + 4096) 64 none] with answer := true, due := due, unit := 3, line := some (cxlBase / 64) }

theorem test_expander_answers :
    (let s := atFlight (cxlFlight 1)
     actOk s = true ∧ s.flightOf 0 4 = some (cxlFlight 1) ∧ (cxlOf ((cxlFlight 1).line.getD 0 * 64)).isSome = true ∧
       s.now < (cxlFlight 1).due) ∧
    ∀ f ∈ [cxlFlight 0, hostFlight 0], let s := { atFlight f with time := { State.reset.time with cycle := 16384 * 1024 } }
      actOk s = true ∧ s.flightOf 0 4 = some f ∧ isLoad f = true ∧ f.due + 16384 * 1024 ≤ s.now := by
  decide +kernel

/-- A descriptor of thread 0 and kind k. -/
def testDesc (k : Nat) (running bad : Bool) : Desc :=
  { thread := 0, ifId := 4, bytes := toLE 1 k ++ toLE 63 0, ctx := 5, queued := 0, running := running, endAt := 0, margin := 0,
    signal := some windowBase, reads := [], writes := [], hap := hap, run := { DmaRun.start 0 0 .free with pos := 1, bad := bad } }

/-- A state with descriptor d at the head of channel 3 of cluster 127, and its DMA_SUBMIT under way. -/
def atDesc (d : Desc) : State := (atFlight { testFlight [] with due := 7 }).setChannel 127 3 [d]

theorem test_descriptors_start : ∀ row ∈ descRows, let d := testDesc row.2 false false
    let s := atDesc d
    actOk s = true ∧ s.channel 127 3 = [d] ∧ d.queued ≤ s.now ∧ dKind d.bytes = row.2 ∧ (s.cluster 127).frozenAt = none := by
  decide +kernel
theorem test_descriptors_end : ∀ k ∈ [(5, false), (5, true), (0, false)], let d := testDesc k.1 true k.2
    let s := atDesc d
    actOk s = true ∧ s.channel 127 3 = [d] ∧ d.endAt + transferLate d.hap d.run ≤ s.now ∧ (s.cluster 127).frozenAt = none ∧
      s.settleSteps = s ∧
      s.flightOf d.thread d.ifId = some { testFlight [] with due := 7 } ∧ (s.thread d.thread).state = .live ∧ s.steps = [] := by
  decide +kernel
/-! ## Device time -/

/-- The registers of s with the named fields at the given values. -/
def withRegs (s : State) (l : List (Fld × Nat)) : State := l.foldl (fun s e => s.setFld e.1 e.2) s

/-- A device whose MARKREF is locked, at a position of the counter and in a time state. -/
def atTime (t : TimeBase) (state : Nat) : State :=
  withRegs { State.reset with time := t } [(F.markrefLock, 1), (F.tState, state)]

theorem test_first_pulse : let s := atTime { TimeBase.reset with mark := 70000, cyc := 5, cycle := 70000 * 1024 } 0
    actOk s = true ∧ s.flag F.markrefLock = true ∧ s.time.synced = false ∧ s.time.pulses = [] ∧ s.trimVal + s.trimStep s.time.nextCandle ≤ 0 := by decide +kernel
theorem test_pulse_outside_window : ∀ relock : Bool, let s := (atTime
      { TimeBase.reset with mark := 65536, cyc := 513, cycle := 70000 * 1024, synced := true, relock := relock } 2)
    actOk s = true ∧ s.flag F.markrefLock = true ∧ s.time.synced = true ∧ s.time.displacement = 513 ∧ s.tstate = 2 ∧
      s.time.pulses = [] ∧ s.trimVal = 0 ∧ s.trimStep s.time.nextCandle = 0 := by decide +kernel
/-- TIME_TRIM at v cycles, the counter at a position. -/
def atTrim (v mark cyc : Nat) : State := (atTime
  { TimeBase.reset with mark := mark, cyc := cyc, cycle := 70000 * 1024, synced := true } 1).setFld F.trim v
theorem test_pulse_delayed : let s := atTrim 5 65535 1000
    actOk s = true ∧ s.flag F.markrefLock = true ∧ s.time.pulses = [] ∧ 0 < s.trimVal + s.trimStep s.time.nextCandle := by
  decide +kernel
theorem test_pulse_before_its_time : ∀ x ∈ [(65535, 1020, -12), (65536, 7, -1), (65536, 3, -5), (65536, 8, 0)], let s := atTrim (2 ^ 16 - 8) x.1 x.2.1
    actOk s = true ∧ s.flag F.markrefLock = true ∧ s.time.pulses = [] ∧ s.trimVal = -8 ∧ s.trimStep s.time.nextCandle = 0 ∧
      s.time.displacement - 8 = x.2.2 := by decide +kernel
theorem test_pulse_late : ∀ r ∈ [(false, 1), (true, 2), (true, 3)], let s := (atTime
      { TimeBase.reset with mark := 65536, cyc := 512, cycle := 70000 * 1024, synced := true, relock := r.1 } r.2)
    actOk s = true ∧ s.flag F.markrefLock = true ∧ s.time.synced = true ∧ s.time.displacement = 512 ∧
      s.time.atEdge = false ∧ s.tstate = r.2 ∧ s.time.relock = r.1 ∧ s.relocks = r.1 ∧ s.time.pulses = [] ∧ s.trimVal = 0 ∧
      s.trimStep s.time.nextCandle = 0 := by decide +kernel
theorem test_pulse_early : let s := (atTime
      { TimeBase.reset with mark := 65535, cyc := 1022, cycle := 70000 * 1024, synced := true } 1)
    actOk s = true ∧ s.flag F.markrefLock = true ∧ s.time.synced = true ∧ s.time.displacement = -2 ∧
      s.time.pulses = [] ∧ s.trimVal + s.trimStep s.time.nextCandle = 0 := by decide +kernel
theorem test_pulse_held : ∀ h ∈ [0, 1, 513], let s := (atTime
      { TimeBase.reset with mark := 65535, cyc := 1023, hold := h, cycle := 70000 * 1024, synced := true } 1)
    actOk s = true ∧ s.time.synced = true ∧ s.time.atEdge = true ∧ s.time.displacement = (h : Int) - 1 ∧
      s.sampling = true ∧ s.time.pulses = [] ∧ s.trimVal = 0 ∧ (h = 513 → 513 + s.trimStep s.time.nextCandle ≤ (s.time.hold : Int)) := by
  decide +kernel
theorem test_candle_boundary : ∀ cap : Bool, let s := (atTime
      { TimeBase.reset with mark := 131072, cyc := 0, cycle := 70000 * 1024, synced := true, boundary := true } 1)
    let s1 := { s with board := { s.board with capBudget := cap } }
    actOk s1 = true ∧ s1.time.boundary = true ∧ s1.trimErr = 0 ∧ s1.time.stepIn = none ∧ s1.time.setM = none := by decide +kernel
theorem test_candle_boundary_of_a_pulse : ∀ d ∈ [1, 0, -1], let s := atTime { TimeBase.reset with
      mark := 131072, cyc := 0, cycle := 70000 * 1024, synced := true, boundary := true, stepIn := some d } 1
    actOk s = true ∧ s.time.boundary = true ∧ s.time.stepIn = some d ∧ s.time.setM = none ∧ -32768 ≤ s.trimVal + d ∧
      s.trimVal + d < 32768 := by decide +kernel
theorem test_mark_set_at_candle : let s := atTime { TimeBase.reset with
      mark := 131072, cyc := 0, cycle := 70000 * 1024, synced := true, boundary := true, setM := some (3, 262144, 131070) } 1
    actOk s = true ∧ s.time.boundary = true ∧ s.trimErr = 0 ∧ s.time.stepIn = none ∧ s.time.setM = some (3, 262144, 131070) ∧
      131070 + 2 ≤ s.time.mark ∧ s.fenced 3 = false ∧ s.time.candleBad = false := by decide +kernel
theorem test_trim_steps : ∀ e ∈ [(5 : Int), -5], let s0 := atTime { TimeBase.reset with
      mark := 131072, cyc := 0, cycle := 70000 * 1024, synced := true, boundary := true } 1
    let s := withRegs s0 [(F.upValid, 1), (F.noUpstream, 0), (F.trim, 7), (F.podOffset, (e % 65536).toNat)]
    actOk s = true ∧ s.time.boundary = true ∧ s.trimErr = e ∧ s.time.stepIn = none ∧ s.time.setM = none ∧ s.tstate = 1 ∧
      s.trimVal = 7 := by decide +kernel
theorem test_second_bad_candle : let s := atTime { TimeBase.reset with
      mark := 131072, cyc := 0, cycle := 70000 * 1024, synced := true, boundary := true, candleBad := true, badLast := true } 1
    actOk s = true ∧ s.time.boundary = true ∧ s.time.setM = none ∧ s.tstate = 1 ∧ s.time.candleBad = true ∧ s.time.badLast = true := by decide +kernel
theorem test_markref_loss : let s := atTime TimeBase.reset 1
    actOk s = true ∧ s.flag F.markrefLock = true ∧ s.tstate = 1 := by decide +kernel
theorem test_markref_lock : let s := State.reset
    actOk s = true ∧ s.flag F.markrefLock = false := by decide +kernel
theorem test_holdover_expiry : let s := atTime { TimeBase.reset with holdSince := 1, cycle := 65536 * 1024 + 1 } 2
    actOk s = true ∧ s.tstate = 2 ∧ s.time.holdSince + 65536 * 1024 ≤ s.time.cycle := by decide +kernel

/-- Port 7 up, and named as the upstream port of the time domain. -/
def atUpstream (eth : Nat) : State :=
  withRegs { State.reset with time := { TimeBase.reset with mark := 256, cycle := 256 * 1024 } }
    [(F.lkState 7, 2), (F.lkMode 7, eth), (F.upPort, 7), (F.upValid, 1), (F.noUpstream, 0)]

theorem test_beacon_send : let s := (atUpstream 0).setLink 7 { Link.dflt with vc3 := { Credit.dflt with adv := 65535, sent := 65534 } }
    actOk s = true ∧ s.time.mark % 256 = 0 ∧ s.flag (F.lkMode 7) = false ∧ s.linkUp 7 = true ∧
      (s.link 7).sentBeacon ≠ s.time.mark + 1 ∧ (s.link 7).txq = [] ∧ 1 ≤ (s.link 7).vc3.room := by decide +kernel
theorem test_beacon_upstream : let s := atUpstream 0
    let msg := mgmtMsg 0 9 262000 144
    actOk s = true ∧ s.flag (F.lkMode 7) = false ∧ s.linkUp 7 = true ∧ mgmtOk msg = true ∧ leAt msg 0 1 = 0 ∧
      leAt msg 16 8 = 262000 ∧ leAt msg 24 4 = 144 ∧ 262000 + 144 ≤ s.stamp ∧
      s.flag F.upValid = true ∧ s.fld F.upPort = 7 ∧ s.flag F.noUpstream = false := by decide +kernel
theorem test_beacon_with_a_bad_crc : mgmtOk (toLE 36 1) = false := by decide +kernel
theorem test_beacon_without_upstream : let s := (atUpstream 0).setFld F.upValid 0
    actOk s = true ∧ s.flag (F.lkMode 7) = false ∧ s.linkUp 7 = true ∧ s.flag F.upValid = false := by decide +kernel
theorem test_ptp : let s := atUpstream 1
    let s1 := { s with time := { s.time with ptpSync := some (9, 1000, 2000, 3000) } }
    actOk s = true ∧ s.ptpFor 7 0 0 = true ∧ actOk s1 = true ∧ s1.ptpFor 7 0 0 = true ∧ s1.time.ptpSync = some (9, 1000, 2000, 3000) := by decide +kernel
/-! ## Boot, power, attestation and recovery -/

/-- A device in a stage of start-up, at a mark, with a board. -/
def atStage (stage mark : Nat) (b : Board := State.reset.board) : State :=
  { withRegs State.reset [(F.stage, stage)] with time := { TimeBase.reset with mark := mark, cycle := 1024 * mark }, board := b }

/-- An object at offset a whose length field reads 0; the rest is erased. -/
def noLength (a : Nat) : List (Nat × Byte) := [(a + 12, 0), (a + 13, 0), (a + 14, 0), (a + 15, 0)]

/-- The mailbox of port 1 in a connection state; the identity chain has 9 bytes and stands. -/
def atMailbox (conn : Nat) : State :=
  ((atStage 4 2097152 { State.reset.board with chain := toLE 9 9 }).setFld F.idOk 1).setHost 1
    { HostPort.dflt with doeState := conn }

theorem test_mailbox_open : ∀ c < 4, let s := atMailbox c
    actOk s = true ∧ s.doeOpen 1 = true ∧ (s.host 1).doeState = c ∧ s.idOk = true ∧ 8 < s.certChain.length := by decide +kernel
theorem test_mailbox_other_stage : let s := atStage 3 9
    actOk s = true ∧ s.doeOpen 1 = false ∧ (∃ need c, spdmRow 1 need c) := by
  refine ⟨by decide +kernel, by decide +kernel, 0, _, Or.inl ⟨rfl, rfl⟩⟩
theorem test_mailbox_out_of_order : ∃ need c, spdmRow 1 need c ∧ (atMailbox 2).doeOpen 1 = true ∧
    ((atMailbox 2).host 1).doeState < need :=
  ⟨3, _, Or.inr (Or.inr (Or.inr (Or.inl ⟨rfl, rfl⟩))), by decide +kernel, by decide +kernel⟩
theorem test_mailbox_response_due : let s := (atStage 4 16).setHost 1 { HostPort.dflt with doeReq := some (16384, [1, 2]) }
    actOk s = true ∧ (s.host 1).doeReq = some (16384, [1, 2]) ∧ 16384 ≤ s.now := by decide +kernel
theorem test_power_fails : invOk (atStage 4 7) = true ∧ (atStage 4 7).board.vinOut ≤ 16 ∧ (atStage 4 7).board.curOver ≤ 4 ∧
    (atStage 4 7).parts = [] ∧ (atStage 4 7).cmds = [] := by decide +kernel
theorem test_converter_trips : ∀ x ∈ [(17, 0), (0, 5)], let s := atStage 4 7 { State.reset.board with vinOut := x.1, curOver := x.2 }
    invOk s = true ∧ (16 < s.board.vinOut ∨ 4 < s.board.curOver) := by decide +kernel
theorem test_power_returns : let s := atStage 0 0 { State.reset.board with inReset := true, pwrgood := false, powered := false }
    invOk s = true ∧ s.board.inReset = true := by decide +kernel
theorem test_chip_reset_key : let v : Word32 := 0xC301
    actOk (atStage 4 7) = true ∧ (atStage 4 7).configReady = true ∧ v.toNat.testBit 0 = true ∧ v.toNat / 256 % 256 = 0xC3 ∧ (atStage 4 7).fld F.stage ≠ 0 := by
  decide +kernel
theorem test_chip_reset_hot : let s := atStage 4 7 { State.reset.board with ioOver := [(8, 8)] }
    actOk s = true ∧ 8 ≤ (tfind s.board.ioOver (8 + 0)).getD 0 ∧ s.board.chipFrom = none := by decide +kernel
theorem test_chip_reset_due : ∀ t ∈ [none, some 7000], let s := atStage 4 7 { State.reset.board with chipTrig := some 7, chipFrom := t }
    actOk s = true ∧ s.board.chipTrig = some 7 ∧ s.board.chipFrom = t ∧ s.markCome 7 = true ∧ ∀ c ∈ s.cmds, c.op = 0x83 → c.started = false := by
  decide +kernel
theorem test_chip_reset_times_out : let s := atStage 3 2097152 { State.reset.board with byReset := true }
    actOk s = true ∧ s.board.byReset = true ∧ 2097152 * 1024 ≤ s.now ∧ s.board.goAt = none ∧ s.fld F.stage < 4 := by
  decide +kernel
theorem test_domains_off_due : let s := atStage 0 1024
    actOk s = true ∧ s.fld F.stage = 0 ∧ 1024 * 1024 ≤ s.now := by decide +kernel
theorem test_boot_rom_due : let s := atStage 0 2048
    actOk s = true ∧ s.fld F.stage = 0 ∧ 2048 * 1024 ≤ s.now := by decide +kernel
theorem test_config_check_due : ∀ sf : Bool, let s := atStage 1 18944 { State.reset.board with sfdp := sf, flash := noLength 0 }
    actOk s = true ∧ s.fld F.stage = 1 ∧ 18944 * 1024 ≤ s.now ∧ s.board.sfdp = sf ∧
      configFail (s.flag F.ownerKeyEn) (s.board.flashRead 0x10000 256) (readObject s.board.flashRead 0 65280) ≠ 0 := by
  decide +kernel
theorem test_image_check_due : let s := atStage 2 35840 { State.reset.board with flash := noLength 0x100000 }
    actOk s = true ∧ s.fld F.stage = 2 ∧ 35840 * 1024 ≤ s.now ∧
      imageFail (s.flag F.ownerKeyEn) s.board.ownerBlk (readObject s.board.flashRead 0x100000 4128512) ≠ 0 := by
  decide +kernel
theorem test_device_ready_due : ∀ g ∈ [none, some 0], let s := atStage 3 2097152 { State.reset.board with goAt := g }
    actOk s = true ∧ s.fld F.stage = 3 ∧ s.board.goAt = g ∧ (g = none → 2097152 * 1024 ≤ s.now) ∧
      ∀ x, g = some x → x + 2097152 * 1024 ≤ s.now := by
  intro g hg
  simp only [List.mem_cons, List.not_mem_nil, or_false] at hg
  rcases hg with rfl | rfl
  · exact ⟨by decide +kernel, by decide +kernel, rfl, fun _ => by decide +kernel, fun _ h => by cases h⟩
  · exact ⟨by decide +kernel, by decide +kernel, rfl, fun h => (by cases h), fun x h => by cases h; decide +kernel⟩
theorem test_recovery_go : let v : Word32 := 1
    actOk (atStage 5 2048) = true ∧ v.toNat.testBit 0 = true ∧ (atStage 5 2048).fld F.stage = 5 := by decide +kernel
theorem test_ram_verify_due : let s := atStage 6 4096 { State.reset.board with goAt := some 1048576, staging := noLength 0 }
    actOk s = true ∧ s.board.goAt = some 1048576 ∧ s.fld F.stage = 6 ∧ 1048576 + 1024 * 1024 ≤ s.now ∧ s.board.ramOk = false ∧
      configFail (s.flag F.ownerKeyEn) s.board.ownerBlk (readObject s.board.stagingRead 0 65280) ≠ 0 := by decide +kernel
theorem test_ram_boot_link_drop_due : let s := atStage 6 4096 { State.reset.board with goAt := some 1048576, ramOk := true }
    actOk s = true ∧ s.board.goAt = some 1048576 ∧ s.fld F.stage = 6 ∧ 1048576 + 2048 * 1024 ≤ s.now ∧ s.board.ramOk = true := by
  decide +kernel

/-- A command of context 5 with its entry bytes, running since mark 2. -/
def testCmd (cid : Nat) (entry : List Byte) : Cmd :=
  { cid := cid, ctx := 5, entry := entry, presented := 1024, presMark := 1, admitMark := 2, admitCyc := 2048, phase := .running,
    status := 0, result := [], late := false, replayed := false, started := false, abandoned := false, faulted := false,
    targets := [], sources := [], startAt := 0, endAt := 0, wasLive := false, bytes := 0, handle := 0 }

/-- FLASH_WRITE of 4,097 bytes to offset 0x200000 (R657). -/
def flashEntry : List Byte := toLE 8 0x83 ++ toLE 8 4096 ++ toLE 4 0x200000 ++ toLE 4 4097 ++ toLE 40 0

theorem test_flash_source_due : let s := { atStage 4 9 with cmds := [testCmd 3 flashEntry] }
    actOk s = true ∧ s.cmd 3 = some (testCmd 3 flashEntry) ∧ (testCmd 3 flashEntry).op = 0x83 ∧
      (testCmd 3 flashEntry).admitCyc + 2 * 1024 ≤ s.now ∧ s.fenced 3 = false := by decide +kernel
theorem test_flash_write_ends : ∀ bad : Bool, let c := { testCmd 3 flashEntry with started := true, endAt := 9, faulted := bad }
    let s := { atStage 4 9 { State.reset.board with flashWork := some (3, [1, 2, 3]) } with cmds := [c] }
    actOk s = true ∧ s.cmd 3 = some c ∧ c.op = 0x83 ∧ c.endAt ≤ s.now ∧ s.board.flashWork = some (3, [1, 2, 3]) ∧
      twf 0xFF s.board.flash = true := by decide +kernel
theorem test_power_factor_due : ∀ p ∈ [109, 96, 94, 111], let s := withRegs { atStage 4 65504 { State.reset.board with
      powerWin := [(p * 100, 100000)] } with links := [] } [(F.capW, 1000), (F.capMask, 255)]
    let t := { s with time := { s.time with mark := 65536, boundary := true } }
    actOk s = true ∧ 65504 ≤ s.time.mark % 65536 ∧ actOk t = true ∧ t.time.boundary = true ∧ s.board.capBudget = false ∧ s.fld F.capW = 1000 ∧
      (s.fld F.capMask).testBit 7 = true := by decide +kernel
theorem test_junction_overtemp : let s := (atStage 4 9).setPart 7 { Part.dflt with tempOver := 8 }
    actOk (s.setFld (F.role 7) 1) = true ∧ 8 ≤ (s.part 7).tempOver ∧ (s.setFld (F.role 7) 1).role 7 ≠ 0 ∧
      (s.setFld (F.role 7) 1).flag (F.inReset 7) = false ∧ (s.part 7).resetAt = none := by decide +kernel
theorem test_junction_critical : let s := atStage 4 9 { State.reset.board with critical := [(9, 2)] }
    actOk s = true ∧ 2 ≤ (tfind s.board.critical 9).getD 0 := by decide +kernel
theorem test_flash_idle : actOk (atStage 4 9) = true ∧ (atStage 4 9).board.flashWork = none ∧ (List.range 10).length = 10 := by
  decide +kernel
theorem test_tray_read : actOk (atStage 4 9) = true ∧ (atStage 4 9).fld F.stage ≠ 0 ∧ 240 + 16 ≤ 256 ∧ 255 + 1 ≤ 256 := by
  decide +kernel
theorem test_tray_data_due : let s := atStage 4 2 { State.reset.board with treadData := some [1], treadAt := 0 }
    actOk s = true ∧ s.board.treadData = some [1] ∧ s.board.treadAt + 2048 ≤ s.now := by decide +kernel
theorem test_tray_write : ∀ v ∈ [400, 2800, 399, 2801], let data := toLE 4 (v + 2 ^ 20 * 255)
    data.length = 4 * 1 ∧ 1 ≤ 16 ∧ 8 ≤ 8 ∧ 8 < 8 + 1 ∧ leAt data (4 * (8 - 8)) 4 % 4096 = v := by decide +kernel
theorem test_engine_hangs : let s := { atStage 4 9 with inflight := [{ testFlight [] with due := 1024, margin := 4, thread := 16383 }] }
    actOk s = true ∧ ∀ i ∈ s.inflight, i.thread / 128 = 127 ∧ i.answer = false ∧ i.due + 1024 * i.margin ≤ s.now ∧
      (s.cluster 127).frozenAt = none := by decide +kernel
theorem test_engine_reset_ends : let c := { Cluster.dflt with frozenAt := some 9216 }
    let s := ((atStage 4 521).setFld (F.role 7) 2).setCluster 127 c
    actOk s = true ∧ (s.cluster 127).frozenAt = some 9216 ∧ 9216 + 512 * 1024 ≤ s.now ∧ s.role 7 ≠ 0 ∧
      s.flag (F.inReset 7) = false ∧ (s.part 7).resetAt = none := by decide +kernel
theorem test_suspect_relaunched : let r : Relaunch := { thread := 0, record := testRecord 0, owner := .none, sigs := 3, index := 2 }
    let s := { withRegs (atStage 4 9) [(F.role 0, 2), (F.inService 0, 1)] with time := { TimeBase.reset with mark := 9, cyc := 64, cycle := 9280 } }
    let s1 := s.setCluster 0 { Cluster.dflt with suspects := [5], replay := [r], relaunchMark := 9 }
    actOk s1 = true ∧ (s1.cluster 0).suspects = [5] ∧ (s1.cluster 0).frozenAt = none ∧ (s1.cluster 0).current = none ∧
      s1.role 0 = 2 ∧ (s1.cluster 0).repair = false ∧
      (s1.cluster 0).relaunchMark * 1024 + 64 ≤ s1.time.mark * 1024 + s1.time.cyc ∧ s1.stepOn 0 = none ∧
      (s1.cluster 0).replay = [r] ∧ r.ctx = 5 ∧ s1.ownerOpen r.owner = true ∧ s1.launchOk 0 r.record = true ∧
      r.thread = recordThread r.record := by decide +kernel
theorem test_soot_moves : let s := { withRegs (atStage 4 9) [(F.role 0, 2), (F.sootSizeLog2, 8)] with soot := [toLE 32 7] }
    actOk s = true ∧ s.soot = [toLE 32 7] ∧ s.sootReady = true := by decide +kernel
/-! ## A device at work -/

/-- The registers of context n in state st: rings of 16 entries from page a of memory, vector 40, a quota of 8 sequences. -/
def ctxRegs (n st a : Nat) : List (Nat × Word) :=
  let r := F.ctxRec n
  [(r + 0xC, st), (r + 0x10, 4 + 4096 * a), (r + 0x18, 4 + 4096 * (a + 1)), (r + 0x20, 4 + 4096 * (a + 2)), (r + 0x30, 40),
   (r + 0x40, 0xF0010400081000)].map fun e => (e.1, BitVec.ofNat 64 e.2)

/-- A READY device at a mark with its time SET: partition 0 a lantern with frames of 256 marks from mark 4096, partition 2 a
hearth of context 5, contexts 0, 5 and 6 claimed, 0 and 5 LIVE and 6 QUIESCED, their memory mapped to itself. -/
def atWork (mark cyc : Nat) (cmds : List Cmd := []) (more : List (Fld × Nat) := []) : State :=
  let s := withRegs { State.reset with
    regs := [(0x010, 4), (0x430, 1), (0x510, 5), (0x600, 5), (0x610, 6)] ++ ctxRegs 0 1 768 ++
      [(F.ctxRec 5, 0x8003), (F.ctxRec 5 + 4, 7)] ++ ctxRegs 5 1 776 ++
      [(F.ctxRec 6, 0x8003), (F.ctxRec 6 + 4, 7)] ++ ctxRegs 6 4 784 } more
  { s with
    time := { TimeBase.reset with mark := mark, cyc := cyc, cycle := 1024 * mark + cyc, synced := true }
    nextCid := 40
    cmds := cmds
    xlat := [{ ctx := 0, vpn := 0, pages := 64, ppn := 0, rd := true, wr := true },
             { ctx := 0, vpn := 2 ^ 20, pages := 16, ppn := cxlBase / unit2M, rd := true, wr := true },
             { ctx := 5, vpn := 0, pages := 64, ppn := 0, rd := true, wr := true },
             { ctx := 6, vpn := 0, pages := 64, ppn := 0, rd := true, wr := true }]
    parts := [(0, { Part.dflt with sched := some { len := 256, origin := 4096, builder := 4 } })]
    board := { State.reset.board with flashBytes := 2 ^ 23 }
    groups := [(9, { ctx := 0, members := [(3, 2, 0), (4, 2, 64)], list := 2 ^ 20 })] }

/-- The hearth registers of partition 2: context 5, one commit region of 2 MiB. -/
def hearthFields : List (Fld × Nat) :=
  [(F.hearthValid 2, 1), (F.hearthCtx 2, 5), (F.liveVersion 2, 1), (F.srcMask 2, 1), (F.crValid 2 0, 1),
   (F.crLiveVa 2 0, 100), (F.crShadowVa 2 0, 101), (F.crPaA 2 0, 100), (F.crPaB 2 0, 101), (F.crSize 2 0, 1)]

/-- A model of one layer, the KV arena of partition 0, and its ACTIVE weight slot 0 with version 7. -/
def modelFields : List (Fld × Nat) :=
  [(F.layers, 1), (F.hkv, 1), (F.headDim, 64), (F.vocabM1, 255), (F.maxPos, 128), (F.imageUnits, 1), (F.modelValid, 1),
   (F.arenaBase 0, 64), (F.kvPages 0, 64), (F.pageLines 0, 512), (F.planes 0, 2), (F.idxLog2 0, 10), (F.kvLists 0, 16),
   (F.listEntries 0, 2), (F.freePages 0, 64), (F.slVersion 0 0, 7), (F.slState 0 0, 2), (F.slActive 0 0, 1)]

/-- Its weight slots, window, copy shares and adapter area. -/
def lampFields : List (Fld × Nat) :=
  [(F.slotBase 0, 200), (F.slotUnits 0, 1), (F.winVa 0, 300), (F.share 0, 8), (F.share 2, 8), (F.adpBase 0, 300),
   (F.adpBlocks 0, 4), (F.blockUnits 0, 1)]

/-- Expander 0 up, and the device's place in its pod. -/
def linkFields : List (Fld × Nat) :=
  [(F.cxlUp 0, 1), (F.cxlCap 0, 16), (F.flueDevice, 3), (F.flueNodeValid, 1)]

/-- A command of context n with its entry, admitted in mark 4097 and still to be checked. -/
def freshCommand (n : Nat) (entry : List Byte) : Cmd :=
  { testCmd 3 (entry ++ toLE (64 - entry.length) 0) with
    ctx := n, phase := .fresh, presented := 4096 * 1024, presMark := 4096, admitMark := 4097, admitCyc := 4097 * 1024 }
/-! ## Contexts and commands -/

/-- The 64 bytes of an entry: its opcode and fields (offset, length, value) (R115). -/
def entryOf (op : Nat) (f : List (Nat × Nat × Nat)) : List Byte :=
  f.foldl (fun l e => l.take e.1 ++ toLE e.2.1 e.2.2 ++ l.drop (e.1 + e.2.1)) (toLE 64 op)

/-- Context 7 unowned and FREE, to be claimed by either port. -/
def atTable : State := (atWork 4097 9).setFld (F.hNumVfs 1) 3

theorem test_context_claimed : ∀ v ∈ [0x8003, 0x8000, 0x8004], let w : Word32 := BitVec.ofNat 32 v
    let s := atTable.setFld (F.cVector 7) 16
    hostOk s = true ∧ s.flag (F.cOwned 7) = false ∧ s.cstate 7 = 0 ∧ s.fld F.stage = 4 ∧ w.toNat.testBit 15 = true ∧
      s.fld (F.hNumVfs 1) = 3 ∧ 16 ≤ s.fld (F.cVector 7) := by decide +kernel
theorem test_context_released : ∀ v ∈ [3, 4], let w : Word32 := BitVec.ofNat 32 v
    let s := withRegs (atWork 4097 9) [(F.cState 6, 0), (F.hNumVfs 0, 3)]
    hostOk s = true ∧ s.pfOwns 0 6 = true ∧ s.cstate 6 = 0 ∧ w.toNat.testBit 15 = false ∧
      (w.toNat % 256 ≤ s.fld (F.hNumVfs 0) ↔ v = 3) := by decide +kernel
theorem test_context_starts : ∀ st ∈ [0, 4], ∀ k ∈ [3, 4], let s := withRegs (atWork 4097 9) [(F.cState 6, st), (F.ringLog2 6 0, k)]
    hostOk s = true ∧ s.pfOwns 0 6 = true ∧ s.cstate 6 = st ∧ s.fld F.stage = 4 ∧
      (!s.flag (F.mmuLoading 6) && (!s.flag (F.ptValid 6) || s.flag (F.mmuLoaded 6)) &&
        s.ringOk 6 0 && s.ringOk 6 1 && s.ringOk 6 2) = (k == 4) := by decide +kernel
theorem test_context_stops : let s := atWork 4097 9
    hostOk s = true ∧ s.pfOwns 0 5 = true ∧ s.cstate 5 = 1 := by decide +kernel
theorem test_doorbell_rung : let s := ((atWork 4097 9).setFld (F.hNumVfs 0) 3).setCtx 5 { CtxRun.dflt with cqHead := 14, cqTail := 1, emHead := 0, emTail := 3 }
    hostOk s 0 3 = true ∧ s.fnOwns 0 3 5 = true ∧ s.cstate 5 ≠ 5 ∧ s.ringSize 5 0 = 16 ∧ s.ringSize 5 1 = 16 ∧ s.ringSize 5 2 = 16 := by
  decide +kernel
theorem test_doorbell_ignored : (8 : Nat) ≠ 4 ∧ (atWork 4097 9).fnOwns 0 2 5 = false := by decide +kernel
theorem test_entry_presentable : let s := (atWork 4097 9).setCtx 5 { CtxRun.dflt with sqNext := 15, sqHead := 15, sqTail := 0 }
    actOk s = true ∧ s.cstate 5 = 1 ∧ s.resetting 5 = false ∧ (s.ctx 5).sqNext ≠ (s.ctx 5).sqTail ∧
      s.cqUsed 5 + 1 < s.ringSize 5 1 ∧ ((s.cmdsOf 5).filter fun d => d.phase == .presented).length < 8 ∧
      s.ringReach (s.ringAt 5 0 + 64 * 15) = true := by decide +kernel
theorem test_ring_unreachable : let r : Word := BitVec.ofNat 64 (4 + gddrEnd)
    let s := ((atWork 4097 9).setCtx 5 { CtxRun.dflt with sqTail := 1 }).setReg (F.ctxRec 5 + 0x10) r
    actOk s = true ∧ s.cstate 5 = 1 ∧ s.resetting 5 = false ∧ (s.ctx 5).sqNext ≠ (s.ctx 5).sqTail ∧
      s.cqUsed 5 + 1 < s.ringSize 5 1 ∧ s.cmdsOf 5 = [] ∧ s.ringReach (s.ringAt 5 0) = false := by decide +kernel
theorem test_entry_admitted : ∀ op ∈ [0x01, 0x05], let c := { testCmd 3 (entryOf op []) with phase := .presented, presMark := 4096 }
    let s := (atWork 4097 9 [c]).setCtx 5 { CtxRun.dflt with sqNext := 0, sqHead := 15, sqTail := 0 }
    let v := s.dueCaptures.dueTeardowns
    actOk s = true ∧ v.cstate 5 = 1 ∧ v.resetting 5 = false ∧ v.cmd c.cid = some c ∧
      ((v.cmdsOf 5).filter fun d => d.phase == .presented && d.presMark != s.time.mark) = [c] ∧ v.cmds = [c] ∧
      (c.op ∈ (admissionRows Meet.none).map (fun r => r.2.1) ↔ op = 0x01) := by decide +kernel
/-- A function level reset in mark 4096 has named context 6. -/
theorem test_teardown_at_admission : let s := (atWork 4097 9).setCtx 6 { CtxRun.dflt with flrMark := some 4096 }
    actOk s = true ∧ s.dueCaptures.teardownDue 6 (s.dueCaptures.ctx 6) = true ∧ (s.dueCaptures.ctx 6).flrMark = some 4096 := by
  decide +kernel

/-- SEQ_SUBMIT of a prompt of 8 tokens to partition 0, with its fields (offset, length, value) changed. -/
def submitEntry (f : List (Nat × Nat × Nat)) : List Byte :=
  entryOf 0x01 ([(8, 8, 4096), (16, 4, 8), (20, 4, 100), (24, 1, 0), (27, 1, 1)] ++ f)

theorem test_command_checked : ∀ e ∈ [([(24, 1, 8)], Verdict.reject 0x10 24), ([(16, 4, 101)], .reject 0x12 16), ([(27, 1, 0)], .zero),
      ([(1, 1, 2)], .reject 0x10 1), ([(2, 1, 1)], .reject 0x10 2), ([(3, 1, 1)], .reject 0x10 2)],
    let c := freshCommand 5 (submitEntry e.1)
    let s := atWork 4097 9 [c] modelFields
    actOk s = true ∧ s.freshCmd 5 0x01 = some c ∧ s.cmd c.cid = some c ∧ s.checkSubmit c = e.2 := by decide +kernel
theorem test_admission_row : ∃ m, ((fun n => Instr.seqSubmit n m), 0x01, State.checkSubmit) ∈ admissionRows m :=
  ⟨Meet.none, List.mem_append_left _ (List.Mem.head _)⟩
def firstOk (s : State) (n : Nat) (c : Cmd) (r : List Cmd) : Bool :=
  actOk s && decide (s.cmdsOf n = c :: r) && (c :: r).all (fun d => s.cmd d.cid == some d) && decide (c.phase = .waiting) &&
    decide (c.presented + 2048 ≤ s.now ∧ c.endAt ≤ s.now) && r.all fun d => decide (d.phase = .presented ∨ d.phase = .fresh ∨ d.phase = .running)

theorem first_of {s : State} {n : Nat} {c : Cmd} {r : List Cmd} (h : firstOk s n c r = true) : FirstWaits s n c r := by
  simp only [firstOk, Bool.and_eq_true, decide_eq_true_eq, List.all_eq_true, beq_iff_eq] at h
  exact ⟨acting_of h.1.1.1.1.1, h.1.1.1.1.2, h.1.1.1.2, h.1.1.2, h.1.2, h.2⟩

theorem test_command_posted : ∀ st ∈ [0, 0x10, 0x14], ∀ ph ∈ [Phase.presented, .fresh, .running],
    let c := { testCmd 3 (submitEntry []) with phase := .waiting, status := st }
    let d := { testCmd 4 (submitEntry []) with phase := ph }
    let s := atWork 4097 9 [c, d]
    firstOk s 5 c [d] = true ∧ c.op ≠ 0x7F ∧ c.op ≠ 0x03 ∧ hostOf (s.ringAt 5 1) = none ∧ s.ringReach (s.ringAt 5 1) = true := by
  decide +kernel
theorem test_fence_waits : let c := freshCommand 5 (entryOf 0x7F [])
    actOk (atWork 4097 9 [c]) = true ∧ (atWork 4097 9 [c]).freshCmd 5 0x7F = some c ∧ (atWork 4097 9 [c]).cmd 3 = some c ∧ firstBad (reservedBad c []) = none := by
  decide +kernel
theorem test_fence_follows : ∀ p ∈ [4096 * 1024, 4096 * 1024 + 1],
    let c := { testCmd 3 (entryOf 0x02 []) with phase := .waiting, presented := 4095 * 1024 }
    let f := { testCmd 4 (entryOf 0x7F []) with phase := .waiting, presented := p }
    let d := testCmd 5 (submitEntry [])
    let s := atWork 4098 0 [c, f, d]
    actOk s = true ∧ s.cmdsOf 5 = [c, f, d] ∧ (∀ x ∈ [c, f, d], s.cmd x.cid = some x) ∧ c.phase = .waiting ∧ c.status = 0 ∧
      c.op ≠ 0x7F ∧ c.op ≠ 0x03 ∧ c.presented + 2048 ≤ s.now ∧ c.endAt ≤ s.now ∧ f.op = 0x7F ∧ f.phase = .waiting ∧ f.status = 0 ∧
      d.phase = .running ∧ (f.presented + 2048 ≤ s.now ↔ p = 4096 * 1024) := by decide +kernel
theorem test_fence_misses : let d := { testCmd 1 (entryOf 0x70 []) with ctx := 0 }
    let f := { testCmd 2 (entryOf 0x7F []) with ctx := 0, phase := .waiting }
    let c := { testCmd 3 (entryOf 0x50 [(32, 8, 4097)]) with ctx := 0 }
    let s := atWork 4097 9 [d, f, c]
    actOk s = true ∧ s.cmd 3 = some c ∧ c.namedMark = some 4097 ∧ 4097 ≤ s.time.mark ∧ s.fenced 3 = true ∧ c.phase = .running ∧
      (s.cmds.filter fun d => d.cid == 3) = [c] := by decide +kernel
theorem test_context_resets : ∀ st ∈ [1, 4, 2], let s := (atWork 4097 9).setFld (F.cState 5) st
    hostOk s = true ∧ s.pfOwns 0 5 = true ∧ s.resetting 5 = false ∧ s.cstate 5 = st := by decide +kernel
theorem test_context_reset_ends : let s := (atWork 4097 9).setCtx 5 { CtxRun.dflt with resetAt := some 3932169 }
    actOk s = true ∧ (s.ctx 5).resetAt = some 3932169 ∧ 3932169 + 262144 ≤ s.now := by decide +kernel
theorem test_teardown_accepted : let c := freshCommand 0 (entryOf 0x60 [(8, 2, 6)])
    let s := atWork 4097 9 [c]
    actOk s = true ∧ s.freshCmd 0 0x60 = some c ∧ s.checkTeardown c = .accept ∧ s.fenced c.cid = false := by decide +kernel
theorem test_teardown_ends : let s := ((atWork 4097 9).setFld (F.cState 6) 3).setCtx 6 { CtxRun.dflt with teardownAt := some 3932169 }
    actOk s = true ∧ (s.ctx 6).teardownAt = some 3932169 ∧ 3932169 + 262144 ≤ s.now ∧ s.cstate 6 = 3 := by decide +kernel
theorem test_quarantine_ends : let s := (atWork 70000 9).setCtx 6 { CtxRun.dflt with quars := [(4571145, 2), (71680000, 1)] }
    actOk s = true ∧ (4571145, 2) ∈ (s.ctx 6).quars ∧ 4571145 + 65536 * 1024 ≤ s.now ∧ s.now < 71680000 + 65536 * 1024 := by decide +kernel
theorem test_function_reset : let s := atWork 4097 9
    actOk s = true ∧ s.pfOwns 0 6 = true ∧ s.fld (F.cFunc 6) = 3 ∧ s.cstate 6 = 4 ∧ (s.ctx 6).flrMark = none ∧
      (s.setFld (F.cState 6) 0).cstate 6 = 0 := by decide +kernel
theorem test_handover_accepted : let c := freshCommand 0 (entryOf 0x61 [(8, 2, 6)])
    let s := atWork 4097 9 [c]
    actOk s = true ∧ s.freshCmd 0 0x61 = some c ∧ s.checkHandover c = .accept ∧ s.fenced c.cid = false := by decide +kernel
theorem test_handover_ends : let c := { testCmd 3 (entryOf 0x61 [(8, 2, 6)]) with ctx := 0, handle := 6 }
    let s := (atWork 4097 9 [c]).setFld (F.cState 6) 5
    actOk s = true ∧ s.cmd 3 = some c ∧ c.op = 0x61 ∧ c.phase = .running ∧ s.cstate c.handle = 5 ∧ c.admitCyc + 262144 ≤ s.now := by decide +kernel
theorem test_damper_owner : let s := atWork 4097 9
    let v : Word32 := 0x8006
    hostOk s = true ∧ s.flag (F.dValid 7 511) = false ∧ v.toNat.testBit 15 = true ∧ s.tableOpen 0 (v.toNat % 4096) = true ∧
      (withRegs s [(F.dValid 7 511, 1), (F.dCtx 7 511, 6)]).tableOpen 0
        ((withRegs s [(F.dValid 7 511, 1), (F.dCtx 7 511, 6)]).fld (F.dCtx 7 511)) = true := by decide +kernel
theorem test_fill_accepted : let c := freshCommand 5 (entryOf 0x70 [(16, 8, 4096), (24, 8, 64), (32, 8, 7)])
    let s := atWork 4097 9 [c]
    actOk s = true ∧ s.freshCmd 5 0x70 = some c ∧ s.checkFill c = .accept ∧ s.dmaPart c.ctx (c.fld 16 8) = some 0 := by decide +kernel
theorem test_copy_accepted : let c := freshCommand 5 (entryOf 0x71 [(8, 8, 8192), (16, 8, 4096), (24, 8, 64)])
    let s := atWork 4097 9 [c]
    actOk s = true ∧ s.freshCmd 5 0x71 = some c ∧ s.checkCopy c = .accept ∧ s.dmaPart c.ctx (c.fld 16 8) = some 0 := by decide +kernel

/-- The fill of `test_fill_accepted` on the channel of partition 0. -/
def testJob (running : Bool) : DmaJob :=
  { cid := 3, ctx := 5, isFill := true, adapter := false, src := 0, dst := 4096, size := 64, pattern := 7, ready := 4195328,
    running := running, endAt := 4195337, hap := hap, run := { DmaRun.start 0 0 .free with pos := 1 } }

theorem test_fill_runs : ∀ r : Bool, let s := (atWork 4097 9).setPart 0 { Part.dflt with dma := [testJob r] }
    actOk s = true ∧ (s.part 0).dma = [testJob r] ∧ (testJob r).ready ≤ s.now ∧ s.fenced 3 = false ∧ s.gddrUp 0 = true ∧
      (r = true → (testJob r).endAt + transferLate (testJob r).hap (testJob r).run ≤ s.now ∧
        (s.settleWrites.part 0).dma = [testJob r]) := by decide +kernel
/-- A copy of an adapter, and a fill, whose command runs. -/
theorem test_job_ends : ∀ a : Bool, let c := testCmd 3 (entryOf 0x70 [(16, 8, 4096), (24, 8, 64)])
    let j := { testJob true with adapter := a }
    let s := (atWork 4097 9 [c]).setPart 0 { Part.dflt with dma := [j] }
    actOk s = true ∧ (s.part 0).dma = [j] ∧ j.running = true ∧ j.endAt + transferLate j.hap j.run ≤ s.now ∧ s.gddrUp 0 = true ∧
      (s.settleWrites.part 0).dma = [j] ∧ s.settleWrites.cmd 3 = some c ∧ c.phase ≠ .done := by decide +kernel
/-- Context 5 reaches memory below 128 MiB. -/
theorem test_dma_moves : let s := atWork 4097 9
    s.Inv ∧ hap.err = none ∧ s.reach (some 0) false 5 4096 true false = some 4096 ∧
      s.reach (some 0) false 5 8192 false true = some 8192 ∧ s.reach (some 0) false 5 (2 ^ 40) true false = none :=
  ⟨inv_of (by decide +kernel), rfl, by decide +kernel⟩
theorem test_submit_accepted : let c := freshCommand 5 (submitEntry [])
    let s := atWork 4097 9 [c] modelFields
    actOk s = true ∧ s.freshCmd 5 0x01 = some c ∧ s.cmd 3 = some c ∧ s.checkSubmit c = .accept ∧ c.fld 25 1 = 0 ∧ c.fld 27 1 = 1 ∧
      s.freeEntries 1 = [0] ∧ s.freeLists (c.fld 24 1) 1 = [0] := by decide +kernel

/-- Partition 0 with a budget of 255 positions, 15 samples and 255 pages, half of each guaranteed, and chunks of 64 positions. -/
def atBudget (cmds : List Cmd) (more : List (Fld × Nat) := []) : State :=
  (atWork 4097 9 cmds (modelFields ++ linkFields ++ more)).modPart 0 fun x =>
    { x with budget := 255 + 2 ^ 16 * 15 + 2 ^ 32 * 255 + 2 ^ 56 * 127, ctrl := 64 }
theorem test_submissions_accepted : ∀ g < 2, ∀ k ∈ [1, 2], let c := freshCommand 5 (submitEntry [(25, 1, g), (27, 1, k), (56, 8, 12288)])
    let s := atBudget [c] [(F.factor 0, 16)]
    actOk s = true ∧ s.freshCmd 5 0x01 = some c ∧ s.cmd 3 = some c ∧ s.checkSubmit c = .accept ∧ c.fld 25 1 = g ∧ c.fld 27 1 = k ∧
      (s.extents (some 0) false 5 (c.fld 56 8) (4 * k) false true).map (·.1) = [12288] ∧
      s.reachRange (some 0) false 5 (c.fld 56 8) (4 * k) false true = true := by decide +kernel
/-- The handles go to expander memory, whose port is up or down. -/
theorem test_submission_far : ∀ up < 2, let c := freshCommand 5 (submitEntry [(27, 1, 2), (56, 8, 2 ^ 41)])
    let s0 := atBudget [c] [(F.cxlUp 0, up)]
    let s := { s0 with xlat := s0.xlat ++ [{ ctx := 5, vpn := 2 ^ 20, pages := 16, ppn := cxlBase / unit2M, rd := true, wr := true }] }
    actOk s = true ∧ s.freshCmd 5 0x01 = some c ∧ s.cmd 3 = some c ∧ s.checkSubmit c = .accept ∧ c.fld 27 1 = 2 ∧
      s.reachRange (some 0) false 5 (c.fld 56 8) 8 false true = (up == 1) ∧ (up = 1 →
      badAt { meet with badWrite := true } ((s.extents (some 0) false 5 (c.fld 56 8) 8 false true).map (·.1)) = true) := by decide +kernel
theorem test_guaranteed_plan : let c := freshCommand 5 (submitEntry [(25, 1, 1), (27, 1, 2), (56, 8, 12288)])
    (atBudget [c] [(F.factor 0, 16)]).guarPlan c = some ([(4352, 0, 8)], 4608) ∧ (atBudget [c] [(F.factor 0, 0)]).guarPlan c = none := by
  decide +kernel
theorem test_plan_places : let s := atBudget []
    (∀ b ∈ [4352, 4608], 127 < 120 + s.ledger 0 b + 8) ∧ 119 + s.ledger 0 4864 + 8 ≤ 127 := by decide +kernel

/-- Sequence-table entry 1: a sample of context 5 on partition 0 that decodes at LENGTH 9. -/
def testSample : Sample :=
  { Sample.dflt with state := 3, ctx := 5, gen := 2, length := 9, maxLen := 100, promptLen := 8, version := 7, slot := some 0 }

theorem test_sequence_commands : ∀ op ∈ [(0x02, 0), (0x03, 14), (0x04, 0)],
    let c := freshCommand 5 (entryOf op.1 ([(8, 2, 1), (10, 2, 2)] ++ if op.1 = 3 then [(12, 4, 8), (16, 4, 5)] else if op.1 = 4 then [(16, 8, 4096)] else []))
    let s := (atWork 4097 9 [c]).setEntry 1 testSample
    actOk s = true ∧ s.freshCmd 5 op.1 = some c ∧ s.cmd 3 = some c ∧ s.fenced 3 = false ∧
      (op.1 = 2 → s.checkCancel c = .accept) ∧ (op.1 = 3 → s.checkReward c = .accept) ∧ (op.1 = 4 → s.checkQuery c = .accept) := by
  decide +kernel
theorem test_reward_ember : let c := { testCmd 3 (entryOf 0x03 [(8, 2, 1), (10, 2, 2), (12, 4, 8), (16, 4, 5)]) with
      phase := .waiting, handle := 1 }
    let s := ((atWork 4097 9 [c]).setEntry 1 testSample).setCtx 5 { CtxRun.dflt with emTail := 15, emHead := 15 }
    actOk s = true ∧ s.cmd 3 = some c ∧ c.op = 0x03 ∧ c.status = 0 ∧ c.started = false ∧ c.presented + 2048 ≤ s.now + 1 ∧
      s.fenced 3 = false ∧ hostOf (s.ringAt 5 2 + 32 * 15) = none ∧ s.ringReach (s.ringAt 5 2 + 32 * 15) = true ∧
      c.phase = .waiting := by decide +kernel
/-! ## Flue -/

/-- The two members of group 9, both on this device, and a group whose second member is elsewhere. -/
def twoHere : List (Nat × Nat × Int) := [(3, 2, 0), (3, 4, 64)]
def oneThere : List (Nat × Nat × Int) := [(3, 2, 0), (4, 2, 64)]
/-- The bytes of a member list (R489). -/
def listBytes (l : List (Nat × Nat × Int)) : List Byte := l.flatMap fun e => toLE 2 e.1 ++ toLE 1 e.2.1 ++ toLE 5 e.2.2.toNat

/-- Member 0 of a collective of group 9, on partition 2, and the same begun. -/
def newMember : Member := Member.new 2 0 128
def testMember : Member := { newMember with begun := true, view := twoHere }

/-- An all-gather (op 2) of 64 bytes, or an all-reduce (op 0) of 128 bytes, in group 9 from mark 4200, with that member alone
here. -/
def testColl (op : Nat) (x : Member) : Coll :=
  { cid := 3, id := 77, group := 9, op := op, dtype := if op = 0 then 0 else 5, src := 4096, dst := 8192,
    size := if op = 0 then 128 else 64, chunk := 4096, root := 0, start := 4200, deadline := 9000, plan := 0, done := 4208,
    begunAt := 4200 * 1024, locals := [x] }

def collEntry (op : Nat) : List Byte :=
  entryOf 0x40 [(8, 4, 77), (12, 2, 9), (14, 1, op), (15, 1, if op = 0 then 0 else 5), (16, 8, 4096), (24, 8, 8192),
    (32, 8, if op = 0 then 128 else 64), (40, 4, 4096), (48, 8, 4200), (56, 8, 9000)]

/-- The collective at work on a hearth partition 2 of device 3, with the members of its group in memory. -/
def atColl (mark op : Nat) (x : Member) (l : List (Nat × Nat × Int) := twoHere) : State :=
  { atWork mark 9 [{ testCmd 3 (collEntry op) with ctx := 0 }] linkFields with
    colls := [testColl op x], groups := [(9, { ctx := 0, members := l, list := 2 ^ 20 })]
    mem := State.reset.mem.writeN (2 ^ 20) (listBytes l) }

def oneOk (s : State) (co : Coll) (x : Member) : Bool :=
  actOk s && s.coll co.cid == some co && co.locals == [x] && x.outcome.isNone && !x.recorded &&
    (s.cmd co.cid).any fun c => decide (c.phase ≠ .done)

theorem one_of {s : State} {co : Coll} {x : Member} (h : oneOk s co x = true) : OneLocal s co.cid co x := by
  simp only [oneOk, Bool.and_eq_true, beq_iff_eq, Bool.not_eq_true', Option.isNone_iff_eq_none, Option.any_eq_true,
    decide_eq_true_eq] at h
  obtain ⟨⟨⟨⟨⟨h1, h2⟩, h3⟩, h4⟩, h5⟩, c, h6, h7⟩ := h
  exact ⟨acting_of h1, h2, h3, rfl, h4, h5, c, h6, h7⟩

def localOk (s : State) (co : Coll) (x : Member) : Bool :=
  actOk s && s.coll co.cid == some co && co.member x.p == some x && x.outcome.isNone

theorem local_of {s : State} {co : Coll} {x : Member} (h : localOk s co x = true) : Local s co.cid co x := by
  simp only [localOk, Bool.and_eq_true, beq_iff_eq, Option.isNone_iff_eq_none] at h
  exact ⟨acting_of h.1.1.1, h.1.1.2, h.1.2, rfl, h.2⟩

theorem test_group_defined : let c := freshCommand 0 (entryOf 0x41 [(8, 2, 10), (12, 4, 1), (16, 8, 4096)])
    let s := { atWork 4097 9 [c] linkFields with mem := State.reset.mem.writeN 4096 (toLE 8 0x20003) }
    actOk s = true ∧ s.freshCmd 0 0x41 = some c ∧ s.cmd 3 = some c ∧ s.checkGroup c = .accept ∧ s.fenced 3 = false ∧
      s.listRead c = true := by decide +kernel
theorem test_group_dropped : let v : Word32 := 9
    (atWork 4097 9).configReady = true ∧
    ((atColl 4210 2 testMember).group (v.toNat % 65536)).isSome = true ∧ (atColl 4210 2 testMember).groupBusy 9 = true ∧
      ((atWork 4097 9).group 9).isSome = true ∧ (atWork 4097 9).groupBusy 9 = false ∧ (atWork 4097 9).group 10 = none := by
  decide +kernel
theorem test_collective_accepted : let c := freshCommand 0 (collEntry 2)
    let s := atWork 4097 9 [c] linkFields
    actOk s = true ∧ s.freshCmd 0 0x40 = some c ∧ s.cmd 3 = some c ∧ s.checkCollective c = .accept := by decide +kernel
theorem test_collective_starts : ∀ r ∈ [0, 1], let x := newMember
    let s := (atColl 4200 2 x).setFld (F.inReset 2) r
    actOk s = true ∧ s.coll 3 = some (testColl 2 x) ∧ (s.cmd 3).map (fun c => (c.cid, c.started)) = some (3, false) ∧
      ((testColl 2 x).locals.map (·.p)).Nodup ∧ (testColl 2 x).start ≤ s.time.mark ∧ s.fenced 3 = false ∧
      s.flag (F.inReset x.p) = (r == 1) := by decide +kernel
theorem test_collective_reads_its_list : let x := newMember
    let s := atColl 4200 2 x
    x.stopped = false ∧ x.outcome = none ∧ s.steps = [] ∧ s.arriveAt x.p = none ∧ s.readView (testColl 2 x) x = some twoHere ∧
      (meetOf [(4, { meet with err := some 2 })] (2 * x.p)).err.isSome = true := by decide +kernel
theorem test_chunk_sent : let s := atColl 4200 2 testMember
    let co := testColl 2 testMember
    localOk s co testMember = true ∧ (s.nextSend co testMember).any (fun ch =>
      (s.takeHeld co testMember ch.src ch.rd meet).isSome &&
      (s.takeHeld co testMember ch.src ch.rd { meet with err := some 2 }).isNone &&
      (memberAt (s.memGroup co testMember) ch.peer).1 == s.fld F.flueDevice) = true ∧
      s.flag F.flueNodeValid = true := by decide +kernel
theorem test_chunk_stalls : let x := { testMember with sent := [(0, 1)] }
    let s := atColl 4300 0 x
    localOk s (testColl 0 x) x = true ∧ (s.heldSend (testColl 0 x) x).isSome = true := by decide +kernel
theorem test_chunk_stray : localOk (atColl 4210 2 testMember) (testColl 2 testMember) testMember = true ∧
    (atColl 4210 2 testMember).collOn 2 78 = none := by decide +kernel
/-- The payload and header of chunk 0 of member 1. -/
def testPay : List Byte := List.replicate 64 7
def testHead (op : Nat) : List Byte := chunkHeader (testColl op testMember) 1 0 5 false true testPay
theorem test_chunk_received : ∀ op ∈ [0, 2], ∀ dup : Bool,
    let x := { testMember with got := if dup then [(0, 1)] else [] }
    let s := atColl 4210 op x
    let co := testColl op x
    let h := testHead op
    let g := s.memGroup co x
    localOk s co x = true ∧ s.collOn 2 (leAt h 0 4) = some (co, x) ∧
      (memberAt g (leAt h 8 4)).1 = 3 ∧ leAt h 8 4 < g.members.length ∧
      leAt h 4 2 = co.group ∧ leAt h 6 1 = co.op + 8 * co.plan ∧ leAt h 7 1 = co.dtype ∧ leAt h 24 3 = co.start % 2 ^ 24 ∧
      (((s.inOf co x).find? fun i => i.idx == leAt h 12 4 && i.peer == leAt h 8 4).any fun ch => (x.has ch == dup) &&
        (ch.add == (op == 0)) && segLen ch.wr == 64) = true ∧ testPay.length = 64 ∧ (leAt h 27 1).testBit 1 = true := by
  decide +kernel

theorem ofLE_toLE (n v : Nat) : ofLE (toLE n v) = v % 256 ^ n := by
  induction n generalizing v with
  | zero => simp [toLE, ofLE, Nat.mod_one]
  | succ n ih =>
    have e : 256 ^ (n + 1) = 256 * 256 ^ n := Nat.pow_succ'
    rw [toLE, ofLE, ih, BitVec.toNat_ofNat, e]
    exact (Nat.mod_mul ..).symm

/-- Bytes with their CRC after them, and with another value there. -/
theorem test_chunk_sealed (body pay : List Byte) (hb : body.length = 28) :
    let h := body ++ toLE 4 (crc32c (body ++ pay))
    let w := body ++ toLE 4 (crc32c (body ++ pay) + 1)
    leAt h 28 4 = crc32c (h.take 28 ++ pay) ∧ leAt w 28 4 ≠ crc32c (w.take 28 ++ pay) := by
  have hl : crc32c (body ++ pay) < 2 ^ 32 := BitVec.isLt _
  have hr : ∀ v, leAt (body ++ toLE 4 v) 28 4 = v % 2 ^ 32 := fun v => by
    rw [leAt, List.drop_left' hb, show (toLE 4 v).take 4 = toLE 4 v from rfl, ofLE_toLE]; rfl
  simp only [hr, List.take_left' hb]
  omega
theorem test_chunk_wrong : let s := atColl 4210 2 testMember
    let co := testColl 2 testMember
    let h := chunkHeader co 1 9 5 false false []
    let g := s.memGroup co testMember
    localOk s co testMember = true ∧ s.collOn 2 (leAt h 0 4) = some (co, testMember) ∧ (memberAt g (leAt h 8 4)).1 = 3 ∧
      leAt h 8 4 < g.members.length ∧
      (s.inOf co testMember).find? (fun i => i.idx == leAt h 12 4 && i.peer == leAt h 8 4) = none := by decide +kernel
theorem test_arrival_counted : let x := { testMember with gotAt := [(0, 4200 * 1024)], got := [(0, 1)], valid := [(64, 64)] }
    let s := (atColl 4210 2 x).setFld (F.arriveEn 2) 1
    let co := testColl 2 x
    localOk s co x = true ∧ (s.arriveAt 2).isSome = true ∧ s.arrivedStep co x = some 0 ∧
      (s.writeResult co x (s.arrivedSegs co x 0) (meetOf [] 2)).2 = true ∧
      (s.writeResult co x (s.arrivedSegs co x 0) (meetOf [(2, { meet with err := some 2 })] 2)).2 = false := by decide +kernel
theorem test_flue_messages : let s := atColl 4210 2 testMember
    localOk s (testColl 2 testMember) testMember = true ∧ s.collOn 2 77 = some (testColl 2 testMember, testMember) ∧
      s.collOn 7 77 = none := by decide +kernel
theorem test_collective_done : ∀ m ∈ [4208, 4209],
    let x := { testMember with view := oneThere, got := [(0, 1)], sent := [(0, 1)], valid := [(64, 64)], doneAt := 4201 * 1024 }
    let s := atColl m 2 x oneThere
    let co := testColl 2 x
    oneOk s co x = true ∧ s.memberDone co x = true ∧ co.done ≤ s.time.mark ∧
      (s.takeHeld co x false (s.resultSegs co x) meet).isSome = true ∧
      (s.takeHeld co x false (s.resultSegs co x) { meet with err := some 2 }).isNone = true ∧
      s.resultOk co x (s.resultSegs co x) = true := by decide +kernel
/-- The result of the collective lies in expander memory. -/
theorem test_result_refused :
    let x := { testMember with view := oneThere, got := [(0, 1)], sent := [(0, 1)], valid := [(64, 64)], doneAt := 4201 * 1024 }
    let co := { testColl 2 x with dst := 2 ^ 41 }
    let s := { atColl 4208 2 x oneThere with colls := [co] }
    oneOk s co x = true ∧ s.memberDone co x = true ∧ co.done ≤ s.time.mark ∧
      badAt { meet with badWrite := true } ((s.resultExtents co x (s.resultSegs co x)).map (·.1)) = true := by decide +kernel
theorem test_collective_deadline : let s := atColl 9000 2 testMember
    let co := testColl 2 testMember
    oneOk s co testMember = true ∧ co.deadline ≤ s.time.mark ∧ co.done ≤ s.time.mark ∧ s.memberDone co testMember = false ∧
      s.missing co testMember = some 1 := by decide +kernel
theorem test_collective_recorded : ∀ o ∈ [0x20, 0x41, 0], let x := { testMember with outcome := some o, recorded := true }
    let s := atColl 4210 2 x
    actOk s = true ∧ s.coll 3 = some (testColl 2 x) ∧ x.outcome.isSome = true ∧ (s.cmd 3).any (fun c => decide (c.phase ≠ .done)) = true ∧
      [0x20, 0x21, 0x40, 0x43, 0x41, 0x42, 0].find? (fun z => (testColl 2 x).locals.any fun x => x.outcome == some z) = some o := by
  decide +kernel
/-! ## Training steps -/

/-- A step header: its mode, voted collective 7, update lead of 16 marks, control block at 0x20000 (R416). -/
def testHeader (mode : Nat) : List Byte :=
  toLE 1 1 ++ toLE 1 mode ++ toLE 2 0 ++ toLE 2 9 ++ toLE 2 0 ++ toLE 4 7 ++ toLE 4 16 ++ toLE 32 0 ++ toLE 8 0x20000 ++ toLE 8 0

def launchEntry : List Byte :=
  entryOf 0x20 [(8, 8, 2 ^ 44), (16, 8, 8192), (24, 4, 1), (30, 1, 4), (32, 8, 1), (40, 8, 5000), (48, 2, 2)]

/-- Step t of partition 2 in flight at a mark, with more fields. -/
def atStep (mark : Nat) (t : Step) (more : List (Fld × Nat) := []) : State :=
  { (atWork mark 9 [testCmd 3 launchEntry] (hearthFields ++ more)) with steps := [t] }

/-- What a partition has read of a step of that mode. -/
def testView (mode : Nat) : StepView := { header := testHeader mode, list := [], mainTab := [], updTab := [] }

/-- A step of partition 2 that commits at mark 5000, with a header of that mode, started at 4097. -/
def stepAt (mode : Nat) : Step :=
  { testStep [2] with views := [(2, testView mode)], started := true, startAt := 4097, commit := 5000 }

def stepOk (s : State) (t : Step) (p : Nat) : Bool :=
  actOk s && s.step? t.cid == some t && decide (p ∈ t.parts) && decide (∀ q ∈ t.parts, q < 8) && decide t.parts.Nodup && !t.frozen

theorem step_of {s : State} {t : Step} {p : Nat} (h : stepOk s t p = true) : StepOn s t.cid t p := by
  simp only [stepOk, Bool.and_eq_true, beq_iff_eq, Bool.not_eq_true', decide_eq_true_eq] at h
  exact ⟨acting_of h.1.1.1.1.1, h.1.1.1.1.2, rfl, h.1.1.1.2, h.1.1.2, h.1.2, h.2⟩

theorem test_step_accepted : let c := freshCommand 5 (entryOf 0x20 [(8, 8, 4096), (16, 8, 8192), (24, 4, 1), (30, 1, 4), (32, 8, 1),
      (40, 8, 5000), (48, 2, 2)])
    let s := atWork 4097 9 [c] hearthFields
    actOk s = true ∧ s.freshCmd 5 0x20 = some c ∧ s.cmd 3 = some c ∧ s.checkStep c = .accept := by decide +kernel
theorem test_step_starts : let c := testCmd 3 launchEntry
    let t := { testStep [2] with commit := 5000 }
    let s := atStep 4097 t
    stepOk s t 2 = true ∧ s.cmd 3 = some c ∧ c.op = 0x20 ∧ c.phase = .running ∧ t.started = false ∧
      c.admitMark + 2 ≤ s.time.mark ∧ s.fenced 3 = false ∧ s.reachRange (some 2) false t.ctx (c.fld 8 8) 64 true false = false ∧
      (meetOf [(2, { meet with err := some 2 })] 2).err.isSome = true := by decide +kernel
theorem test_main_table : ∀ h ∈ [[], [2]],
    let t := { stepAt 0 with hdrFault := h, views := [(2, { testView 0 with mainTab := [testRecord (2 * 2048)] })] }
    let s := atStep 4099 t
    stepOk s t 2 = true ∧ t.started = true ∧ t.mainUp = false ∧ t.startAt + 2 ≤ s.time.mark ∧
      (t.view 2).mainTab = [testRecord (2 * 2048)] ∧ (∀ q ∈ t.parts, s.tableFree t q (t.view q).mainTab = true) ∧
      leAt (testRecord (2 * 2048)) 0 2 / 128 = 2 ∧ s.launchOk 2 (testRecord (2 * 2048)) = true := by decide +kernel
/-- A record twice in a table: the second finds its thread LIVE. -/
theorem test_table_refusal : let r := testRecord (2 * 2048)
    let t := { stepAt 0 with views := [(2, { testView 0 with mainTab := [r, r] })] }
    let s := atStep 4099 t
    stepOk s t 2 = true ∧ (t.view 2).mainTab = [r] ++ r :: [] ∧ leAt r 0 2 / 128 = 2 ∧ leAt r 2 1 < 16 ∧
      (s.launchTable t 2 []).launchOk 2 r = true ∧ (s.launchTable t 2 [r]).launchOk 2 r = false := by decide +kernel
theorem test_gate_due : ∀ o ∈ [[(2, 7, 0, 4200)], [(2, 7, 0x41, 4200)], []], ∀ f ∈ [0, 1],
    let t := { stepAt 0 with mainUp := true, views := [(2, { testView 0 with list := [(7, 0, 0)] })], colls := o }
    let s := atStep 4984 t [(F.nf 2, f)]
    stepOk s t 2 = true ∧ t.mainUp = true ∧ 2 ∉ t.gated ∧ t.updateMark 2 ≤ s.time.mark ∧ s.sflags 2 = f ∧
      (t.view 2).list = [(7, 0, 0)] := by decide +kernel
theorem test_update_table : let t := { stepAt 0 with
      mainUp := true, gated := [2], gate := [2], views := [(2, { testView 0 with updTab := [testRecord (2 * 2048)] })] }
    let s := atStep 4984 t
    stepOk s t 2 = true ∧ 2 ∈ t.gated ∧ 2 ∉ t.updUp ∧ 2 ∈ t.gate ∧ t.updateMark 2 ≤ s.time.mark ∧
      (t.view 2).updTab = [testRecord (2 * 2048)] ∧ s.tableFree t 2 [testRecord (2 * 2048)] = true ∧
      s.launchOk 2 (testRecord (2 * 2048)) = true := by decide +kernel
theorem test_self_test_check : let t := stepAt 2
    let s := (atStep 4999 t).setThread 4096 { Thread.dflt with state := .live, record := testRecord 4096, owner := .step 3 }
    stepOk s t 2 = true ∧ t.started = true ∧ (t.view 2).mode = 2 ∧ t.commit = s.time.mark + 1 ∧ 4096 / 2048 = 2 ∧ (s.thread 4096).state = .live ∧
      (s.thread 4096).owner = .step 3 := by decide +kernel
theorem test_step_commits : let t := { stepAt 0 with colls := [(2, 7, 0, 4999)] }
    let s := atStep 5000 t [(F.stepCount 2, 2 ^ 64 - 1)]
    stepOk s t 2 = true ∧ t.commit ≤ s.time.mark ∧ s.fenced 3 = false ∧ s.stepRow t 2 = 0 ∧ (t.view 2).mode = 0 ∧
      (s.cmd 3).any (fun c => decide (c.phase ≠ .done)) = true ∧ s.flag (F.inReset 2) = false := by decide +kernel
theorem test_step_does_not_commit : ∀ m < 3, let t := { stepAt m with threadFault := if m = 1 then [2] else [] }
    let s := atStep 5000 t [(F.nf 2, if m = 0 then 1 else 0)]
    stepOk s t 2 = true ∧ t.commit ≤ s.time.mark ∧ s.fenced 3 = false ∧
      s.stepRow t 2 = (if m = 0 then 0x41 else if m = 1 then 0x40 else 0) ∧ ((t.view 2).mode ≠ 0 ∨ s.stepRow t 2 ≠ 0) ∧
      s.flag (F.inReset 2) = false := by decide +kernel
theorem test_first_row_of_the_list : let t := { stepAt 0 with
      parts := [2, 3], views := [(2, testView 0), (3, testView 0)], colls := [(2, 7, 0, 4999), (3, 7, 0, 4999)] }
    let s := atStep 5000 t [(F.nf 3, 1)]
    stepOk s t 2 = true ∧ stepOk s t 3 = true ∧ s.stepRow t 2 = 0 ∧ s.stepRow t 3 = 0x41 ∧
      [0x40, 0x43, 0x41, 0x42, 0x44, 0x22, 0].find? (fun z => t.parts.any fun q => s.stepRow t q == z) = some 0x41 := by decide +kernel
theorem test_commit_waits_for_reset : let t := stepAt 0
    let s := atStep 5000 t [(F.inReset 2, 1)]
    stepOk s t 2 = true ∧ t.commit ≤ s.time.mark ∧ s.fenced 3 = false ∧ s.flag (F.inReset 2) = true := by decide +kernel
theorem test_revert : let s := atWork 4097 9 [] (hearthFields ++ [(F.prevValid 2, 1), (F.prevVersion 2, 9)])
    hostOk s = true ∧ s.stepOn 2 = none ∧ s.flag (F.prevValid 2) = true ∧ s.publishing 2 none = false ∧
      (atStep 4984 (stepAt 0)).stepOn 2 = some (stepAt 0) := by decide +kernel
/-! ## Lamplighter -/

def acceptedOk (s : State) (n op : Nat) (c : Cmd) (check : State → Cmd → Verdict) : Bool :=
  actOk s && s.freshCmd n op == some c && s.cmd c.cid == some c && decide (check s c = .accept)

theorem accepted_of {s : State} {n op : Nat} {c : Cmd} {check : State → Cmd → Verdict} (h : acceptedOk s n op c check = true) :
    Accepted s n op c check := by
  simp only [acceptedOk, Bool.and_eq_true, beq_iff_eq, decide_eq_true_eq] at h
  exact ⟨acting_of h.1.1.1, h.1.1.2, h.1.2, h.2⟩

def runningOk (s : State) (op : Nat) (c : Cmd) : Bool :=
  actOk s && s.cmd c.cid == some c && c.op == op && decide (c.phase = .running)

theorem running_of {s : State} {op : Nat} {c : Cmd} (h : runningOk s op c = true) : Running s op c.cid c := by
  simp only [runningOk, Bool.and_eq_true, beq_iff_eq, decide_eq_true_eq] at h
  exact ⟨acting_of h.1.1.1, h.1.1.2, h.1.2, h.2⟩

def readableB (s : State) (l : List (Nat × Nat)) : Bool := l.all fun e => s.backed e.1 && s.backed (e.1 + e.2 - 1)

theorem readable_of {s : State} {l : List (Nat × Nat)} (h : readableB s l = true) : readable s l := by
  intro e he
  simpa using List.all_eq_true.mp h e he

/-- PUBLISH of the hearth's version 1, as version 9, to partition 0 at mark 8192; of a variant where kind is 1. -/
def publishEntry (kind : Nat) : List Byte := entryOf 0x30 [(8, 1, kind), (9, 1, 1), (10, 2, 1), (12, 2, 9), (16, 8, 8192)]

/-- It runs, with slot 1 of partition 0 as its target and its copy from mark 4100 to 4182. -/
def publishCmd (kind : Nat) (started : Bool) : Cmd :=
  { testCmd 3 (publishEntry kind) with ctx := 0, started := started, targets := [(0, 1)], startAt := 4100, endAt := 4182 }
def publishJob : CopyJob := { cid := 3, start := 4100, endAt := 4182, live := true, variant := none, rate := 8 }

theorem test_publish_accepted : let c := freshCommand 0 (publishEntry 0)
    let s := atWork 4097 9 [c] (hearthFields ++ modelFields ++ lampFields)
    acceptedOk s 0 0x30 c State.checkPublish = true ∧ s.jobs = [] ∧ s.emptySlotOf 0 = some 1 ∧ 0 ∈ maskParts (c.fld 9 1) := by
  decide +kernel
theorem test_publish_copies : ∀ st : Bool, let c := publishCmd 0 st
    let s := { atWork 4182 9 [c] (hearthFields ++ lampFields) with jobs := [publishJob] }
    runningOk s 0x30 c = true ∧ c.abandoned = false ∧ c.startAt ≤ s.time.mark ∧ c.endAt ≤ s.time.mark ∧ s.fenced 3 = false ∧
      s.jobs.any (fun j => j.cid == 3) = true ∧ (s.publishExtents c).any (fun l => readableB s l) = true ∧
      ∀ t ∈ c.targets, t.1 < 8 ∧ t.2 < 4 := by decide +kernel
theorem test_publish_without_source : let s := { atWork 4182 9 [publishCmd 1 false] with jobs := [publishJob] }
    runningOk s 0x30 (publishCmd 1 false) = true ∧ s.publishExtents (publishCmd 1 false) = none := by decide +kernel
theorem test_variant_accepted : let c := freshCommand 0 (entryOf 0x31 [(8, 8, 2 ^ 41), (16, 8, 2097152), (24, 2, 9)])
    let s := atWork 4097 9 [c] (modelFields ++ [(F.varState 0, 2)])
    acceptedOk s 0 0x31 c State.checkVariant = true ∧ s.fenced 3 = false := by decide +kernel
theorem test_variant_states : ∀ v < 3, let s := (atWork 4097 9).setFld (F.varState 7) v
    hostOk s = true ∧ s.fld (F.varState 7) = v := by decide +kernel
theorem test_reference_accepted : let c := freshCommand 0 (entryOf 0x32 [(8, 1, 1), (10, 2, 7), (16, 8, 4608)])
    let s := atWork 4097 9 [c] modelFields
    acceptedOk s 0 0x32 c State.checkReference = true ∧ s.slotWith 0 7 = some 0 := by decide +kernel

/-- An adapter of context 5 in a state. -/
def testAdapter (ver block state : Nat) : Adapter :=
  { ctx := 5, id := 5, ver := ver, block := block, state := state, refs := 0, dtype := 0, quar := 0 }
def adapterEntry (op : Nat) : List Byte :=
  entryOf op ([(24, 2, 5), (30, 1, 1)] ++ if op = 0x12 then [] else [(8, 8, 4096), (16, 8, 64), (26, 2, 2)])
def atAdapters (cmds : List Cmd) (l : List Adapter) : State :=
  (atWork 4097 9 cmds lampFields).setPart 0 { Part.dflt with adapters := l }

theorem test_adapter_accepted : ∀ again : Bool, let c := freshCommand 5 (adapterEntry (if again then 0x11 else 0x10))
    let s := atAdapters [c] (if again then [testAdapter 1 0 1] else [])
    acceptedOk s 5 (if again then 0x11 else 0x10) c (fun s c => s.checkAdapter c again) = true ∧
      s.freeBlock 0 = some (if again then 1 else 0) := by decide +kernel
theorem test_adapter_installed : ∀ again : Bool, ∀ bad : Bool,
    let c := { testCmd 3 (adapterEntry (if again then 0x11 else 0x10)) with faulted := bad }
    let s := atAdapters [c] [testAdapter 1 0 1, testAdapter 2 1 0]
    runningOk s (if again then 0x11 else 0x10) c = true ∧ (∀ p < 8, ∀ j ∈ (s.part p).dma, j.cid ≠ 3) ∧ maskParts (c.fld 30 1) = [0] ∧
      s.ending c.ctx = false ∧
      s.adapter 0 (c.fld 24 2) 1 = some (testAdapter 1 0 1) := by decide +kernel
theorem test_adapter_removed : let c := freshCommand 5 (adapterEntry 0x12)
    let s := atAdapters [c] [testAdapter 1 0 1]
    acceptedOk s 5 0x12 c State.checkRemove = true ∧ s.fenced 3 = false := by decide +kernel
theorem test_role_accepted : let c := freshCommand 0 (entryOf 0x80 [(8, 1, 1), (9, 1, 3), (16, 8, 8000)])
    acceptedOk (atWork 4097 9 [c]) 0 0x80 c State.checkRole = true := by decide +kernel
theorem test_role_due : ∀ r < 4, let c := testCmd 3 (entryOf 0x80 [])
    let s := (atWork 4097 9 [c]).setPart 1 { Part.dflt with pendRole := some (3, r, 4097) }
    actOk s = true ∧ (s.part 1).pendRole = some (3, r, 4097) ∧ s.fenced 3 = false ∧ s.flag (F.inReset 1) = false ∧
      runningOk s 0x80 c = true ∧ (s.part 1).dma = [] := by decide +kernel
theorem test_role_serves : ∀ r < 2, let c := testCmd 3 (entryOf 0x80 [])
    let s := ((atWork 4097 9 [c]).setPart 1 { Part.dflt with serveAt := some (3, 2, 4097) }).setFld (F.inReset 1) r
    runningOk s 0x80 c = true ∧ (s.part 1).serveAt = some (3, 2, 4097) ∧ 4097 ≤ s.time.mark ∧ s.flag (F.inReset 1) = (r == 1) := by decide +kernel
theorem test_frame_set_accepted : let c := freshCommand 0 (entryOf 0x81 [(8, 1, 0), (9, 1, 1), (12, 4, 256), (16, 8, 4352)])
    let s := atWork 4097 9 [c]
    acceptedOk s 0 0x81 c State.checkFrameSet = true ∧ (s.part 0).nextSched = none := by decide +kernel
theorem test_mark_set_accepted : let c := freshCommand 0 (entryOf 0x82 [(16, 8, 131072)])
    acceptedOk (atWork 4097 9 [c] [(F.tState, 0)]) 0 0x82 c State.checkMarkSet = true := by decide +kernel
theorem test_domain_due : ∀ i ∈ [0, 159, 200, 207], let s0 := atWork 4097 9
    let s := { s0 with board := { s0.board with dueOn := [(0, i), (5, 3)], lastOn := some (4089 * 1024) } }
    actOk s = true ∧ s.board.dueOn = [(0, i), (5, 3)] ∧ s.board.lastOn = some (4089 * 1024) ∧
      4089 * 1024 + 8 * 1024 ≤ s.now - s.time.cyc := by decide +kernel
theorem test_partition_reset_due : let s := (atWork 4097 9).setPart 2 { Part.dflt with resetAt := some (4097, 5) }
    actOk s = true ∧ (s.part 2).resetAt = some (4097, 5) ∧ s.markCome 4097 = true ∧ (s.part 7).resetAt = none ∧ s.role 0 ≠ 0 ∧ s.flag (F.inReset 0) = false ∧
      (s.part 0).resetAt = none := by decide +kernel
/-- A collective of partition 2 that has passed its completion mark, and a device without one. -/
theorem test_control_hang : (atColl 4300 2 testMember).overdue 2 = true ∧ (atWork 4097 9).overdue 2 = false := by decide +kernel
theorem test_partition_reset_ends : ∀ hot : Bool,
    let x := { Part.dflt with resetFrom := some (4097, 5, 2), resetTrig := 4096 * 1024, hotDie := hot }
    let s := (withRegs (atWork 20480 9) [(F.inReset 2, 1), (F.thermJ 2, 1601)]).setPart 2 x
    actOk s = true ∧ (s.part 2).resetFrom = some (4097, 5, 2) ∧ (s.part 2).resetTrig + 16384 * 1024 ≤ s.now ∧
      s.colls = [] ∧ (s.part 2).hotDie = hot ∧ 1600 < s.fld (F.thermJ 2) ∧ s.board.chipFrom = none := by decide +kernel
/-! ## Frames -/

theorem serving_of {s : State} {p : Nat} {sc : Sched} (h : (actOk s && decide (p < 8) && s.serving p && (s.part p).sched == some sc &&
    (s.part p).nextSched.isNone) = true) : Serving s p sc := by
  simp only [Bool.and_eq_true, beq_iff_eq, decide_eq_true_eq, Option.isNone_iff_eq_none] at h
  exact ⟨acting_of h.1.1.1.1, h.1.1.1.2, h.1.1.2, h.1.2, h.2⟩

def testSched : Sched := { len := 256, origin := 4096, builder := 4 }
/-- The work of entry 1 in a frame: its decode of one position. -/
def testWork : Work :=
  { entry := 1, first := 8, count := 1, prefill := false, final := false, copyFrom := none, version := 7, lost := false, lostCtx := [],
    record := [] }
/-- Partition 0 with its frames at x, at a mark and cycle. -/
def atFrame (mark cyc : Nat) (x : Part) (cmds : List Cmd := []) (more : List (Fld × Nat) := []) : State :=
  (atWork mark cyc cmds more).setPart 0 { x with sched := some testSched }
def framePart : Part := { Part.dflt with curFrame := some 0 }

def servesOk (s : State) : Bool := actOk s && s.serving 0 && (s.part 0).sched == some testSched && (s.part 0).nextSched.isNone

theorem test_frame_begins : ∀ f ∈ [none, some 4336],
    let x := { framePart with curWork := if f.isSome then [testWork] else [], finalised := f }
    let s := atFrame 4352 0 x
    let v := s.dueCancels.missFrameSets 0
    servesOk v = true ∧ actOk s = true ∧ v.nextBoundary 0 = some 4352 ∧ 4352 ≤ v.time.mark ∧
      (v.part 0).finalised = f ∧ 4336 + 16 ≤ 4352 := by decide +kernel
/-- A FRAME_SET whose origin is the end of frame 0. -/
theorem test_schedule_changes : let n : Sched := { len := 512, origin := 4352, builder := 5 }
    let s := atFrame 4352 0 { framePart with nextSched := some (3, n) }
    let v := s.dueCancels.missFrameSets 0
    actOk s = true ∧ v.framing 0 = true ∧ (v.part 0).nextSched = some (3, n) ∧
      v.nextBoundary 0 = some n.origin ∧ n.origin ≤ v.time.mark := by decide +kernel
theorem test_frame_sealed : ∀ m ∈ [4336, 4351], let s := atFrame m 0 { framePart with curWork := [testWork], noWorkTill := 4353 }
    servesOk s = true ∧ s.nextBoundary 0 = some 4352 ∧ 4352 ≤ s.time.mark + 16 ∧ (s.part 0).sealed.map (·.1) ≠ some 4352 ∧
      (s.part 0).curWork ≠ [] ∧ (s.part 0).finalised = none ∧ 4352 < (s.part 0).noWorkTill := by decide +kernel

/-- Partition 0 at 16 marks before the end of frame 0, with a sample in entry 1 and, best-effort, one in entry 2 that prefills. -/
def atSeal (guar : Bool) (budget : Nat) (more : List (Fld × Nat) := []) : State :=
  let s0 := atFrame 4336 0 { framePart with budget := budget, ctrl := 64 } [] (modelFields ++ [(F.factor 0, 16)] ++ more)
  let s := (s0.setEntry 1 { testSample with guar := guar }).setEntry 2 { testSample with state := 2, length := 0, guar := guar, reqRec := 7 }
  { s with reqs := [(7, {
      ctx := 5, cid := 3, part := 0, promptAddr := 4096, temperature := 0, topK := 0, stopEn := false, stopToken := 0, streamBase := 0,
      entries := [2], promptRes := 0, prefilled := 0, placed := [(4352, 0, 8)], toPlace := [], matched := true })] }
def sealCtx (s : State) (budget : Nat) : FrameCtx :=
  { p := 0, b := 4352, ctrl := 64, eff := s.effFor 0 4352 budget (s.factorFor 0 4352), only := none, writers := [] }
def testBudget : Nat := 255 + 2 ^ 16 * 15 + 2 ^ 32 * 255 + 2 ^ 56 * 127
/-- The 15 ember slots of context 5 are all reserved. -/
def emberless (s : State) : State := s.setCtx 5 { s.ctx 5 with emReserved := 15 }
theorem test_list_sealed : let s := atSeal false testBudget
    let v := s.placeWaiting 0 4352
    servesOk s = true ∧ s.nextBoundary 0 = some 4352 ∧ 4352 ≤ s.time.mark + 16 ∧ (s.part 0).sealed.map (·.1) ≠ some 4352 ∧
      (s.part 0).curWork = [] ∧ (s.part 0).overrun = false ∧ (s.part 0).noWorkTill ≤ 4352 ∧ s.inReplay 0 = false ∧
      (∀ r ∈ v.reqs, v.matchNow (sealCtx s testBudget) r = false) ∧
      (v.build (sealCtx s testBudget)).works.map (fun w => (w.entry, w.first, w.count, w.prefill)) = [(1, 8, 1, false), (2, 0, 8, true)] := by
  decide +kernel
theorem test_decode_in_budget : ∀ g : Bool, ∀ full : Bool, ∀ none_ : Bool,
    let s0 := atSeal g testBudget (if none_ then [(F.kvPages 0, 0)] else [])
    let s := if full then emberless s0 else s0
    let x := s.entry 1
    let need := (s.newBlocks 1 8 1).length
    x.promptLen ≤ x.length ∧ x.guar = g ∧ x.pending = 0 ∧ (s.copyNeeded [] 1 8).isSome = false ∧ need = 1 ∧ s.unseen 1 [] = 0 ∧
      (1 ≤ (sealCtx s testBudget).eff.pos ∧ 1 ≤ (sealCtx s testBudget).eff.seqs ∧ 1 ≤ (sealCtx s testBudget).eff.pages) ∧
      (s.canObtain 1 need).2 = !none_ ∧ (s.emFree x.ctx = if full then 0 else 15) := by decide +kernel
theorem test_decode_over_budget : let s := atSeal false 0
    (s.entry 1).guar = false ∧ (sealCtx s 0).eff.seqs < 1 := by decide +kernel
theorem test_prefill_best_effort : ∀ full : Bool, ∀ none_ : Bool,
    let s0 := atSeal false testBudget (if none_ then [(F.kvPages 0, 0)] else [])
    let s := if full then emberless s0 else s0
    let x := s.entry 2
    x.length < x.promptLen ∧ (s.req x.reqRec).isSome = true ∧ x.reqRec = 7 ∧ x.guar = false ∧ s.unitOf 7 = [2] ∧
      min (min (chunkOf 64) (x.promptLen - x.length)) (sealCtx s testBudget).eff.pos = 8 ∧ x.promptLen - x.length = 8 ∧
      ((s.req 7).bind fun r => s.promptToks r 0 8) = some (List.replicate 8 0) ∧ segmentEnd (List.replicate 8 0) 0 8 = 8 ∧
      (s.newBlocks 2 0 8).length = 1 ∧ s.unseen 2 [] = 0 ∧ 1 ≤ (sealCtx s testBudget).eff.pages ∧
      (s.canObtain 2 1).2 = !none_ ∧ (s.emFree x.ctx = if full then 0 else 15) := by decide +kernel
theorem test_prefill_without_pages : (sealCtx (atSeal false 0) 0).eff.pages < 0 + (0 + 1) := by decide +kernel
theorem test_prefill_guaranteed : ∀ full : Bool, let s := if full then emberless (atSeal true testBudget) else atSeal true testBudget
    let x := s.entry 2
    x.length < x.promptLen ∧ x.guar = true ∧ s.unitOf x.reqRec = [2] ∧ max 0 x.length < 0 + 8 ∧
      ((s.req x.reqRec).any fun r => r.placed.find? (fun c => c.1 == 4352) == some (4352, 0, 8) && r.placed.all fun c => c.1 != 4608) = true ∧
      (s.emFree x.ctx = if full then 0 else 15) := by decide +kernel
theorem test_prefill_chunk_done : let s0 := atSeal true testBudget
    let s := s0.setEntry 2 { s0.entry 2 with promptLen := 16, length := 8 }
    (s.entry 2).length < (s.entry 2).promptLen ∧ (s.entry 2).guar = true ∧ 0 + 8 ≤ max 0 (s.entry 2).length := by decide +kernel
theorem test_candidates : ∀ g : Bool, let s := atSeal g testBudget
    mayRun s (sealCtx s testBudget) g 1 ∧ s.Inv := by
  have e : ∀ g : Bool, (atSeal g testBudget).req ((atSeal g testBudget).entry 1).reqRec = none := by decide +kernel
  intro g
  refine ⟨?_, inv_of (by cases g <;> decide +kernel)⟩
  unfold mayRun
  refine ⟨?_, ?_, ?_, ?_, ?_, ?_, fun n h => (by cases h), fun r h => (by rw [e] at h; cases h)⟩ <;> cases g <;> decide +kernel
theorem test_weights_switch : let c := { testCmd 3 (entryOf 0x30 [(9, 1, 1), (16, 8, 4352)]) with ctx := 0, started := true, targets := [(0, 1)] }
    let s := atFrame 4352 0 framePart [c] [(F.slState 0 1, 2), (F.slIncoming 0 1, 1), (F.slActive 0 0, 1)]
    servesOk s = true ∧ s.nextBoundary 0 = some 4352 ∧ 4352 ≤ s.time.mark ∧ c.phase = .running ∧ s.samplesOn 0 = [] ∧ (s.part 0).sealed = none ∧ s.cmds = [c] ∧ c.op = 0x30 ∧
      c.abandoned = false ∧ c.faulted = false ∧ c.fld 16 8 = 4352 ∧
      (∀ j < 4, s.flag (F.slIncoming 0 j) = true ↔ j = 1) ∧ s.flag (F.slActive 0 1) = false ∧ s.activeSlot 0 = some 0 := by
  decide +kernel
theorem test_kernel_starts : ∀ cl ∈ [0, 16], let s := atFrame 4096 64 { framePart with curWork := [testWork] } [] modelFields
    let r := testRecord (128 * cl)
    servesOk s = true ∧ (s.part 0).curWork ≠ [] ∧ (s.part 0).overrun = false ∧ (s.part 0).finalised = none ∧ s.kernelsLive 0 = false ∧
      (s.part 0).curFrame = some 0 ∧ (s.part 0).kernelUp = false ∧ s.kernelsDue 0 = true ∧ s.launchesOk 0 [r] = true ∧ s.launchOk 0 r = (cl == 0) := by decide +kernel

/-- With a kernel thread of frame 0 LIVE. -/
def withKernel (s : State) : State := s.setThread 0 { Thread.dflt with state := .live, record := testRecord 0, owner := .frame 0 0 }

theorem test_frame_finalised : ∃ m, ∀ live : Bool, let s0 := atFrame 4350 9 { framePart with curWork := [testWork] }
    let s := if live then withKernel s0 else s0
    servesOk s = true ∧ s.cutoff 0 = some m ∧ m ≤ s.time.mark ∧ (s.part 0).finalised = none ∧ (s.part 0).overrun = false ∧
      s.kernelsLive 0 = live := by
  refine ⟨4320, ?_⟩
  decide +kernel
theorem test_frame_late : ∀ live : Bool, let s0 := atFrame 4350 9 { framePart with curWork := [testWork], overrun := true }
    let s := if live then withKernel s0 else s0
    servesOk s = true ∧ (s.part 0).overrun = true ∧ (s.part 0).finalised = none ∧ s.kernelsLive 0 = live := by decide +kernel
theorem test_entry_freed : let s := (atFrame 70000 9 { framePart with curFrame := some 257 }).setEntry 1 { testSample with state := 8, doneAt := 4352 }
    actOk s = true ∧ (s.entry 1).state = 8 ∧ (s.entry 1).doneAt + 65536 ≤ s.time.mark ∧ s.lastBoundary 0 = some 69888 ∧
      (s.part 0).sched ≠ none ∧ (s.part 1).sched = none := by decide +kernel
theorem test_entry_kept : ∀ d ∈ [4353, 4465], let s := (atFrame 70000 9 { framePart with curFrame := some 257 }).setEntry 1 { testSample with state := 8, doneAt := d }
    actOk s = true ∧ (s.entry 1).state = 8 ∧ s.lastBoundary 0 = some 69888 ∧ 69888 < d + 65536 ∧
      (d = 4465 → s.time.mark < d + 65536) := by decide +kernel
theorem test_save_accepted : let c := freshCommand 0 (entryOf 0x50 [(8, 2, 6), (16, 8, 4194304), (24, 8, 2097152), (32, 8, 4200)])
    acceptedOk (atWork 4097 9 [c]) 0 0x50 c
      (fun s c => s.checkImage c 1 true (s.live (c.fld 8 2) || s.cstate (c.fld 8 2) == 4)) = true := by decide +kernel
theorem test_save_runs : ∀ st : Bool, let c := { testCmd 3 (entryOf 0x50 [(8, 2, 5), (10, 1, 1), (16, 8, 4194304), (24, 8, 2097152), (32, 8, 4200)]) with
      ctx := 0, handle := 5, started := st, wasLive := st }
    let s := (atWork (if st then 4440 else 4200) 9 [c]).setEntry 1 testSample
    runningOk s 0x50 c = true ∧ c.handle < 4096 ∧ (st = false → c.fld 32 8 ≤ s.time.mark ∧ s.fenced 3 = false) ∧
      (st = true → c.fld 32 8 + 240 ≤ s.time.mark) := by decide +kernel
theorem test_save_fails : let c := { testCmd 3 (entryOf 0x50 [(8, 2, 5), (16, 8, 4194304), (24, 8, 2097152), (32, 8, 4200)]) with
      ctx := 0, handle := 5, started := true, sources := [(0, 2 ^ 47, 64)] }
    let s := atWork 4440 9 [c]
    runningOk s 0x50 c = true ∧ c.fld 32 8 + 240 ≤ s.time.mark ∧
      (c.sources.all fun e => s.reachRange (some (e.1 / 128)) false c.ctx e.2.1 recordBytes false true) = false := by decide +kernel

def restoreEntry : List Byte := entryOf 0x51 [(8, 2, 6), (16, 8, 4194304), (24, 8, 2097152), (32, 8, 4200)]

theorem test_restore_accepted : let c := freshCommand 0 restoreEntry
    acceptedOk (atWork 4097 9 [c]) 0 0x51 c (fun s c => s.checkImage c 0 false (s.cstate (c.fld 8 2) == 4 &&
        !s.imagePending c && (s.cmdsOf (c.fld 8 2)).all fun d => !d.incomplete)) = true := by decide +kernel
theorem test_restore_runs : ∀ st ∈ [0, 0x40], let c := { testCmd 3 restoreEntry with ctx := 0, handle := 6, started := true, status := st }
    let s := atWork 4440 9 [c]
    runningOk s 0x51 c = true ∧ c.handle < 4096 ∧ c.fld 32 8 + 240 ≤ s.time.mark ∧ s.imageReach c = true := by decide +kernel
theorem test_restore_cannot_read : let c := { testCmd 3 (entryOf 0x51 [(8, 2, 6), (16, 8, 2 ^ 46), (24, 8, 2097152), (32, 8, 4200)]) with
      ctx := 0, handle := 6, started := true, status := 0 }
    let s := atWork 4440 9 [c]
    runningOk s 0x51 c = true ∧ c.fld 32 8 + 240 ≤ s.time.mark ∧ s.imageReach c = false := by decide +kernel
theorem test_restore_read_fails : let c := { testCmd 3 restoreEntry with ctx := 0, handle := 6, started := true, status := 0 }
    let s := atWork 4440 9 [c]
    runningOk s 0x51 c = true ∧ c.fld 32 8 + 240 ≤ s.time.mark ∧ s.imageReach c = true ∧
      s.imageError c [(0, { meet with err := some 2 })] = true ∧ s.imageError c [] = false := by decide +kernel
theorem test_restore_starts : let c := { testCmd 3 restoreEntry with ctx := 0, handle := 6 }
    let s := atWork 4200 9 [c]
    runningOk s 0x51 c = true ∧ c.fld 32 8 ≤ s.time.mark ∧ s.fenced 3 = false ∧ s.imageFld c 2 1 ≠ 1 ∧
      s.openCmds 0x52 = [] := by decide +kernel
theorem test_restored_step : let d := { testCmd 3 launchEntry with startAt := 4096 * 1024 }
    let t := { testStep [2] with commit := 4099, frozen := true }
    let s := { atWork 4097 9 [d] with steps := [t] }.setCtx 5 { CtxRun.dflt with restored := [3] }
    actOk s = true ∧ s.live 5 = true ∧ (s.ctx 5).restored = [3] ∧ s.cmd 3 = some d ∧ d.startAt ≤ s.now ∧ s.step? 3 = some t ∧
      t.cid = 3 ∧ s.restoredTied t = false ∧ s.time.mark + 2 ≤ t.commit := by decide +kernel

/-- CHECKPOINT of partition 2 into expander memory at mark 4200. -/
def ckptEntry : List Byte := entryOf 0x52 [(8, 1, 4), (16, 8, 2 ^ 41), (24, 8, 2 ^ 24), (32, 8, 4200)]

theorem test_checkpoint_accepted : let c := freshCommand 0 ckptEntry
    let s := atWork 4097 9 [c] (hearthFields ++ lampFields ++ linkFields)
    acceptedOk s 0 0x52 c State.checkCheckpoint = true ∧ s.jobs = [] := by decide +kernel
theorem test_checkpoint_starts : ∀ cap : Bool, let c := { testCmd 3 ckptEntry with ctx := 0, startAt := 4200, endAt := 4300 }
    let s := (atWork 4200 9 [c] hearthFields).setPart 2 { Part.dflt with ckpt := if cap then [(3, false)] else [] }
    runningOk s 0x52 c = true ∧ c.startAt ≤ s.time.mark ∧ s.fenced 3 = false ∧ s.captured c = cap ∧ 2 ∈ maskParts (c.fld 8 1) := by
  decide +kernel
theorem test_checkpoint_ends : ∀ a : Bool, ∀ f : Bool, let c := { testCmd 3 ckptEntry with
      ctx := 0, startAt := 4200, endAt := 4300, started := true, abandoned := a, faulted := f, bytes := 64, sources := [(2, gddrBase 2, 64)] }
    let s := atWork 4300 9 [c] (hearthFields ++ linkFields)
    runningOk s 0x52 c = true ∧ c.endAt * 1024 + 9 ≤ s.markCycle ∧ hap.cxlLate = 0 ∧ s.reachRange none false c.ctx (c.fld 16 8) c.bytes false true = true ∧
      (∀ e ∈ c.sources, s.backed e.2.1 = true) := by decide +kernel
theorem test_flash_accepted : let c := freshCommand 0 (entryOf 0x83 [(8, 8, 4096), (16, 4, 0x500000), (20, 4, 4096)])
    acceptedOk (atWork 4097 9 [c]) 0 0x83 c State.checkFlash = true := by decide +kernel
/-! ## Ports, links and registers -/

theorem test_root_write : ∀ v ∈ [1 + 2 ^ 21, 0, 2 ^ 48 - 1], ∀ busy ∈ [0, 1], let s := (atWork 4097 9).setFld (F.mmuLoading 6) busy
    hostOk s = true ∧ s.tableOpen 0 6 = true ∧ s.flag (F.mmuLoading 6) = (busy == 1) ∧
      (BitVec.ofNat 64 v).toNat.testBit 0 = (v % 2 == 1) := by decide +kernel

/-- A load of context 6's tables, which lie at page `root` of 2 MiB, started at mark 4000. -/
def testLoad (root : Nat) : PtLoad := { ctx := 6, root := 1 + 2 ^ 21 * root, start := 4000 }
def atLoad (root : Nat) (x : List Xlat) : State :=
  { (atWork 4097 9).setFld (F.mmuLoading 6) 1 with loads := [testLoad root], xlat := x }

theorem readLE_empty {s : State} (h : s.mem = State.reset.mem) (a n : Nat) : s.readLE a n = 0 := by
  have hr : ∀ k b, State.reset.mem.readN b k = List.replicate k 0 := by
    intro k
    induction k with
    | zero => exact fun _ => rfl
    | succ k ih => exact fun b => by rw [Memory.readN, ih]; rfl
  have ho : ∀ k, ofLE (List.replicate k (0 : Byte)) = 0 := by
    intro k
    induction k with
    | zero => rfl
    | succ k ih => rw [List.replicate_succ, ofLE, ih]; rfl
  rw [State.readLE, State.readMem, h, hr, ho]

/-- In an empty memory every table is empty. -/
theorem tables_empty {s : State} (h : s.mem = State.reset.mem) (l : PtLoad) (hl : bits l.root 21 27 * unit2M < gddrEnd) :
    s.readTables l = ([], 0, false) := by
  have he : s.rootEntries (bits l.root 21 27 * unit2M) = [] := by
    rw [State.rootEntries, List.filter_eq_nil_iff]
    intro e he
    obtain ⟨i, -, rfl⟩ := List.mem_map.mp he
    simp [readLE_empty h, bit]
  simp [State.readTables, he, Nat.not_le.mpr hl]

theorem test_tables_bad : let s := atLoad (2 ^ 17) []
    actOk s = true ∧ s.readTables (testLoad (2 ^ 17)) = ([], 0, true) ∧ 4000 + 32 + cdiv (32768 + 64 * 0) 600 ≤ s.time.mark := by
  decide +kernel
theorem test_tables_good : let s := atLoad 8 []
    actOk s = true ∧ s.readTables (testLoad 8) = ([], 0, false) ∧ 4000 + 32 + cdiv (32768 + 64 * 0) 600 ≤ s.time.mark :=
  ⟨by decide +kernel, tables_empty (by decide +kernel) _ (by decide), by decide⟩
theorem test_store_full : let s := atLoad 8 (List.replicate 262145 { ctx := 5, vpn := 0, pages := 1, ppn := 0, rd := true, wr := true })
    s.readTables (testLoad 8) = ([], 0, false) ∧ 262144 < (s.xlat.filter fun x => x.ctx != 6).length := by
  refine ⟨tables_empty (by decide +kernel) _ (by decide), ?_⟩
  simp only [atLoad]
  rw [List.filter_replicate_of_pos (by decide), List.length_replicate]
  decide
theorem test_ports : let s := atWork 4097 9 [] linkFields
    actOk s = true ∧ s.flag (F.cxlUp 0) = true ∧ s.configReady = true ∧ 2048 * 1024 ≤ s.now ∧ s.flag (F.hPerst 0) = false ∧
      actOk (s.setFld F.stage 1) = true ∧ (s.setFld F.stage 1).configReady = false ∧ State.reset.now < 2048 * 1024 := by
  decide +kernel
theorem test_functions : ∀ n ∈ [0, 3], let s := (atWork 4097 9).setFld (F.hNumVfs 1) n
    hostOk s 1 0 = true ∧ s.reaches 1 3 = (n == 3) ∧ s.reaches 1 4 = false ∧ s.fld (F.hNumVfs 1) = n := by decide +kernel
/-- The PF of port 1 in D3hot. -/
theorem test_d3hot : let s := (atWork 4097 9).setHost 1 { HostPort.dflt with config := [(capAt 0x01 + 0x04, 3)] }
    actOk s = true ∧ s.reaches 1 0 = false := by
  intro s
  have h : s.host 1 = { HostPort.dflt with config := [(capAt 0x01 + 0x04, 3)] } := rfl
  exact ⟨by decide +kernel, by simp [State.reaches, State.configWritten, h, tfind]⟩
/-- Writes of the capability registers at an aligned offset, wherever the capability lies. -/
theorem test_capability_writes (id k : Nat) : (capAt id + 4 * k) / 4 * 4 = capAt id + 4 * k ∧
    (1 : Word32).toNat % 4 = 1 ∧ (0x10000 : Word32).toNat % 4 = 0 ∧ 8 ≤ (0x0C00 : Word32).toNat / 256 % 64 ∧
    (0x0C00 : Word32).toNat / 256 % 64 ≤ 18 := by
  refine ⟨?_, by decide, by decide, by decide, by decide⟩
  rw [capAt]
  omega
theorem test_bar4 : let h := { HostPort.dflt with barLog2 := 28 }
    let s := (atWork 4097 9).setHost 1 h
    actOk s = true ∧ s.bar4Ok 1 (2 ^ 28 - 4) 4 = true ∧ s.bar4Ok 1 (2 ^ 28 - 4) 5 = false ∧ (toLE 5 0).length = 5 := by decide +kernel

/-- The body of a flit in Flue mode with its CRC after it (R570). -/
def sealFlit (body : List Byte) : List Byte := body ++ toLE 4 (crc32c body)

theorem test_flit_sealed (body : List Byte) (hb : body.length = 252) :
    leAt (sealFlit body) 252 4 = crc32c ((sealFlit body).take 252) ∧ leAt (sealFlit body) 0 8 = leAt body 0 8 := by
  constructor
  · rw [sealFlit, List.take_left' hb, leAt, List.drop_left' hb, show (toLE 4 (crc32c body)).take 4 = toLE 4 (crc32c body) from rfl,
      ofLE_toLE]
    exact Nat.mod_eq_of_lt (BitVec.isLt _)
  · rw [leAt, leAt, sealFlit, List.drop_zero, List.drop_zero, List.take_append_of_le_length (by omega)]

/-- Body of a flit for this device on virtual channel v of a TYPE, with FLAGS and SEQ. -/
def flitBody (v type flags seq : Nat) : List Byte :=
  toLE 8 (v + 4 * type + 16 * flags + 2 ^ 8 * seq + 2 ^ 40 * 3 + 2 ^ 55 * 6) ++ toLE 244 0
/-- Port 7 up in Flue mode; it expects SEQ 9 on both virtual channels. -/
def atLink : State :=
  (withRegs (atWork 4097 9) ((F.lkState 7, 2) :: linkFields)).setLink 7
    { Link.dflt with vc2 := { Credit.dflt with seqIn := 9 }, vc3 := { Credit.dflt with seqIn := 9 } }

theorem test_flits : ∀ v < 4, ∀ x ∈ [(1, 1, 9), (1, 3, 9), (0, 0, 8)], let h := leAt (flitBody v x.1 x.2.1 x.2.2) 0 8
    (flitBody v x.1 x.2.1 x.2.2).length = 252 ∧ h % 4 = v ∧ h / 4 % 4 = x.1 ∧ h.testBit 4 = (x.2.1 != 0) ∧
      h.testBit 5 = (x.2.1 == 3) ∧ atLink.isSelf (h / 2 ^ 40 % 2 ^ 15) = true ∧ h / 64 % 4 < 2 ∧ h / 2 ^ 8 % 2 ^ 16 = x.2.2 := by decide +kernel
theorem test_flit_port : actOk atLink = true ∧ atLink.linkUp 7 = true ∧ atLink.flag (F.lkMode 7) = false ∧
    (atLink.link 7).vc2.seqIn = 9 ∧ (atLink.link 7).vc3.seqIn = 9 ∧ (atLink.link 7).fwd2 = none ∧ (atLink.link 7).fwd3 = none := by decide +kernel

/-- Header of a datagram of device 4 to partition 6 here: kind 1, channel v, FIRST and LAST, message 9 of n bytes, and offset. -/
def datagram (v flags off n : Nat) : List Byte :=
  toLE 1 1 ++ toLE 1 v ++ toLE 2 flags ++ toLE 4 9 ++ toLE 4 off ++ toLE 4 n ++ toLE 2 3 ++ toLE 2 6 ++ toLE 4 4

/-- A management message of zeros, sealed. -/
def testMgmt : List Byte := toLE 32 0 ++ toLE 4 (crc32c (toLE 32 0))
theorem test_mgmt_sealed : mgmtOk testMgmt = true := by decide +kernel

theorem test_datagrams : ∀ v ∈ [2, 3], ∀ x ∈ [(1, 0), (3, 0), (0, 2), (0, 3)],
    let l := { Link.dflt with ethMsg := if x.1 = 0 then [(4, v, [1, 2])] else [] }
    let s := (withRegs (atWork 4097 9) ([(F.lkState 7, 2), (F.lkMode 7, 1)] ++ linkFields)).setLink 7 l
    let h := datagram v x.1 x.2 36
    actOk s = true ∧ s.linkUp 7 = true ∧ s.flag (F.lkMode 7) = true ∧ leAt h 0 1 = 1 ∧ leAt h 1 1 % 4 = v ∧ leAt h 2 1 = x.1 ∧
      leAt h 20 2 % 2 ^ 15 = 4 ∧ leAt h 4 4 = 9 ∧ leAt h 8 4 = x.2 ∧ leAt h 12 4 = testMgmt.length ∧
      s.isSelf (leAt h 16 2 % 2 ^ 15) = true ∧ leAt h 18 1 % 8 = 6 ∧
      ethFind (s.link 7).ethMsg 4 v = (if x.1 = 0 then some [1, 2] else none) ∧ (ethFind (s.link 7).ethSeq 4 v).getD 9 = 9 := by
  decide +kernel
theorem test_pause : ∀ split ∈ [0, 1], let s := withRegs (atWork 4097 9) [(F.lkMode 7, 1), (F.lkSplit 7, split), (F.ethPcp2, 2), (F.ethPcp3, 3)]
    actOk s = true ∧ s.flag (F.lkMode 7) = true ∧ s.flag (F.lkSplit 7) = (split == 1) ∧ s.fld F.ethPcp2 ≠ s.fld F.ethPcp3 := by decide +kernel
theorem test_training : ∀ e ∈ [0, 1], let s := withRegs (atWork 4097 9) [(F.lkEnable 7, e), (F.laneInUse 63, 1), (F.lkState 7, 2)]
    hostOk s = true ∧ s.flag (F.lkEnable 7) = (e == 1) ∧ (s.link 7).retrainMark = none ∧ (s.link 7).retrainFrom = none ∧ 63 / 8 = 7 ∧
      s.flag (F.laneInUse 63) = true ∧ s.linkUp 7 = true := by decide +kernel
theorem test_lane_fails : let s := withRegs (atWork 4097 9) [(F.laneInUse 63, 1), (F.lkState 7, 2)]
    let many := [(7, true)]
    ¬16 < ((s.takeWords 7 many).link 7).badWords.2 ∧
      16 < ((s.takeWords 7 (List.replicate 17 (7, true))).link 7).badWords.2 := by decide +kernel
theorem test_retraining_starts : ∀ eth ∈ [0, 1], ∀ failed ∈ [0, 0x0F, 0xFF],
    let l := { Link.dflt with retrainMark := some 4097, failed := failed }
    let s := (withRegs (atWork 4097 9) [(F.lkState 7, 2), (F.lkEnable 7, 1), (F.lkMode 7, eth), (F.lkSplit 7, 1), (F.lkLanes 7, 255)]).setLink 7 l
    actOk s = true ∧ (s.link 7).retrainMark = some 4097 ∧ s.markCome 4097 = true ∧ s.flag (F.lkEnable 7) = true ∧
      s.flag (F.lkMode 7) = (eth == 1) ∧ (s.link 7).byWrite = false ∧ (s.link 7).failed = failed ∧
      s.keptLanes 7 = (if eth = 0 then 0 else 0xFF - failed) := by decide +kernel
theorem test_retraining_ends : ∀ eth ∈ [0, 1], let l := { Link.dflt with retrainFrom := some 3671049 }
    let s := (withRegs (atWork 4097 9) [(F.lkMode 7, eth), (F.lkSplit 7, 1), (F.lkState 7, 1)]).setLink 7 l
    actOk s = true ∧ (s.link 7).retrainFrom = some 3671049 ∧ 3671049 + 512 * 1024 ≤ s.now ∧ s.flag (F.lkMode 7) = (eth == 1) ∧
      s.fld (F.lkState 7) ≠ 0 ∧ (s.link 7).needWrite = false := by decide +kernel
theorem test_lane_sets : ([0xFF, 0x7F, 0xFE, 0x0F, 0xF7, 0x77].map (firstSet false), firstSet true 0xFF,
    [0xFF, 0x0F, 0x7F].map (ethLanes true), ethLanes false 0x7F) = ([0xFF, 0x3F, 0xFC, 0x0F, 0xF0, 0], 0x3F, [0xFF, 0x0F, 0x0F], 0) := by
  decide
theorem test_register_writes : let s := atWork 4097 9
    let v : Word := 5
    hostOk s = true ∧ v.toNat < 2 ^ 32 ∧ s.pfOwns 0 6 = true ∧ s.lanternSoon 0 = true ∧ s.lanternSoon 7 = false ∧ (4 : Nat) % 8 ≠ 0 := by
  decide +kernel

/-! ## Steps of the block, and statements over every state -/

theorem test_front_command : ({ State.reset with pending := [.idcode, .bypass] } : State).pending = [Instr.idcode, .bypass] := rfl
theorem test_idle : ∀ x ∈ [(0, 0, 0), (5, 1022, 0), (65535, 1023, 0), (65535, 1023, 3)],
    let s := atTime { TimeBase.reset with mark := x.1, cyc := x.2.1, stall := x.2.2, synced := true } 1
    s.pending = [] ∧ s.board.off = false ∧ s.cmds = [] ∧ s.ctxs = [] ∧ s.steps = [] ∧ s.inflight = [] ∧ s.time.pulses = [] ∧
      s.sampling = true ∧ twf HostPort.dflt s.hosts = true ∧ s.colls = [] ∧ s.clusters = [] ∧ s.board.capPend = [] ∧ s.threads = [] := by
  decide +kernel
theorem test_idle_ports : let s := atTime TimeBase.reset 1
    (∀ q < 2, (s.host q).due = []) ∧ (∀ p < 8, (s.part p).dma = [] ∧ (s.part p).tenant = [] ∧ (s.part p).cxlQ = [] ∧
      (s.part p).agentQ = false) ∧
      ∀ k < 8, s.linkUp k = true → s.flag (F.lkMode k) = true := by
  decide +kernel
theorem test_host_write : isHostWrite (.start 0 5) ∧ actOk (atStage 1 9) = true ∧ (atStage 1 9).configReady = false := by
  refine ⟨trivial, ?_⟩
  decide +kernel
theorem test_idle_off : ({ State.reset with board := { State.reset.board with inReset := true } } : State).board.off = true := rfl
theorem test_invariant_holds : (atWork 4097 9).Inv := inv_of (by decide +kernel)
theorem test_some_command_ends : ∃ t, exec .idcode State.reset = .next t := ⟨_, rfl⟩
theorem test_latched : let w : Word32 := 7
    let s := { State.reset with time := { TimeBase.reset with latchTime := [(1, w)], latchMark := [(1, w)] } }
    actOk s = true ∧ tfind s.time.latchTime 1 = some w ∧ tfind s.time.latchMark 1 = some w := by decide
theorem test_registers_read : let s := atWork 4097 9
    actOk s = true ∧ s.fnOwns 0 3 5 = true ∧ s.fnOwns 1 3 5 = false ∧ s.pfOwns 1 5 = false ∧ (6 : Nat) % 4 ≠ 0 := by decide +kernel
end Sys2Proof.Tests
end

/-!
The doorbell writes (R111 to R113): what each of the three does to the context it names, once for an update of one context and
once for the outcome of a check, and the statement O36.
-/
namespace Sys2Proof.Machine
open Sys2Proof.Claims

/-! ## Writes that take effect, and updates of one context -/

/-- A host's write takes effect on a device that acts and that the host reaches (R556, R643). -/
theorem State.actHost_of_hosted {s : State} {port fn : Nat} (h : hosted s port fn) (t : State) :
    s.actHost port fn t = .next t := by
  obtain ⟨⟨-, hon⟩, hready, hreach⟩ := h
  simp [State.actHost, State.act, hon, hready, hreach]

theorem State.ctx_modCtx {s : State} (h : s.Inv) (n k : Nat) (f : CtxRun → CtxRun) :
    (s.modCtx n f).ctx k = if k = n then f (s.ctx n) else s.ctx k := State.ctx_setCtx h n k _

/-- An update of one context leaves every other kind of state alone. -/
theorem State.same_modCtx (s : State) (n : Nat) (f : CtxRun → CtxRun) {k : Kind} (hk : k ≠ .ctxs) : k.same s (s.modCtx n f) := by
  cases k with
  | ctxs => exact absurd rfl hk
  | _ => rfl

/-- A host's update of one context changes that context alone. -/
theorem actHost_modCtx {s : State} {port fn : Nat} (h : hosted s port fn) (n : Nat) (f : CtxRun → CtxRun) :
    ∃ u, s.actHost port fn (s.modCtx n f) = .next u ∧ (∀ k : Kind, k ≠ .ctxs → k.same s u) ∧
      (∀ m, m ≠ n → u.ctx m = s.ctx m) ∧ u.ctx n = f (s.ctx n) := by
  have hinv : s.Inv := h.1.1
  refine ⟨s.modCtx n f, State.actHost_of_hosted h _, fun k hk => State.same_modCtx s n f hk, fun m hm => ?_, ?_⟩
  · rw [State.ctx_modCtx hinv, if_neg hm]
  · rw [State.ctx_modCtx hinv, if_pos rfl]

/-! ## Doorbells -/

theorem bits_zero (v w : Nat) : bits v 0 w = v % 2 ^ w := rfl

theorem headOk_iff (size head tail v : Nat) :
    headOk size head tail v = true ↔ v < size ∧ (v + size - head) % size ≤ (tail + size - head) % size := by
  simp [headOk]

theorem State.bellOk_iff (s : State) (port fn n size : Nat) :
    s.bellOk port fn n size = true ↔ size = 4 ∧ s.fnOwns port fn n = true ∧ s.cstate n ≠ 5 := by
  simp [State.bellOk, Config.cHandover, and_assoc]

/-- A doorbell write that takes effect moves its index, or sets the doorbell error where the check of R113 fails. -/
theorem actHost_ite_modCtx_bellErr {s : State} {port fn : Nat} (h : hosted s port fn) (n : Nat) (ok : Prop) [Decidable ok]
    (f : CtxRun → CtxRun) :
    ∃ u, s.actHost port fn (if ok then s.modCtx n f else s.bellErr n) = .next u ∧ (∀ k : Kind, k ≠ .ctxs → k.same s u) ∧
      (∀ m, m ≠ n → u.ctx m = s.ctx m) ∧
      u.ctx n = if ok then f (s.ctx n) else { s.ctx n with doorbellErr := true, errAt := some s.now } := by
  split
  · exact actHost_modCtx h n f
  · exact actHost_modCtx h n fun c => { c with doorbellErr := true, errAt := some s.now }

theorem exec_sqTail (s : State) (port fn n size : Nat) (v : Word32) :
    exec (.sqTail port fn n size v) s = s.actHost port fn (
      if s.bellOk port fn n size = true then
        if v.toNat % 2 ^ 16 < s.ringSize n 0 then s.modCtx n fun c => { c with sqTail := v.toNat % 2 ^ 16 } else s.bellErr n
      else s) := by
  change execSqTail port fn n size v s = _
  unfold execSqTail
  cases s.bellOk port fn n size with
  | false => rfl
  | true =>
    simp only [bits_zero, ← not_lt, ite_not]
    rfl

theorem exec_cqHead (s : State) (port fn n size : Nat) (v : Word32) :
    exec (.cqHead port fn n size v) s = s.actHost port fn (
      if s.bellOk port fn n size = true then
        if headOk (s.ringSize n 1) (s.ctx n).cqHead (s.ctx n).cqTail (v.toNat % 2 ^ 16) = true then
          s.modCtx n fun c => { c with cqHead := v.toNat % 2 ^ 16 }
        else s.bellErr n
      else s) := by
  change execCqHead port fn n size v s = _
  unfold execCqHead
  cases s.bellOk port fn n size <;> rfl

theorem exec_emberHead (s : State) (port fn n size : Nat) (v : Word32) :
    exec (.emberHead port fn n size v) s = s.actHost port fn (
      if s.bellOk port fn n size = true then
        if headOk (s.ringSize n 2) (s.ctx n).emHead (s.ctx n).emTail (v.toNat % 2 ^ 20) = true then
          s.modCtx n fun c => { c with emHead := v.toNat % 2 ^ 20 }
        else s.bellErr n
      else s) := by
  change execEmberHead port fn n size v s = _
  unfold execEmberHead
  cases s.bellOk port fn n size <;> rfl

/-- Settles O36: a write that meets the conditions of R112 and R151 is an update of one context, chosen by the check of R113;
every other write changes nothing. -/
theorem doorbellsMoveTheirIndex : Obligations.DoorbellsMoveTheirIndex := by
  intro s port fn n v hs
  refine ⟨fun hown hst => ?_, fun size hbad => ?_⟩
  · have hok : s.bellOk port fn n 4 = true := (s.bellOk_iff port fn n 4).mpr ⟨rfl, hown, hst⟩
    refine ⟨?_, ?_, ?_⟩
    · rw [exec_sqTail, if_pos hok]
      exact actHost_ite_modCtx_bellErr hs n _ _
    · rw [exec_cqHead, if_pos hok]
      simpa only [headOk_iff] using actHost_ite_modCtx_bellErr hs n (headOk _ _ _ (v.toNat % 2 ^ 16) = true) _
    · rw [exec_emberHead, if_pos hok]
      simpa only [headOk_iff] using actHost_ite_modCtx_bellErr hs n (headOk _ _ _ (v.toNat % 2 ^ 20) = true) _
  · have hok : ¬ s.bellOk port fn n size = true := by
      rw [State.bellOk_iff, ← Bool.not_eq_false]
      tauto
    rw [exec_sqTail, exec_cqHead, exec_emberHead, if_neg hok, if_neg hok, if_neg hok]
    exact ⟨State.actHost_of_hosted hs s, State.actHost_of_hosted hs s, State.actHost_of_hosted hs s⟩

end Sys2Proof.Machine

/-!
The registers of a thread (R259): what a lookup finds in a table after a write, the rules that gives for scalar and vector
registers, the bytes of a vector register, and the statement O7.
-/
namespace Sys2Proof.Machine

/-! ## Lookups in a table that was written

`tfind` takes the first entry with its key, so these rules hold of every table, sorted or not. -/

section
variable {α : Type}

theorem tfind_nil (k : Nat) : tfind ([] : List (Nat × α)) k = none := rfl

theorem tfind_cons (i : Nat) (w : α) (t : List (Nat × α)) (k : Nat) :
    tfind ((i, w) :: t) k = if i = k then some w else tfind t k := by
  by_cases h : i = k <;> simp [tfind, h]

theorem tfind_tdel_same (t : List (Nat × α)) (k : Nat) : tfind (tdel t k) k = none := by
  simp [tfind, tdel]

theorem tfind_tdel_ne {j k : Nat} (hj : j ≠ k) (t : List (Nat × α)) : tfind (tdel t k) j = tfind t j := by
  have hkeep : ∀ e : Nat × α, decide ((e.1 != k) = true ∧ (e.1 == j) = true) = (e.1 == j) := fun e => by
    by_cases he : e.1 = j <;> simp [he, hj]
  simp only [tfind, tdel, List.find?_filter, hkeep]

variable [DecidableEq α] (d : α)

theorem tfind_tset_ne {j k : Nat} (hj : j ≠ k) (t : List (Nat × α)) (v : α) : tfind (tset d t k v) j = tfind t j := by
  induction t with
  | nil => rw [tset]; split <;> simp [tfind_cons, hj.symm]
  | cons e t ih =>
    obtain ⟨i, w⟩ := e
    rw [tset]
    split_ifs with hlt heq hv hv
    · simp only [tfind_cons, ih]
    · simp [tfind_cons, heq, hj.symm]
    · simp [tfind_cons, heq, hj.symm]
    · rfl
    · simp [tfind_cons, hj.symm]

/-- At a key that the table does not list, a write lists the new value, unless that is the value of an unlisted key. -/
theorem tfind_tset_same {k : Nat} {t : List (Nat × α)} (ht : tfind t k = none) (v : α) :
    tfind (tset d t k v) k = if v = d then none else some v := by
  induction t with
  | nil => rw [tset]; split <;> simp [tfind_nil, tfind_cons]
  | cons e t ih =>
    obtain ⟨i, w⟩ := e
    have hik : i ≠ k := fun h => by simp [tfind_cons, h] at ht
    have htl : tfind t k = none := by simpa [tfind_cons, hik] using ht
    rw [tset, if_neg hik]
    split_ifs with hlt hv hv
    · rw [tfind_cons, if_neg hik, ih htl, if_pos hv]
    · rw [tfind_cons, if_neg hik, ih htl, if_neg hv]
    · exact ht
    · rw [tfind_cons, if_pos rfl]

/-- The write of a register file: the old entry deleted, the new value listed. -/
theorem getD_tfind_tset_tdel_same (t : List (Nat × α)) (k : Nat) (v : α) :
    (tfind (tset d (tdel t k) k v) k).getD d = v := by
  rw [tfind_tset_same d (tfind_tdel_same t k)]
  by_cases hv : v = d <;> simp [hv]

theorem tfind_tset_tdel_ne {j k : Nat} (hj : j ≠ k) (t : List (Nat × α)) (v : α) :
    tfind (tset d (tdel t k) k v) j = tfind t j := by
  rw [tfind_tset_ne d hj, tfind_tdel_ne hj]

end

/-! ## Scalar and vector registers -/

section
variable (x : Thread)

@[simp] theorem Thread.sreg_zero : x.sreg 0 = 0 := rfl

@[simp] theorem Thread.setSreg_zero (v : Word) : x.setSreg 0 v = x := rfl

theorem Thread.setSreg_of_ne_zero {r : Nat} (hr : r ≠ 0) (v : Word) :
    x.setSreg r v = { x with sregs := tset 0 (tdel x.sregs r) r v } := if_neg hr

theorem Thread.sreg_setSreg_same {r : Nat} (hr : r ≠ 0) (v : Word) : (x.setSreg r v).sreg r = v.toNat := by
  rw [x.setSreg_of_ne_zero hr, Thread.sreg, if_neg hr, getD_tfind_tset_tdel_same]

theorem Thread.sreg_setSreg_ne {q r : Nat} (hq : q ≠ r) (v : Word) : (x.setSreg r v).sreg q = x.sreg q := by
  by_cases hr : r = 0
  · rw [hr, Thread.setSreg_zero]
  · rw [x.setSreg_of_ne_zero hr, Thread.sreg, Thread.sreg, tfind_tset_tdel_ne 0 hq]

@[simp] theorem Thread.setSreg_vregs (r : Nat) (v : Word) : (x.setSreg r v).vregs = x.vregs := by
  by_cases hr : r = 0
  · rw [hr, Thread.setSreg_zero]
  · rw [x.setSreg_of_ne_zero hr]

@[simp] theorem Thread.vreg_setVreg_same (r : Nat) (l : List Word32) : (x.setVreg r l).vreg r = l :=
  getD_tfind_tset_tdel_same zeroLanes x.vregs r l

theorem Thread.vreg_setVreg_ne {q r : Nat} (hq : q ≠ r) (l : List Word32) : (x.setVreg r l).vreg q = x.vreg q :=
  congrArg (·.getD zeroLanes) (tfind_tset_tdel_ne zeroLanes hq x.vregs l)

@[simp] theorem Thread.setVreg_sregs (r : Nat) (l : List Word32) : (x.setVreg r l).sregs = x.sregs := rfl

end

/-! ## Lanes as bytes -/

@[simp] theorem length_bytesLanes (b : List Byte) : (bytesLanes b).length = 64 := by
  simp [bytesLanes, lanes]

theorem getElem_bytesLanes (b : List Byte) (i : Nat) (hi : i < (bytesLanes b).length) :
    (bytesLanes b)[i] = BitVec.ofNat 32 (leAt b (4 * i) 4) := by
  simp [bytesLanes, lanes]

/-- A lane's four bytes hold the lane. -/
theorem ofLE_toLE_lane (v : Word32) : ofLE (toLE 4 v.toNat) = v.toNat := by
  have hv : v.toNat < 2 ^ 32 := v.isLt
  simp only [toLE, ofLE, BitVec.toNat_ofNat]
  omega

theorem laneBytes_cons (v : Word32) (l : List Word32) : laneBytes (v :: l) = toLE 4 v.toNat ++ laneBytes l :=
  List.flatMap_cons

theorem leAt_laneBytes {l : List Word32} {i : Nat} (hi : i < l.length) :
    leAt (laneBytes l) (4 * i) 4 = (l.getD i 0).toNat := by
  induction l generalizing i with
  | nil => exact absurd hi (Nat.not_lt_zero i)
  | cons v l ih =>
    have hlen : (toLE 4 v.toNat).length = 4 := rfl
    rw [laneBytes_cons]
    cases i with
    | zero => rw [leAt, Nat.mul_zero, List.drop_zero, List.take_left' hlen, ofLE_toLE_lane]; rfl
    | succ i =>
      have hskip : (toLE 4 v.toNat ++ laneBytes l).drop (4 * (i + 1)) = (laneBytes l).drop (4 * i) := by
        rw [Nat.mul_succ, Nat.add_comm, ← List.drop_drop, List.drop_left' hlen]
      rw [leAt, hskip]
      exact ih (Nat.lt_of_succ_lt_succ hi)

theorem bytesLanes_laneBytes {l : List Word32} (hl : l.length = 64) : bytesLanes (laneBytes l) = l := by
  refine List.ext_getElem ((length_bytesLanes _).trans hl.symm) fun i _ hi => ?_
  rw [getElem_bytesLanes, leAt_laneBytes hi, BitVec.ofNat_toNat, BitVec.setWidth_eq, List.getElem_eq_getD]

/-- Settles O7: each clause is one of the rules above about a written register and about the bytes of the lanes. -/
theorem threadRegistersReadBack : Obligations.ThreadRegistersReadBack := by
  intro x r q v l
  exact ⟨x.sreg_zero, x.setSreg_zero v, fun hr => x.sreg_setSreg_same hr v, fun hq => x.sreg_setSreg_ne hq v,
    x.setSreg_vregs r v, x.vreg_setVreg_same r l, fun hq => x.vreg_setVreg_ne hq l, x.setVreg_sregs r l,
    length_bytesLanes, fun _ => leAt_laneBytes, bytesLanes_laneBytes⟩

end Sys2Proof.Machine
